-- ==== Sys2Proof/Word.lean ====
section
/-! DEFINITION. The word types of the ZW8-384 (00_scope R2, R3; 03_core_and_bundles R67). -/

namespace Sys2Proof

/-- One byte of memory. -/
abbrev Byte := BitVec 8

/-- A 64-bit register: g, m, tl and the system registers (R67, R75). -/
abbrev Word := BitVec 64

/-- A vector register of 512 bytes (R67, R68). A lane-mask register uses its low 1,024 bits. -/
abbrev VReg := BitVec 4096

/-- Field [hi:lo] of `x`, as an unsigned integer (the helper Bits of R9). -/
def bits (x hi lo : Nat) : Nat := x / 2 ^ lo % 2 ^ (hi + 1 - lo)

end Sys2Proof
end

