-- ==== Sys2Proof/Config.lean ====
section
/-! DEFINITION. What the spec leaves open or to the boot ROM, fuses and vendor: opaque constants, of which nothing can
be proved but their type (log entries 6 and 8). -/

namespace Sys2Proof

/-- The n-th free byte: what an unspecified byte of memory holds (R264, R324; log entry 6). -/
opaque Config.freeByte : Nat → BitVec 8

/-- The n-th free word: a value the spec states no result for (log entry 6). -/
opaque Config.freeWord : Nat → BitVec 64

/-- PKHASH, the digest of the vendor's public key in fuses (R329; log entry 8). -/
opaque Config.pkhash : BitVec 512

/-- MINSVN of the fuses (R329; log entry 8). -/
opaque Config.minsvn : BitVec 32

/-- The 16-byte module identity of the fuses (R329, R330; log entry 8). -/
opaque Config.identity : BitVec 128

/-- The fields of a firmware image: public key, SVN, body and signature; none for a malformed header, whose layout
the spec does not give (R329; log entry 8). -/
opaque Config.imageFields : List (BitVec 8) → Option (List (BitVec 8) × BitVec 32 × List (BitVec 8) × List (BitVec 8))

/-- How many exact adds may wait at a slice before the REQ class has no room for another atomic to it; the spec gives no
number (R195; log entry 58). -/
opaque Config.requestRoom : Nat

/-- How many bytes the boot ROM reads at IMG (R329; log entry 8). -/
opaque Config.imageLength : List (BitVec 8) → Nat

/-- The shadow-service image inside a verified body (R203, R329; log entry 8). -/
opaque Config.shadowImage : List (BitVec 8) → List (BitVec 8)

/-- EcdsaP521Verify (R329): public key, digest, signature (log entry 8). -/
opaque Config.ecdsaVerify : List (BitVec 8) → BitVec 512 → List (BitVec 8) → Bool

/-- The attestation signature over a digest, r then s (R330); the fused key and its per-signature nonce are free, so the
signature depends on the count of free values drawn (log entry 8). -/
opaque Config.ecdsaSign : Nat → BitVec 512 → BitVec 1056

end Sys2Proof
end

