-- ==== Sys2Proof/Syntax.lean ====
section
/-! DEFINITION. The steps of the ZW8-384: one constructor of `Instr` per row of spec/opcode_table.json.
Rows 0 to 187 are instructions and micro-ops with an encoding (04_encoding_and_assembly R77 to R99); rows 188 to
298 are the steps of the other agents of the module (95_what_each_step_holds). -/

namespace Sys2Proof

/-- The b operand of a slot: a register, or the bundle's trailing literal (R82, R84, R93). -/
inductive Src where
  | reg (n : Nat)
  | lit (x : BitVec 32)
deriving DecidableEq, Repr

/-- The lane types of R91. Codes 13 and 15 are reserved; no well-formed instruction carries them. -/
inductive VType where
  | i8 | i16 | i32 | i64 | n8 | n16 | n32 | n64 | f16 | bf16 | f32 | i4 | n4 | res13 | a64 | res15
deriving DecidableEq, Repr

/-- The type code of R91. -/
def VType.code : VType → Nat
  | .i8 => 0 | .i16 => 1 | .i32 => 2 | .i64 => 3 | .n8 => 4 | .n16 => 5 | .n32 => 6 | .n64 => 7
  | .f16 => 8 | .bf16 => 9 | .f32 => 10 | .i4 => 11 | .n4 => 12 | .res13 => 13 | .a64 => 14 | .res15 => 15

/-- The type a code of R91 names. -/
def VType.ofCode : Nat → VType
  | 0 => .i8 | 1 => .i16 | 2 => .i32 | 3 => .i64 | 4 => .n8 | 5 => .n16 | 6 => .n32 | 7 => .n64
  | 8 => .f16 | 9 => .bf16 | 10 => .f32 | 11 => .i4 | 12 => .n4 | 13 => .res13 | 14 => .a64 | _ => .res15

/-- Operands of the register format R of R84: guard, d, a, b (f[1] selects the literal) and f[0] = W. -/
structure RArgs where
  p : Nat
  d : Nat
  a : Nat
  b : Src
  w : Bool
deriving DecidableEq, Repr

/-- Operands of a V slot (R91 to R93): guard, type, vd, va, vb or literal (func[3] = L), k, func[2] and func[1:0]. -/
structure VArgs where
  p : Nat
  ty : VType
  vd : Nat
  va : Nat
  b : Src
  k : Nat
  s2 : Bool
  rm : Nat
deriving DecidableEq, Repr

/-- Operands of the Mem format of R84 and R89: guard, d, a, off6 and the size code of R3. -/
structure MemArgs where
  p : Nat
  d : Nat
  a : Nat
  off : BitVec 6
  sz : Nat
deriving DecidableEq, Repr

/-- Operands of LDA and STL (R89): off4 and a scope, 0 core to 3 pod. -/
structure ScopeArgs where
  p : Nat
  d : Nat
  a : Nat
  off : BitVec 4
  scope : Nat
  sz : Nat
deriving DecidableEq, Repr

/-- Operands of the atomic format A (R89): order 0 relaxed, 1 acquire, 2 release, 3 both. -/
structure AmoArgs where
  p : Nat
  d : Nat
  a : Nat
  b : Nat
  ord : Nat
deriving DecidableEq, Repr

inductive Instr where
  /-- A bundle with no slots: issues `rep + 1` times (R79). -/
  | nop (rep : Nat)
  -- S slot, format R, opcodes 0x01 to 0x14 (R90, R333, R352, R421)
  | add (x : RArgs) | sub (x : RArgs) | mul (x : RArgs) | mulh (x : RArgs) | mulhn (x : RArgs)
  | div (x : RArgs) | divn (x : RArgs) | mod (x : RArgs) | modn (x : RArgs)
  | and (x : RArgs) | or (x : RArgs) | xor (x : RArgs) | andn (x : RArgs)
  | shl (x : RArgs) | shr (x : RArgs) | sar (x : RArgs)
  | min (x : RArgs) | max (x : RArgs) | minn (x : RArgs) | maxn (x : RArgs)
  -- 0x15 to 0x17
  | clz (p d a : Nat) (w : Bool) | ctz (p d a : Nat) (w : Bool) | popc (p d a : Nat) (w : Bool)
  -- bit fields and extension; `w` is the width minus 1 (R340, R354, R421)
  | bfx (p d a : Nat) (b : Src) | bfi (p d a : Nat) (b : Src)
  | sext (p d a w : Nat) | zext (p d a w : Nat)
  -- compare and predicates (R343, R356)
  | cmp (p pd cc a : Nat) (b : Src) (w : Bool)
  | pand (p pd pa : Nat) (na : Bool) (pb : Nat) (nb : Bool)
  | por (p pd pa : Nat) (na : Bool) (pb : Nat) (nb : Bool)
  | pxor (p pd pa : Nat) (na : Bool) (pb : Nat) (nb : Bool)
  -- format I (R334, R353, R421, R343)
  | addi (p d a : Nat) (imm : BitVec 8) | andi (p d a : Nat) (imm : BitVec 8)
  | ori (p d a : Nat) (imm : BitVec 8) | xori (p d a : Nat) (imm : BitVec 8)
  | shli (p d a n : Nat) (w : Bool) | shri (p d a n : Nat) (w : Bool) | sari (p d a n : Nat) (w : Bool)
  | cmpi (p pd cc a : Nat) (imm : BitVec 8)
  | movi (p d : Nat) (imm : BitVec 14)
  | movhi (p d a : Nat) (x : BitVec 32) | lit (p d : Nat) (x : BitVec 32)
  | pnot (p pd pa : Nat) | pget (p d : Nat) | pset (p pd : Nat) (v : Bool)
  -- control (R341, R342, R348, R368, R369, R384, R422)
  | br (p : Nat) (off : BitVec 20) | jmpi (p a : Nat) | call (p : Nat) (off : BitVec 20) | calli (p a : Nat)
  | ret (p : Nat) | loop (p : Nat) (off : BitVec 19) | loopR (p : Nat) (off : BitVec 19) | rotb (p : Nat)
  | halt (p : Nat) | trap (p n : Nat) | xret (p : Nat)
  | waitev (p d a : Nat) | evack (p a : Nat)
  -- scalar memory (R350, R377, R347, R378, R245, R379)
  | ld (x : MemArgs) | st (x : MemArgs)
  | ldf (p d a : Nat) (off : BitVec 6) | ste (p d a : Nat) (off : BitVec 6) | feget (p d a : Nat) (off : BitVec 6)
  | feset (p a : Nat) (off : BitVec 6) | feclr (p a : Nat) (off : BitVec 6)
  | lda (x : ScopeArgs) | stl (x : ScopeArgs)
  -- atomics (R335, R247, R193)
  | amoadd (x : AmoArgs) | amoand (x : AmoArgs) | amoor (x : AmoArgs) | amoxor (x : AmoArgs)
  | amomin (x : AmoArgs) | amomax (x : AmoArgs) | amoswp (x : AmoArgs) | amocas (x : AmoArgs) | amofadd (x : AmoArgs)
  | amoaddC (p a b : Nat) | amoandC (p a b : Nat) | amoorC (p a b : Nat) | amoxorC (p a b : Nat)
  | amominC (p a b : Nat) | amomaxC (p a b : Nat) | amofaddC (p a b : Nat)
  -- system and synchronisation (R358, R359, R345, R385, R344, R367, R338, R381 to R383, R339, R262, R291)
  | mfs (p d n : Nat) | mts (p d n : Nat) | drain (p scope : Nat) | tstamp (p d : Nat) | cycles (p d : Nat)
  | nxtile (p d : Nat) | bankrel (p : Nat) (mask : BitVec 12) | bankacq (p : Nat) (mask : BitVec 12)
  | tlwait (p n a : Nat) | tlread (p d n : Nat) | tladv (p n a : Nat)
  | barinit (p a : Nat) (b : Src) | bararr (p a : Nat) | barwait (p a : Nat) (b : Src)
  | opgo (p a : Nat) | qpub (p a : Nat) (b : Src)
  -- V slot (R94, R386 to R414)
  | vadd (x : VArgs) | vsub (x : VArgs) | vmul (x : VArgs) | vmulh (x : VArgs) | vfma (x : VArgs) | vfms (x : VArgs)
  | vmin (x : VArgs) | vmax (x : VArgs) | vabs (x : VArgs) | vneg (x : VArgs)
  | vand (x : VArgs) | vor (x : VArgs) | vxor (x : VArgs) | vshl (x : VArgs) | vshr (x : VArgs) | vsar (x : VArgs)
  | vcmp (x : VArgs) | vsel (x : VArgs) | vmov (x : VArgs) | vsplat (x : VArgs) | vbcast (x : VArgs)
  | vperm (x : VArgs) | vslide (x : VArgs) | vext (x : VArgs) | vins (x : VArgs) | vcvt (x : VArgs)
  | vwadd (x : VArgs) | vwmul (x : VArgs) | vwfma (x : VArgs) | vnarr (x : VArgs) | vdot (x : VArgs)
  | vredadd (x : VArgs) | vredmax (x : VArgs) | vredmin (x : VArgs) | vscan (x : VArgs)
  | vexp2 (x : VArgs) | vlog2 (x : VArgs) | vrcp (x : VArgs) | vrsq (x : VArgs) | vtanh (x : VArgs)
  | vclz (x : VArgs) | vpopc (x : VArgs) | viota (x : VArgs) | vcomp (x : VArgs)
  /-- VDROP: vb names the counter although L = 1; `y` is the literal (R395, R396). -/
  | vdrop (x : VArgs) (y : BitVec 32)
  | vrand (x : VArgs)
  | kand (x : VArgs) | kor (x : VArgs) | kxor (x : VArgs) | knot (x : VArgs) | kcnt (x : VArgs)
  -- C slot (R97, R351, R370 to R376, R380)
  | ldv (p v g : Nat) (imm : BitVec 14) | ldvZ (p v g : Nat) (imm : BitVec 14) | stv (p v g : Nat) (imm : BitVec 14)
  | scfg (p a g : Nat) (imm : BitVec 14)
  | sld (p v a : Nat) | sst (p v a : Nat) | sgath (p v a : Nat) | sscat (p v a : Nat)
  | samo (p v a op : Nat) | sadv (p a g : Nat) | stasht (p g : Nat) (imm : BitVec 14) (op : Nat)
  -- M slot (R96, R360 to R364)
  | mcall (p n g : Nat) | mpar (p i g : Nat) | mpload (p n g : Nat) | mdrain (p g : Nat) | mstat (p g : Nat)
  -- X slot (R98, R416 to R420)
  | xexp (p d a : Nat) | xpak (p d a : Nat) | xtrn (p d a e : Nat)
  | xcvt (p d a src dst rm : Nat) | xqnt (p d a w src : Nat) | xdqn (p d a w dst rm : Nat) | xacc (p d i ty rm : Nat)
  -- micro-ops (R99, R146, R365); `count`, `blocks`, `rows` are the encoded value (the count minus 1)
  | mxldb (i first count plane : Nat) | mxstream (i w blocks : Nat) | mxstreamS (j w blocks : Nat)
  | mxacc (i first count : Nat) | mxclr (i rows : Nat) | mxloopImm (n : Nat) | mxloopReg (i : Nat)
  | mxend | mxwaitb | mxarr | mxskip | mxpar (i j : Nat) | mxaddp (i : Nat) (imm : BitVec 24) | mxsync
  -- steps of the engine of core `c`
  | mcallRun (c : Nat) | mploadInstall (c : Nat) | mdrainArrive (c : Nat) | engineStallRelease (c : Nat)
  | engineFetchFault (c : Nat)
  -- releases of holds and waits of context `x` of core `c`
  | lateDataArrive (id : Nat) | landingBufferRelease (c x : Nat) | watermarkRelease (c x : Nat)
  | acquireHoldRelease (c x : Nat) | drainComplete (c x : Nat)
  | feWaiterServed (c : Nat) | feWaiterRefuse (c i : Nat) | feWaiterRetry (id : Nat)
  | barwaitRelease (c x : Nat) | bankacqGrant (c x : Nat) | tlwaitRelease (c x : Nat) | waitevRelease (c x : Nat)
  | mQueueRoom (c x : Nat) | opgoQueueRoom (c x : Nat)
  | eventDrain (c : Nat) | machineCheck (c x : Nat)
  -- translation (`b` is a Brick)
  | translationMiss (c : Nat) | pageWalk (b : Nat) | shadowService (c : Nat) | shadowServiceTimeout (c : Nat)
  | xlinvVa (va : Nat) | xlinvAsid | xlinvAll | xlinvComplete
  -- stash and directory
  | stashFillComplete (i : Nat) | directoryRequest (b : Nat) | snoop (b d line : Nat) (inval : Bool)
  | writeBack (i : Nat) | releaseNotice (b d region : Nat)
  -- homes and slices
  | remoteAccess (id : Nat) | detAddPerform (b : Nat) | llcCounterClr (b : Nat) | llcRetire (b : Nat)
  -- copy channel `n` of context `x` of core `c`
  | copyStart (c x n : Nat) (word : BitVec 64) | copyArm (c x n : Nat) | courseEncoderGrant (b : Nat)
  | copyLand (c x n : Nat) | copyFault (c x n : Nat)
  -- units and levels
  | launchRelease (l : Nat) | unitEnd (u : Nat) | tileBatchClaim (b l : Nat) | launchStarvation (l : Nat)
  | cancel (record : Nat) | swapOut (u : Nat) | swapRestore (u : Nat)
  | haltRequest (c x : Nat) | haltRelease (c x : Nat) | debugStep (c x : Nat) | breakpoint (c x : Nat)
  -- queues `q` and packets
  | queueArm (q : Nat) | queueDeregister (q : Nat) | qdb (q w : Nat) | qpubDoorbell (i : Nat)
  | packetNop (q : Nat) | packetLaunch (q : Nat) | packetCoded (q : Nat) | packetGraph (q : Nat)
  | packetBarrierAnd (q : Nat) | packetSignal (q : Nat) | packetPhaseEnd (q : Nat)
  | barrierAndEvaluate (q : Nat) | graphAdmit (g : Nat) | nodeFire (g n : Nat)
  | slotTimeslice (q : Nat) | workerTimeout (q : Nat) | lockstepMismatch
  | energyCharge (q uj : Nat) | accountingPeriod
  -- coded operators, set `n`
  | operatorOpen | taskReturn (u : Nat) | graceExpiry (n : Nat) | tmaxExpiry (n : Nat) | repointingDecode (n : Nat)
  -- reductions and links, port `p`
  | redgo (pa : Nat) | redgoAdmit | reductionStreamArrive (p tag : Nat) (data : List Byte) | reductionComplete
  | reductionStreamTimeout (p tag : Nat) | linkReplay (p : Nat) (ok : Bool) | portTrained (p peer : Nat) | linkTimeout (p : Nat)
  | portWake (d p : Nat) | portWakeTimeout (d p : Nat) | heartbeat (b : Nat) | dieLost (b : Nat)
  -- windows, time, power, host, boot
  | windowMarker (d h : Nat) | windowClose (h d : Nat) | windowAnnounce (h d : Nat) | stretchClr (d : Nat)
  | tadj (off : BitVec 64) | ptpSync (off : BitVec 64) (locked : Bool)
  | powerSample (watts : Nat) | thermalTrip | thermalWarning (b deg : Nat)
  | droopAlarm (c : Nat) | droopStretchEnd (c : Nat) | droopWindowEnd (c : Nat)
  | hostRead (pa n : Nat) | hostWrite (pa : Nat) (data : List Byte)
  | bootStart | bootVerifyDone | attgo | attestationDone | coldReset
  | registerWrite (off : Nat) (value : BitVec 64) | mortarPortLowPower (d p : Nat)
deriving DecidableEq, Repr

end Sys2Proof
end

