-- ==== Sys2Proof/WellFormed.lean ====
section
/-! DEFINITION. Which instructions are well formed: the operand ranges of the opcode maps and the field rules of
04_encoding_and_assembly R101 (R87, R90 to R99, R69). A slot whose guard is 0x10 is never well formed (R83). -/

namespace Sys2Proof

/-- A guard of R83: a predicate number and a negate bit, 0x10 excluded. -/
def guardOk (p : Nat) : Bool := p < 32 && p != 16

/-- A g register number. -/
def gOk (n : Nat) : Bool := n < 64

def Src.ok : Src → Bool
  | .reg n => n < 64
  | .lit _ => true

/-- The type sets of R91. -/
def VType.isInt : VType → Bool
  | .i8 | .i16 | .i32 | .i64 | .n8 | .n16 | .n32 | .n64 | .i4 | .n4 => true
  | _ => false

def VType.isSigned : VType → Bool
  | .i8 | .i16 | .i32 | .i64 | .i4 | .a64 => true
  | _ => false

/-- The set Is of R91. -/
def VType.isIs : VType → Bool
  | .i8 | .i16 | .i32 | .i64 | .i4 => true
  | _ => false

def VType.isF : VType → Bool
  | .f16 | .bf16 | .f32 => true
  | _ => false

def VType.isAny : VType → Bool
  | .res13 | .res15 => false
  | _ => true

/-- The lane width in bits (R386). Reserved codes never reach a lane. -/
def VType.width : VType → Nat
  | .i4 | .n4 => 4
  | .i8 | .n8 | .res13 | .res15 => 8
  | .i16 | .n16 | .f16 | .bf16 => 16
  | .i32 | .n32 | .f32 => 32
  | .i64 | .n64 | .a64 => 64

/-- The lane count of a 512-byte register (R68). -/
def VType.lanes (t : VType) : Nat := 4096 / t.width

/-- The wide type paired with a narrow type (R409); `none` marks a broken field rule. -/
def VType.widen (q : Bool) : VType → Option VType
  | .i4 => some (if q then .i16 else .i8)
  | .n4 => some (if q then .n16 else .n8)
  | .i8 => some (if q then .i32 else .i16)
  | .n8 => some (if q then .n32 else .n16)
  | .i16 => some (if q then .i64 else .i32)
  | .n16 => some (if q then .n64 else .n32)
  | .i32 => if q then none else some .i64
  | .n32 => if q then none else some .n64
  | .f16 | .bf16 => if q then none else some .f32
  | _ => none

/-- Base register of a pair (even) or quad (divisible by 4), R69. -/
def groupOk (q : Bool) (n : Nat) : Bool := if q then n % 4 == 0 else n % 2 == 0

namespace VArgs

/-- Ranges every V slot obeys: guard, register bytes, k, rounding field. -/
def ranges (x : VArgs) : Bool :=
  guardOk x.p && x.ty.isAny && x.vd < 256 && x.va < 256 && x.k < 16 && x.rm < 4 &&
    (match x.b with | .reg n => n < 256 | .lit _ => true)

/-- vb is a register or the literal, as the v/L column of R94 allows. -/
def noLit (x : VArgs) : Bool := match x.b with | .reg _ => true | .lit _ => false

/-- vb unused (R92): zero, and no literal. -/
def noB (x : VArgs) : Bool := x.b == .reg 0

/-- The condition code of func[2:0] (R93). -/
def cc (x : VArgs) : Nat := (if x.s2 then 4 else 0) + x.rm

/-- RM only for F types (R93). -/
def rmOk (x : VArgs) : Bool := x.ty.isF || x.rm == 0

/-- S only for the I types (R93). -/
def sOk (x : VArgs) : Bool := !x.s2 || x.ty.isInt

/-- The element-wise mould of R388 and R404; `i`, `f`, `a` say which type sets the opcode takes. -/
def elt (x : VArgs) (f a s rm : Bool) : Bool :=
  x.ranges && (x.ty.isInt || (f && x.ty.isF) || (a && x.ty == .a64)) &&
    (if s then x.sOk else !x.s2) && (if rm then x.rmOk else x.rm == 0)

/-- One source, no literal, func all zero. -/
def unary (x : VArgs) : Bool := x.ranges && x.noB && !x.s2 && x.rm == 0

/-- The widening mould of R409. -/
def wide (x : VArgs) : Bool :=
  x.ranges && (x.ty.widen x.s2).isSome && x.rmOk && groupOk x.s2 x.vd

/-- Reductions and scans (R412). -/
def red (x : VArgs) : Bool := x.ranges && (x.ty.isInt || x.ty.isF) && x.noB && !x.s2 && x.rmOk

/-- Special functions (R397, R414). -/
def special (x : VArgs) : Bool := x.unary && x.ty.isF

/-- Lane-mask registers in vd, va, vb (R349). -/
def mask (x : VArgs) : Bool :=
  x.ranges && x.ty == .i8 && x.vd < 16 && x.va < 16 && x.k == 0 && !x.s2 && x.rm == 0 &&
    (match x.b with | .reg n => n < 16 | .lit _ => false)

/-- vb names a g register (kind g, R92). -/
def gB (x : VArgs) : Bool := match x.b with | .reg n => n < 64 | .lit _ => false

end VArgs

/-- VCVT's mode in the vb field (R95, R393): source code, RM, S and bit 7. -/
def cvtOk (x : VArgs) : Bool :=
  match x.b with
  | .lit _ => false
  | .reg m =>
    let st := VType.ofCode (m % 16)
    let rm := m / 16 % 4
    let s := m / 64 % 2 == 1
    x.ranges && (x.ty.isInt || x.ty.isF) && !x.s2 && x.rm == 0 && m < 128 && (st.isInt || st.isF) && st != x.ty &&
      (rm == 0 || st.isF || x.ty.isF) && (!s || x.ty.isInt)

namespace Instr

/-- The well-formed instructions: every operand in its range and every field rule of R101 kept. -/
def wf : Instr → Bool
  | .nop rep => rep < 16
  | .add x | .sub x | .mul x | .mulh x | .mulhn x | .div x | .divn x | .mod x | .modn x | .and x | .or x | .xor x
  | .andn x | .shl x | .shr x | .sar x | .min x | .max x | .minn x | .maxn x =>
    guardOk x.p && gOk x.d && gOk x.a && x.b.ok
  | .clz p d a _ | .ctz p d a _ | .popc p d a _ => guardOk p && gOk d && gOk a
  | .bfx p d a b | .bfi p d a b => guardOk p && gOk d && gOk a && b.ok
  | .sext p d a w | .zext p d a w => guardOk p && gOk d && gOk a && w < 64
  | .cmp p pd cc a b _ => guardOk p && pd < 16 && cc < 4 && gOk a && b.ok
  | .pand p pd pa _ pb _ | .por p pd pa _ pb _ | .pxor p pd pa _ pb _ => guardOk p && pd < 16 && pa < 16 && pb < 16
  | .addi p d a _ | .andi p d a _ | .ori p d a _ | .xori p d a _ => guardOk p && gOk d && gOk a
  | .shli p d a n _ | .shri p d a n _ | .sari p d a n _ => guardOk p && gOk d && gOk a && n < 64
  | .cmpi p pd cc a _ => guardOk p && pd < 16 && cc < 4 && gOk a
  | .movi p d _ => guardOk p && gOk d
  | .movhi p d a _ => guardOk p && gOk d && gOk a
  | .lit p d _ => guardOk p && gOk d
  | .pnot p pd pa => guardOk p && pd < 16 && pa < 16
  | .pget p d => guardOk p && gOk d
  | .pset p pd _ => guardOk p && pd < 16
  | .br p _ | .call p _ | .ret p | .loop p _ | .loopR p _ | .rotb p | .halt p | .xret p => guardOk p
  | .jmpi p a | .calli p a | .evack p a | .bararr p a | .opgo p a => guardOk p && gOk a
  | .trap p n => guardOk p && n < 256
  | .waitev p d a => guardOk p && gOk d && gOk a
  | .ld x | .st x => guardOk x.p && gOk x.d && gOk x.a && x.sz < 4
  | .ldf p d a _ | .ste p d a _ | .feget p d a _ => guardOk p && gOk d && gOk a
  | .feset p a _ | .feclr p a _ => guardOk p && gOk a
  | .lda x | .stl x => guardOk x.p && gOk x.d && gOk x.a && x.scope < 4 && x.sz < 4
  | .amoadd x | .amoand x | .amoor x | .amoxor x | .amomin x | .amomax x | .amoswp x | .amocas x | .amofadd x =>
    guardOk x.p && gOk x.d && gOk x.a && gOk x.b && x.ord < 4
  | .amoaddC p a b | .amoandC p a b | .amoorC p a b | .amoxorC p a b | .amominC p a b | .amomaxC p a b
  | .amofaddC p a b => guardOk p && gOk a && gOk b
  | .mfs p d n | .mts p d n =>
    guardOk p && gOk d &&
      ((1 ≤ n && n ≤ 7) || (0x40 ≤ n && n ≤ 0x44) || (0x60 ≤ n && n ≤ 0x64) || (0x100 ≤ n && n ≤ 0x14F) || n == 0x180
        || (0x200 ≤ n && n ≤ 0x203))
  | .drain p s => guardOk p && s < 5
  | .tstamp p d | .cycles p d => guardOk p && gOk d
  | .nxtile p d => guardOk p && 48 ≤ d && d < 64
  | .bankrel p _ | .bankacq p _ => guardOk p
  | .tlwait p n a | .tladv p n a => guardOk p && n < 16 && gOk a
  | .tlread p d n => guardOk p && gOk d && n < 16
  | .barinit p a b | .barwait p a b | .qpub p a b => guardOk p && gOk a && b.ok
  | .vadd x | .vsub x => x.elt true true true true
  | .vmul x => x.elt true false true true
  | .vmulh x => x.elt false false false false
  | .vfma x | .vfms x => x.ranges && x.ty.isF && !x.s2
  | .vmin x | .vmax x => x.elt true true false false
  | .vabs x | .vneg x => x.ranges && x.noB && (x.ty.isIs || x.ty.isF) && (!x.s2 || x.ty.isIs) && x.rm == 0
  | .vand x | .vor x | .vxor x | .vshl x | .vshr x | .vsar x => x.elt false false false false
  | .vcmp x => x.ranges && (x.ty.isInt || x.ty.isF) && x.vd < 16 && x.cc < 7 && (x.cc != 6 || x.ty.isF)
  | .vsel x => x.ranges && !x.s2 && x.rm == 0
  | .vmov x => x.unary
  | .vsplat x => x.ranges && x.va == 0 && !x.s2 && x.rm == 0 && (match x.b with | .reg n => n < 64 | .lit _ => true)
  | .vbcast x => x.ranges && x.gB && !x.s2 && x.rm == 0
  | .vperm x => x.ranges && x.noLit && !x.s2 && x.rm == 0
  | .vslide x => x.ranges && x.gB && !x.s2 && x.rm < 2
  | .vext x => x.ranges && x.gB && x.vd < 64 && x.k == 0 && !x.s2 && x.rm == 0
  | .vins x => x.ranges && x.gB && x.va < 64 && x.k == 0 && !x.s2 && x.rm == 0
  | .vcvt x => cvtOk x
  | .vwadd x | .vwmul x | .vwfma x => x.wide
  | .vnarr x => x.ranges && x.noB && (x.ty.widen x.s2).isSome && x.rmOk && groupOk x.s2 x.va
  | .vdot x =>
    x.ranges && !x.s2 && x.rmOk &&
      (match x.ty with | .i8 | .n8 | .i4 | .n4 | .i16 | .f16 | .bf16 => true | _ => false)
  | .vredadd x | .vredmax x | .vredmin x | .vscan x => x.red
  | .vexp2 x | .vlog2 x | .vrcp x | .vrsq x | .vtanh x => x.special
  | .vclz x | .vpopc x => x.unary && x.ty.isInt
  | .viota x => x.unary && x.ty.isInt && x.va == 0
  | .vcomp x => x.unary
  | .vdrop x _ => x.ranges && x.gB && x.vd < 16 && x.va < 64 && x.k == 0 && !x.s2 && x.rm == 0
  | .vrand x =>
    x.ranges && x.gB && x.va < 64 && !x.s2 && x.rm == 0 && (match x.ty with | .n8 | .n16 | .n32 | .n64 => true | _ => false)
  | .kand x | .kor x | .kxor x => x.mask
  | .knot x => x.mask && x.noB
  | .kcnt x => x.ranges && x.noB && x.vd < 64 && x.va < 16 && x.k == 0 && !x.s2 && x.rm == 0
  | .ldv p v g _ | .ldvZ p v g _ | .stv p v g _ => guardOk p && v < 256 && gOk g
  | .scfg p a g _ => guardOk p && a < 16 && gOk g
  | .sld p v a | .sst p v a | .sgath p v a | .sscat p v a => guardOk p && v < 256 && a < 16
  | .samo p v a op => guardOk p && v < 256 && a < 16 && op < 4
  | .sadv p a g => guardOk p && a < 16 && gOk g
  | .stasht p g _ op => guardOk p && gOk g && op < 3
  | .mcall p n g => guardOk p && n < 256 && gOk g
  | .mpar p i g => guardOk p && i < 8 && gOk g
  | .mpload p n g => guardOk p && 64 ≤ n && n < 256 && gOk g
  | .mdrain p g | .mstat p g => guardOk p && gOk g
  | .xexp p d a | .xpak p d a => guardOk p && d < 256 && a < 256
  | .xtrn p d a e => guardOk p && d < 256 && a < 256 && e < 4
  | .xcvt p d a s t rm => guardOk p && d < 256 && a < 256 && s < 3 && t < 3 && s != t && rm < 4
  | .xqnt p d a w s => guardOk p && d < 256 && a < 256 && w < 7 && s < 3
  | .xdqn p d a w t rm => guardOk p && d < 256 && a < 256 && w < 7 && t < 3 && rm < 4
  | .xacc p d i t rm =>
    guardOk p && d < 256 && i < 8 && rm < 4 &&
      (t == 0 || t == 1 || t == 2 || t == 8 || t == 9 || t == 10) && (8 ≤ t || rm == 0)
  | .mxldb i f c pl => i < 8 && f < 64 && c < 64 && f + c + 1 ≤ 64 && pl < 3
  | .mxstream i w b => i < 8 && w < 7 && b < 256
  | .mxstreamS j w b => j < 16 && w < 7 && b < 256
  | .mxacc i f c => i < 8 && f < 64 && c < 64 && f + c + 1 ≤ 64
  | .mxclr i r => i < 8 && r < 2560
  | .mxloopImm n => n < 65536
  | .mxloopReg i => i < 8
  | .mxend | .mxwaitb | .mxarr | .mxskip | .mxsync => true
  | .mxpar i j => i < 8 && j < 8
  | .mxaddp i _ => i < 8
  | .mcallRun c | .mploadInstall c | .mdrainArrive c | .engineStallRelease c | .engineFetchFault c
  | .feWaiterServed c | .eventDrain c | .translationMiss c | .shadowService c | .shadowServiceTimeout c
  | .droopAlarm c | .droopStretchEnd c | .droopWindowEnd c => c < 256
  | .drainComplete c x | .barwaitRelease c x | .bankacqGrant c x | .tlwaitRelease c x => c < 256 && x < 3
  | .machineCheck c x => (c < 256 && (x < 2 || 16 ≤ x)) || (c == 256 && x < 2 ^ 48)
  | .landingBufferRelease c x | .watermarkRelease c x | .acquireHoldRelease c x | .waitevRelease c x | .mQueueRoom c x
  | .opgoQueueRoom c x | .haltRequest c x | .haltRelease c x | .debugStep c x | .breakpoint c x =>
    c < 256 && x < 2
  | .feWaiterRefuse c _ => c < 256
  | .copyStart c x n _ | .copyArm c x n => c < 256 && x < 2 && n < 16
  | .copyLand c x n | .copyFault c x n => c < 256 && (x < 2 || 16 ≤ x) && n < 16
  | .pageWalk b | .directoryRequest b | .detAddPerform b | .llcCounterClr b | .llcRetire b | .courseEncoderGrant b
  | .heartbeat b | .dieLost b => b < 8
  | .snoop b d _ _ | .releaseNotice b d _ => b < 8 && d < 8
  | .tileBatchClaim b _ => b < 8
  | .xlinvVa va => va < 2 ^ 56
  | .queueArm q | .queueDeregister q | .packetNop q | .packetLaunch q | .packetCoded q | .packetGraph q
  | .packetBarrierAnd q | .packetSignal q | .packetPhaseEnd q | .barrierAndEvaluate q | .slotTimeslice q
  | .workerTimeout q => q < 4096
  | .qdb q w => q < 4096 && w < 2 ^ 32
  | .energyCharge q _ => q < 4096
  | .graceExpiry n | .tmaxExpiry n | .repointingDecode n => n < 64
  | .reductionStreamArrive p t _ | .reductionStreamTimeout p t => p < 12 && t < 65536
  | .linkReplay p _ | .linkTimeout p => p < 12
  | .portTrained p m => p < 12 && m < 256
  | .portWake d p | .portWakeTimeout d p | .mortarPortLowPower d p => d < 9 && p < 8
  | .windowMarker d h | .windowAnnounce h d => d < 9 && h < 9
  | .windowClose h d => h < 9 && d < 9
  | .stretchClr d => d < 9
  | .thermalWarning b _ => b < 8
  | .redgo pa => pa < 2 ^ 56
  | .cancel r => r < 2 ^ 56
  | .hostRead pa _ | .hostWrite pa _ => pa < 2 ^ 48
  | .registerWrite off _ => off < 2 ^ 32
  | .lateDataArrive _ | .feWaiterRetry _ | .xlinvAsid | .xlinvAll | .xlinvComplete | .stashFillComplete _
  | .writeBack _ | .remoteAccess _ | .launchRelease _ | .unitEnd _ | .launchStarvation _ | .swapOut _ | .swapRestore _
  | .qpubDoorbell _ | .graphAdmit _ | .nodeFire _ _ | .lockstepMismatch | .accountingPeriod | .operatorOpen
  | .taskReturn _ | .redgoAdmit | .reductionComplete | .tadj _ | .ptpSync _ _ | .powerSample _ | .thermalTrip
  | .bootStart | .bootVerifyDone | .attgo | .attestationDone | .coldReset => true

end Instr

end Sys2Proof
end

