-- ==== Sys2Proof/Decode.lean ====
section
/-! DEFINITION. Encodings of 04_encoding_and_assembly: the encoder of every slot and micro-op, and the decoder of a
bundle, total on any bytes, which rejects by name in the order of R104 steps 1 to 6. A slot whose opcode is
unassigned or whose field rules break decodes to no instruction: step 7 of R104 is made at issue, where its guard is read. -/

namespace Sys2Proof

/-- Where an instruction is encoded: a slot kind of R77, or a micro-op of R99. -/
inductive SlotKind where
  | s | v | m | c | x | u
deriving DecidableEq, Repr

/-- The encoded form of one slot: its kind, its bits from bit 0, and the trailing literal it selects. -/
structure Enc where
  kind : SlotKind
  word : Nat
  lit : Option (BitVec 32)
deriving DecidableEq, Repr

-- ## Field packing

/-- Format R of R84. -/
def packR (op p d a b f : Nat) : Nat := p + op * 2 ^ 5 + d * 2 ^ 12 + a * 2 ^ 18 + b * 2 ^ 24 + f * 2 ^ 30

/-- Format I of R84. -/
def packI (op p d a imm : Nat) : Nat := p + op * 2 ^ 5 + d * 2 ^ 12 + a * 2 ^ 18 + imm * 2 ^ 24

/-- Format B of R84; also K, with the destination in the low bits of `off`. -/
def packB (op p off : Nat) : Nat := p + op * 2 ^ 5 + off * 2 ^ 12

/-- The V slot of R91. -/
def packV (op p ty vd va vb k func : Nat) : Nat :=
  p + op * 2 ^ 5 + ty * 2 ^ 12 + vd * 2 ^ 16 + va * 2 ^ 24 + vb * 2 ^ 32 + k * 2 ^ 40 + func * 2 ^ 44

/-- The C slot of R97. -/
def packC (op p a v g imm flags : Nat) : Nat :=
  p + op * 2 ^ 5 + a * 2 ^ 12 + v * 2 ^ 16 + g * 2 ^ 24 + imm * 2 ^ 30 + flags * 2 ^ 44

/-- The M slot of R96. -/
def packM (op p n g : Nat) : Nat := p + op * 2 ^ 5 + n * 2 ^ 9 + g * 2 ^ 17

/-- The X slot of R98. -/
def packX (op p d a param : Nat) : Nat := p + op * 2 ^ 5 + d * 2 ^ 9 + a * 2 ^ 17 + param * 2 ^ 25

/-- A micro-op of R99 from its fields above bit 26 and below. -/
def packU (op rest : Nat) : Nat := op * 2 ^ 27 + rest

/-- The field of a Boolean. -/
def bit (b : Bool) : Nat := if b then 1 else 0

/-- Field b of a register operand; zero under a literal (R84, R93). -/
def Src.field : Src → Nat
  | .reg n => n
  | .lit _ => 0

/-- The selection bit of a source. -/
def Src.sel : Src → Nat
  | .reg _ => 0
  | .lit _ => 1

/-- The literal a source selects. -/
def Src.literal : Src → Option (BitVec 32)
  | .reg _ => none
  | .lit x => some x

/-- An S slot of format R with d, a, b, f. -/
def encR (op : Nat) (x : RArgs) : Enc :=
  ⟨.s, packR op x.p x.d x.a x.b.field (bit x.w + 2 * x.b.sel), x.b.literal⟩

/-- An S slot without a literal. -/
def encS (word : Nat) : Enc := ⟨.s, word, none⟩

/-- The memory form of R89. -/
def encMem (op : Nat) (x : MemArgs) : Enc := encS (packR op x.p x.d x.a x.off.toNat x.sz)

/-- LDA and STL (R89): scope in [25:24], off4 in [29:26]. -/
def encScope (op : Nat) (x : ScopeArgs) : Enc := encS (packR op x.p x.d x.a (x.scope + 4 * x.off.toNat) x.sz)

/-- The atomic format of R89. -/
def encAmo (op : Nat) (x : AmoArgs) : Enc := encS (packR op x.p x.d x.a x.b x.ord)

/-- A V slot (R91 to R93). -/
def encV (op : Nat) (x : VArgs) : Enc :=
  ⟨.v, packV op x.p x.ty.code x.vd x.va x.b.field x.k (x.rm + 4 * bit x.s2 + 8 * x.b.sel), x.b.literal⟩

/-- A predicate source of R87: the number, and the negate bit at [5]. -/
def predSrc (n : Nat) (neg : Bool) : Nat := n + 32 * bit neg

/-- The encoded slot or micro-op of an instruction (R84 to R99); none for NOP, which is a header, and for the
event rows, which have no encoding. -/
def Instr.enc : Instr → Option Enc
  | .nop _ => none
  | .add x => some (encR 0x01 x)
  | .sub x => some (encR 0x02 x)
  | .mul x => some (encR 0x03 x)
  | .mulh x => some (encR 0x04 x)
  | .mulhn x => some (encR 0x05 x)
  | .div x => some (encR 0x06 x)
  | .divn x => some (encR 0x07 x)
  | .mod x => some (encR 0x08 x)
  | .modn x => some (encR 0x09 x)
  | .and x => some (encR 0x0A x)
  | .or x => some (encR 0x0B x)
  | .xor x => some (encR 0x0C x)
  | .andn x => some (encR 0x0D x)
  | .shl x => some (encR 0x0E x)
  | .shr x => some (encR 0x0F x)
  | .sar x => some (encR 0x10 x)
  | .min x => some (encR 0x11 x)
  | .max x => some (encR 0x12 x)
  | .minn x => some (encR 0x13 x)
  | .maxn x => some (encR 0x14 x)
  | .clz p d a w => some (encS (packR 0x15 p d a 0 (bit w)))
  | .ctz p d a w => some (encS (packR 0x16 p d a 0 (bit w)))
  | .popc p d a w => some (encS (packR 0x17 p d a 0 (bit w)))
  | .bfx p d a b => some (encR 0x18 ⟨p, d, a, b, false⟩)
  | .bfi p d a b => some (encR 0x19 ⟨p, d, a, b, false⟩)
  | .sext p d a n => some (encS (packR 0x1A p d a n 0))
  | .zext p d a n => some (encS (packR 0x1B p d a n 0))
  | .cmp p pd cc a b w => some (encR 0x1C ⟨p, pd + 16 * cc, a, b, w⟩)
  | .pand p pd pa na pb nb => some (encS (packR 0x1D p pd (predSrc pa na) (predSrc pb nb) 0))
  | .por p pd pa na pb nb => some (encS (packR 0x1E p pd (predSrc pa na) (predSrc pb nb) 0))
  | .pxor p pd pa na pb nb => some (encS (packR 0x1F p pd (predSrc pa na) (predSrc pb nb) 0))
  | .addi p d a imm => some (encS (packI 0x20 p d a imm.toNat))
  | .andi p d a imm => some (encS (packI 0x21 p d a imm.toNat))
  | .ori p d a imm => some (encS (packI 0x22 p d a imm.toNat))
  | .xori p d a imm => some (encS (packI 0x23 p d a imm.toNat))
  | .shli p d a n w => some (encS (packI 0x24 p d a (n + 64 * bit w)))
  | .shri p d a n w => some (encS (packI 0x25 p d a (n + 64 * bit w)))
  | .sari p d a n w => some (encS (packI 0x26 p d a (n + 64 * bit w)))
  | .cmpi p pd cc a imm => some (encS (packI 0x27 p (pd + 16 * cc) a imm.toNat))
  | .movi p d imm => some (encS (packB 0x28 p (d + 64 * imm.toNat)))
  | .movhi p d a x => some (encR 0x29 ⟨p, d, a, .lit x, false⟩)
  | .lit p d x => some (encR 0x2A ⟨p, d, 0, .lit x, false⟩)
  | .pnot p pd pa => some (encS (packR 0x2B p pd pa 0 0))
  | .pget p d => some (encS (packR 0x2C p d 0 0 0))
  | .pset p pd v => some (encS (packI 0x2D p pd 0 (bit v)))
  | .br p off => some (encS (packB 0x30 p off.toNat))
  | .jmpi p a => some (encS (packR 0x31 p 0 a 0 0))
  | .call p off => some (encS (packB 0x32 p off.toNat))
  | .calli p a => some (encS (packR 0x33 p 0 a 0 0))
  | .ret p => some (encS (packR 0x34 p 0 0 0 0))
  | .loop p off => some (encS (packB 0x35 p (2 * off.toNat)))
  | .loopR p off => some (encS (packB 0x35 p (1 + 2 * off.toNat)))
  | .rotb p => some (encS (packR 0x36 p 0 0 0 0))
  | .halt p => some (encS (packR 0x37 p 0 0 0 0))
  | .trap p n => some (encS (packI 0x38 p 0 0 n))
  | .xret p => some (encS (packR 0x39 p 0 0 0 0))
  | .waitev p d a => some (encS (packR 0x3A p d a 0 0))
  | .evack p a => some (encS (packR 0x3B p 0 a 0 0))
  | .ld x => some (encMem 0x40 x)
  | .st x => some (encMem 0x41 x)
  | .ldf p d a off => some (encMem 0x42 ⟨p, d, a, off, 3⟩)
  | .ste p d a off => some (encMem 0x43 ⟨p, d, a, off, 3⟩)
  | .feget p d a off => some (encMem 0x44 ⟨p, d, a, off, 3⟩)
  | .feset p a off => some (encMem 0x45 ⟨p, 0, a, off, 3⟩)
  | .feclr p a off => some (encMem 0x46 ⟨p, 0, a, off, 3⟩)
  | .lda x => some (encScope 0x47 x)
  | .stl x => some (encScope 0x48 x)
  | .amoadd x => some (encAmo 0x50 x)
  | .amoand x => some (encAmo 0x51 x)
  | .amoor x => some (encAmo 0x52 x)
  | .amoxor x => some (encAmo 0x53 x)
  | .amomin x => some (encAmo 0x54 x)
  | .amomax x => some (encAmo 0x55 x)
  | .amoswp x => some (encAmo 0x56 x)
  | .amocas x => some (encAmo 0x57 x)
  | .amofadd x => some (encAmo 0x58 x)
  | .amoaddC p a b => some (encAmo 0x59 ⟨p, 0, a, b, 0⟩)
  | .amoandC p a b => some (encAmo 0x5A ⟨p, 0, a, b, 0⟩)
  | .amoorC p a b => some (encAmo 0x5B ⟨p, 0, a, b, 0⟩)
  | .amoxorC p a b => some (encAmo 0x5C ⟨p, 0, a, b, 0⟩)
  | .amominC p a b => some (encAmo 0x5D ⟨p, 0, a, b, 0⟩)
  | .amomaxC p a b => some (encAmo 0x5E ⟨p, 0, a, b, 0⟩)
  | .amofaddC p a b => some (encAmo 0x5F ⟨p, 0, a, b, 0⟩)
  | .mfs p d n => some (encS (packB 0x60 p (d + 64 * n)))
  | .mts p d n => some (encS (packB 0x61 p (d + 64 * n)))
  | .drain p s => some (encS (packR 0x62 p s 0 0 0))
  | .tstamp p d => some (encS (packR 0x63 p d 0 0 0))
  | .cycles p d => some (encS (packR 0x64 p d 0 0 0))
  | .nxtile p d => some (encS (packR 0x65 p d 0 0 0))
  | .bankrel p mask => some (encS (packB 0x66 p (64 * mask.toNat)))
  | .bankacq p mask => some (encS (packB 0x67 p (64 * mask.toNat)))
  | .tlwait p n a => some (encS (packR 0x68 p n a 0 0))
  | .tlread p d n => some (encS (packR 0x69 p d n 0 0))
  | .tladv p n a => some (encS (packR 0x6A p n a 0 0))
  | .barinit p a b => some (encR 0x6B ⟨p, 0, a, b, false⟩)
  | .bararr p a => some (encS (packR 0x6C p 0 a 0 0))
  | .barwait p a b => some (encR 0x6D ⟨p, 0, a, b, false⟩)
  | .opgo p a => some (encS (packR 0x6E p 0 a 0 0))
  | .qpub p a b => some (encR 0x6F ⟨p, 0, a, b, false⟩)
  | .vadd x => some (encV 0x01 x)
  | .vsub x => some (encV 0x02 x)
  | .vmul x => some (encV 0x03 x)
  | .vmulh x => some (encV 0x04 x)
  | .vfma x => some (encV 0x05 x)
  | .vfms x => some (encV 0x06 x)
  | .vmin x => some (encV 0x07 x)
  | .vmax x => some (encV 0x08 x)
  | .vabs x => some (encV 0x09 x)
  | .vneg x => some (encV 0x0A x)
  | .vand x => some (encV 0x0B x)
  | .vor x => some (encV 0x0C x)
  | .vxor x => some (encV 0x0D x)
  | .vshl x => some (encV 0x0E x)
  | .vshr x => some (encV 0x0F x)
  | .vsar x => some (encV 0x10 x)
  | .vcmp x => some (encV 0x11 x)
  | .vsel x => some (encV 0x12 x)
  | .vmov x => some (encV 0x13 x)
  | .vsplat x => some (encV 0x14 x)
  | .vbcast x => some (encV 0x15 x)
  | .vperm x => some (encV 0x16 x)
  | .vslide x => some (encV 0x17 x)
  | .vext x => some (encV 0x18 x)
  | .vins x => some (encV 0x19 x)
  | .vcvt x => some (encV 0x1A x)
  | .vwadd x => some (encV 0x1B x)
  | .vwmul x => some (encV 0x1C x)
  | .vwfma x => some (encV 0x1D x)
  | .vnarr x => some (encV 0x1E x)
  | .vdot x => some (encV 0x1F x)
  | .vredadd x => some (encV 0x20 x)
  | .vredmax x => some (encV 0x21 x)
  | .vredmin x => some (encV 0x22 x)
  | .vscan x => some (encV 0x23 x)
  | .vexp2 x => some (encV 0x24 x)
  | .vlog2 x => some (encV 0x25 x)
  | .vrcp x => some (encV 0x26 x)
  | .vrsq x => some (encV 0x27 x)
  | .vtanh x => some (encV 0x28 x)
  | .vclz x => some (encV 0x29 x)
  | .vpopc x => some (encV 0x2A x)
  | .viota x => some (encV 0x2B x)
  | .vcomp x => some (encV 0x2C x)
  | .vrand x => some (encV 0x2E x)
  | .kand x => some (encV 0x30 x)
  | .kor x => some (encV 0x31 x)
  | .kxor x => some (encV 0x32 x)
  | .knot x => some (encV 0x33 x)
  | .kcnt x => some (encV 0x34 x)
  | .vdrop x y => some ⟨.v, packV 0x2D x.p x.ty.code x.vd x.va x.b.field x.k (x.rm + 4 * bit x.s2 + 8), some y⟩
  | .ldv p v g imm => some ⟨.c, packC 0x01 p 0 v g imm.toNat 0, none⟩
  | .ldvZ p v g imm => some ⟨.c, packC 0x01 p 0 v g imm.toNat 1, none⟩
  | .stv p v g imm => some ⟨.c, packC 0x02 p 0 v g imm.toNat 0, none⟩
  | .scfg p a g imm => some ⟨.c, packC 0x03 p a 0 g imm.toNat 0, none⟩
  | .sld p v a => some ⟨.c, packC 0x04 p a v 0 0 0, none⟩
  | .sst p v a => some ⟨.c, packC 0x05 p a v 0 0 0, none⟩
  | .sgath p v a => some ⟨.c, packC 0x06 p a v 0 0 0, none⟩
  | .sscat p v a => some ⟨.c, packC 0x07 p a v 0 0 0, none⟩
  | .samo p v a op => some ⟨.c, packC 0x08 p a v 0 0 op, none⟩
  | .stasht p g imm op => some ⟨.c, packC 0x09 p 0 0 g imm.toNat op, none⟩
  | .sadv p a g => some ⟨.c, packC 0x0A p a 0 g 0 0, none⟩
  | .mcall p n g => some ⟨.m, packM 0x1 p n g, none⟩
  | .mpar p i g => some ⟨.m, packM 0x2 p i g, none⟩
  | .mpload p n g => some ⟨.m, packM 0x3 p n g, none⟩
  | .mdrain p g => some ⟨.m, packM 0x4 p 0 g, none⟩
  | .mstat p g => some ⟨.m, packM 0x5 p 0 g, none⟩
  | .xexp p d a => some ⟨.x, packX 0x1 p d a 0, none⟩
  | .xpak p d a => some ⟨.x, packX 0x2 p d a 0, none⟩
  | .xtrn p d a e => some ⟨.x, packX 0x3 p d a e, none⟩
  | .xcvt p d a src dst rm => some ⟨.x, packX 0x4 p d a (src + 4 * dst + 16 * rm), none⟩
  | .xqnt p d a w src => some ⟨.x, packX 0x5 p d a (w + 8 * src), none⟩
  | .xdqn p d a w dst rm => some ⟨.x, packX 0x6 p d a (w + 8 * dst + 32 * rm), none⟩
  | .xacc p d i ty rm => some ⟨.x, packX 0x7 p d i (ty + 16 * rm), none⟩
  | .mxldb i f c pl => some ⟨.u, packU 0x01 (i * 2 ^ 24 + f * 2 ^ 18 + c * 2 ^ 12 + pl * 2 ^ 10), none⟩
  | .mxstream i w b => some ⟨.u, packU 0x02 (i * 2 ^ 24 + w * 2 ^ 21 + b * 2 ^ 8), none⟩
  | .mxstreamS j w b => some ⟨.u, packU 0x02 (w * 2 ^ 21 + 2 ^ 20 + j * 2 ^ 16 + b * 2 ^ 8), none⟩
  | .mxacc i f c => some ⟨.u, packU 0x03 (i * 2 ^ 24 + f * 2 ^ 18 + c * 2 ^ 12), none⟩
  | .mxclr i r => some ⟨.u, packU 0x04 (i * 2 ^ 24 + r), none⟩
  | .mxloopImm n => some ⟨.u, packU 0x05 (2 ^ 23 + n), none⟩
  | .mxloopReg i => some ⟨.u, packU 0x05 (i * 2 ^ 24), none⟩
  | .mxend => some ⟨.u, packU 0x06 0, none⟩
  | .mxwaitb => some ⟨.u, packU 0x07 0, none⟩
  | .mxarr => some ⟨.u, packU 0x08 0, none⟩
  | .mxskip => some ⟨.u, packU 0x09 0, none⟩
  | .mxpar i j => some ⟨.u, packU 0x0A (i * 2 ^ 24 + j * 2 ^ 21), none⟩
  | .mxaddp i imm => some ⟨.u, packU 0x0B (i * 2 ^ 24 + imm.toNat), none⟩
  | .mxsync => some ⟨.u, packU 0x0C 0, none⟩
  | _ => none

-- ## Reading a slot

/-- Field b of format R: the literal under f[1] (R82, R84). -/
def rdSrc (w : Nat) (lit : BitVec 32) : Src := if bits w 31 31 = 1 then .lit lit else .reg (bits w 29 24)

def rdR (w : Nat) (lit : BitVec 32) : RArgs :=
  ⟨bits w 4 0, bits w 17 12, bits w 23 18, rdSrc w lit, bits w 30 30 == 1⟩

def rdMem (w : Nat) : MemArgs :=
  ⟨bits w 4 0, bits w 17 12, bits w 23 18, BitVec.ofNat 6 (bits w 29 24), bits w 31 30⟩

def rdScope (w : Nat) : ScopeArgs :=
  ⟨bits w 4 0, bits w 17 12, bits w 23 18, BitVec.ofNat 4 (bits w 29 26), bits w 25 24, bits w 31 30⟩

def rdAmo (w : Nat) : AmoArgs := ⟨bits w 4 0, bits w 17 12, bits w 23 18, bits w 29 24, bits w 31 30⟩

/-- The fields of a V slot; `l` says that the opcode gives func[3] the meaning L (R93, R94). -/
def rdV (w : Nat) (lit : BitVec 32) (l : Bool) : VArgs :=
  ⟨bits w 4 0, VType.ofCode (bits w 15 12), bits w 23 16, bits w 31 24,
    if l && bits w 47 47 == 1 then .lit lit else .reg (bits w 39 32),
    bits w 43 40, bits w 46 46 == 1, bits w 45 44⟩

def imm8 (w : Nat) : BitVec 8 := BitVec.ofNat 8 (bits w 31 24)
def imm14 (w : Nat) : BitVec 14 := BitVec.ofNat 14 (bits w 43 30)

/-- The S opcodes that give f[1] the meaning "literal" (R82, R90). -/
def litS (op : Nat) : Bool :=
  (1 ≤ op && op ≤ 0x14) || op == 0x18 || op == 0x19 || op == 0x1C || op == 0x29 || op == 0x2A || op == 0x6B ||
    op == 0x6D || op == 0x6F

/-- The V opcodes that give func[3] the meaning L (R93, R94). -/
def litV (op : Nat) : Bool :=
  (1 ≤ op && op ≤ 0x08) || (0x0B ≤ op && op ≤ 0x12) || op == 0x14 || (0x1B ≤ op && op ≤ 0x1D) || op == 0x1F ||
    op == 0x2D

/-- The instruction of S opcode `op` in the slot word `w`, with the operands of R90; none where it is unassigned. -/
def parseSOp (op w : Nat) (lit : BitVec 32) : Option Instr :=
  let p := bits w 4 0
  let d := bits w 17 12
  let a := bits w 23 18
  let b := bits w 29 24
  match op with
  | 0x01 => some (.add (rdR w lit))
  | 0x02 => some (.sub (rdR w lit))
  | 0x03 => some (.mul (rdR w lit))
  | 0x04 => some (.mulh (rdR w lit))
  | 0x05 => some (.mulhn (rdR w lit))
  | 0x06 => some (.div (rdR w lit))
  | 0x07 => some (.divn (rdR w lit))
  | 0x08 => some (.mod (rdR w lit))
  | 0x09 => some (.modn (rdR w lit))
  | 0x0A => some (.and (rdR w lit))
  | 0x0B => some (.or (rdR w lit))
  | 0x0C => some (.xor (rdR w lit))
  | 0x0D => some (.andn (rdR w lit))
  | 0x0E => some (.shl (rdR w lit))
  | 0x0F => some (.shr (rdR w lit))
  | 0x10 => some (.sar (rdR w lit))
  | 0x11 => some (.min (rdR w lit))
  | 0x12 => some (.max (rdR w lit))
  | 0x13 => some (.minn (rdR w lit))
  | 0x14 => some (.maxn (rdR w lit))
  | 0x15 => some (.clz p d a (bits w 30 30 == 1))
  | 0x16 => some (.ctz p d a (bits w 30 30 == 1))
  | 0x17 => some (.popc p d a (bits w 30 30 == 1))
  | 0x18 => some (.bfx p d a (rdSrc w lit))
  | 0x19 => some (.bfi p d a (rdSrc w lit))
  | 0x1A => some (.sext p d a b)
  | 0x1B => some (.zext p d a b)
  | 0x1C => some (.cmp p (d % 16) (d / 16) a (rdSrc w lit) (bits w 30 30 == 1))
  | 0x1D => some (.pand p d (a % 16) (a / 32 == 1) (b % 16) (b / 32 == 1))
  | 0x1E => some (.por p d (a % 16) (a / 32 == 1) (b % 16) (b / 32 == 1))
  | 0x1F => some (.pxor p d (a % 16) (a / 32 == 1) (b % 16) (b / 32 == 1))
  | 0x20 => some (.addi p d a (imm8 w))
  | 0x21 => some (.andi p d a (imm8 w))
  | 0x22 => some (.ori p d a (imm8 w))
  | 0x23 => some (.xori p d a (imm8 w))
  | 0x24 => some (.shli p d a (b % 64) (bits w 30 30 == 1))
  | 0x25 => some (.shri p d a (b % 64) (bits w 30 30 == 1))
  | 0x26 => some (.sari p d a (b % 64) (bits w 30 30 == 1))
  | 0x27 => some (.cmpi p (d % 16) (d / 16) a (imm8 w))
  | 0x28 => some (.movi p d (BitVec.ofNat 14 (bits w 31 18)))
  | 0x29 => some (.movhi p d a lit)
  | 0x2A => some (.lit p d lit)
  | 0x2B => some (.pnot p d a)
  | 0x2C => some (.pget p d)
  | 0x2D => some (.pset p d (bits w 24 24 == 1))
  | 0x30 => some (.br p (BitVec.ofNat 20 (bits w 31 12)))
  | 0x31 => some (.jmpi p a)
  | 0x32 => some (.call p (BitVec.ofNat 20 (bits w 31 12)))
  | 0x33 => some (.calli p a)
  | 0x34 => some (.ret p)
  | 0x35 => some (if bits w 12 12 = 1 then .loopR p (BitVec.ofNat 19 (bits w 31 13))
      else .loop p (BitVec.ofNat 19 (bits w 31 13)))
  | 0x36 => some (.rotb p)
  | 0x37 => some (.halt p)
  | 0x38 => some (.trap p (bits w 31 24))
  | 0x39 => some (.xret p)
  | 0x3A => some (.waitev p d a)
  | 0x3B => some (.evack p a)
  | 0x40 => some (.ld (rdMem w))
  | 0x41 => some (.st (rdMem w))
  | 0x42 => some (.ldf p d a (rdMem w).off)
  | 0x43 => some (.ste p d a (rdMem w).off)
  | 0x44 => some (.feget p d a (rdMem w).off)
  | 0x45 => some (.feset p a (rdMem w).off)
  | 0x46 => some (.feclr p a (rdMem w).off)
  | 0x47 => some (.lda (rdScope w))
  | 0x48 => some (.stl (rdScope w))
  | 0x50 => some (.amoadd (rdAmo w))
  | 0x51 => some (.amoand (rdAmo w))
  | 0x52 => some (.amoor (rdAmo w))
  | 0x53 => some (.amoxor (rdAmo w))
  | 0x54 => some (.amomin (rdAmo w))
  | 0x55 => some (.amomax (rdAmo w))
  | 0x56 => some (.amoswp (rdAmo w))
  | 0x57 => some (.amocas (rdAmo w))
  | 0x58 => some (.amofadd (rdAmo w))
  | 0x59 => some (.amoaddC p a b)
  | 0x5A => some (.amoandC p a b)
  | 0x5B => some (.amoorC p a b)
  | 0x5C => some (.amoxorC p a b)
  | 0x5D => some (.amominC p a b)
  | 0x5E => some (.amomaxC p a b)
  | 0x5F => some (.amofaddC p a b)
  | 0x60 => some (.mfs p d (bits w 29 18))
  | 0x61 => some (.mts p d (bits w 29 18))
  | 0x62 => some (.drain p d)
  | 0x63 => some (.tstamp p d)
  | 0x64 => some (.cycles p d)
  | 0x65 => some (.nxtile p d)
  | 0x66 => some (.bankrel p (BitVec.ofNat 12 (bits w 29 18)))
  | 0x67 => some (.bankacq p (BitVec.ofNat 12 (bits w 29 18)))
  | 0x68 => some (.tlwait p d a)
  | 0x69 => some (.tlread p d a)
  | 0x6A => some (.tladv p d a)
  | 0x6B => some (.barinit p a (rdSrc w lit))
  | 0x6C => some (.bararr p a)
  | 0x6D => some (.barwait p a (rdSrc w lit))
  | 0x6E => some (.opgo p a)
  | 0x6F => some (.qpub p a (rdSrc w lit))
  | _ => none

/-- The instruction whose opcode an S slot holds (R84, R90). -/
def parseS (w : Nat) (lit : BitVec 32) : Option Instr := parseSOp (bits w 11 5) w lit

/-- The instruction of V opcode `op` in the slot word `w` (R94); none where it is unassigned. -/
def parseVOp (op w : Nat) (lit : BitVec 32) : Option Instr :=
  let x := rdV w lit (litV op)
  match op with
  | 0x01 => some (.vadd x)
  | 0x02 => some (.vsub x)
  | 0x03 => some (.vmul x)
  | 0x04 => some (.vmulh x)
  | 0x05 => some (.vfma x)
  | 0x06 => some (.vfms x)
  | 0x07 => some (.vmin x)
  | 0x08 => some (.vmax x)
  | 0x09 => some (.vabs x)
  | 0x0A => some (.vneg x)
  | 0x0B => some (.vand x)
  | 0x0C => some (.vor x)
  | 0x0D => some (.vxor x)
  | 0x0E => some (.vshl x)
  | 0x0F => some (.vshr x)
  | 0x10 => some (.vsar x)
  | 0x11 => some (.vcmp x)
  | 0x12 => some (.vsel x)
  | 0x13 => some (.vmov x)
  | 0x14 => some (.vsplat x)
  | 0x15 => some (.vbcast x)
  | 0x16 => some (.vperm x)
  | 0x17 => some (.vslide x)
  | 0x18 => some (.vext x)
  | 0x19 => some (.vins x)
  | 0x1A => some (.vcvt x)
  | 0x1B => some (.vwadd x)
  | 0x1C => some (.vwmul x)
  | 0x1D => some (.vwfma x)
  | 0x1E => some (.vnarr x)
  | 0x1F => some (.vdot x)
  | 0x20 => some (.vredadd x)
  | 0x21 => some (.vredmax x)
  | 0x22 => some (.vredmin x)
  | 0x23 => some (.vscan x)
  | 0x24 => some (.vexp2 x)
  | 0x25 => some (.vlog2 x)
  | 0x26 => some (.vrcp x)
  | 0x27 => some (.vrsq x)
  | 0x28 => some (.vtanh x)
  | 0x29 => some (.vclz x)
  | 0x2A => some (.vpopc x)
  | 0x2B => some (.viota x)
  | 0x2C => some (.vcomp x)
  | 0x2E => some (.vrand x)
  | 0x30 => some (.kand x)
  | 0x31 => some (.kor x)
  | 0x32 => some (.kxor x)
  | 0x33 => some (.knot x)
  | 0x34 => some (.kcnt x)
  | 0x2D => some (.vdrop (rdV w lit false) lit)
  | _ => none

/-- The instruction whose opcode a V slot holds (R91, R94). -/
def parseV (w : Nat) (lit : BitVec 32) : Option Instr := parseVOp (bits w 11 5) w lit

/-- The instruction whose opcode a C slot holds (R97); none where the opcode is unassigned. -/
def parseC (w : Nat) : Option Instr :=
  let p := bits w 4 0
  let a := bits w 15 12
  let v := bits w 23 16
  let g := bits w 29 24
  match bits w 11 5 with
  | 0x01 => some (if bits w 44 44 = 1 then .ldvZ p v g (imm14 w) else .ldv p v g (imm14 w))
  | 0x02 => some (.stv p v g (imm14 w))
  | 0x03 => some (.scfg p a g (imm14 w))
  | 0x04 => some (.sld p v a)
  | 0x05 => some (.sst p v a)
  | 0x06 => some (.sgath p v a)
  | 0x07 => some (.sscat p v a)
  | 0x08 => some (.samo p v a (bits w 45 44))
  | 0x09 => some (.stasht p g (imm14 w) (bits w 45 44))
  | 0x0A => some (.sadv p a g)
  | _ => none

/-- The instruction whose opcode an M slot holds (R96); none where the opcode is unassigned. -/
def parseM (w : Nat) : Option Instr :=
  let p := bits w 4 0
  let g := bits w 22 17
  match bits w 8 5 with
  | 0x1 => some (.mcall p (bits w 16 9) g)
  | 0x2 => some (.mpar p (bits w 11 9) g)
  | 0x3 => some (.mpload p (bits w 16 9) g)
  | 0x4 => some (.mdrain p g)
  | 0x5 => some (.mstat p g)
  | _ => none

/-- The instruction whose opcode an X slot holds (R98); none where the opcode is unassigned. -/
def parseX (w : Nat) : Option Instr :=
  let p := bits w 4 0
  let d := bits w 16 9
  let a := bits w 24 17
  match bits w 8 5 with
  | 0x1 => some (.xexp p d a)
  | 0x2 => some (.xpak p d a)
  | 0x3 => some (.xtrn p d a (bits w 26 25))
  | 0x4 => some (.xcvt p d a (bits w 26 25) (bits w 28 27) (bits w 30 29))
  | 0x5 => some (.xqnt p d a (bits w 27 25) (bits w 29 28))
  | 0x6 => some (.xdqn p d a (bits w 27 25) (bits w 29 28) (bits w 31 30))
  | 0x7 => some (.xacc p d (bits w 19 17) (bits w 28 25) (bits w 30 29))
  | _ => none

/-- The micro-op whose number a word holds (R99); none where the number is unassigned. -/
def parseU (w : Nat) : Option Instr :=
  let i := bits w 26 24
  match bits w 31 27 with
  | 0x01 => some (.mxldb i (bits w 23 18) (bits w 17 12) (bits w 11 10))
  | 0x02 => some (if bits w 20 20 = 1 then .mxstreamS (bits w 19 16) (bits w 23 21) (bits w 15 8)
      else .mxstream i (bits w 23 21) (bits w 15 8))
  | 0x03 => some (.mxacc i (bits w 23 18) (bits w 17 12))
  | 0x04 => some (.mxclr i (bits w 11 0))
  | 0x05 => some (if bits w 23 23 = 1 then .mxloopImm (bits w 15 0) else .mxloopReg i)
  | 0x06 => some .mxend
  | 0x07 => some .mxwaitb
  | 0x08 => some .mxarr
  | 0x09 => some .mxskip
  | 0x0A => some (.mxpar i (bits w 23 21))
  | 0x0B => some (.mxaddp i (BitVec.ofNat 24 (bits w 23 0)))
  | 0x0C => some .mxsync
  | _ => none

/-- The instruction of a slot's opcode, before the field rules. -/
def parseSlot (k : SlotKind) (w : Nat) (lit : BitVec 32) : Option Instr :=
  match k with
  | .s => parseS w lit
  | .v => parseV w lit
  | .m => parseM w
  | .c => parseC w
  | .x => parseX w
  | .u => parseU w

/-- Whether the opcode of a slot gives it a selection field that is 1 (R82). -/
def selectsLit (k : SlotKind) (w : Nat) : Bool :=
  match k with
  | .s => litS (bits w 11 5) && bits w 31 31 == 1
  | .v => litV (bits w 11 5) && bits w 47 47 == 1
  | _ => false

/-- The field rules of R101: the instruction is well formed, and every field it does not use is zero. -/
def fieldsOk (w : Nat) (i : Instr) : Bool :=
  i.wf && (match i.enc with | some e => e.word == w | none => false)

/-- Opcode and field rules of a slot (step 7 of R104): the instruction, or none. -/
def decodeSlot (k : SlotKind) (w : Nat) (lit : BitVec 32) : Option Instr :=
  match parseSlot k w lit with
  | some i => if fieldsOk w i then some i else none
  | none => none

/-- A micro-op word (R99); none where unassigned or breaking a field rule. -/
def decodeMicro (w : Nat) : Option Instr := decodeSlot .u w 0

-- ## Destinations (R60, R103)

/-- The register files of the same-destination check. -/
inductive DestFile where
  | g | p | k | v | m | a | tl
deriving DecidableEq, Repr

/-- A destination other than the discarding register 0 of g, p and k (R60). -/
def dest0 (f : DestFile) (n : Nat) : List (DestFile × Nat) := if n = 0 then [] else [(f, n)]

/-- The registers of a group of `n` from `vd` on (R69); past v255 there is none to name (R103). -/
def destGroup (vd : Nat) : Nat → List (DestFile × Nat)
  | 0 => []
  | n + 1 => (if vd < 256 then [(.v, vd)] else []) ++ destGroup (vd + 1) n

/-- The destinations an instruction names (R103). -/
def Instr.dests : Instr → List (DestFile × Nat)
  | .add x | .sub x | .mul x | .mulh x | .mulhn x | .div x | .divn x | .mod x | .modn x | .and x | .or x | .xor x
  | .andn x | .shl x | .shr x | .sar x | .min x | .max x | .minn x | .maxn x => dest0 .g x.d
  | .clz _ d _ _ | .ctz _ d _ _ | .popc _ d _ _ => dest0 .g d
  | .bfx _ d _ _ | .bfi _ d _ _ => dest0 .g d
  | .sext _ d _ _ | .zext _ d _ _ => dest0 .g d
  | .cmp _ pd _ _ _ _ => dest0 .p pd
  | .pand _ pd _ _ _ _ | .por _ pd _ _ _ _ | .pxor _ pd _ _ _ _ => dest0 .p (pd % 16)
  | .addi _ d _ _ | .andi _ d _ _ | .ori _ d _ _ | .xori _ d _ _ => dest0 .g d
  | .shli _ d _ _ _ | .shri _ d _ _ _ | .sari _ d _ _ _ => dest0 .g d
  | .cmpi _ pd _ _ _ => dest0 .p pd
  | .movi _ d _ => dest0 .g d
  | .movhi _ d _ _ => dest0 .g d
  | .lit _ d _ => dest0 .g d
  | .pnot _ pd _ => dest0 .p (pd % 16)
  | .pget _ d => dest0 .g d
  | .pset _ pd _ => dest0 .p (pd % 16)
  | .call _ _ | .calli _ _ => [(.g, 62)]
  | .waitev _ d _ => dest0 .g d
  | .ld x => dest0 .g x.d
  | .ldf _ d _ _ | .feget _ d _ _ => dest0 .g d
  | .lda x => dest0 .g x.d
  | .amoadd x | .amoand x | .amoor x | .amoxor x | .amomin x | .amomax x | .amoswp x | .amocas x | .amofadd x =>
    dest0 .g x.d
  | .mfs _ d _ | .tstamp _ d | .cycles _ d | .nxtile _ d | .tlread _ d _ => dest0 .g d
  | .tladv _ n _ => [(.tl, n % 16)]
  | .vadd x | .vsub x | .vmul x | .vmulh x | .vfma x | .vfms x | .vmin x | .vmax x | .vabs x | .vneg x | .vand x
  | .vor x | .vxor x | .vshl x | .vshr x | .vsar x | .vsel x | .vmov x | .vsplat x | .vbcast x | .vperm x | .vslide x
  | .vins x | .vcvt x | .vnarr x | .vredadd x | .vredmax x | .vredmin x | .vscan x | .vexp2 x | .vlog2 x
  | .vrcp x | .vrsq x | .vtanh x | .vclz x | .vpopc x | .viota x | .vcomp x | .vrand x | .vdot x => [(.v, x.vd)]
  | .vwadd x | .vwmul x | .vwfma x => destGroup x.vd (if x.s2 then 4 else 2)
  | .vext x | .kcnt x => dest0 .g (x.vd % 64)
  | .vcmp x | .vdrop x _ | .kand x | .kor x | .kxor x | .knot x => dest0 .k (x.vd % 16)
  | .mpar _ i _ => [(.m, i)]
  | .mstat _ g => dest0 .g g
  | .ldv _ v _ _ | .ldvZ _ v _ _ | .sld _ v _ | .sgath _ v _ => [(.v, v)]
  | .scfg _ a _ _ | .sadv _ a _ => [(.a, a)]
  | .xexp _ d _ | .xpak _ d _ | .xtrn _ d _ _ | .xcvt _ d _ _ _ _ | .xqnt _ d _ _ _ | .xdqn _ d _ _ _ _
  | .xacc _ d _ _ _ => [(.v, d)]
  | _ => []

/-- Some destination of `xs` occurs in `ys`. -/
def meets (xs ys : List (DestFile × Nat)) : Bool := xs.any (fun x => ys.contains x)

/-- Two slots name one destination. -/
def collides : List (List (DestFile × Nat)) → Bool
  | [] => false
  | x :: rest => rest.any (meets x) || collides rest

-- ## Bundles (R77 to R83, R104 steps 1 to 6)

/-- Why a bundle raises an illegal-encoding trap whatever the guards; named after the step of R104. -/
inductive Reject where
  | length | header | guard | literal | repTransfer | sameDestination
deriving DecidableEq, Repr

/-- The step of R104. -/
def Reject.step : Reject → Nat
  | .length => 1 | .header => 2 | .guard => 3 | .literal => 4 | .repTransfer => 5 | .sameDestination => 6

/-- One slot of a decoded bundle: its position (0 S, 1 V0, 2 V1, 3 M, 4 C0, 5 C1, 6 X), its bits, and its
instruction, none where step 7 of R104 fails. -/
structure Slot where
  pos : Nat
  word : Nat
  instr : Option Instr
deriving DecidableEq, Repr

/-- A bundle that passes steps 1 to 6. -/
structure Bundle where
  header : Nat
  rep : Nat
  len : Nat
  slots : List Slot
deriving DecidableEq, Repr

inductive Decoded where
  | reject (r : Reject) (header : Nat)
  | bundle (b : Bundle)
deriving DecidableEq, Repr

/-- The value of bytes, lowest first (R2). -/
def leNat : List Byte → Nat
  | [] => 0
  | b :: bs => b.toNat + 256 * leNat bs

/-- Position, kind and width in bytes of every slot, in order (R77). -/
def slotPlaces : List (Nat × SlotKind × Nat) :=
  [(0, .s, 4), (1, .v, 6), (2, .v, 6), (3, .m, 4), (4, .c, 6), (5, .c, 6), (6, .x, 4)]

/-- Length in bytes of the bundle a header opens (R77, R78). -/
def bundleLen (h : Nat) : Nat :=
  2 + 4 * bits h 0 0 + 6 * bits h 1 1 + 6 * bits h 2 2 + 4 * bits h 3 3 + 6 * bits h 4 4 + 6 * bits h 5 5
    + 4 * bits h 6 6 + 4 * bits h 7 7

/-- The raw slots a header names, cut from the bytes after it. -/
def cutSlots (h : Nat) : List (Nat × SlotKind × Nat) → List Byte → List (Nat × SlotKind × Nat)
  | [], _ => []
  | (pos, k, n) :: rest, bs =>
    if bits h pos pos = 1 then (pos, k, leNat (bs.take n)) :: cutSlots h rest (bs.drop n) else cutSlots h rest bs

/-- S opcodes that may not stand in a bundle with REP nonzero (R73): BR, JMPI, CALL, CALLI, RET, LOOP, HALT, TRAP, XRET. -/
def isTransferOp (op : Nat) : Bool := 0x30 ≤ op && op ≤ 0x39 && op != 0x36

/-- Steps 1 to 6 of R104 on the bytes from `pc` on, of which the decoder reads at most 42; bytes past the end of
`bs` read zero. -/
def decodeBundle (pc : Nat) (bs : List Byte) : Decoded :=
  let h := leNat (bs.take 2)
  let len := bundleLen h
  let raw := cutSlots h slotPlaces (bs.drop 2)
  let lit := BitVec.ofNat 32 (if bits h 7 7 = 1 then leNat ((bs.drop (len - 4)).take 4) else 0)
  if 0x40000 < pc + len then .reject .length h
  else if bits h 15 12 ≠ 0 || (bits h 6 0 = 0 && bits h 7 7 = 1) then .reject .header h
  else if raw.any (fun s => bits s.2.2 4 0 == 0x10) then .reject .guard h
  else if bits h 7 7 = 0 && raw.any (fun s => selectsLit s.2.1 s.2.2) then .reject .literal h
  else if bits h 11 8 ≠ 0 && raw.any (fun s => s.2.1 == .s && isTransferOp (bits s.2.2 11 5)) then .reject .repTransfer h
  else if collides (raw.map (fun s => match parseSlot s.2.1 s.2.2 lit with | some i => i.dests | none => [])) then
    .reject .sameDestination h
  else .bundle ⟨h, bits h 11 8, len, raw.map (fun s => ⟨s.1, s.2.2, decodeSlot s.2.1 s.2.2 lit⟩)⟩

/-- The bytes of a number, lowest first. -/
def leBytes : Nat → Nat → List Byte
  | 0, _ => []
  | n + 1, x => BitVec.ofNat 8 x :: leBytes n (x / 256)

/-- Header bit and width in bytes of a slot kind, in its first position. -/
def SlotKind.place : SlotKind → Nat × Nat
  | .s => (0, 4) | .v => (1, 6) | .m => (3, 4) | .c => (4, 6) | .x => (6, 4) | .u => (7, 4)

/-- The bundle that holds one slot. -/
def Enc.bytes (e : Enc) : List Byte :=
  let pl := e.kind.place
  match e.kind with
  | .u => leBytes 4 e.word
  | _ =>
    match e.lit with
    | none => leBytes 2 (2 ^ pl.1) ++ leBytes pl.2 e.word
    | some x => leBytes 2 (2 ^ pl.1 + 2 ^ 7) ++ leBytes pl.2 e.word ++ leBytes 4 x.toNat

/-- The words of an instruction: the one-slot bundle that holds it, a NOP bundle's header, or a micro-op's word.
Rows without an encoding have none. -/
def encode (i : Instr) : List Byte :=
  match i with
  | .nop rep => leBytes 2 (2 ^ 8 * rep)
  | _ => match i.enc with | some e => e.bytes | none => []

/-- The one instruction of a decoded bundle: a NOP bundle, or the only slot. -/
def Decoded.single : Decoded → Option Instr
  | .reject _ _ => none
  | .bundle b =>
    match b.slots with
    | [] => some (.nop b.rep)
    | [s] => s.instr
    | _ => none

/-- Decoding what `encode` gives: a micro-op word where `micro` says so, else a bundle. -/
def decodeOne (micro : Bool) (bs : List Byte) : Option Instr :=
  if micro then decodeMicro (leNat (bs.take 4)) else (decodeBundle 0 bs).single

/-- The bytes of a bundle holding only the slot word `w` of kind `k`; a literal of zero follows where `w` selects one. -/
def slotBytes (k : SlotKind) (w : Nat) : List Byte :=
  (Enc.mk k w (if selectsLit k w then some 0 else none)).bytes

/-- The slot kinds tried for a bare word of the opcode table, which does not say which slot it stands in (log entry 10). -/
def tableKinds (nbits : Nat) : List SlotKind :=
  if nbits = 32 then [.s, .m, .x] else if nbits = 48 then [.v, .c] else []

/-- The first slot kind under which the word is an instruction. -/
def firstKind (w : Nat) : List SlotKind → Option (SlotKind × Instr)
  | [] => none
  | k :: ks => match (decodeBundle 0 (slotBytes k w)).single with | some i => some (k, i) | none => firstKind w ks

/-- The instruction the decoder reads from bits `w` of a table row of `nbits` bits: 16 bits are a NOP header, 32 bits
an S, M or X slot or a micro-op, 48 bits a V or C slot (log entry 10). -/
def decodeTableWord (nbits w : Nat) : Option Instr :=
  if nbits = 16 then (decodeBundle 0 (leBytes 2 w)).single
  else
    match firstKind w (tableKinds nbits) with
    | some (_, i) => some i
    | none => if nbits = 32 then decodeMicro w else none

end Sys2Proof
end

