-- ==== Sys2Proof/Machine/Num.lean ====
section
/-! DEFINITION. The narrowing helpers of R9 over exact integers, and bit-list helpers. -/

namespace Sys2Proof.Machine

/-- 2 to the `w`, as an integer. -/
def pow2 (w : Nat) : Int := Int.ofNat (2 ^ w)

/-- Wrap(x, w) of R9. -/
def wrap (x : Int) (w : Nat) : Nat := (x % pow2 w).toNat

/-- SignExtend(x, w) of R9. -/
def sext (x w : Nat) : Int :=
  if x % 2 ^ w < 2 ^ (w - 1) then Int.ofNat (x % 2 ^ w) else Int.ofNat (x % 2 ^ w) - pow2 w

/-- Sat(x, lo, hi) of R9. -/
def sat (x lo hi : Int) : Int := if x < lo then lo else if hi < x then hi else x

/-- The value a `w`-bit pattern stands for, signed or unsigned. -/
def value (signed : Bool) (x w : Nat) : Int := if signed then sext x w else Int.ofNat (x % 2 ^ w)

/-- The least and greatest values of a `w`-bit integer. -/
def minOf (signed : Bool) (w : Nat) : Int := if signed then -pow2 (w - 1) else 0
def maxOf (signed : Bool) (w : Nat) : Int := if signed then pow2 (w - 1) - 1 else pow2 w - 1

/-- Division truncating toward zero (R333): the quotient of exact integers. -/
def divTrunc (a b : Int) : Int := Int.tdiv a b

/-- The remainder that takes the sign of the dividend (R352). -/
def modTrunc (a b : Int) : Int := Int.tmod a b

/-- Floor of the base-2 logarithm; 0 for 0. -/
def log2 (n : Nat) : Nat := Nat.log2 n

/-- The number of bits of `n`: 0 for 0. -/
def bitLen (n : Nat) : Nat := if n = 0 then 0 else Nat.log2 n + 1

/-- Population count of the low `w` bits. -/
def popCount (x : Nat) : Nat → Nat
  | 0 => 0
  | w + 1 => popCount x w + (if x.testBit w then 1 else 0)

/-- Leading zeros of a `w`-bit pattern. -/
def leadZeros (x w : Nat) : Nat := w - bitLen (x % 2 ^ w)

/-- Trailing zeros of a `w`-bit pattern; `w` when it is zero. -/
def trailZerosFrom (x w : Nat) (i : Nat) : Nat → Nat
  | 0 => w
  | f + 1 => if x.testBit i then i else trailZerosFrom x w (i + 1) f

def trailZeros (x w : Nat) : Nat := trailZerosFrom x w 0 w

/-- `n` fields of `w` bits each, the least significant first. -/
def toLanes (w : Nat) : Nat → Nat → List Nat
  | 0, _ => []
  | n + 1, x => x % 2 ^ w :: toLanes w n (x / 2 ^ w)

/-- Put fields of `w` bits together, the first least significant. -/
def ofLanes (w : Nat) : List Nat → Nat
  | [] => 0
  | x :: xs => x % 2 ^ w + 2 ^ w * ofLanes w xs

/-- Bytes of a value, lowest first. -/
def toBytes (n x : Nat) : List Byte := (toLanes 8 n x).map (BitVec.ofNat 8)

/-- The value of bytes, lowest first. -/
def ofBytes (bs : List Byte) : Nat := ofLanes 8 (bs.map BitVec.toNat)

/-- Replace entry `i` of a list. -/
def setAt {α : Type} (l : List α) (i : Nat) (x : α) : List α := l.set i x

/-- The least power of 2 exponent `e` with `n ≤ 2 ^ e`. -/
def clog2 (n : Nat) : Nat := bitLen (n - 1)

/-- Round up to a multiple of `m`. -/
def roundUp (n m : Nat) : Nat := (n + m - 1) / m * m

/-- Round down to a multiple of `m`. -/
def roundDown (n m : Nat) : Nat := n / m * m

end Sys2Proof.Machine
end

