-- ==== Sys2Proof/Machine/Bdz.lean ====
section
/-! DEFINITION. The BDZ code of 08_llc_and_compression: line records (R184 to R186), chunk streams (R190, R191) and
packed blocks (R192). A line is its 128 bytes read little-endian. -/

namespace Sys2Proof.Machine

/-- Word width and delta width in bytes of a base-delta mode, codes 1 to 6 (R184). -/
def bdzW (code : Nat) : Nat := if code ≤ 3 then 8 else 4
def bdzD (code : Nat) : Nat := if code = 1 ∨ code = 4 then 1 else if code = 2 ∨ code = 5 then 2 else 4

/-- The zero-word bitmap of a list of words. -/
def zeroMap : List Int → Nat
  | [] => 0
  | x :: xs => (if x = 0 then 1 else 0) + 2 * zeroMap xs

/-- LE(v, n) of 08: the n-byte two's complement pattern. -/
def leInt (n : Nat) (v : Int) : List Byte := toBytes n (wrap v (8 * n))

/-- Deltas of the nonzero words of a list against a base; none when one does not fit `d` bytes. -/
def deltas (base : Int) (d : Nat) : List Int → Option (List Byte)
  | [] => some []
  | x :: xs =>
    if x = 0 then deltas base d xs
    else if x - base < minOf true (8 * d) || maxOf true (8 * d) < x - base then none
    else (deltas base d xs).map (fun r => leInt d (x - base) ++ r)

/-- The first nonzero word and the words after it. -/
def firstNonzero : List Int → Option (Int × List Int)
  | [] => none
  | x :: xs => if x = 0 then firstNonzero xs else some (x, xs)

/-- Candidate(line, code) of R185. -/
def bdzCandidate (line code : Nat) : Option (List Byte) :=
  let w := bdzW code
  let n := 128 / w
  let xs := (toLanes (8 * w) n line).map (fun x => sext x (8 * w))
  match firstNonzero xs with
  | none => none
  | some (b, rest) =>
    (deltas b (bdzD code) rest).map
      (fun ds => toBytes 1 code ++ toBytes (n / 8) (zeroMap xs) ++ leInt w b ++ ds)

/-- Sectors of a record (R182): 0 for Z, 8 for U. -/
def bdzSectors (code len : Nat) : Nat := if code = 0 then 0 else if code = 7 then 8 else (len + 15) / 16

/-- The best of the candidates from `code` on: the fewest sectors, the earliest code on a tie (R185). -/
def bdzBest (line : Nat) (best : Nat × List Byte) (sec : Nat) : List Nat → Nat × List Byte
  | [] => best
  | c :: cs =>
    match (if c = 7 then some (toBytes 1 7 ++ toBytes 128 line) else bdzCandidate line c) with
    | none => bdzBest line best sec cs
    | some r =>
      if bdzSectors c r.length < sec then bdzBest line (c, r) (bdzSectors c r.length) cs
      else bdzBest line best sec cs

/-- EncodeLine of R185: the mode code and the record. -/
def encodeLine (line : Nat) : Nat × List Byte :=
  if line = 0 then (0, [0]) else bdzBest line (0, [0]) 9 [1, 2, 3, 4, 5, 6, 7]

/-- The words of a base-delta record after its base: `i` is the next word's index. -/
def undelta (w d : Nat) (base : Int) (zmap : Nat) : Nat → Nat → Bool → List Byte → Option (List Nat × List Byte)
  | 0, _, _, bs => some ([], bs)
  | n + 1, i, started, bs =>
    if zmap.testBit i then
      (undelta w d base zmap n (i + 1) started bs).map (fun r => (0 :: r.1, r.2))
    else if !started then
      (undelta w d base zmap n (i + 1) true bs).map (fun r => (wrap base (8 * w) :: r.1, r.2))
    else if bs.length < d then none
    else
      let x := wrap (base + sext (ofBytes (bs.take d)) (8 * d)) (8 * w)
      (undelta w d base zmap n (i + 1) true (bs.drop d)).map (fun r => (x :: r.1, r.2))

/-- Decode one record (R186): the line and the bytes after it; none when malformed or cut short. -/
def decodeRecord : List Byte → Option (Nat × List Byte)
  | [] => none
  | h :: bs =>
    let code := h.toNat
    if 7 < code then none
    else if code = 0 then some (0, bs)
    else if code = 7 then (if bs.length < 128 then none else some (ofBytes (bs.take 128), bs.drop 128))
    else
      let w := bdzW code
      let n := 128 / w
      if bs.length < n / 8 + w then none
      else
        let zmap := ofBytes (bs.take (n / 8))
        if zmap = 2 ^ n - 1 then none
        else
          let base := sext (ofBytes ((bs.drop (n / 8)).take w)) (8 * w)
          (undelta w (bdzD code) base zmap n 0 false (bs.drop (n / 8 + w))).map
            (fun r => (ofLanes (8 * w) r.1, r.2))

/-- Decode `n` records in order. -/
def decodeRecords : Nat → List Byte → Option (List Nat × List Byte)
  | 0, bs => some ([], bs)
  | n + 1, bs =>
    match decodeRecord bs with
    | none => none
    | some (l, r) => (decodeRecords n r).map (fun q => (l :: q.1, q.2))

/-- `n` records that end exactly at the end of the bytes (R191, R192). -/
def decodeExact (n : Nat) (bs : List Byte) : Option (List Nat) :=
  match decodeRecords n bs with
  | some (ls, []) => some ls
  | _ => none

/-- One bit of CRC-32C, reflected (R190). -/
def crcBit (c : Nat) : Nat := if c % 2 = 1 then (c / 2).xor 0x82F63B78 else c / 2

def crcByte (c b : Nat) : Nat :=
  crcBit (crcBit (crcBit (crcBit (crcBit (crcBit (crcBit (crcBit (c.xor b))))))))

/-- CRC-32C of bytes (R190). -/
def crc32c (bs : List Byte) : Nat := (bs.foldl (fun c b => crcByte c b.toNat) 0xFFFFFFFF).xor 0xFFFFFFFF

/-- The 4,096 decoded bytes of a chunk record of `len` bytes, `none` where its check fails (R191). -/
def decodeChunk (rec : List Byte) (len : Nat) : Option (List Nat) :=
  if ofBytes (rec.take 4) ≠ crc32c ((rec.take len).drop 4) then none
  else if ofBytes ((rec.drop 6).take 2) ≠ 0 then none
  else decodeExact 32 ((rec.take len).drop 8)

/-- The packed block of a register (R192). -/
def packBlock (x : Nat) : Nat :=
  let body := ((toLanes 1024 4 x).map (fun l => (encodeLine l).2)).flatten
  let len := body.length + 4
  if 512 < len then 0 else len + 2 ^ 32 * ofBytes body

/-- The register a packed block expands to; zero for any other block (R192). -/
def expandBlock (x : Nat) : Nat :=
  let len := x % 2 ^ 10
  if len < 8 || 512 < len || x % 2 ^ 32 / 2 ^ 10 ≠ 0 then 0
  else
    match decodeExact 4 (toBytes (len - 4) (x / 2 ^ 32)) with
    | some ls => ofLanes 1024 ls
    | none => 0

end Sys2Proof.Machine
end

