-- ==== Sys2Proof/Machine/Float.lean ====
section
/-! DEFINITION. Binary floating point (05_number_formats R115 to R118): exact values, RoundTo, and exact sums and
products. A finite value is (-1)^neg * m * 2^e, with the sign kept for zero. -/

namespace Sys2Proof.Machine

/-- A value of a floating-point format (R116): one NaN, infinities, and dyadic numbers. -/
inductive FVal where
  | nan
  | inf (neg : Bool)
  | fin (neg : Bool) (m : Nat) (e : Int)
deriving DecidableEq, Repr

/-- A format of R116: exponent bits and fraction bits. -/
structure Fmt where
  ebits : Nat
  fbits : Nat
deriving DecidableEq, Repr

def f16 : Fmt := ⟨5, 10⟩
def bf16 : Fmt := ⟨8, 7⟩
def f32 : Fmt := ⟨8, 23⟩

def Fmt.bias (f : Fmt) : Nat := 2 ^ (f.ebits - 1) - 1
def Fmt.width (f : Fmt) : Nat := 1 + f.ebits + f.fbits
/-- The exponent of the least subnormal. -/
def Fmt.tiny (f : Fmt) : Int := 1 - Int.ofNat f.bias - Int.ofNat f.fbits
/-- Exponent field of infinities and NaNs. -/
def Fmt.top (f : Fmt) : Nat := 2 ^ f.ebits - 1
def Fmt.signBit (f : Fmt) (neg : Bool) : Nat := if neg then 2 ^ (f.ebits + f.fbits) else 0
/-- The canonical quiet NaN (R118). -/
def Fmt.qnan (f : Fmt) : Nat := f.top * 2 ^ f.fbits + 2 ^ (f.fbits - 1)
def Fmt.infBits (f : Fmt) (neg : Bool) : Nat := f.signBit neg + f.top * 2 ^ f.fbits
/-- The largest finite value. -/
def Fmt.maxBits (f : Fmt) (neg : Bool) : Nat := f.signBit neg + f.top * 2 ^ f.fbits - 1

/-- The value a pattern holds (R116). -/
def Fmt.unpack (f : Fmt) (x : Nat) : FVal :=
  let frac := x % 2 ^ f.fbits
  let ex := x / 2 ^ f.fbits % 2 ^ f.ebits
  let neg := x / 2 ^ (f.fbits + f.ebits) % 2 == 1
  if ex = f.top then (if frac = 0 then .inf neg else .nan)
  else if ex = 0 then .fin neg frac f.tiny
  else .fin neg (frac + 2 ^ f.fbits) (f.tiny + Int.ofNat ex - 1)

/-- The multiple of 2^q nearest to m * 2^e under a mode of R117, divided by 2^q; `sticky` says that the exact
magnitude lies above m * 2^e by less than one unit of m. -/
def roundMag (mode : Nat) (neg : Bool) (m : Nat) (e q : Int) (sticky : Bool) : Nat :=
  if q ≤ e then m * 2 ^ (e - q).toNat
  else
    let sh := (q - e).toNat
    let n := m / 2 ^ sh
    let r := m % 2 ^ sh
    let inexact := r != 0 || sticky
    let up :=
      match mode with
      | 0 => 2 ^ sh < 2 * r || (2 * r == 2 ^ sh && (sticky || n % 2 == 1))
      | 1 => false
      | 2 => !neg && inexact
      | _ => neg && inexact
    if up then n + 1 else n

/-- Overflow under a mode (R117). -/
def Fmt.overflow (f : Fmt) (mode : Nat) (neg : Bool) : Nat :=
  match mode with
  | 0 => f.infBits neg
  | 1 => f.maxBits neg
  | 2 => if neg then f.maxBits true else f.infBits false
  | _ => if neg then f.infBits true else f.maxBits false

/-- RoundTo of a finite magnitude (R117). -/
def Fmt.roundFin (f : Fmt) (mode : Nat) (neg : Bool) (m : Nat) (e : Int) (sticky : Bool) : Nat :=
  if m = 0 then f.signBit neg
  else
    let q := max (e + Int.ofNat (log2 m) - Int.ofNat f.fbits) f.tiny
    let n := roundMag mode neg m e q sticky
    let b := (q - f.tiny).toNat * 2 ^ f.fbits + n
    if f.top * 2 ^ f.fbits ≤ b then f.overflow mode neg else f.signBit neg + b

/-- RoundTo(x, fmt, mode) of R117 and R118. -/
def Fmt.round (f : Fmt) (mode : Nat) : FVal → Nat
  | .nan => f.qnan
  | .inf neg => f.infBits neg
  | .fin neg m e => f.roundFin mode neg m e false

/-- RoundTo to an integer format without limit, of a finite value (R115). -/
def roundInt (mode : Nat) (neg : Bool) (m : Nat) (e : Int) : Int :=
  let n := Int.ofNat (roundMag mode neg m e 0 false)
  if neg then -n else n

/-- The integer a finite value times 2^(-e) is. -/
def signed (neg : Bool) (m : Nat) : Int := if neg then -Int.ofNat m else Int.ofNat m

def FVal.neg : FVal → FVal
  | .nan => .nan
  | .inf s => .inf (!s)
  | .fin s m e => .fin (!s) m e

/-- Exact value of an integer times 2^e; `zneg` is the sign a zero takes. -/
def FVal.ofInt (x : Int) (e : Int) (zneg : Bool) : FVal :=
  if x = 0 then .fin zneg 0 e else .fin (x < 0) x.natAbs e

/-- The exact sum; the sign of an exact zero follows R117. -/
def FVal.add (mode : Nat) : FVal → FVal → FVal
  | .nan, _ => .nan
  | _, .nan => .nan
  | .inf a, .inf b => if a = b then .inf a else .nan
  | .inf a, _ => .inf a
  | _, .inf b => .inf b
  | .fin sa ma ea, .fin sb mb eb =>
    let e := min ea eb
    let x := signed sa ma * pow2 (ea - e).toNat + signed sb mb * pow2 (eb - e).toNat
    FVal.ofInt x e (if ma = 0 && mb = 0 && sa == sb then sa else mode == 3)

/-- The exact product. -/
def FVal.mul : FVal → FVal → FVal
  | .nan, _ => .nan
  | _, .nan => .nan
  | .inf a, .inf b => .inf (a != b)
  | .inf a, .fin sb mb _ => if mb = 0 then .nan else .inf (a != sb)
  | .fin sa ma _, .inf b => if ma = 0 then .nan else .inf (sa != b)
  | .fin sa ma ea, .fin sb mb eb => .fin (sa != sb) (ma * mb) (ea + eb)

/-- The order of two values; none where unordered. Zeros of either sign are equal. -/
def FVal.cmp : FVal → FVal → Option Ordering
  | .nan, _ => none
  | _, .nan => none
  | .inf a, .inf b => some (if a = b then .eq else if a then .lt else .gt)
  | .inf a, _ => some (if a then .lt else .gt)
  | _, .inf b => some (if b then .gt else .lt)
  | .fin sa ma ea, .fin sb mb eb =>
    let e := min ea eb
    some (compare (signed sa ma * pow2 (ea - e).toNat) (signed sb mb * pow2 (eb - e).toNat))

/-- One F32 addition rounded once (R117, R193, R323). -/
def addF32 (mode : Nat) (a b : Nat) : Nat := f32.round mode (FVal.add mode (f32.unpack a) (f32.unpack b))

end Sys2Proof.Machine
end

