-- ==== Sys2Proof/Machine/SMap.lean ====
section
/-! DEFINITION. Sparse maps in one canonical form: keys strictly rising, and no entry equal to what an unlisted key
reads as. Memory and every register file are such maps, so that equal contents are equal data. -/

namespace Sys2Proof.Machine

/-- A map from numbers, listing only what differs from a default. -/
abbrev SMap (α : Type) := List (Nat × α)

/-- What key `k` holds; `d` where `k` is not listed. -/
def SMap.get {α : Type} (d : α) : SMap α → Nat → α
  | [], _ => d
  | (j, x) :: m, k => if j = k then x else SMap.get d m k

/-- Drop the entry of key `k`. -/
def SMap.erase {α : Type} (m : SMap α) (k : Nat) : SMap α := m.filter (fun e => e.1 != k)

/-- Put `x` at key `k`, in rising order; an entry of the same key is replaced. -/
def SMap.put {α : Type} : SMap α → Nat → α → SMap α
  | [], k, x => [(k, x)]
  | (j, y) :: m, k, x =>
    if k < j then (k, x) :: (j, y) :: m else if k = j then (k, x) :: m else (j, y) :: SMap.put m k x

/-- Write `x` at key `k`; writing the default removes the entry. -/
def SMap.set {α : Type} [DecidableEq α] (d : α) (m : SMap α) (k : Nat) (x : α) : SMap α :=
  if x = d then SMap.erase m k else SMap.put m k x

/-- Change every listed entry; an entry that becomes the default is dropped. -/
def SMap.mapv {α : Type} [DecidableEq α] (d : α) (m : SMap α) (f : α → α) : SMap α :=
  (m.map (fun e => (e.1, f e.2))).filter (fun e => e.2 != d)

/-- Every key of `m` is above `k`. -/
def SMap.above {α : Type} (k : Nat) (m : SMap α) : Bool := m.all (fun e => k < e.1)

/-- The canonical form. -/
def SMap.wf {α : Type} [DecidableEq α] (d : α) : SMap α → Bool
  | [] => true
  | (j, x) :: m => SMap.above j m && x != d && SMap.wf d m

/-- Memory: bytes by address (Host.Cell), in the canonical form with default 0 (log entry 1). -/
abbrev Memory := List Host.Cell

/-- The canonical form of a memory. -/
def Memory.wf (m : Memory) : Bool := SMap.wf (0 : Byte) m

/-- One byte of memory; an unlisted address reads 0 (log entry 1). -/
def Memory.byte (m : Memory) (a : Nat) : Byte := SMap.get (0 : Byte) m a

/-- Write one byte. -/
def Memory.setByte (m : Memory) (a : Nat) (x : Byte) : Memory := SMap.set (0 : Byte) m a x

/-- The helper Mem(a, n) of R9: `n` bytes at `a`, little-endian. -/
def Memory.read (m : Memory) (a : Nat) : Nat → Nat
  | 0 => 0
  | n + 1 => (Memory.byte m a).toNat + 256 * Memory.read m (a + 1) n

/-- Write the low `n` bytes of `x` at `a`, little-endian (R9, R2). -/
def Memory.write (m : Memory) (a : Nat) : Nat → Nat → Memory
  | 0, _ => m
  | n + 1, x => Memory.write (Memory.setByte m a (BitVec.ofNat 8 x)) (a + 1) n (x / 256)

/-- `n` bytes at `a`, lowest address first. -/
def Memory.readBytes (m : Memory) (a : Nat) : Nat → List Byte
  | 0 => []
  | n + 1 => Memory.byte m a :: Memory.readBytes m (a + 1) n

/-- Write a list of bytes from `a` on. -/
def Memory.writeBytes (m : Memory) (a : Nat) : List Byte → Memory
  | [] => m
  | b :: bs => Memory.writeBytes (Memory.setByte m a b) (a + 1) bs

end Sys2Proof.Machine
end

