-- ==== Sys2Proof/Machine/CoreState.lean ====
section
/-! DEFINITION. The state of one core and of its contexts, copy channels and matrix engine (03_core_and_bundles,
06_matrix_engine, 07_scratchpad_and_stash, 09_translation_and_coherence, 10_copies_and_watermarks,
14_traps_and_preemption). All plain data. -/

namespace Sys2Proof.Machine

-- ## Results in flight and accesses

/-- A register file a result can land in (R308, R426). -/
inductive RFile where
  | g | p | k | v | m | a
deriving DecidableEq, Repr

/-- A result issued and not landed (R58 to R62), or a record of the shadow latches (R299). -/
structure Pend where
  file : RFile
  /-- Physical register, selected at issue (R59). -/
  reg : Nat
  /-- Bits the result writes. -/
  mask : BitVec 4096
  val : BitVec 4096
  /-- Parts of the value not yet arrived; the result is present when 0 (R62). -/
  parts : Nat
  /-- The BT (in a handler the HBT) at which it is readable; in the latches, the remaining delay. -/
  due : Nat
  /-- Issue order (R60, R299). -/
  ord : Nat
  /-- Names the result to the accesses that supply it. -/
  tag : Nat
  /-- Landing-buffer entries it occupies until its due BT (R63). -/
  entries : Nat
  /-- The value is a packed block, expanded as it lands (LDV.Z, R351). -/
  expand : Bool
deriving DecidableEq, Repr

/-- The atomic operations of R335 and R374. -/
inductive Amo where
  | add | and | or | xor | min | max | swp | cas | fadd
deriving DecidableEq, Repr

/-- What an access does at its home (R242, R163, R169). -/
inductive MemOp where
  | ld | st
  | amo (k : Amo)
  | ldf | ste | feget | feset | feclr
  | barInit | barArr | barWait
  | stashBack (inv : Bool)
deriving DecidableEq, Repr

/-- Where an access stands: on its way, parked in a waiter list of a bank group (R164), refused (R165), or withdrawn
while its context is frozen (R166). -/
inductive ReqState where
  | flight | parked | refused | withdrawn
deriving DecidableEq, Repr

/-- A buffered leaf (R200): ASID, page number at its size, page address, permissions. -/
structure Leaf where
  asid : Nat
  big : Bool
  vpn : Nat
  base : Nat
  rd : Bool
  wr : Bool
deriving DecidableEq, Repr

/-- One access of a context issued and not performed (R242 to R250). -/
structure Req where
  /-- Its name: issue order over the module. -/
  id : Nat
  /-- Its place in program order (R244): its issue, or where it rejoined after a withdrawal (R166). -/
  seq : Nat
  /-- The virtual address of an operation on a scratchpad doubleword (R308), else 0. -/
  va : Nat
  core : Nat
  ctx : Nat
  op : MemOp
  /-- Physical address (module field included), and length in bytes. -/
  pa : Nat
  len : Nat
  /-- Value written, operand of the atomic, count of a BARINIT or parity of a BARWAIT. -/
  data : Nat
  /-- Compare value of AMOCAS. -/
  cmp : Nat
  /-- Reached through the core-local space. -/
  near : Bool
  /-- Order of R245, R246: the scope of an acquire or release (0 core to 3 pod). -/
  acq : Option Nat
  rel : Option Nat
  /-- A .C atomic (R247). -/
  comm : Bool
  /-- An exact add: an AMOFADD.C or SAMO.FADD of a context in deterministic mode (R65, R193). -/
  det : Bool
  /-- The result it supplies, the bit its data starts at, and how a loaded value is extended. -/
  tag : Option Nat
  lo : Nat
  /-- Where it is homed: `pa`, or for an access to a stash entry the place in the cached line (R175, R244). -/
  hpa : Nat
  /-- The slot that made it (R304). -/
  slot : Nat
  /-- When it issued, in thirds of a nanosecond (R161, R172). -/
  time : Nat
  /-- The stream use it is an element of, whose elements are performed in walk order; 0 for no such element (R373). -/
  use : Nat
  /-- The window in which it issued, and the one in which it was sent, each plus 1 (R252, R253); none while it waits to be
  sent. -/
  born : Nat
  win : Option Nat
  /-- The leaf through which it was translated, and whether an invalidation has named that since (R205). One named without a leaf has
  joined again since it was withdrawn, and is to be translated afresh. -/
  leaf : Option Leaf
  named : Bool
  st : ReqState
deriving DecidableEq, Repr

/-- Why a context waits from the bundle after an instruction (R64, R220, R248, R66; `trap`: a TRAP whose bundle has committed, until
the results due by then have arrived, R299, R302). -/
inductive WaitKind where
  | ste | barwait | tlwait | waitev | bankacq | drain | start | detm | opgo | xret | trap
deriving DecidableEq, Repr

/-- A wait that holds its context (R306, R308): address and operand as the save area records them. -/
structure Wait where
  kind : WaitKind
  addr : Nat
  operand : Nat
  sat : Bool
  /-- The access waited for, or the channel of a start. -/
  req : Nat
deriving DecidableEq, Repr

/-- Why a context did not issue at its last opportunity (R62 to R64, R54). -/
inductive Hold where
  | lateData | landingBuffer | watermark (va len : Nat) | acquire | clock | engineQueue | opgoQueue | stash | wait | denied | order
  | request
deriving DecidableEq, Repr

-- ## Copy channels

/-- WMSTAT.STATE of R231. -/
inductive CopyState where
  | idle | active | done | fault | reject | cancel
deriving DecidableEq, Repr

/-- One copy channel (R218, R231), and what a copy in progress has latched (R219, R240, R308). -/
structure Chan where
  src : Word
  dst : Word
  ctl : Word
  bar : Word
  badcnt : BitVec 32
  faddr : Word
  wmbase : Word
  wmlim : Word
  wm : Word
  state : CopyState
  code : BitVec 8
  bad : Bool
  ticket : BitVec 32
  /-- The word of a start not yet armed (R220), the BT of its bundle, and its place among accesses and starts. -/
  start : Option Word
  startBt : Nat
  startOrd : Nat
  /-- BT of the bundle that started the copy (R134). -/
  bt : Nat
  /-- Latched at arming: SRC, DST, the +24 word, BAR, ARR and the template. -/
  lsrc : Word
  ldst : Word
  lctl : Word
  lbar : Word
  arr : Bool
  tmpl : BitVec 1024
  /-- Source bytes and destination elements taken so far; chunks decoded. -/
  si : Nat
  di : Nat
  chunk : Nat
  /-- Paused at, or running to, the stop point of R240; a cancel ends there. -/
  stop : Option Nat
  cancel : Bool
  /-- Holds a course encoder (R226). -/
  enc : Bool
  /-- Accesses the context issued before the start have lower orders (R221). -/
  ord : Nat
  /-- The stream of an EXPAND copy can no longer be followed (R191). -/
  lost : Bool
  /-- When a request to another module that is still unanswered was sent, in thirds of a nanosecond (R321). -/
  asked : Option Nat
deriving DecidableEq, Repr

def Chan.reset : Chan :=
  ⟨0, 0, 0, 0, 0, 0, 0, 0, 0, .idle, 0, false, 0, none, 0, 0, 0, 0, 0, 0, 0, false, 0, 0, 0, 0, none, false, false, 0, false, none⟩

-- ## Contexts

/-- What occupies a context (R35, R305, R309, R312): `failing` waits for its results before a fatal trap ends the unit,
`swapping` and `halting` are frozen and wait before their save area is written. -/
inductive Status where
  | idle | running | failing | swapping | halting | debugHalted
deriving DecidableEq, Repr

/-- The trap registers of R304. -/
structure TrapRegs where
  tvec : Word
  tcause : Word
  tbundle : Word
  tinfo : Word
  tmode : Bool
  repleft : Nat
  swapcnt : BitVec 16
  hbt : Nat
deriving DecidableEq, Repr

/-- The event-ring registers of R137; `stopped` marks draining stopped by a drain fault (R136). `acks` holds, oldest first,
the EVACKs whose entries may not be overwritten yet: how many entries each freed, and the access count before which the
loads it waits for were issued (R346). -/
structure RingRegs where
  evbase : Word
  evsize : BitVec 5
  evhead : BitVec 32
  evtail : BitVec 32
  lost : Bool
  dfault : Bool
  count : BitVec 32
  stopped : Bool
  acks : List (Nat × Nat)
  /-- Entries have drained, or been lost, since the context was last saved; the model's own (R312; log entry 26). -/
  moved : Bool
deriving DecidableEq, Repr

/-- A trap pending before the next bundle issues (R156): its cause and TINFO. -/
structure PendingTrap where
  cause : Nat
  info : Nat
deriving DecidableEq, Repr

/-- One context (R53, R67, R75): A, B or the shadow context, whose h0 to h15 stand in `g`. -/
structure Context where
  status : Status
  /-- The unit that occupies it (R29). -/
  unit : Option Nat
  pc : Nat
  /-- Issues still owed to the bundle at `pc` once its first repetition has issued or a resume owes some (R56, R300). -/
  owed : Option Nat
  /-- Branch bubbles still owed (R57). -/
  bubbles : Nat
  g : SMap Word
  p : SMap Bool
  k : SMap (BitVec 1024)
  v : SMap VReg
  m : SMap Word
  a : SMap (BitVec 256)
  /-- Walk positions of the a registers (R223). -/
  apos : SMap Nat
  tl : SMap Word
  lc : Word
  ec : Word
  rg : BitVec 4
  rp : BitVec 3
  rv : BitVec 8
  mpc : BitVec 16
  bt : Nat
  gpos : BitVec 4
  gsize : BitVec 3
  detm : Bool
  holds : BitVec 32
  trap : TrapRegs
  ring : RingRegs
  ptroot : BitVec 44
  asid : BitVec 12
  tmplbase : BitVec 49
  tmplcnt : BitVec 13
  inflight : List Pend
  latched : List Pend
  ord : Nat
  wait : Option Wait
  /-- The wait of the trapped program while its handler runs (R248). -/
  latchedWait : Option Wait
  hold : Option Hold
  /-- Acquires issued and not performed: access and scope (R245). -/
  acqs : List (Nat × Nat)
  /-- The latest window in which a write of the context was sent, plus 1; 0 for none (R248, R252). -/
  sent : Nat
  chans : SMap Chan
  engineTrap : Option PendingTrap
  /-- Cause of the fatal trap being taken (R309). -/
  dying : Nat
  /-- Task-exactness flag (R264). -/
  exact : Bool
  /-- The persistent launch whose tiles the unit pulls (R42). -/
  tile : Option Nat
  /-- A debug step may issue once (R312). -/
  stepOnce : Bool
  /-- Which of A and B (0 or 1) it was while its program ran: what the unit leaves under way after its end keeps it (R134). -/
  name : Nat
deriving DecidableEq, Repr

def TrapRegs.reset : TrapRegs := ⟨0, 0, 0, 0, false, 0, 0, 0⟩
def RingRegs.reset : RingRegs := ⟨0, 0, 0, 0, false, false, 0, false, [], false⟩

/-- A context after cold reset: every register at its release value (R67, R76, R137, R304; log entry 3). -/
def Context.reset : Context where
  status := .idle
  unit := none
  pc := 0
  owed := none
  bubbles := 0
  g := []
  p := []
  k := []
  v := []
  m := []
  a := []
  apos := []
  tl := []
  lc := 0
  ec := 0
  rg := 0
  rp := 0
  rv := 0
  mpc := 0
  bt := 0
  gpos := 0
  gsize := 0
  detm := false
  holds := 0
  trap := TrapRegs.reset
  ring := RingRegs.reset
  ptroot := 0
  asid := 0
  tmplbase := 0
  tmplcnt := 0
  inflight := []
  latched := []
  ord := 0
  wait := none
  latchedWait := none
  hold := none
  acqs := []
  sent := 0
  chans := []
  engineTrap := none
  dying := 0
  exact := false
  tile := none
  stepOnce := false
  name := 0

-- ## Matrix engine

/-- A command of the engine queue (R150). -/
inductive CmdKind where
  | call | load | drain
deriving DecidableEq, Repr

/-- A queued command with the copies MCALL takes at issue (R141, R152, R153). -/
structure Cmd where
  kind : CmdKind
  ctx : Nat
  /-- Which of A and B (0 or 1) issued it, in whose status and queue it counts, whatever occupies that context by then (R150, R151). -/
  side : Nat
  routine : Nat
  /-- ga: barrier operand, image address, or the barrier object of MDRAIN; none for g0. -/
  ga : Option Word
  mask : BitVec 32
  bt : Nat
  m : SMap Word
  a : SMap (BitVec 256)
  apos : SMap Nat
  asid : BitVec 12
  /-- Program order of the issuing context at issue, for MDRAIN and store visibility (R154). -/
  ord : Nat
deriving DecidableEq, Repr

/-- One BX block of the row buffer (R143): 32 mantissas packed as R121 gives, exponent, width; skipped blocks place nothing. -/
structure Block where
  mant : Nat
  exp : Nat
  w : Nat
  skipped : Bool
deriving DecidableEq, Repr

/-- A running call (R147): its routine, position, loop stack (body start, iterations left), row buffer. -/
structure Call where
  cmd : Cmd
  code : List Nat
  pos : Nat
  loops : List (Nat × Nat)
  skip : Bool
  row : List Block
  anchor : Option (BitVec 11)
  rows : Nat
  pass : Nat
  /-- Offset within the current stream element, for MXSTREAM.S (R143). -/
  offs : SMap Nat
  /-- Accumulators that have posted ACCLOW in this call (R127). -/
  low : List Nat
  /-- Blocks the micro-op in progress has fetched before its stall, the next block, and where its byte stream stands. -/
  got : List Block
  part : Nat × Nat
  /-- The condition of the MXWAITB in progress has been observed to hold (R169). -/
  sat : Bool
deriving DecidableEq, Repr

/-- Engine status of one context (R151). -/
structure EngineStat where
  err : BitVec 4
  erout : BitVec 8
  load : BitVec 2
  done : BitVec 32
deriving DecidableEq, Repr

def EngineStat.reset : EngineStat := ⟨0, 0, 0, 0⟩

/-- The matrix engine of a core (R138, R148 to R153). Plane byte (macro q, slot s, K-row k, column c) is entry
((q * 8 + s) * 128 + k) * 32 + c of `planes`; exponent byte i of slot s is entry (q * 8 + s) * 128 + i of `exps`;
accumulator n of row r is entry r * 64 + n of `acc`. -/
structure Engine where
  queue : List Cmd
  run : Option Call
  /-- The MPLOAD at the head of the queue has begun its fetch (R151). -/
  loading : Bool
  routines : SMap (List Nat)
  stat : SMap EngineStat
  planes : SMap Byte
  exps : SMap Byte
  acc : SMap Word
deriving DecidableEq, Repr

def Engine.reset : Engine := ⟨[], none, false, [], [], [], [], []⟩

-- ## Translation, stash, debug

/-- A non-leaf entry in a walker's cache (R200): ASID, the address bits above the level it was read at, that level, and
the node it points to. -/
structure NodeEntry where
  asid : Nat
  level : Nat
  vpn : Nat
  node : Nat
deriving DecidableEq, Repr

/-- Who met a translation miss (R200, R201). -/
inductive Agent where
  | ctx (x : Nat)
  | engine (x : Nat)
  | chan (x n : Nat)
  | drain (x : Nat)
deriving DecidableEq, Repr

/-- How a miss was resolved against the access (R198, R203; `poison`: the walk read a poisoned entry, R216); a resolved
translation is in the buffer. -/
inductive MissEnd where
  | access | format | declined
  | poison (pa : Nat)
deriving DecidableEq, Repr

/-- Stages of a miss: at the core, in the walker's queue or walking (R202), waiting for the shadow context or served by
it (R203), or ended against the access. -/
inductive MissStage where
  | core | walker | shadow | service | ended (e : MissEnd)
deriving DecidableEq, Repr

structure Miss where
  agent : Agent
  va : Nat
  asid : Nat
  root : Nat
  read : Bool
  write : Bool
  stage : MissStage
  /-- The entry handed over, its level, its address and whether FLAGGED (R203); a repeated walk of one service. -/
  entry : Word
  level : Nat
  entryPa : Nat
  flagged : Bool
  repeated : Bool
  /-- An invalidation has begun since the walk read this miss's entry: it may not be installed (R205). -/
  stale : Bool
  /-- When its service began, in thirds of a nanosecond. -/
  since : Nat
deriving DecidableEq, Repr

/-- A stash entry's state (R175). -/
inductive StashState where
  | invalid | shared | owned | dirty
deriving DecidableEq, Repr

/-- Owner of a bank group (R171). -/
inductive Owner where
  | free | a | b
deriving DecidableEq, Repr

/-- One event-queue entry (R134). -/
structure Event where
  code : Nat
  ctx : Nat
  bt : Nat
  info : Word
deriving DecidableEq, Repr

/-- The debug block of a core (R311). -/
structure Debug where
  hreqa : Bool
  hreqb : Bool
  stopch : Bool
  bpa : Word
  bpb : Word
  savea : Word
  saveb : Word
  fcausea : BitVec 8
  fcauseb : BitVec 8
  fvalida : Bool
  fvalidb : Bool
  /-- HREQ has been written 0, and STEP written 1, while the context halts or is halted (R312). -/
  cleara : Bool
  clearb : Bool
  stepa : Bool
  stepb : Bool
deriving DecidableEq, Repr

/-- One core. `dbg.savea` and `dbg.saveb` hold the difference from the addresses of R427, so that every core
resets to the same data. -/
structure Core where
  ctxs : SMap Context
  deny : Nat
  /-- Time of the last arithmetic edge, in thirds of a nanosecond, and edges omitted or withheld since cold reset. -/
  lastEdge : Nat
  omitted : Nat
  /-- The latest time a TSTAMP of the core has given, below which no later one goes (R385); the model's own (log entry 74). -/
  stamp : Nat
  /-- Droop response (R328): edges still to omit, plus 1 while it lasts; halved-issue edges still to come, plus 1 while
  they last; which of two such edges is next. -/
  stretchLeft : Nat
  halfLeft : Nat
  phase : Nat
  /-- What gangs did in this cycle on this core, which is not their lead (R41): the context, the occupancy of its bundle, and
  whether it issued. -/
  gang : List (Nat × Nat × Bool)
  /-- Cycles in which a bank conflict keeps the core from issuing, and rows the issue side touched in this cycle (R160). -/
  bankStall : Nat
  cycleRows : List Nat
  /-- An S slot has issued in this cycle; the last cycle left the event queue free to drain (R135). -/
  sBusy : Bool
  drainable : Bool
  owner : SMap Owner
  /-- The last owner that freed each group, and when (R172, R173). -/
  prev : SMap (Option (Nat × Nat))
  /-- Stash window of each group in stash mode: its base (R174). -/
  window : SMap (Option Nat)
  stash : SMap StashState
  /-- The line each stash entry holds, as the snoop filter records it (R207). -/
  stashLine : SMap Nat
  imem : Memory
  shadowStore : Memory
  full : SMap Bool
  evq : List Event
  engine : Engine
  tlb : List Leaf
  misses : List Miss
  tmplCache : SMap (Option (BitVec 1024))
  /-- Full/empty and barrier accesses parked here, oldest first (R164). -/
  parked : List Nat
  dbg : Debug
deriving DecidableEq, Repr

def Debug.reset : Debug := ⟨false, false, false, 0, 0, 0, 0, 0, 0, false, false, false, false, false, false⟩

def Core.reset : Core where
  ctxs := []
  deny := 0
  lastEdge := 0
  omitted := 0
  stamp := 0
  stretchLeft := 0
  halfLeft := 0
  phase := 0
  gang := []
  bankStall := 0
  cycleRows := []
  sBusy := false
  drainable := false
  owner := []
  prev := []
  window := []
  stash := []
  stashLine := []
  imem := []
  shadowStore := []
  full := []
  evq := []
  engine := Engine.reset
  tlb := []
  misses := []
  tmplCache := []
  parked := []
  dbg := Debug.reset

end Sys2Proof.Machine
end

