-- ==== Sys2Proof/Machine/State.lean ====
section
/-! DEFINITION. The state of the module: cores, Bricks, accesses in flight, the front end, coded operators, links,
time, power, boot, and the model's own fields (tape, fresh, iss). All plain data. -/

namespace Sys2Proof.Machine

-- ## Bricks (08_llc_and_compression, 09_translation_and_coherence)

/-- A valid tag of a cache set, with the list of the sectors it occupies (R182). -/
structure Line where
  tag : Nat
  mode : Nat
  dirty : Bool
  sectors : List Nat
deriving DecidableEq, Repr

/-- An exact accumulator (R193): its word's address, the sum in units of 2^-149, and its flags. -/
structure DetAcc where
  pa : Nat
  sum : Int
  nan : Bool
  pinf : Bool
  ninf : Bool
  onlyNegZero : Bool
  large : Bool
deriving DecidableEq, Repr

/-- A directory record (R208); `shared` holds the 8-bit vector of dies. -/
inductive Region where
  | absent
  | priv (d : Nat)
  | shared (v : BitVec 8)
  | fine
deriving DecidableEq, Repr

/-- A fine-table entry: a set of sharers, or one owner. -/
inductive FineLine where
  | none
  | sharers (v : BitVec 8)
  | owner (d : Nat)
deriving DecidableEq, Repr

/-- A snoop in flight to die `die` about a line (R209, R211, R212), for fill `fill`. -/
structure SnoopMsg where
  home : Nat
  die : Nat
  line : Nat
  inval : Bool
  fill : Nat
  /-- The directory's record named the die as the line's owner when the snoop was sent (R215). -/
  own : Bool
  /-- When it was sent, in thirds of a nanosecond (R213). -/
  since : Nat
deriving DecidableEq, Repr

/-- The health block of a Brick (R328). -/
structure Health where
  tmax : BitVec 8
  droopcnt : BitVec 32
  thresh : BitVec 8
  dstretch : BitVec 6
  dwin : BitVec 12
  en : Bool
  pmon : BitVec 16
  warned : Bool
deriving DecidableEq, Repr

/-- NXTILEs of a launch on a Brick whose record is not there yet, oldest first: a gang's members get one record (R43, R44). -/
structure TileReq where
  launch : Nat
  /-- The core, context and result of each. -/
  dests : List (Nat × Nat × Nat)
deriving DecidableEq, Repr

structure Brick where
  sets : SMap (List Line)
  expevict : Word
  detwait : BitVec 32
  dets : List DetAcc
  /-- Exact adds waiting for an accumulator, in arrival order (R195). -/
  detq : List Nat
  regions : SMap Region
  fine : SMap FineLine
  /-- FINE regions, least recently promoted first (R210). -/
  promoted : List Nat
  /-- Poisoned lines, and poisoned regions with the lines since rewritten (R216). -/
  poison : SMap Bool
  poisonRegion : SMap Bool
  cured : SMap Bool
  stb : List Leaf
  /-- The walker's cache of non-leaf entries (R200). -/
  nodeCache : List NodeEntry
  /-- Misses in the walker's queue, in arrival order (R202). -/
  walkq : List (Nat × Agent)
  /-- Tile indices claimed and not handed out, by launch (R43). -/
  batches : SMap (List Nat)
  tileq : List TileReq
  /-- COURSE copies waiting for an encoder, in start order (R226). -/
  encq : List (Nat × Nat × Nat)
  /-- Nodes held in the dependency-table slice (R283). -/
  nodes : Nat
  health : Health
  lastBeat : Nat
  lost : Bool
deriving DecidableEq, Repr

def Health.reset : Health := ⟨0, 0, 0, 4, 256, true, 0, false⟩

def Brick.reset : Brick where
  sets := []
  expevict := 0
  detwait := 0
  dets := []
  detq := []
  regions := []
  fine := []
  promoted := []
  poison := []
  poisonRegion := []
  cured := []
  stb := []
  nodeCache := []
  walkq := []
  batches := []
  tileq := []
  encq := []
  nodes := 0
  health := Health.reset
  lastBeat := 0
  lost := false

-- ## Stash traffic

/-- Stages of a fill or upgrade (R175, R209). -/
inductive FillStage where
  | sent | granted
deriving DecidableEq, Repr

structure Fill where
  id : Nat
  core : Nat
  group : Nat
  entry : Nat
  pa : Nat
  owner : Bool
  stage : FillStage
  /-- The time of the access that asked for it, in thirds of a nanosecond; whether no bundle is held for it so far, only a STASHT, the
  matrix engine or a drain having asked (R175, R176). -/
  since : Nat
  touch : Bool
  /-- The leaf through which it was translated, and whether an invalidation has named that since (R205). -/
  leaf : Option Leaf
  named : Bool
deriving DecidableEq, Repr

/-- A write-back in flight (R176, R212). -/
structure WriteBack where
  id : Nat
  core : Nat
  ctx : Nat
  pa : Nat
  data : List Byte
  /-- The window in which it was sent, plus 1; none while it is held at its die (R252). -/
  win : Option Nat
deriving DecidableEq, Repr

-- ## Front end (02_execution_model, 13_queues_and_front_end)

inductive LevelKind where
  | launch | graph | phase | job | coded
deriving DecidableEq, Repr

/-- STATE of a completion record (R31). -/
inductive LevelState where
  | waiting | running | complete | cancelled | failed
deriving DecidableEq, Repr

/-- A level above the unit (R29, R31). Addresses are virtual, in the queue's translation. -/
structure Level where
  kind : LevelKind
  parent : Option Nat
  /-- The unit that published it, when it is a counted child (R45, R292), and its depth. -/
  unit : Option Nat
  depth : Nat
  queue : Nat
  index : Nat
  /-- The descriptor of the queue as it was when the level was created (R273, R274). -/
  desc : BitVec 1024
  pending : Nat
  done : Nat
  abandoned : Nat
  state : LevelState
  childloss : Bool
  tstart : Nat
  tend : Nat
  record : Nat
  signal : Nat
  vector : Option Nat
  cancelled : Bool
  /-- A phase or job that may still gain children, or has not met its closing packet. -/
  isOpen : Bool
  /-- Its completion signal takes the abort action (R286, R290). -/
  abort : Bool
  /-- The job of a queue registered afresh: its record stays as it stands unless it is cancelled (R274). -/
  frozen : Bool
deriving DecidableEq, Repr

/-- The registers a queue or descriptor loads into a context at release (R199, R222, R273). -/
structure XlRegs where
  ptroot : BitVec 44
  asid : BitVec 12
  tmplbase : BitVec 49
  tmplcnt : BitVec 13
deriving DecidableEq, Repr

/-- A launch (R35, R279): its level and queue, the descriptor, where its units go, and what it carries. -/
structure Launch where
  level : Option Nat
  queue : Option Nat
  desc : BitVec 2048
  base : Nat
  regs : XlRegs
  image : List Byte
  presets : List (Nat × Word × Bool)
  released : Bool
  /-- When its release message was sent, and the cores and context of each unit (R36). -/
  sent : Option (Nat × List (List Nat × Nat))
  /-- The time of the release, once it is fixed (R36). -/
  due : Option Nat
  /-- Tile counter of a persistent launch, and whether its batches are discarded (R43, R48). -/
  tiles : Nat
  drained : Bool
  /-- The coded task it runs: operator set and task number (R263). -/
  task : Option (Nat × Nat)
  waitingSince : Nat
  starved : Bool
deriving DecidableEq, Repr

/-- How a unit ended (R48, R309). -/
inductive UnitEnd where
  | complete | cancelled | failed
deriving DecidableEq, Repr

structure ExecUnit where
  launch : Nat
  cores : List Nat
  ctx : Nat
  /-- Set once its program has halted, or it was cancelled or failed. -/
  fate : Option UnitEnd
  children : Nat
  depth : Nat
  swapped : Bool
  /-- While it is swapped out: what each context held beside its save area, by core. -/
  kept : List (Nat × Context)
  /-- Its restore waits for the context (R307). -/
  wanted : Bool
  /-- While it is swapped out: the bank groups each core's save area records, by core (R307, R308). -/
  groups : SMap Nat
deriving DecidableEq, Repr

/-- How far a packet or node has come, and how it ended (R276, R283). -/
inductive Progress where
  | waiting | started | complete | aborted | cancelled | failed
deriving DecidableEq, Repr

structure Packet where
  index : Nat
  raw : BitVec 512
  progress : Progress
  level : Option Nat
  /-- The unit that published it (R292), and the phase it was processed in (R290). -/
  unit : Option Nat
  phase : Option Nat
  /-- The descriptor of its queue, and whether the queue has been registered afresh since (R274). -/
  desc : BitVec 1024
  stale : Bool
  /-- Of a BARRIER_AND: its signals' addresses, and their values after each write since (R288). -/
  named : List Nat
  evals : List (List Word)
deriving DecidableEq, Repr

structure Node where
  coded : Bool
  desc : Nat
  preds : Nat
  succs : List Nat
  record : Nat
  progress : Progress
  level : Option Nat
  slice : Nat
deriving DecidableEq, Repr

structure Graph where
  level : Nat
  queue : Nat
  nodes : List Node
  admitted : Bool
deriving DecidableEq, Repr

/-- A queue (R272 to R274, R293, R295): the descriptor copy, indices and status. -/
structure Queue where
  desc : BitVec 1024
  /-- Where the descriptor lies, for the mirrors of READ and WRITE. -/
  descPa : Nat
  read : BitVec 32
  write : BitVec 32
  armed : Bool
  mapped : Bool
  throttled : Bool
  ended : Bool
  err : BitVec 4
  evcnt : BitVec 32
  charge : Nat
  throttleEvent : Bool
  mappedAt : Nat
  job : Option Nat
  phase : Option Nat
  /-- Packets processed and not forgotten, oldest first. -/
  packets : List Packet
  /-- Packets not yet processed that are children of a unit: index and unit (R292). -/
  pubs : List (Nat × Nat)
  /-- Of those, the indices of packets that a cancel of their unit has ended (R48). -/
  dead : List Nat
deriving DecidableEq, Repr

def Queue.reset : Queue :=
  ⟨0, 0, 0, 0, false, false, false, false, 0, 0, 0, false, 0, none, none, [], [], []⟩

/-- A QPUB doorbell on its way (R291). -/
structure Doorbell where
  queue : Nat
  w : Nat
  core : Nat
  ctx : Nat
  unit : Option Nat
  asid : BitVec 12
  bt : Nat
  /-- It is sent once every access of the context up to this order has been performed. -/
  after : Nat
deriving DecidableEq, Repr

-- ## Coded operators (12_coded_operators)

/-- A request in the dispatcher queue (R262, R281): who waits for it. -/
structure OpReq where
  pa : Nat
  va : Nat
  regs : XlRegs
  /-- Issuing core, context and BT; none for a packet or node. -/
  src : Option (Nat × Nat × Nat)
  level : Option Nat
  queue : Option Nat
  /-- The outer operator it is a task of (R271): set and task. -/
  outer : Option (Nat × Nat)
  after : Nat
  /-- An invalidation has named its translation since it was made (R205). -/
  named : Bool
deriving DecidableEq, Repr

/-- A task of an operator (R264, R265). -/
inductive TaskState where
  | absent | running | accepted | usable | inexact | ended
deriving DecidableEq, Repr

structure Task where
  state : TaskState
  launch : Option Nat
  cs : Word
deriving DecidableEq, Repr

/-- STATE of R269. -/
inductive OpState where
  | free | opened | decoding | done | failed | cancelled
deriving DecidableEq, Repr

structure OpSet where
  desc : BitVec 1024
  regs : XlRegs
  src : Option (Nat × Nat × Nat)
  level : Option Nat
  queue : Option Nat
  outer : Option (Nat × Nat)
  /-- Bytes of a tile (R261, R271). -/
  tile : Nat
  state : OpState
  tasks : List Task
  usable : BitVec 8
  inex : BitVec 8
  rebuilt : BitVec 8
  faulty : BitVec 4
  brick : BitVec 3
  cause : BitVec 4
  cksum : Word
  topen : Nat
  tclose : Nat
  /-- The clock at opening, and at the k-th usable return (R265); the order of closing. -/
  opened : Nat
  tk : Option Nat
  closed : Option Nat
deriving DecidableEq, Repr

-- ## Quoin blocks (15_links_power_trust)

inductive LinkState where
  | down | training | up
deriving DecidableEq, Repr

structure Link where
  state : LinkState
  peer : BitVec 8
  retry : BitVec 32
  failsInRow : Nat
deriving DecidableEq, Repr

def Link.reset : Link := ⟨.down, 0, 0, 0⟩

structure HWin where
  en : Bool
  hbase : BitVec 52
  size : BitVec 27
deriving DecidableEq, Repr

/-- A reduction stream that has arrived and is held (R323). -/
structure Stream where
  port : Nat
  tag : Nat
  data : List Byte
  since : Nat
deriving DecidableEq, Repr

/-- A descriptor of the reduction engine (R322, R324), and since when it has been first in the queue. -/
structure Reduction where
  raw : BitVec 512
  since : Nat
  /-- When its request to another module, still unanswered, was sent (R321, R324). -/
  asked : Option Nat
deriving DecidableEq, Repr

/-- The collective reduction engine: queue, held streams, streams sent, REDSTAT's reason. -/
structure RedState where
  queue : List Reduction
  held : List Stream
  sent : List Stream
  reason : BitVec 8
deriving DecidableEq, Repr

structure Links where
  port : SMap Link
  tmo : BitVec 6
  enable : BitVec 12
  route : SMap (BitVec 5)
deriving DecidableEq, Repr

/-- The time base (R325): 1588 time is the clock plus `offset`; `slew` is still to apply. -/
structure TimeBase where
  offset : Int
  slew : Int
  wlog2 : BitVec 5
  gm : Bool
  locked : Bool
deriving DecidableEq, Repr

structure Power where
  limit : BitVec 11
  thwarn : BitVec 8
  power : BitVec 11
  clamp : BitVec 4
  tripped : Bool
deriving DecidableEq, Repr

/-- STATE of the boot block (R330). -/
inductive BootState where
  | reset | verifying | running | failed | fwfault
deriving DecidableEq, Repr

structure Boot where
  img : BitVec 56
  state : BootState
  cause : BitVec 8
  svn : BitVec 32
  meas : BitVec 512
  nonce : BitVec 512
  busy : Bool
  done : Bool
  sig : BitVec 1056
  /-- The firmware SRAM: the body of the image that runs (R329). -/
  sram : List Byte
deriving DecidableEq, Repr

structure Xlinv where
  asid : BitVec 12
  busy : Bool
  /-- Where it began among the module's accesses: write-backs sent before it are waited for (R205). -/
  after : Nat
deriving DecidableEq, Repr

/-- Windows (R252 to R255): each map counts windows from 0 up (value N + 1 for window N), by source or home pair. -/
structure Windows where
  marked : SMap Nat
  closed : SMap Nat
  announced : SMap Nat
  stretch : SMap (BitVec 32)
  stalled : SMap (List Nat)
deriving DecidableEq, Repr

/-- A W1C or RC field that hardware has set (R6), with the context, port or Brick it belongs to: EVLOST's LOST, DFAULT and COUNT, MSTAT's
ERR with EROUT, and LOAD, FVALID, DONE, RETRY, DROOPCNT. -/
inductive Raced where
  | lost (c x : Nat)
  | dfault (c x : Nat)
  | count (c x : Nat)
  | err (c x : Nat) (e : BitVec 4) (r : BitVec 8)
  | load (c x : Nat) (v : BitVec 2)
  | fvalid (c x : Nat)
  | done
  | retry (p : Nat)
  | droop (b : Nat)
deriving DecidableEq, Repr

-- ## The module

/-- Everything the spec gives the machine. -/
structure Arch where
  /-- Time since cold reset, in thirds of a nanosecond. -/
  clock : Nat
  modnum : BitVec 8
  mem : Memory
  cores : SMap Core
  bricks : SMap Brick
  /-- Mortar ports in a low-power state (R213): entry die * 8 + port is 1, or 2 once a link-wake event is logged. -/
  lowPort : SMap Nat
  wakeEvents : List (Nat × Nat)
  nextId : Nat
  reqs : List Req
  fills : List Fill
  snoops : List SnoopMsg
  writeBacks : List WriteBack
  doorbells : List Doorbell
  queues : SMap Queue
  qdesc : BitVec 56
  /-- Ready queues without a slot, in order (R293). -/
  readyList : List Nat
  levels : SMap (Option Level)
  launches : SMap (Option Launch)
  units : SMap (Option ExecUnit)
  graphs : SMap (Option Graph)
  opq : List OpReq
  ops : SMap (Option OpSet)
  xlinv : Xlinv
  windows : Windows
  hwin : SMap HWin
  time : TimeBase
  links : Links
  red : RedState
  /-- CANCEL writes that reached the Quoin die and are not yet performed (R47). -/
  cancels : List Nat
  power : Power
  boot : Boot
  msix : Memory
  pba : Memory
  interrupts : List Nat
  /-- Interrupts raised on a Brick that a sleeping port holds on their way: Brick and vector, oldest first (R19, R22). -/
  syncq : List (Nat × Nat)
  /-- What the host port last answered a read with; none for an unsupported request. -/
  reply : Option (List Byte)
  /-- Workers restarted (R297) and unsupported requests logged by the host port (R27, R314). -/
  workerRestarts : Nat
  unsupported : Nat
  periodStart : Nat
  /-- What hardware has set at the present time, oldest first: a clear by software at this time does not undo it (R6). -/
  raced : List Raced
  /-- Within a step only: an access of the front end in it has to wait, so that the step comes to nothing (log entry 68). -/
  feHeld : Bool
deriving DecidableEq, Repr

/-- The module right after cold reset. -/
def Arch.reset : Arch where
  clock := 0
  modnum := 0
  mem := []
  cores := []
  bricks := []
  lowPort := []
  wakeEvents := []
  nextId := 0
  reqs := []
  fills := []
  snoops := []
  writeBacks := []
  doorbells := []
  queues := []
  qdesc := 0
  readyList := []
  levels := []
  launches := []
  units := []
  graphs := []
  opq := []
  ops := []
  xlinv := ⟨0, false, 0⟩
  windows := ⟨[], [], [], [], []⟩
  hwin := []
  time := ⟨0, 0, 14, false, false⟩
  links := ⟨[], 4, 0xFFF, []⟩
  red := ⟨[], [], [], 0⟩
  cancels := []
  power := ⟨1800, 95, 0, 0, false⟩
  boot := ⟨0, .reset, 0, 0, 0, 0, false, false, 0, []⟩
  msix := []
  pba := []
  interrupts := []
  syncq := []
  reply := none
  workerRestarts := 0
  unsupported := 0
  periodStart := 0
  raced := []
  feHeld := false

-- ## The model's own fields

/-- What moves next (log entry 5): an issue opportunity of a core, one action of its engine, a row of the event table,
or time passing by `n` thirds of a nanosecond. -/
inductive Move where
  | core (c : Nat)
  | engine (c : Nat)
  | act (i : Instr)
  | elapse (n : Nat)
deriving DecidableEq, Repr

/-- Outcome of a control transfer, taken by a gang from its lead (R40). -/
inductive Branch where
  | none
  | to (pc : Nat) (bubbles : Nat)
  | halt
  | xret
deriving DecidableEq, Repr

/-- A trap as a slot raises it: cause, slot, step of R104, ARG and TINFO (R301, R304). -/
structure TrapNote where
  cause : Nat
  slot : Nat
  step : Nat
  arg : Nat
  info : Nat
deriving DecidableEq, Repr

/-- The bundle in issue (log entry 7): whose it is, what its slots read, and what they have asked for so far. -/
structure Issue where
  core : Nat
  ctx : Nat
  /-- Slot position of R77 (0 S to 6 X). -/
  pos : Nat
  /-- The module before the bundle, from which every slot reads; none outside a bundle. -/
  pre : Option Arch
  /-- Slots of the bundle not yet executed, this one included; 1 at the last, 0 outside a bundle. -/
  left : Nat
  len : Nat
  rep : Nat
  /-- Accesses of the bundle so far, in slot order (R243). -/
  accs : List Req
  branch : Branch
  /-- Set for a gang member other than the lead, which follows the lead's transfer. -/
  follow : Option Branch
  mpcSet : Bool
  trapAfter : Option Nat
  /-- A hold found so far; the bundle will not issue, but a later slot may still trap (R232). -/
  held : Option Hold
  /-- The bundle trapped or stalled: its remaining slots do nothing. -/
  trapped : Bool
  /-- The trap it took. -/
  trap : Option TrapNote
  /-- Scratchpad rows of the index words it reads (R160). -/
  rows : List Nat
deriving DecidableEq, Repr

def Issue.reset : Issue :=
  ⟨0, 0, 0, none, 0, 2, 0, [], .none, none, false, none, none, false, none, []⟩

/-- The machine. -/
structure State where
  arch : Arch
  iss : Issue
  tape : List Move
  fresh : Nat
deriving DecidableEq, Repr

/-- The machine right after cold reset: nothing runs, and no bundle is in issue. -/
def State.reset : State := ⟨Arch.reset, Issue.reset, [], 0⟩

/-- Why a step stops the machine. -/
inductive Fault where
  /-- Raised by `step` where the bundle cursor names a core the module does not have (R14). No run reaches it; safe. -/
  | noSuchCore
deriving DecidableEq, Repr

/-- Why the model gives an instruction no meaning. -/
inductive Refusal where
  /-- Raised by `exec` for a row without a meaning in this model; safe. -/
  | notModelled (mnemonic : String)
deriving DecidableEq, Repr

end Sys2Proof.Machine
end

