-- ==== Sys2Proof/Machine/Base.lean ====
section
/-! DEFINITION. Reaching the parts of the state, and the address map of 01_organization (R23 to R28). -/

namespace Sys2Proof.Machine

-- ## Parts

def Arch.core (a : Arch) (c : Nat) : Core := SMap.get Core.reset a.cores c
def Arch.setCore (a : Arch) (c : Nat) (k : Core) : Arch := { a with cores := SMap.set Core.reset a.cores c k }
def Arch.mapCore (a : Arch) (c : Nat) (f : Core → Core) : Arch := a.setCore c (f (a.core c))

def Core.ctx (k : Core) (x : Nat) : Context := SMap.get Context.reset k.ctxs x
def Core.setCtx (k : Core) (x : Nat) (t : Context) : Core := { k with ctxs := SMap.set Context.reset k.ctxs x t }

def Arch.ctx (a : Arch) (c x : Nat) : Context := (a.core c).ctx x
def Arch.setCtx (a : Arch) (c x : Nat) (t : Context) : Arch := a.setCore c ((a.core c).setCtx x t)
def Arch.mapCtx (a : Arch) (c x : Nat) (f : Context → Context) : Arch := a.setCtx c x (f (a.ctx c x))

def Context.chan (t : Context) (n : Nat) : Chan := SMap.get Chan.reset t.chans n
def Context.setChan (t : Context) (n : Nat) (h : Chan) : Context := { t with chans := SMap.set Chan.reset t.chans n h }
def Arch.mapChan (a : Arch) (c x n : Nat) (f : Chan → Chan) : Arch :=
  a.mapCtx c x (fun t => t.setChan n (f (t.chan n)))

def Arch.brick (a : Arch) (b : Nat) : Brick := SMap.get Brick.reset a.bricks b
def Arch.mapBrick (a : Arch) (b : Nat) (f : Brick → Brick) : Arch :=
  { a with bricks := SMap.set Brick.reset a.bricks b (f (a.brick b)) }

def Arch.queue (a : Arch) (q : Nat) : Queue := SMap.get Queue.reset a.queues q
def Arch.mapQueue (a : Arch) (q : Nat) (f : Queue → Queue) : Arch :=
  { a with queues := SMap.set Queue.reset a.queues q (f (a.queue q)) }

def Arch.level (a : Arch) (l : Nat) : Option Level := SMap.get none a.levels l
def Arch.setLevel (a : Arch) (l : Nat) (v : Level) : Arch := { a with levels := SMap.set none a.levels l (some v) }
def Arch.mapLevel (a : Arch) (l : Nat) (f : Level → Level) : Arch :=
  match a.level l with | some v => a.setLevel l (f v) | none => a
def Arch.launch (a : Arch) (l : Nat) : Option Launch := SMap.get none a.launches l
def Arch.setLaunch (a : Arch) (l : Nat) (v : Launch) : Arch := { a with launches := SMap.set none a.launches l (some v) }
def Arch.mapLaunch (a : Arch) (l : Nat) (f : Launch → Launch) : Arch :=
  match a.launch l with | some v => a.setLaunch l (f v) | none => a
def Arch.unit (a : Arch) (u : Nat) : Option ExecUnit := SMap.get none a.units u
def Arch.setUnit (a : Arch) (u : Nat) (v : ExecUnit) : Arch := { a with units := SMap.set none a.units u (some v) }
def Arch.mapUnit (a : Arch) (u : Nat) (f : ExecUnit → ExecUnit) : Arch :=
  match a.unit u with | some v => a.setUnit u (f v) | none => a
def Arch.graph (a : Arch) (g : Nat) : Option Graph := SMap.get none a.graphs g
def Arch.setGraph (a : Arch) (g : Nat) (v : Graph) : Arch := { a with graphs := SMap.set none a.graphs g (some v) }
def Arch.op (a : Arch) (n : Nat) : Option OpSet := SMap.get none a.ops n
def Arch.setOp (a : Arch) (n : Nat) (v : Option OpSet) : Arch := { a with ops := SMap.set none a.ops n v }
def Arch.link (a : Arch) (p : Nat) : Link := SMap.get Link.reset a.links.port p
def Arch.mapLink (a : Arch) (p : Nat) (f : Link → Link) : Arch :=
  { a with links := { a.links with port := SMap.set Link.reset a.links.port p (f (a.link p)) } }
def Arch.hwinOf (a : Arch) (w : Nat) : HWin := SMap.get ⟨false, 0, 0⟩ a.hwin w

/-- A new identity. -/
def Arch.newId (a : Arch) : Nat × Arch := (a.nextId, { a with nextId := a.nextId + 1 })

/-- The numbers 0 to n - 1. -/
def upTo (n : Nat) : List Nat := List.range n

-- ## Time (R252, R325)

/-- The current 1588 time in nanoseconds. -/
def Arch.now (a : Arch) : Nat := (Int.ofNat (a.clock / 3) + a.time.offset).toNat

/-- The current window (R252). -/
def Arch.window (a : Arch) : Nat := a.now / 2 ^ a.time.wlog2.toNat

/-- Time passes by `n` thirds of a nanosecond; a slew still owed is applied at up to 100 ppm (R325). -/
def Arch.elapse (a : Arch) (n : Nat) : Arch :=
  let dt := Int.ofNat ((a.clock + n) / 30000 - a.clock / 30000)
  let d := sat a.time.slew (-dt) dt
  { a with clock := a.clock + n, raced := if n = 0 then a.raced else []
           time := { a.time with offset := a.time.offset + d, slew := a.time.slew - d } }

-- ## Address map (R25, R26)

/-- Where a physical address lies. -/
inductive Place where
  | stack (b : Nat) (off : Nat)
  | host (off : Nat)
  | quoin (off : Nat)
  | spad (c : Nat) (off : Nat)
  | other (m : Nat) (off : Nat)
  | reserved
deriving DecidableEq, Repr

def stackSize : Nat := 0x0C00000000
def spadBase : Nat := 0x0F0000000000
def spadSize : Nat := 0x60000

/-- The module map of R25. -/
def placeInModule (off : Nat) : Place :=
  if off < 0x8000000000 then
    (if off % 2 ^ 36 < stackSize then .stack (off / 2 ^ 36) (off % 2 ^ 36) else .reserved)
  else if 0x040000000000 ≤ off ∧ off < 0x080000000000 then .host (off - 0x040000000000)
  else if 0x0E0000000000 ≤ off ∧ off < 0x0E0100000000 then .quoin (off - 0x0E0000000000)
  else if spadBase ≤ off ∧ off < spadBase + 0x10000000 then
    (if (off - spadBase) % 0x100000 < spadSize then .spad ((off - spadBase) / 0x100000) ((off - spadBase) % 0x100000)
     else .reserved)
  else .reserved

/-- Where a 56-bit physical address lies (R25, R26). -/
def Arch.place (a : Arch) (pa : Nat) : Place :=
  if pa / 2 ^ 48 = a.modnum.toNat then placeInModule (pa % 2 ^ 48) else .other (pa / 2 ^ 48) (pa % 2 ^ 48)

/-- The physical address of scratchpad offset `o` of core `c` (R25). -/
def Arch.spadPa (a : Arch) (c o : Nat) : Nat := a.modnum.toNat * 2 ^ 48 + spadBase + c * 0x100000 + o

/-- The home die of a place (R14, R25): 8 is the Quoin die. -/
def Place.home : Place → Nat
  | .stack b _ => b
  | .spad c _ => c / 32
  | _ => 8

/-- The route a module number has (R320): its port, where it is valid and UP. -/
def Arch.route (a : Arch) (m : Nat) : Option Nat :=
  let r := SMap.get (0 : BitVec 5) a.links.route m
  let p := r.toNat % 16
  if r.toNat / 16 = 1 ∧ p < 12 ∧ (a.link p).state = .up then some p else none

/-- The bus address behind a host memory window (R317), where it is enabled and reached. -/
def Arch.hostBus (a : Arch) (off : Nat) : Option Nat :=
  let w := off / 2 ^ 38
  let o := off % 2 ^ 38
  let h := a.hwinOf w
  if w < 16 ∧ h.en ∧ o < h.size.toNat * 2 ^ 12 then some (h.hbase.toNat * 2 ^ 12 + o) else none

/-- The key under which `mem` holds a byte of host memory, behind every physical address. -/
def hostKey (bus : Nat) : Nat := 2 ^ 64 + bus

-- ## Fields that hardware sets and software clears (R6)

def Engine.statOf (e : Engine) (x : Nat) : EngineStat := SMap.get EngineStat.reset e.stat x
def Engine.mapStat (e : Engine) (x : Nat) (f : EngineStat → EngineStat) : Engine :=
  { e with stat := SMap.set EngineStat.reset e.stat x (f (e.statOf x)) }

/-- Hardware sets one of them now. -/
def Arch.sets (a : Arch) (r : Raced) : Arch := { a with raced := a.raced ++ [r] }

/-- The field as it is after a set and a clear at one time: the set wins. -/
def Arch.setAgain (a : Arch) (r : Raced) : Arch :=
  match r with
  | .lost c x => a.mapCtx c x (fun t => { t with ring := { t.ring with lost := true } })
  | .dfault c x => a.mapCtx c x (fun t => { t with ring := { t.ring with dfault := true } })
  | .count c x => a.mapCtx c x (fun t => { t with ring := { t.ring with
      count := BitVec.ofNat 32 (max t.ring.count.toNat (a.raced.count (.count c x))) } })
  | .err c x e r => a.mapCore c (fun k => { k with engine := k.engine.mapStat x (fun t =>
      if t.err = 0 then { t with err := e, erout := r } else t) })
  | .load c x v => a.mapCore c (fun k => { k with engine := k.engine.mapStat x (fun t => { t with load := v }) })
  | .fvalid c x => a.mapCore c (fun k => { k with dbg := if x = 0 then { k.dbg with fvalida := true } else { k.dbg with fvalidb := true } })
  | .done => { a with boot := { a.boot with done := true } }
  | .retry p => a.mapLink p (fun l => { l with retry := BitVec.ofNat 32 (max l.retry.toNat (a.raced.count (.retry p))) })
  | .droop b => a.mapBrick b (fun k => { k with health := { k.health with
      droopcnt := BitVec.ofNat 32 (max k.health.droopcnt.toNat (a.raced.count (.droop b))) } })

/-- After a clear by software, what hardware has set at the same time is set still (R6). -/
def Arch.setsWin (a : Arch) : Arch := a.raced.foldl Arch.setAgain a

-- ## Events (R133)

/-- PostEvent: append to the core's queue, or record the loss. -/
def Arch.post (a : Arch) (c : Nat) (e : Event) : Arch :=
  if (a.core c).evq.length < 32 then a.mapCore c (fun k => { k with evq := k.evq ++ [e] })
  else
    ((a.sets (.lost c e.ctx)).sets (.count c e.ctx)).mapCtx c e.ctx (fun t =>
      let n := if t.ring.count = 0xFFFFFFFF then t.ring.count else t.ring.count + 1
      { t with ring := { t.ring with lost := true, count := n, moved := true } })

/-- The mask bit of an MSI-X vector (R318; PCI Express resets it to 1, log entry 4). `msix` holds the table with every
mask bit inverted. -/
def Arch.masked (a : Arch) (v : Nat) : Bool := (Memory.read a.msix (16 * v + 8) 8 / 2 ^ 32) % 2 == 0

/-- Set or clear the pending bit of a vector. -/
def Arch.setPending (a : Arch) (v : Nat) (b : Bool) : Arch :=
  let x := (Memory.byte a.pba (v / 8)).toNat
  let y := if b then x.lor (2 ^ (v % 8)) else x.land (255 - 2 ^ (v % 8))
  { a with pba := Memory.setByte a.pba (v / 8) (BitVec.ofNat 8 y) }

/-- Raise a host interrupt (R318); a masked vector becomes pending. -/
def Arch.interrupt (a : Arch) (v : Nat) : Arch :=
  let a := { a with interrupts := a.interrupts ++ [v] }
  if v < 256 ∧ a.masked v = true then a.setPending v true else a

end Sys2Proof.Machine
end

