-- ==== Sys2Proof/Machine/Quoin.lean ====
section
/-! DEFINITION. Reading the Quoin registers (R313, R314): which doublewords are registers, what each returns, and what a
read clears (RC fields, R5). -/

namespace Sys2Proof.Machine

/-- A Boolean at bit `i`. -/
def at_ (i : Nat) (b : Bool) : Nat := if b then 2 ^ i else 0

def CopyState.code : CopyState → Nat
  | .idle => 0 | .active => 1 | .done => 2 | .fault => 3 | .reject => 4 | .cancel => 5

def LevelState.code : LevelState → Nat
  | .waiting => 0 | .running => 1 | .complete => 2 | .cancelled => 3 | .failed => 4

def OpState.code : OpState → Nat
  | .free => 0 | .opened => 1 | .decoding => 2 | .done => 3 | .failed => 4 | .cancelled => 5

def LinkState.code : LinkState → Nat
  | .down => 0 | .training => 1 | .up => 2

def BootState.code : BootState → Nat
  | .reset => 0 | .verifying => 1 | .running => 2 | .failed => 3 | .fwfault => 4

/-- LIVE, SECT and ZERO of a slice (R189). -/
def Brick.live (b : Brick) : Nat := (b.sets.map (fun e => e.2.length)).sum
def Brick.sect (b : Brick) : Nat := (b.sets.map (fun e => (e.2.map (fun l => l.sectors.length)).sum)).sum
def Brick.zero (b : Brick) : Nat := (b.sets.map (fun e => (e.2.filter (fun l => l.mode == 0)).length)).sum

/-- The four doublewords of an operator record (R269). -/
def OpSet.record (o : OpSet) : List Nat :=
  [o.state.code + 2 ^ 8 * o.usable.toNat + 2 ^ 16 * o.inex.toNat + 2 ^ 24 * o.rebuilt.toNat + 2 ^ 32 * o.faulty.toNat
     + 2 ^ 36 * o.brick.toNat + 2 ^ 39 * o.cause.toNat,
   o.cksum.toNat, o.topen % 2 ^ 64, o.tclose % 2 ^ 64]

/-- SAVEA or SAVEB of a core (R427): the area the boot ROM gave it, changed by what firmware wrote. -/
def Arch.saveArea (a : Arch) (c x : Nat) : Nat :=
  let d := (a.core c).dbg
  (a.modnum.toNat * 2 ^ 48 + c / 32 * 2 ^ 36 + 0x0BF8000000 + (2 * (c % 32) + x) * 0x200000).xor
    (if x = 0 then d.savea.toNat else d.saveb.toNat)

/-- The windows CLOSED counts (R255): those that every home has announced to die `d`. -/
def Arch.closedAt (a : Arch) (d : Nat) : Nat :=
  ((upTo 9).map (fun h => SMap.get 0 a.windows.announced (h * 9 + d))).foldl min
    (SMap.get 0 a.windows.announced d) - 1

/-- A doubleword of byte storage. -/
def dwordAt (m : Memory) (off : Nat) : Nat := Memory.read m off 8

/-- The debug block of a core (R311). -/
def Arch.debugRead (a : Arch) (c r : Nat) : Option Nat :=
  let d := (a.core c).dbg
  match r with
  | 0 => some (at_ 0 d.hreqa + at_ 1 d.hreqb + at_ 2 d.stopch + at_ 4 ((a.ctx c 0).status == .debugHalted)
      + at_ 5 ((a.ctx c 1).status == .debugHalted))
  | 1 => some d.bpa.toNat
  | 2 => some d.bpb.toNat
  | 3 => some (a.saveArea c 0)
  | 4 => some (a.saveArea c 1)
  | 5 => some (d.fcausea.toNat + 2 ^ 8 * d.fcauseb.toNat + at_ 16 d.fvalida + at_ 17 d.fvalidb)
  | 6 | 7 => some 0
  | _ => none

/-- The health block of a Brick (R328). -/
def Arch.healthRead (a : Arch) (b r : Nat) : Option Nat :=
  let h := (a.brick b).health
  match r with
  | 0 => some h.tmax.toNat
  | 1 => some h.droopcnt.toNat
  | 2 => some (h.thresh.toNat + 2 ^ 8 * h.dstretch.toNat + 2 ^ 14 * h.dwin.toNat + at_ 26 h.en)
  | 3 => some h.pmon.toNat
  | _ => none

/-- The capacity counters of a slice (R189). -/
def Arch.llcRead (a : Arch) (b r : Nat) : Option Nat :=
  let k := a.brick b
  match r with
  | 0 => some k.sect
  | 1 => some k.live
  | 2 => some k.zero
  | 3 => some k.expevict.toNat
  | 4 => some (k.dets.length + 2 ^ 32 * k.detwait.toNat)
  | 5 => some 0
  | _ => none

/-- The window status block of a die (R255). -/
def Arch.winRead (a : Arch) (d r : Nat) : Option Nat :=
  match r with
  | 0 => some (a.closedAt d)
  | 1 => some (SMap.get (0 : BitVec 32) a.windows.stretch d).toNat
  | 2 | 3 => some 0
  | _ => none

/-- An operator register set (R261). -/
def Arch.opRead (a : Arch) (s r : Nat) : Nat :=
  match a.op s with
  | none => 0
  | some o => if r < 12 then bits o.desc.toNat (64 * r + 63) (64 * r) else o.record.getD (r - 12) 0

/-- A queue's status block (R274). -/
def Arch.queueRead (a : Arch) (q r : Nat) : Nat :=
  let k := a.queue q
  if r = 0 then k.read.toNat + 2 ^ 32 * k.write.toNat
  else at_ 0 k.armed + at_ 1 k.mapped + at_ 2 k.throttled + at_ 3 k.ended + 2 ^ 4 * k.err.toNat + 2 ^ 32 * k.evcnt.toNat

/-- The boot and attestation block (R330). -/
def Arch.bootRead (a : Arch) (o : Nat) : Option Nat :=
  let b := a.boot
  if o = 0 then some b.img.toNat
  else if o = 8 then some (b.state.code + 2 ^ 8 * b.cause.toNat + 2 ^ 16 * b.svn.toNat)
  else if o = 0x10 || o = 0xC0 then some 0
  else if 0x40 ≤ o && o < 0x80 then some (bits b.meas.toNat (8 * (o - 0x40) + 63) (8 * (o - 0x40)))
  else if 0x80 ≤ o && o < 0xC0 then some (bits b.nonce.toNat (8 * (o - 0x80) + 63) (8 * (o - 0x80)))
  else if o = 0xC8 then some (at_ 0 b.busy + at_ 1 b.done)
  else if 0x100 ≤ o && o < 0x188 then some (bits b.sig.toNat (8 * (o - 0x100) + 63) (8 * (o - 0x100)))
  else none

/-- The low blocks of R313, below 0x1_0000. -/
def Arch.lowRead (a : Arch) (o : Nat) : Option Nat :=
  if o = 0x100 || o = 0x200 || o = 0x300 || o = 0x400 then some 0
  else if o = 0x208 then some (a.xlinv.asid.toNat + at_ 63 a.xlinv.busy)
  else if o = 0x308 then some a.qdesc.toNat
  else if 0x1000 ≤ o && o < 0x1100 then
    let h := a.hwinOf ((o - 0x1000) / 16)
    some (if o % 16 = 0 then at_ 0 h.en + 2 ^ 12 * h.hbase.toNat else h.size.toNat)
  else if o = 0x2000 then some (a.now % 2 ^ 64)
  else if o = 0x2008 then some 0
  else if o = 0x2010 then
    some (a.time.wlog2.toNat + at_ 5 a.time.gm + at_ 6 (a.time.gm || a.time.locked))
  else if 0x3000 ≤ o && o < 0x3300 && o % 0x40 = 0 then
    let l := a.link ((o - 0x3000) / 0x40)
    some (l.state.code + 2 ^ 8 * l.peer.toNat + 2 ^ 16 * l.retry.toNat)
  else if o = 0x3300 then some (a.links.tmo.toNat + 2 ^ 6 * a.links.enable.toNat)
  else if 0x3400 ≤ o && o < 0x3C00 then some (SMap.get (0 : BitVec 5) a.links.route ((o - 0x3400) / 8)).toNat
  else if o = 0x4000 then some 0
  else if o = 0x4008 then some (a.red.queue.length + 2 ^ 5 * a.red.reason.toNat)
  else if o = 0x5000 then some (a.power.limit.toNat + 2 ^ 11 * a.power.thwarn.toNat)
  else if o = 0x5008 then some (a.power.power.toNat + 2 ^ 11 * a.power.clamp.toNat + at_ 15 a.power.tripped)
  else if 0x5100 ≤ o && o < 0x5300 then a.healthRead ((o - 0x5100) / 0x40) ((o - 0x5100) % 0x40 / 8)
  else if 0x6000 ≤ o && o < 0x6200 then a.bootRead (o - 0x6000)
  else if 0x8000 ≤ o && o < 0x9000 then some ((dwordAt a.msix (o - 0x8000)).xor (if o % 16 = 8 then 2 ^ 32 else 0))
  else if 0x9000 ≤ o && o < 0x9020 then some (dwordAt a.pba (o - 0x9000))
  else none

/-- The doubleword register at a Quoin offset; none where no table lists one (R313). -/
def Arch.quoinPeek (a : Arch) (o : Nat) : Option Nat :=
  if o % 8 ≠ 0 then none
  else if o < 0x10000 then a.lowRead o
  else if o < 0x10200 then a.llcRead ((o - 0x10000) / 0x40) ((o - 0x10000) % 0x40 / 8)
  else if 0x20000 ≤ o && o < 0x20120 then a.winRead ((o - 0x20000) / 0x20) ((o - 0x20000) % 0x20 / 8)
  else if 0x30000 ≤ o && o < 0x32000 then some (a.opRead ((o - 0x30000) / 0x80) ((o - 0x30000) % 0x80 / 8))
  else if 0x40000 ≤ o && o < 0x50000 then some (a.queueRead ((o - 0x40000) / 16) ((o - 0x40000) % 16 / 8))
  else if 0x60000 ≤ o && o < 0x64000 then a.debugRead ((o - 0x60000) / 0x40) ((o - 0x60000) % 0x40 / 8)
  else none

/-- What a read of a Quoin register clears: the RC fields (R5), but for what is set at the same time (R6). -/
def Arch.quoinClear (a : Arch) (o : Nat) : Arch :=
  if 0x3000 ≤ o && o < 0x3300 && o % 0x40 = 0 then (a.mapLink ((o - 0x3000) / 0x40) (fun l => { l with retry := 0 })).setsWin
  else if o = 0x4008 then { a with red := { a.red with reason := 0 } }
  else if 0x5100 ≤ o && o < 0x5300 && o % 0x40 = 8 then
    (a.mapBrick ((o - 0x5100) / 0x40) (fun b => { b with health := { b.health with droopcnt := 0 } })).setsWin
  else a

/-- A read of a Quoin register: its value, and the module with RC fields cleared. -/
def Arch.quoinRead (a : Arch) (o : Nat) : Option (Nat × Arch) :=
  (a.quoinPeek o).map (fun v => (v, a.quoinClear o))

end Sys2Proof.Machine
end

