-- ==== Sys2Proof/Machine/Home.lean ====
section
/-! DEFINITION. What happens at a home (R178, R211, R242): banks with full/empty bits and barrier objects, cache slices
with snoops, poison and exact accumulators, the performing of one access as one action, and the mortar fabric's routes
(01 R17). -/

namespace Sys2Proof.Machine

-- ## Routes (R17; the port numbers are those of log entry 13)

/-- The die after `s` on the way to `d`. -/
def nextDie (s d : Nat) : Nat :=
  if s = 8 ∨ d = 8 then d
  else
    match (d + 8 - s) % 8 with
    | 0 => d
    | 1 | 2 => (s + 1) % 8
    | 6 | 7 => (s + 7) % 8
    | _ => (s + 4) % 8

/-- The port of die `s` toward its neighbour `d`: of a Brick 0 to the Quoin die, 1 ring forward, 2 ring backward, 3
cross; of the Quoin die the Brick's number. -/
def portTo (s d : Nat) : Nat :=
  if s = 8 then d
  else if d = 8 then 0
  else
    match (d + 8 - s) % 8 with
    | 1 => 1
    | 7 => 2
    | _ => 3

/-- Whether a hop between neighbours crosses a port in a low-power state (R213). -/
def Arch.hopSleeps (a : Arch) (s d : Nat) : Bool :=
  SMap.get 0 a.lowPort (s * 8 + portTo s d) != 0 || SMap.get 0 a.lowPort (d * 8 + portTo d s) != 0

def Arch.routeSleeps (a : Arch) (s d : Nat) : Bool :=
  if s = d then false
  else
    let m := nextDie s d
    a.hopSleeps s m || (m != d && a.hopSleeps m d)

/-- An access and its answer cross the fabric both ways (R22): a port sleeps on one of them. -/
def Arch.tripSleeps (a : Arch) (s d : Nat) : Bool := a.routeSleeps s d || a.routeSleeps d s

-- ## Messages to the Quoin die (R19, R22)

/-- Interrupts raised on Bricks that a sleeping port has held reach the Quoin die, in order, once their way is open. -/
def Arch.syncArrive (a : Arch) : Arch :=
  let held := a.syncq.filter (fun e => a.routeSleeps e.1 8)
  (a.syncq.filter (fun e => !a.routeSleeps e.1 8)).foldl (fun a e => a.interrupt e.2) { a with syncq := held }

/-- An interrupt raised on Brick `b`: a sleeping port holds it while the link wakes (R22). -/
def Arch.interruptFrom (a : Arch) (b v : Nat) : Arch :=
  if a.routeSleeps b 8 then { a with syncq := a.syncq ++ [(b, v)] } else a.interrupt v

/-- Every port wakes, and what the ports have held goes on. -/
def Arch.wakeAll (a : Arch) : Arch := { a with lowPort := [] }.syncArrive

-- ## Cache slices (R179 to R187)

/-- The line number of an address. -/
def lineOf (pa : Nat) : Nat := pa / 128

/-- The lines a range touches. -/
def linesOf (pa len : Nat) : List Nat :=
  (upTo ((pa + len - 1) / 128 - pa / 128 + 1)).map (fun i => pa / 128 + i)

/-- Set and tag of a line of a stack (R180). -/
def llcSet (off : Nat) : Nat := (off / 128 % 65536).xor (off / 128 / 65536 % 65536)
def llcTag (off : Nat) : Nat := off / 128 / 65536

/-- Evict for sectors, least recent first, until `need` fit (R187): the lines kept (least recent first) and evictions. -/
def evictFor (need : Nat) : List Line → Nat → List Line × Nat
  | [], _ => ([], 0)
  | l :: ls, have_ =>
    if need ≤ have_ then (l :: ls, 0)
    else if l.sectors = [] then let r := evictFor need ls have_; (l :: r.1, r.2)
    else let r := evictFor need ls (have_ + l.sectors.length); (r.1, r.2 + 1)

/-- The sectors of a set that none of the lines occupies (R182), lowest first. -/
def freeSectors (ls : List Line) : List Nat := (upTo 64).filter (fun i => !ls.any (fun l => l.sectors.contains i))

/-- Place of R187 on a set, most recent first: the line becomes the most recent. It keeps the sectors it has as far as it
needs them; which free ones it takes besides is open, and shows nowhere (log entry 59). -/
def placeLine (ls : List Line) (tag mode need : Nat) (dirty : Bool) : List Line × Nat :=
  let others := ls.filter (fun l => l.tag != tag)
  let own := (ls.filter (fun l => l.tag == tag)).flatMap Line.sectors
  let wasDirty := ls.any (fun l => l.tag == tag && l.dirty)
  let kept := if others.length < 16 then others else others.dropLast
  let r := evictFor need kept.reverse (64 - (kept.map (fun l => l.sectors.length)).sum)
  let free := (freeSectors r.1).filter (fun i => !own.contains i)
  (⟨tag, mode, dirty || wasDirty, (own ++ free).take need⟩ :: r.1.reverse, r.2)

/-- The bookkeeping of an access to a stack line (R181, R182, R185): it is encoded as it now stands and becomes the most
recent. -/
def Arch.touchLine (a : Arch) (write : Bool) (line : Nat) : Arch :=
  match a.place (line * 128) with
  | .stack b off =>
    let e := encodeLine (Memory.read a.mem (line * 128) 128)
    a.mapBrick b (fun k =>
      let s := llcSet off
      let r := placeLine (SMap.get [] k.sets s) (llcTag off) e.1 (bdzSectors e.1 e.2.length) write
      { k with sets := SMap.set [] k.sets s r.1, expevict := k.expevict + BitVec.ofNat 64 r.2 })
  | _ => a

/-- A write of part of a line fills it first, with its old content (R181); a line the slice holds only becomes the most
recent. -/
def Arch.fillLine (a : Arch) (pa len line : Nat) : Arch :=
  if pa ≤ line * 128 ∧ line * 128 + 128 ≤ pa + len then a else a.touchLine false line

-- ## Poison (R215, R216, R425)

/-- The region number of a line. -/
def regionOf (line : Nat) : Nat := line / 16384

def Arch.poisoned (a : Arch) (line : Nat) : Bool :=
  match a.place (line * 128) with
  | .stack b _ =>
    let k := a.brick b
    k.lost || SMap.get false k.poison line
      || (SMap.get false k.poisonRegion (regionOf line) && !SMap.get false k.cured line)
  | .spad c _ => (a.brick (c / 32)).lost
  | _ => false

/-- A write of all 128 bytes clears a line's poison, unless its stack is lost (R216). -/
def Arch.cure (a : Arch) (line : Nat) : Arch :=
  match a.place (line * 128) with
  | .stack b _ =>
    a.mapBrick b (fun k =>
      { k with poison := SMap.set false k.poison line false
               cured := if SMap.get false k.poisonRegion (regionOf line) then SMap.set false k.cured line true
                        else k.cured })
  | _ => a

-- ## Stash snoops (R211)

/-- Stash entries of a core that hold a line: keys group * 256 + entry. -/
def Core.holders (k : Core) (line : Nat) : List Nat :=
  ((k.stashLine.filter (fun e => e.2 == line)).map Prod.fst).filter
    (fun i => SMap.get StashState.invalid k.stash i != .invalid)

/-- Copy `n` bytes of memory. -/
def copyMem (m : Memory) (src dst n : Nat) : Memory := Memory.writeBytes m dst (Memory.readBytes m src n)

-- ## Signals (R288)

/-- The cores whose stash holds a line DIRTY, and the entry. -/
def Arch.dirtyAt (a : Arch) (line : Nat) : Option (Nat × Nat) :=
  a.cores.findSome? (fun e => ((e.2.holders line).find? (fun i => SMap.get StashState.invalid e.2.stash i == .dirty)).map
    (fun i => (e.1, i)))

/-- The doubleword at `n` as a read would find it now (R211, R212): in a DIRTY stash entry, in the newest write-back of its
line on the way, or at home. -/
def Arch.wordNow (a : Arch) (n : Nat) : Nat :=
  match a.dirtyAt (lineOf n) with
  | some (c, i) => Memory.read a.mem (a.spadPa c (i * 128 + n % 128)) 8
  | none =>
    match a.writeBacks.reverse.find? (fun w => w.pa / 128 == lineOf n) with
    | some w => ofBytes ((w.data.drop (n % 128)).take 8)
    | none => Memory.read a.mem n 8

/-- A write to a signal that a BARRIER_AND waits on calls for an evaluation: the values of its signals are noted. -/
def Arch.noteSignals (a : Arch) (pa len : Nat) : Arch :=
  if a.queues.all (fun e => e.2.packets.all (fun p => p.named.isEmpty)) then a
  else
    { a with queues := a.queues.map (fun e => (e.1, { e.2 with packets := e.2.packets.map (fun p =>
        if p.named.any (fun n => n < pa + len && pa < n + 8) then
          { p with evals := p.evals ++ [p.named.map (fun n => BitVec.ofNat 64 (a.wordNow n))] }
        else p) })) }

-- ## Exact accumulators (R193, R194)

/-- The value an entry retires with (R194). -/
def DetAcc.value (d : DetAcc) : Nat :=
  if d.nan || (d.pinf && d.ninf) then f32.qnan
  else if d.pinf then f32.infBits false
  else if d.ninf then f32.infBits true
  else if d.large then f32.qnan
  else if d.sum = 0 then f32.signBit d.onlyNegZero
  else f32.round 0 (FVal.ofInt d.sum (-149) false)

/-- Enter one F32 addend exactly. -/
def DetAcc.enter (d : DetAcc) (x : Nat) : DetAcc :=
  match f32.unpack x with
  | .nan => { d with nan := true, onlyNegZero := false }
  | .inf false => { d with pinf := true, onlyNegZero := false }
  | .inf true => { d with ninf := true, onlyNegZero := false }
  | .fin s m e =>
    let sum := d.sum + signed s m * pow2 (e + 149).toNat
    { d with sum := sum, large := d.large || pow2 319 ≤ sum || sum ≤ -pow2 319
             onlyNegZero := d.onlyNegZero && m == 0 && s }

/-- One entry retires (R194): its rounded value is written into its word, a write of part of a line. A poisoned line stays
as it is. -/
def Arch.retireOne (a : Arch) (d : DetAcc) : Arch :=
  let l := lineOf d.pa
  if a.poisoned l then a
  else
    let a := a.touchLine false l
    Arch.touchLine { a with mem := Memory.write a.mem d.pa 4 d.value } true l

/-- The same for the words of entries that have retired. -/
def Arch.noteAll (a : Arch) (ds : List DetAcc) : Arch := ds.foldl (fun a d => a.noteSignals d.pa 4) a

/-- The signals that packets waiting on a doubleword listed read beside it, and so on through the packets of those (R288). -/
def Arch.alongside (a : Arch) (ws : List Nat) : Nat → List Nat
  | 0 => ws
  | f + 1 =>
    let ps := a.queues.flatMap (fun e => e.2.packets.filter (fun p => p.named.any ws.contains))
    let ns := (ws ++ ps.flatMap Packet.named).dedup
    if ns.length = ws.length then ws else Arch.alongside a ns f

/-- Signals that a range touches, with those that their packets read beside them. -/
def Arch.signalsAt (a : Arch) (pa len : Nat) : List Nat :=
  if a.queues.all (fun e => e.2.packets.all (fun p => p.named.isEmpty)) then []
  else
    let ns := (a.queues.flatMap (fun e => e.2.packets.flatMap Packet.named)).dedup
    a.alongside (ns.filter (fun n => n < pa + len && pa < n + 8)) ns.length

/-- Retire the entries of every Brick that `p` selects: one rounded value into each word, and then the evaluations these writes call
for, each of which finds every value written. -/
def Arch.retireAll (a : Arch) (p : DetAcc → Bool) : Arch :=
  let ds := a.bricks.flatMap (fun e => e.2.dets.filter p)
  if ds.isEmpty then a
  else
    let a := { a with bricks := SMap.mapv Brick.reset a.bricks (fun k => { k with dets := k.dets.filter (fun d => !p d) }) }
    (ds.foldl Arch.retireOne a).noteAll (ds.filter (fun d => !a.poisoned (lineOf d.pa)))

/-- An entry lies in one of these doublewords. -/
def DetAcc.within (d : DetAcc) (ns : List Nat) : Bool := ns.contains (d.pa / 8 * 8)

/-- Retire the entries that touch a range, and those of signals that an evaluation reads beside them (R194, R288). -/
def Arch.retireRange (a : Arch) (pa len : Nat) : Arch :=
  match a.place pa with
  | .stack b _ =>
    let hit (d : DetAcc) : Bool := d.pa < pa + len && pa < d.pa + 4
    if (a.brick b).dets.any hit then
      let ns := a.signalsAt pa len
      a.retireAll (fun d => hit d || d.within ns)
    else a
  | _ => a

/-- Retire the entries of a Brick, and those of signals that an evaluation reads beside them. -/
def Arch.retire (a : Arch) (b : Nat) : Arch :=
  let ns := (a.brick b).dets.flatMap (fun d => a.signalsAt d.pa 4)
  a.retireAll (fun d => (match a.place d.pa with | .stack b' _ => b' == b | _ => false) || d.within ns)

/-- A range has been written: the evaluations this calls for read every signal of their packets, and what is pending there retires
first (R194, R288). -/
def Arch.signalsWritten (a : Arch) (pa len : Nat) : Arch :=
  match a.signalsAt pa len with
  | [] => a
  | ns => (a.retireAll (fun d => d.within ns)).noteSignals pa len

-- ## Lines that come home, and snoops (R176, R211, R212)

/-- A whole line that a stash gives back reaches its home (R176, R181, R212, R216): one write of 128 bytes, which needs no
fill. A lost stack takes it no more: who made a write-back learns of that where it arrives. -/
def Arch.lineHome (a : Arch) (line : Nat) (bs : List Byte) : Arch :=
  match a.place (line * 128) with
  | .stack b _ =>
    if (a.brick b).lost then a
    else ((Arch.signalsWritten { a with mem := Memory.writeBytes a.mem (line * 128) bs } (line * 128) 128).cure line).touchLine
      true line
  | _ => a

/-- Snoop one stash entry: DIRTY data goes home; the entry becomes SHARED or INVALID. -/
def Arch.snoopEntry (a : Arch) (c i line : Nat) (inval : Bool) : Arch :=
  let st := SMap.get StashState.invalid (a.core c).stash i
  let st' := if inval then .invalid else .shared
  let b := a.mapCore c (fun k => { k with stash := SMap.set StashState.invalid k.stash i st' })
  if st = .dirty then b.lineHome line (Memory.readBytes a.mem (a.spadPa c (i * 128)) 128) else b

/-- Snoop a line in every core that `pick` selects. -/
def Arch.snoopCores (a : Arch) (line : Nat) (inval : Bool) (pick : Nat → Bool) : Arch :=
  (a.cores.map Prod.fst).foldl
    (fun a c => if pick c then ((a.core c).holders line).foldl (fun a i => a.snoopEntry c i line inval) a else a) a

/-- A DRAIN at window scope learns the window, plus 1, in which a write issued before it was sent (R248). -/
def Wait.learns (w : Wait) (id m : Nat) : Wait :=
  if w.kind = .drain ∧ id < w.req then { w with addr := max w.addr m } else w

/-- A write `id` of the context was sent in the window that `m` counts (R248, R252). -/
def Context.sentIn (t : Context) (id m : Nat) : Context :=
  { t with sent := max t.sent m, wait := t.wait.map (fun w => w.learns id m), latchedWait := t.latchedWait.map (fun w => w.learns id m) }

/-- A write-back arrives: its line is written, and its context's write has been sent (R176, R252). -/
def Arch.backLands (a : Arch) (w : WriteBack) : Arch :=
  (Arch.lineHome { a with writeBacks := a.writeBacks.filter (fun v => v.id != w.id) } (w.pa / 128) w.data).mapCtx w.core w.ctx
    (fun t => t.sentIn w.id (w.win.getD (a.window + 1)))

/-- Write-backs of a line on their way arrive first: their data answers the snoop (R212). -/
def Arch.landBacks (a : Arch) (line : Nat) : Arch := (a.writeBacks.filter (fun w => w.pa / 128 == line)).foldl Arch.backLands a

/-- What the fine table records of a line once it has been snooped (R209): no holder after an invalidation; an owner
becomes a sharer after a downgrade. -/
def Arch.fineSnooped (a : Arch) (line : Nat) (inval : Bool) : Arch :=
  match a.place (line * 128) with
  | .stack b _ =>
    (match SMap.get FineLine.none (a.brick b).fine line with
     | .none => a
     | .owner d =>
       let f := if inval then FineLine.none else FineLine.sharers (BitVec.ofNat 8 (2 ^ d))
       a.mapBrick b (fun k => { k with fine := SMap.set FineLine.none k.fine line f })
     | .sharers _ => if inval then a.mapBrick b (fun k => { k with fine := SMap.erase k.fine line }) else a)
  | _ => a

/-- The home snoops every copy of a line before it acts on it (R211). -/
def Arch.snoopLine (a : Arch) (line : Nat) (inval : Bool) : Arch :=
  ((a.landBacks line).snoopCores line inval (fun _ => true)).fineSnooped line inval

/-- The dies of an 8-bit vector, and a vector with one die (R208). -/
def diesOf (v : BitVec 8) : List Nat := (upTo 8).filter (fun d => v.getLsbD d)
def dieBit (d : Nat) : BitVec 8 := BitVec.ofNat 8 (2 ^ d)

/-- The dies the home of a line must snoop before an access to it (R208, R211): for a read the one that may own it, for a
write or atomic every one that may hold it. -/
def Arch.snoopDies (a : Arch) (line : Nat) (inval : Bool) : List Nat :=
  match a.place (line * 128) with
  | .stack b _ =>
    (match SMap.get Region.absent (a.brick b).regions (regionOf line) with
     | .absent => []
     | .priv d => [d]
     | .shared v => if inval then diesOf v else []
     | .fine =>
       (match SMap.get FineLine.none (a.brick b).fine line with
        | .owner d => [d]
        | .sharers v => if inval then diesOf v else []
        | .none => []))
  | _ => []

/-- The dies whose snoop about a range, or whose response, waits for a mortar port to wake (R22, R213); a lost die is not waited for
(R215). -/
def Arch.snoopsWait (a : Arch) (pa len : Nat) (inval : Bool) : List (Nat × Nat) :=
  (linesOf pa len).flatMap (fun l =>
    ((a.snoopDies l inval).filter (fun d => !(a.brick d).lost && a.tripSleeps (a.place pa).home d)).map (fun d => (l, d)))

/-- Snoops that wait are on their way, each sent once, so that their wait can be timed (R213). -/
def Arch.sendWaiting (a : Arch) (pa len : Nat) (inval : Bool) (key : Nat) : Arch :=
  let ws := (a.snoopsWait pa len inval).filter (fun e =>
    !a.snoops.any (fun m => m.fill == key && m.die == e.2 && m.line == e.1 && m.inval == inval))
  if ws.isEmpty then a
  else { a with snoops := a.snoops ++ ws.map (fun e => ⟨(a.place pa).home, e.2, e.1, inval, key, false, a.clock⟩) }

-- ## Reading and writing at a home (R181, R211)

/-- What a read at a home finds: snoops of owners, retired accumulators, and the slice's bookkeeping come first. -/
def Arch.homeRead (a : Arch) (pa len : Nat) : Nat × Arch :=
  let a := (linesOf pa len).foldl (fun a l => a.snoopLine l false) a
  let a := a.retireRange pa len
  let a := (linesOf pa len).foldl (fun a l => a.touchLine false l) a
  (Memory.read a.mem pa len, a)

/-- A write at a home: every copy is invalidated first (R211), a line written in part is filled (R181), and a whole line
loses its poison (R216). -/
def Arch.homeWrite (a : Arch) (pa len x : Nat) : Arch :=
  let a := (linesOf pa len).foldl (fun a l => a.snoopLine l true) a
  let a := a.retireRange pa len
  let a := (linesOf pa len).foldl (fun a l => a.fillLine pa len l) a
  let a := Arch.signalsWritten { a with mem := Memory.write a.mem pa len x } pa len
  (linesOf pa len).foldl
    (fun a l => (if pa ≤ l * 128 && l * 128 + 128 ≤ pa + len then a.cure l else a).touchLine true l) a

/-- The snoops that an access to a line needs bring the whole line home (R211, R212), which rewrites it (R216); a lost stack takes
nothing. -/
def Arch.comesHome (a : Arch) (line : Nat) : Bool :=
  (match a.place (line * 128) with | .stack b _ => !(a.brick b).lost | _ => false)
    && ((a.dirtyAt line).isSome || a.writeBacks.any (fun w => w.pa / 128 == line))

/-- An access to a line finds it poisoned, once the snoops it needs have completed. -/
def Arch.spoiled (a : Arch) (line : Nat) : Bool := a.poisoned line && !a.comesHome line

/-- A read of a poisoned line, or a write that covers one in part, cannot be performed (R216). -/
def Arch.readable (a : Arch) (pa len : Nat) : Bool := (linesOf pa len).all (fun l => !a.spoiled l)

def Arch.writable (a : Arch) (pa len : Nat) : Bool :=
  (linesOf pa len).all (fun l =>
    !a.spoiled l ||
      (pa ≤ l * 128 && l * 128 + 128 ≤ pa + len &&
        (match a.place (l * 128) with | .stack b _ => !(a.brick b).lost | _ => false)))

-- ## Atomics (R335)

/-- The value an atomic of `len` bytes writes. -/
def amoNew (k : Amo) (len old b cmp : Nat) : Nat :=
  let w := 8 * len
  match k with
  | .add => (old + b) % 2 ^ w
  | .and => old.land b
  | .or => old.lor b
  | .xor => old.xor b
  | .min => if sext b w < sext old w then b % 2 ^ w else old
  | .max => if sext old w < sext b w then b % 2 ^ w else old
  | .swp => b % 2 ^ w
  | .cas => if old = cmp % 2 ^ w then b % 2 ^ w else old
  | .fadd => addF32 0 old (b % 2 ^ 32)

/-- An atomic that makes no write: an AMOCAS that fails (R335). -/
def amoKeeps (k : Amo) (len old cmp : Nat) : Bool := k == .cas && old != cmp % 2 ^ (8 * len)

-- ## Barrier objects (R168, R169)

/-- BarArrive on the value of an object. -/
def barArrive (x : Nat) : Nat :=
  let pending := x % 2 ^ 32
  let expect := bits x 62 32
  if pending = 0 then x
  else if pending = 1 then expect + expect * 2 ^ 32 + (1 - x / 2 ^ 63 % 2) * 2 ^ 63
  else x - 1

/-- BarInit of a count. -/
def barInit (n : Nat) : Nat := n % 2 ^ 32 + n % 2 ^ 31 * 2 ^ 32

/-- Whether a waiter on the object at `pa` for parity `par` is satisfied (R169). -/
def Arch.phaseTurned (a : Arch) (pa par : Nat) : Bool := Memory.read a.mem pa 8 / 2 ^ 63 % 2 != par % 2

/-- The engine's MXWAITB in progress on an object that `sel` selects observes its condition (R152, R169). -/
def Core.engineWake (k : Core) (a : Arch) (c : Nat) (sel : Nat → Bool) : Core :=
  match k.engine.run with
  | some r =>
    let va := (r.cmd.ga.getD 0).toNat / 8 * 8
    let pa := a.spadPa c (va % 2 ^ 56)
    if r.cmd.ga.isSome && va / 2 ^ 56 == 0xFE && sel pa && r.code.getD r.pos 0 / 2 ^ 27 == 7
        && a.phaseTurned pa (r.cmd.ga.getD 0).toNat then
      { k with engine := { k.engine with run := some { r with sat := true } } }
    else k
  | none => k

/-- Every waiter on an object that `sel` selects evaluates its condition: those it holds for are satisfied (R169, R306). -/
def Arch.wakeWaiters (a : Arch) (sel : Nat → Bool) : Arch :=
  { a with
    reqs := a.reqs.map (fun r =>
      if r.op = .barWait ∧ r.st = .parked ∧ sel r.pa = true ∧ a.phaseTurned r.pa r.data = true then { r with cmp := 1 } else r)
    cores := a.cores.map (fun e => (e.1, e.2.engineWake a e.1 sel)) }

/-- Every waiter on an object evaluates its condition after an action on it. -/
def Arch.barWake (a : Arch) (pa : Nat) : Arch := a.wakeWaiters (fun q => q == pa)

/-- The same for every object a write touches: a write of a waited word is an action on it as well (R168, R169). -/
def Arch.barWakeAll (a : Arch) (pa len : Nat) : Arch := a.wakeWaiters (fun q => decide (pa < q + 8) && decide (q < pa + len))

-- ## Full/empty bits (R162, R163)

def Arch.isFull (a : Arch) (c o : Nat) : Bool := SMap.get false (a.core c).full (o / 8)
def Arch.setFull (a : Arch) (c o : Nat) (b : Bool) : Arch :=
  a.mapCore c (fun k => { k with full := SMap.set false k.full (o / 8) b })

-- ## Stash permission (R175)

/-- The stash key of a scratchpad offset, where its group is in stash mode. -/
def Core.stashKey (k : Core) (o : Nat) : Option Nat :=
  match SMap.get none k.window (o / 0x8000) with
  | some _ => some (o / 128)
  | none => none

/-- Whether an entry grants an access. -/
def StashState.grants (st : StashState) (write : Bool) : Bool :=
  match st with
  | .invalid => false
  | .shared => !write
  | .owned | .dirty => true

-- ## Performing an access (R178, R242)

/-- What became of an access at its home: performed with a value, waiting there, or a machine check. -/
inductive Perf where
  | done (a : Arch) (v : Nat)
  | wait (a : Arch)
  | check (a : Arch)
deriving DecidableEq, Repr

/-- Whether the access writes. -/
def MemOp.writes : MemOp → Bool
  | .ld | .feget | .barWait | .stashBack _ => false
  | _ => true

/-- Whether the access reads. -/
def MemOp.reads : MemOp → Bool
  | .st | .ste | .feset | .feclr | .stashBack _ => false
  | _ => true

/-- The parked waiter that is to be served next on a doubleword: the oldest whose condition holds (R164). -/
def Arch.waiterReady (a : Arch) (r : Req) : Bool :=
  match a.place r.pa with
  | .spad c o =>
    (match r.op with
     | .ldf => a.isFull c o
     | .ste => !a.isFull c o
     | .barWait => r.cmp == 1 || a.phaseTurned r.pa r.data
     | _ => false)
  | _ => false

/-- An access at a scratchpad bank (R163, R169, R178). -/
def Arch.bankPerform (a : Arch) (r : Req) (c o : Nat) : Perf :=
  let old := Memory.read a.mem r.pa r.len
  let put (a : Arch) (x : Nat) : Arch := { a with mem := Memory.write a.mem r.pa r.len x }
  match r.op with
  | .ld => .done a old
  | .st => .done ((put a r.data).barWakeAll r.pa r.len) 0
  | .amo k =>
    if amoKeeps k r.len old r.cmp then .done a old
    else .done ((put a (amoNew k r.len old r.data r.cmp)).barWakeAll r.pa r.len) old
  | .ldf => if a.isFull c o then .done (a.setFull c o false) old else .wait a
  | .ste => if a.isFull c o then .wait a else .done (((put a r.data).setFull c o true).barWakeAll r.pa r.len) 0
  | .feget => .done a (if a.isFull c o then 1 else 0)
  | .feset => .done (a.setFull c o true) 0
  | .feclr => .done (a.setFull c o false) 0
  | .barInit => .done ((put a (barInit r.data)).barWake r.pa) 0
  | .barArr => .done ((put a (barArrive old)).barWake r.pa) 0
  | .barWait => if r.cmp = 1 ∨ old / 2 ^ 63 % 2 ≠ r.data % 2 then .done a 0 else .wait a
  | .stashBack _ => .done a 0

/-- Whether an access makes a write, with the value its place holds. -/
def Req.changes (r : Req) (old : Nat) : Bool :=
  match r.op with
  | .amo k => !amoKeeps k r.len old r.cmp
  | o => o.writes

/-- Start the write-back `id` of a DIRTY entry (R176); its data is on its way to the home, sent in the present window unless a
port on the way sleeps (R252). -/
def Arch.sendBack (a : Arch) (c x id key : Nat) : Arch :=
  let line := SMap.get 0 (a.core c).stashLine key
  let h := (a.place (line * 128)).home
  { a with writeBacks := a.writeBacks ++ [⟨id, c, x, line * 128, Memory.readBytes a.mem (a.spadPa c (key * 128)) 128,
      if h = c / 32 ∨ a.routeSleeps (c / 32) h = true then none else some (a.window + 1)⟩] }

def Arch.setStash (a : Arch) (c key : Nat) (st : StashState) : Arch :=
  a.mapCore c (fun k => { k with stash := SMap.set StashState.invalid k.stash key st })

/-- WB and WBINV on an entry (R176). -/
def Arch.stashBack (a : Arch) (c x id key : Nat) (inv : Bool) : Arch :=
  let st := SMap.get StashState.invalid (a.core c).stash key
  let a := if st = .dirty then (a.sendBack c x id key).setStash c key .owned else a
  if inv then a.setStash c key .invalid else a

/-- An access of the core to an entry of its own stash (R175): served with permission; a write makes it DIRTY. -/
def Arch.stashPerform (a : Arch) (r : Req) (c o key : Nat) : Perf :=
  let keys := (upTo ((o + r.len - 1) / 128 - o / 128 + 1)).map (fun i => key + i)
  match r.op with
  | .stashBack inv => .done (a.stashBack c r.ctx r.id key inv) 0
  | _ =>
  if keys.all (fun i => (SMap.get StashState.invalid (a.core c).stash i).grants r.op.writes) then
    match a.bankPerform r c o with
    | .done a' v =>
      .done (if r.changes (Memory.read a.mem r.pa r.len) then
          (keys.foldl (fun a i => a.mapCore c (fun k => { k with stash := SMap.set .invalid k.stash i .dirty })) a').signalsWritten
            r.hpa r.len
        else a') v
    | p => p
  else .wait a

/-- An exact add may act now (R193, R195): its word has an entry or an entry is free, and no add waits before it. An add to
a word that has an entry waits for none. -/
def Brick.detRoom (k : Brick) (r : Req) : Bool :=
  if k.dets.any (fun d => d.pa == r.pa) then !k.detq.contains r.id || k.detq.head? == some r.id
  else k.dets.length < 4096 && (k.detq.isEmpty || k.detq.head? == some r.id)

/-- An exact add at a slice (R193, R195): the first to a word loads the entry from its line. Only that one is an access to the line in
its slice; of the others R193 does not say (log entry 84). -/
def Arch.detPerform (a : Arch) (r : Req) (b : Nat) : Perf :=
  if !(a.brick b).detRoom r then .wait a
  else
    let a := a.snoopLine (lineOf r.pa) true
    if (a.brick b).dets.any (fun d => d.pa == r.pa) then
      .done (a.mapBrick b (fun k => { k with dets := k.dets.map (fun d => if d.pa = r.pa then d.enter r.data else d) })) 0
    else
      let a := a.touchLine false (lineOf r.pa)
      let old := Memory.read a.mem r.pa 4
      let d : DetAcc := ⟨r.pa, 0, false, false, false, old == 0x80000000, false⟩
      .done (a.mapBrick b (fun k => { k with dets := k.dets ++ [(d.enter old).enter r.data] })) 0

/-- An access at a cache slice (R211, R216, R335). -/
def Arch.slicePerform (a : Arch) (r : Req) (b : Nat) : Perf :=
  if r.det then (if a.readable r.pa r.len then a.detPerform r b else .check a)
  else
    match r.op with
    | .ld => if a.readable r.pa r.len then let q := a.homeRead r.pa r.len; .done q.2 q.1 else .check a
    | .st => if a.writable r.pa r.len then .done (a.homeWrite r.pa r.len r.data) 0 else .check a
    | .amo k =>
      if a.readable r.pa r.len then
        let q := a.homeRead r.pa r.len
        .done (if amoKeeps k r.len q.1 r.cmp then (linesOf r.pa r.len).foldl (fun a l => a.snoopLine l true) q.2
          else q.2.homeWrite r.pa r.len (amoNew k r.len q.1 r.data r.cmp)) q.1
      else .check a
    | _ => .done a 0

-- ## What holds an access back on its way (R22, R213, R253)

/-- A write sent in window `n` or before to home `h` has not been performed there (R252, R253). An STE parked at its word has reached its
home, and no window waits for it any more (log entry 60). -/
def Arch.sentTo (a : Arch) (h n : Nat) : Bool :=
  let open_ (w : Option Nat) : Bool := match w with | some w => decide (w ≤ n + 1) | none => false
  a.reqs.any (fun q => q.op.writes && (a.place q.hpa).home == h && open_ q.win && !(a.brick (q.core / 32)).lost)
    || a.writeBacks.any (fun w => (a.place w.pa).home == h && open_ w.win && !(a.brick (w.core / 32)).lost)

/-- The sources of writes that count: the Quoin die, and Bricks not lost (R253). -/
def Arch.sources (a : Arch) : List Nat := (upTo 9).filter (fun d => d == 8 || !(a.brick d).lost)

/-- Die `d` has no announcement that home `h` has closed window `n` (R253, R254): none has arrived, and a write is still to be
performed, or a port on the way of a marker or of the announcement sleeps (log entry 60). -/
def Arch.windowOpen (a : Arch) (h d n : Nat) : Bool :=
  decide (SMap.get 0 a.windows.announced (h * 9 + d) ≤ n) && (a.sentTo h n || a.routeSleeps h d
    || a.sources.any (fun e => decide (SMap.get 0 a.windows.closed (h * 9 + e) ≤ n) && a.routeSleeps e h))

/-- A read on die `d` of a location homed at `h`, issued in the window `w` counts (N + 1 for window N), is stalled. -/
def Arch.windowStalls (a : Arch) (h d w : Nat) : Bool := decide (3 ≤ w) && h < 9 && a.windowOpen h d (w - 3)

/-- A read that the window rule stalls counts its window once in STRETCH of its die (R253, R255). -/
def Arch.noteStretch (a : Arch) (d w : Nat) : Arch :=
  if (SMap.get [] a.windows.stalled d).contains w then a
  else
    let n := SMap.get (0 : BitVec 32) a.windows.stretch d
    { a with windows := { a.windows with
        stalled := SMap.set [] a.windows.stalled d (w :: SMap.get [] a.windows.stalled d)
        stretch := SMap.set 0 a.windows.stretch d (if n = 0xFFFFFFFF then n else n + 1) } }

/-- A home that has been declared lost: nothing waits for it (R214, R425). -/
def Arch.homeLost (a : Arch) (p : Place) : Bool := p.home < 8 && (a.brick p.home).lost

/-- The core's clock omits its edges now: it does nothing, and its banks serve nothing (R328). -/
def Core.stopped (k : Core) : Bool := 1 < k.stretchLeft

/-- A place in the scratchpad of a core whose clock is stopped; on a lost die nothing waits for it (R425). -/
def Arch.bankStopped (a : Arch) (p : Place) : Bool :=
  match p with | .spad c _ => (a.core c).stopped && !(a.brick (c / 32)).lost | _ => false

/-- The key of snoops sent for an access without an identity of its own. -/
def holdKey (pa : Nat) : Nat := 2 ^ 64 + pa

/-- What holds back an access by an agent on die `d` to a range, as the module then stands: the window rule on a read of
memory, a sleeping mortar port on its way or on the way back of what is read or of the completion, or one on the way of a snoop it
needs (R22, R213, R253). -/
def Arch.reachHeld (a : Arch) (d pa len : Nat) (w : Bool) : Option Arch :=
  match a.place pa with
  | .reserved => none
  | p =>
    let stored := match p with | .stack _ _ | .spad _ _ => true | _ => false
    if a.homeLost p then none
    else if !w && stored && a.windowStalls p.home d (a.window + 1) then some (a.noteStretch d (a.window + 1))
    else if a.tripSleeps d p.home || a.bankStopped p then some a
    else if (a.snoopsWait pa len w).isEmpty then none
    else some (a.sendWaiting pa len w (holdKey pa))

/-- The same for an action that reads a range and writes it. -/
def Arch.rmwHeld (a : Arch) (d pa len : Nat) : Option Arch :=
  match a.reachHeld d pa len false with
  | some a => some a
  | none => a.reachHeld d pa len true

-- ## The Quoin die's registers as a core reaches them (R314, R322)

/-- A REDGO store whose descriptor cannot be read yet (R22, R253). -/
def Arch.redHeld (a : Arch) (x : Nat) : Option Arch :=
  let pa := x % 2 ^ 56
  if pa % 64 = 0 then (match a.place pa with | .stack _ _ => a.reachHeld 8 pa 64 false | _ => none) else none

/-- The most REDGO descriptors queued or running (R322). -/
def redRoom : Nat := 16

/-- A REDGO store with room in the queue (R322): the descriptor is read; one that is misaligned or lies outside the
module's stacks leaves only its reason. -/
def Arch.redStore (a : Arch) (x : Nat) : Arch :=
  let pa := x % 2 ^ 56
  if pa % 64 ≠ 0 then { a with red := { a.red with reason := 1 } }
  else
    match a.place pa with
    | .stack _ _ =>
      if a.readable pa 64 then
        let q := a.homeRead pa 64
        { q.2 with red := { q.2.red with queue := q.2.red.queue ++ [⟨BitVec.ofNat 512 q.1, q.2.clock, none⟩] } }
      else { a with red := { a.red with reason := 2 } }
    | _ => { a with red := { a.red with reason := 2 } }

/-- A REDGO store of the host or firmware: performed once its descriptor can be read (R22, R253). -/
def Arch.redTake (a : Arch) (x : Nat) : Arch := (a.redHeld x).getD (a.redStore x)

/-- A core's access to a Quoin register (R314): reads, and writes of CANCEL and REDGO. -/
def Arch.quoinPerform (a : Arch) (r : Req) (o : Nat) : Perf :=
  match r.op with
  | .ld => match a.quoinRead o with | some (v, a) => .done a v | none => .done a 0
  | _ =>
    if o = 0x100 then .done { a with cancels := a.cancels ++ [r.data] } 0
    else if o = 0x4000 then
      (if a.red.queue.length < redRoom then
         (match a.redHeld r.data with
          | some a => .wait a
          | none => .done (a.redStore r.data) 0)
       else .wait a)
    else .done a 0

/-- Perform an access at its home. -/
def Arch.performAt (a : Arch) (r : Req) : Perf :=
  match a.place r.pa with
  | .spad c o =>
    if !r.near && (a.brick (c / 32)).lost then .check a
    else
      match (if r.near then (a.core c).stashKey o else none) with
      | some key => a.stashPerform r c o key
      | none => a.bankPerform r c o
  | .stack b _ => a.slicePerform r b
  | .quoin o => a.quoinPerform r o
  | _ => .done a 0

end Sys2Proof.Machine
end

