-- ==== Sys2Proof/Machine/Regs.lean ====
section
/-! DEFINITION. The registers of a context (03 R67, R70), the landing of results (R58 to R62), and the freeze and replay
of results in flight (14 R299, R300). -/

namespace Sys2Proof.Machine

-- ## Registers (R67, R70)

/-- Physical numbers of rotating names (R70). -/
def Context.physG (t : Context) (n : Nat) : Nat := if 48 ≤ n then 48 + (n - 48 + t.rg.toNat) % 16 else n
def Context.physP (t : Context) (n : Nat) : Nat := if 8 ≤ n then 8 + (n - 8 + t.rp.toNat) % 8 else n
def Context.physV (t : Context) (n : Nat) : Nat := if 64 ≤ n then 64 + (n - 64 + t.rv.toNat) % 192 else n

def Context.readG (t : Context) (n : Nat) : Word := if n = 0 then 0 else SMap.get 0 t.g (t.physG n)
def Context.readP (t : Context) (n : Nat) : Bool := if n = 0 then true else SMap.get false t.p (t.physP n)
def Context.readK (t : Context) (n : Nat) : BitVec 1024 := if n = 0 then BitVec.allOnes 1024 else SMap.get 0 t.k n
def Context.readV (t : Context) (n : Nat) : VReg := SMap.get 0 t.v (t.physV n)
def Context.readM (t : Context) (n : Nat) : Word := SMap.get 0 t.m n
def Context.readA (t : Context) (n : Nat) : BitVec 256 := SMap.get 0 t.a n
def Context.readPos (t : Context) (n : Nat) : Nat := SMap.get 0 t.apos n
def Context.readTl (t : Context) (n : Nat) : Word := SMap.get 0 t.tl n

/-- One rotation (R70). -/
def Context.rotate (t : Context) : Context :=
  { t with rg := t.rg - 1, rp := t.rp - 1, rv := if t.rv = 0 then 191 else t.rv - 1 }

/-- The clock on which the context counts latencies: HBT in a handler (R303), else BT. -/
def Context.time (t : Context) : Nat := if t.trap.tmode then t.trap.hbt else t.bt

-- ## Results (R58 to R62)

/-- Old bits where the mask is clear, new bits where it is set. -/
def merge (mask old new : BitVec 4096) : BitVec 4096 := (old &&& ~~~mask) ||| (new &&& mask)

/-- A result lands in its physical register; g0, p0 and k0 discard it (R67). -/
def Context.put (t : Context) (p : Pend) : Context :=
  match p.file with
  | .g => if p.reg = 0 then t else { t with g := SMap.set 0 t.g p.reg (p.val.setWidth 64) }
  | .p => if p.reg = 0 then t else { t with p := SMap.set false t.p p.reg (p.val.getLsbD 0) }
  | .k =>
    if p.reg = 0 then t
    else
      let x := (merge p.mask ((SMap.get 0 t.k p.reg).setWidth 4096) p.val).setWidth 1024
      { t with k := SMap.set 0 t.k p.reg x }
  | .v =>
    let x := if p.expand then BitVec.ofNat 4096 (expandBlock p.val.toNat) else p.val
    { t with v := SMap.set 0 t.v p.reg (merge p.mask (SMap.get 0 t.v p.reg) x) }
  | .m => { t with m := SMap.set 0 t.m p.reg (p.val.setWidth 64) }
  | .a =>
    -- SADV gives a walk position only: its mask is 0 (R375)
    if p.mask = 0 then { t with apos := SMap.set 0 t.apos p.reg p.val.toNat }
    else { t with a := SMap.set 0 t.a p.reg (p.val.setWidth 256), apos := SMap.set 0 t.apos p.reg 0 }

/-- Whether every result due now or earlier is present (R62). -/
def Context.allPresent (t : Context) : Bool := t.inflight.all (fun p => t.time < p.due || p.parts == 0)

/-- A result due now or earlier that may land: it is present, and no result of its register that was issued before it is due
and absent (R60, R299). -/
def Context.lands (t : Context) (p : Pend) : Bool :=
  decide (p.due ≤ t.time) && p.parts == 0 &&
    t.inflight.all (fun q => !(q.parts != 0 && decide (q.due ≤ t.time) && q.file == p.file && q.reg == p.reg && decide (q.ord ≤ p.ord)))

/-- Results due now or earlier land in issue order; one that is absent, and what was issued to its register after it, wait
(R60, R62, R299). -/
def Context.settle (t : Context) : Context :=
  (t.inflight.filter t.lands).foldl Context.put { t with inflight := t.inflight.filter (fun p => !t.lands p) }

/-- A part of a value arrives. -/
def Pend.fill (p : Pend) (tag lo v : Nat) : Pend :=
  if p.tag = tag ∧ p.parts ≠ 0 then { p with val := p.val ||| BitVec.ofNat 4096 (v * 2 ^ lo), parts := p.parts - 1 }
  else p

def Context.fill (t : Context) (tag lo v : Nat) : Context :=
  { t with inflight := t.inflight.map (fun p => p.fill tag lo v)
           latched := t.latched.map (fun p => p.fill tag lo v) }

/-- A result that cannot arrive is zero (R309). -/
def Pend.lose (p : Pend) (tag : Nat) : Pend :=
  if p.tag = tag ∧ p.parts ≠ 0 then { p with val := 0, parts := 0, expand := false } else p

def Context.lose (t : Context) (tag : Nat) : Context :=
  { t with inflight := t.inflight.map (fun p => p.lose tag), latched := t.latched.map (fun p => p.lose tag) }

/-- Freeze: results due later go to the latches with their remaining delay (R299). -/
def Context.freeze (t : Context) : Context :=
  { t with latched := t.inflight.map (fun p => { p with due := p.due - t.time }), inflight := [] }

/-- Replay the latches from the present BT (R300). -/
def Context.replay (t : Context) : Context :=
  { t with inflight := t.latched.map (fun p => { p with due := p.due + t.time }) ++ t.inflight, latched := [] }

/-- Every result lands, in due order, once all of them have arrived; none while one is absent (R304). -/
def Context.landAll (t : Context) : Option Context :=
  if t.inflight.all (fun p => p.parts == 0) then
    some ((t.inflight.mergeSort (fun p q => p.due < q.due || (p.due == q.due && p.ord ≤ q.ord))).foldl Context.put
      { t with inflight := [] })
  else none

end Sys2Proof.Machine
end

