-- ==== Sys2Proof/Machine/Translate.lean ====
section
/-! DEFINITION. Translation (09_translation_and_coherence R196 to R206): walks, merging, the shadow-context service and
invalidations. -/

namespace Sys2Proof.Machine

/-- The buffered leaf that covers an address. -/
def findLeaf (ls : List Leaf) (asid va : Nat) : Option Leaf :=
  ls.find? (fun l => l.asid == asid && l.vpn == va / 2 ^ (if l.big then 30 else 21))

/-- Whether a physical address lies in a leaf's page. -/
def Leaf.holds (l : Leaf) (pa : Nat) : Bool := l.base ≤ pa && decide (pa < l.base + 2 ^ (if l.big then 30 else 21))

/-- The leaf of a core's buffer through which an address space reaches a physical address: the first of them, where more than one does
(log entry 82). -/
def Core.leafTo (k : Core) (asid pa : Nat) : Option Leaf := k.tlb.find? (fun l => l.asid == asid && l.holds pa)

/-- The physical address a leaf gives. -/
def Leaf.apply (l : Leaf) (va : Nat) : Nat := l.base + va % 2 ^ (if l.big then 30 else 21)

-- ## Leaves and buffers (R197, R198, R200)

/-- What a walk finds: a leaf with its page's address and permissions, a hand-over, a fault, or an entry whose read waits on
the fabric. -/
inductive Walk where
  | leaf (big : Bool) (base : Nat) (rd wr : Bool)
  | shadow (flagged : Bool) (e level pa : Nat)
  | fault (e : MissEnd)
  | wait
deriving DecidableEq, Repr

/-- log2 of the page size of a leaf's level (R196). -/
def pageLog (level : Nat) : Nat := if level = 1 then 30 else 21

/-- A leaf entry's fields that make it a format fault (R198). -/
def leafBad (e level : Nat) : Bool := bits e 63 56 != 0 || 2 ≤ level || bits e (pageLog level - 1) 12 != 0

/-- The leaf an entry gives at a level. -/
def leafOf (e level : Nat) : Walk :=
  .leaf (level == 1) (bits e 55 (pageLog level) * 2 ^ pageLog level) (bits e 2 2 == 1) (bits e 3 3 == 1)

/-- The walker of a Brick keeps a non-leaf entry it has read (R200), unless an invalidation is flushing its cache (R205).
How many it keeps is open: it keeps the last 512 (log entry 61). -/
def Arch.keepNode (a : Arch) (b asid va lvl node : Nat) : Arch :=
  if a.xlinv.busy || 8 ≤ b then a
  else
    let e : NodeEntry := ⟨asid, lvl, va / 2 ^ (21 + 9 * lvl), node⟩
    a.mapBrick b (fun k => { k with nodeCache := (e :: k.nodeCache.filter (fun f => !(f.asid == asid && f.level == lvl && f.vpn == e.vpn))).take 512 })

/-- Translate of R198 by Brick `b`'s walker from level `n - 1` down; it reads each entry at its home slice (R206). -/
def Arch.walkFrom (a : Arch) (b asid va : Nat) : Nat → Nat → Walk × Arch
  | 0, _ => (.fault .format, a)
  | lvl + 1, node =>
    match a.place node with
    | .stack _ _ =>
      let pa := node + 8 * bits va (29 + 9 * lvl) (21 + 9 * lvl)
      match a.reachHeld b pa 8 false with
      | some a => (.wait, a)
      | none =>
        if !a.readable pa 8 then (.fault (.poison pa), a)
        else
          let q := a.homeRead pa 8
          let e := q.1
          if bits e 0 0 = 0 then (.shadow false e lvl pa, q.2)
          else if bits e 63 56 ≠ 0 then (.fault .format, q.2)
          else if bits e 1 1 = 0 then
            if lvl = 0 || bits e 4 2 ≠ 0 then (.fault .format, q.2)
            else Arch.walkFrom (q.2.keepNode b asid va lvl (bits e 55 12 * 2 ^ 12)) b asid va lvl (bits e 55 12 * 2 ^ 12)
          else if leafBad e lvl then (.fault .format, q.2)
          else if bits e 4 4 = 1 then (.shadow true e lvl pa, q.2)
          else (leafOf e lvl, q.2)
    | _ => (.fault .format, a)

/-- Where a walk starts: at the table that the deepest entry kept leads to, or else at the root (R198, R200). -/
def Arch.walkStart (a : Arch) (b asid va root : Nat) : Nat × Nat :=
  ([1, 2, 3].findSome? (fun l => ((a.brick b).nodeCache.find? (fun f =>
    f.asid == asid && f.level == l && f.vpn == va / 2 ^ (21 + 9 * l))).map (fun f => (l, f.node)))).getD (4, root)

/-- A leaf tagged for a buffer. -/
def Walk.tagged (w : Walk) (asid va : Nat) : Option Leaf :=
  match w with
  | .leaf big base rd wr => some ⟨asid, big, va / 2 ^ (if big then 30 else 21), base, rd, wr⟩
  | _ => none

/-- Put a leaf into a buffer of `n` entries; the oldest leaves it when full (not architectural, R200). -/
def keepLeaf (n : Nat) (ls : List Leaf) (l : Leaf) : List Leaf := (l :: ls.filter (fun k => k != l)).take n

def Arch.bufferCore (a : Arch) (c : Nat) (l : Leaf) : Arch := a.mapCore c (fun k => { k with tlb := keepLeaf 256 k.tlb l })
def Arch.bufferBrick (a : Arch) (b : Nat) (l : Leaf) : Arch :=
  a.mapBrick b (fun k => { k with stb := keepLeaf 16384 k.stb l })

-- ## Misses (R201, R202)

def Core.miss (k : Core) (ag : Agent) : Option Miss := k.misses.find? (fun m => m.agent == ag)
def Arch.mapMiss (a : Arch) (c : Nat) (ag : Agent) (f : Miss → Miss) : Arch :=
  a.mapCore c (fun k => { k with misses := k.misses.map (fun m => if m.agent = ag then f m else m) })
def Arch.dropMiss (a : Arch) (c : Nat) (ag : Agent) : Arch :=
  a.mapCore c (fun k => { k with misses := k.misses.filter (fun m => m.agent != ag) })

/-- Whether a leaf gives a miss the permission it needs (R198). -/
def Leaf.permits (l : Leaf) (m : Miss) : Bool := (!m.read || l.rd) && (!m.write || l.wr)

/-- A leaf meets a miss: the translation is buffered, unless it lacks the permission (R198). -/
def Arch.resolve (a : Arch) (c : Nat) (m : Miss) (l : Leaf) : Arch :=
  if !l.permits m then a.mapMiss c m.agent (fun m => { m with stage := .ended .access })
  else (a.bufferCore c l).dropMiss c m.agent

/-- Whether two misses fall in one walk (R202). -/
def Miss.joins (m : Miss) (asid va : Nat) : Bool := m.asid == asid && m.va / 2 ^ 21 == va / 2 ^ 21

/-- A walk's result for one miss that joined it. -/
def Arch.walked (a : Arch) (c : Nat) (m : Miss) (w : Walk) : Arch :=
  match w with
  | .leaf .. => (match w.tagged m.asid m.va with | some l => a.resolve c m l | none => a)
  | .shadow fl e lvl pa =>
    if m.repeated then a.mapMiss c m.agent (fun m => { m with stage := .ended .declined })
    else a.mapMiss c m.agent (fun m =>
      { m with stage := .shadow, entry := BitVec.ofNat 64 e, level := lvl, entryPa := pa, flagged := fl, stale := false })
  | .wait => a
  | .fault e => a.mapMiss c m.agent (fun m => { m with stage := .ended e })

def Arch.missAt (a : Arch) (e : Nat × Agent) : Option Miss :=
  match (a.core e.1).miss e.2 with
  | some m => if m.stage = .walker then some m else none
  | none => none

/-- The misses in a walker's queue that take a place of their own: one for each walk (R202). -/
def Arch.walksQueued (a : Arch) : List (Nat × Agent) → List (Nat × Nat) → Nat
  | [], seen => seen.length
  | e :: es, seen =>
    match a.missAt e with
    | some m => if seen.contains (m.asid, m.va / 2 ^ 21) then a.walksQueued es seen else a.walksQueued es ((m.asid, m.va / 2 ^ 21) :: seen)
    | none => a.walksQueued es seen

/-- A miss may enter the walker's queue: it joins a walk there, or one of the 32 walks and 512 places is free (R202). -/
def Arch.walkRoom (a : Arch) (b : Nat) (m : Miss) : Bool :=
  (a.brick b).walkq.any (fun e => match a.missAt e with | some n => n.joins m.asid m.va | none => false)
    || a.walksQueued (a.brick b).walkq [] < 544

/-- What the step TRANSLATION_MISS does with one miss at its core: the shared buffer serves it, or it enters the walker's queue
(R200 to R202); none where it must wait for room. -/
def Arch.missMoves (a : Arch) (c : Nat) (m : Miss) : Option Arch :=
  let b := c / 32
  match findLeaf (a.core c).tlb m.asid m.va with
  | some l => some (a.resolve c m l)
  | none =>
    match findLeaf (a.brick b).stb m.asid m.va with
    | some l => some (a.resolve c m l)
    | none =>
      if a.walkRoom b m then
        some ((a.mapBrick b (fun k => { k with walkq := k.walkq ++ [(c, m.agent)] })).mapMiss c m.agent
          (fun m => { m with stage := .walker }))
      else none

/-- The first miss of a core that can move does. -/
def Arch.missStep (a : Arch) (c : Nat) : Arch :=
  (((a.core c).misses.filter (fun m => m.stage == .core)).findSome? (a.missMoves c)).getD a

/-- The walks that run (R202): for each of the first 32, the oldest miss in the queue that is after it. -/
def Arch.walksRun (a : Arch) (q : List (Nat × Agent)) : List Miss :=
  ((q.filterMap a.missAt).foldl (fun ms m => if ms.any (fun n => n.joins m.asid m.va) then ms else ms ++ [m]) []).take 32

/-- The misses of a queue that have joined a walk. -/
def Arch.joined (a : Arch) (q : List (Nat × Agent)) (m : Miss) : List (Nat × Agent) :=
  q.filter (fun e => match a.missAt e with | some n => n.joins m.asid m.va | none => false)

/-- What a walk finds as it reads its entries now. A walk that a service has asked to be repeated starts at the root (R203). -/
def Arch.walkOf (a : Arch) (b : Nat) (q : List (Nat × Agent)) (m : Miss) : Walk × Arch :=
  let again := ((a.joined q m).filterMap a.missAt).any Miss.repeated
  let n := if again then (4, m.root * 2 ^ 12) else a.walkStart b m.asid m.va (m.root * 2 ^ 12)
  a.walkFrom b m.asid m.va n.1 n.2

/-- A walk ends, for every miss that has joined it (R198, R202). A leaf goes to the shared buffer unless it faults every one of them
(R200). -/
def Arch.walkEnds (a : Arch) (b : Nat) (q : List (Nat × Agent)) (m : Miss) (w : Walk × Arch) : Arch :=
  let joined := a.joined q m
  let a' := w.2.mapBrick b (fun k => { k with walkq := q.filter (fun e => !joined.contains e) })
  let a' := match w.1.tagged m.asid m.va with
    | some l => if joined.any (fun e => match a.missAt e with | some n => l.permits n | none => false) then a'.bufferBrick b l else a'
    | none => a'
  joined.foldl (fun x e => match a.missAt e with | some n => x.walked e.1 n w.1 | none => x) a'

/-- One walk ends: the oldest of those that run whose reads need not wait (R202, R206). -/
def Arch.walkStep (a : Arch) (b : Nat) : Arch :=
  let q := (a.brick b).walkq.filter (fun e => (a.missAt e).isSome)
  match a.walksRun q with
  | [] => a.mapBrick b (fun k => { k with walkq := [] })
  | m :: ms =>
    ((m :: ms).findSome? (fun m =>
      let w := a.walkOf b q m
      if w.1 = .wait then none else some (a.walkEnds b q m w))).getD (a.walkOf b q m).2

-- ## The shadow service (R203, R204)

/-- The shadow context as a service starts. Its program begins at address 0 of the shadow store, for which R203 gives no address, and h6
to h15 and the predicates, of which it does not speak, are as after reset (log entry 82). -/
def serviceContext (m : Miss) : Context :=
  { Context.reset with
    status := .running
    g := [(1, BitVec.ofNat 64 m.va), (2, m.entry),
          (3, BitVec.ofNat 64 (m.level + at_ 2 m.flagged + at_ 3 m.write + at_ 4 m.read)),
          (4, BitVec.ofNat 64 m.asid), (5, BitVec.ofNat 64 m.entryPa)].filter (fun e => e.2 != 0) }

/-- Start serving the oldest miss handed over, once the shadow context is idle and no miss is in service: after a HALT, of which R203
and R204 do not speak, one stays in service until its 100 µs are over (log entry 82). -/
def Arch.serviceStart (a : Arch) (c : Nat) : Arch :=
  if (a.ctx c 2).status ≠ .idle || (a.core c).misses.any (fun m => m.stage == .service) then a
  else
    match (a.core c).misses.find? (fun m => m.stage == .shadow) with
    | none => a
    | some m => (a.mapMiss c m.agent (fun m => { m with stage := .service, since := a.clock })).setCtx c 2 (serviceContext m)

/-- The miss in service. -/
def Core.inService (k : Core) : Option Miss := k.misses.find? (fun m => m.stage == .service)

/-- The service in the shadow context declines (R203, R204). -/
def Arch.declineService (a : Arch) (c : Nat) : Arch :=
  (a.mapCore c (fun k => { k with misses := k.misses.map (fun m =>
      if m.stage = .service then { m with stage := .ended .declined } else m) })).setCtx c 2 Context.reset

/-- XRET of the shadow context: h15 decides (R203). A leaf made from an entry read before an invalidation is not installed: that miss is
walked afresh (R205). A leaf is installed in the core's own buffer alone: R203 does not name the Brick's (log entry 82). -/
def Arch.serviceEnd (a : Arch) (c : Nat) : Arch :=
  match (a.core c).inService with
  | none => a.setCtx c 2 Context.reset
  | some m =>
    let t := a.ctx c 2
    let e := (t.readG 2).toNat
    let lvl := bits (t.readG 3).toNat 1 0
    let a := a.setCtx c 2 Context.reset
    let decline := a.mapMiss c m.agent (fun m => { m with stage := .ended .declined })
    if t.readG 15 = 0 then
      (if m.repeated then decline
       else a.mapMiss c m.agent (fun m => { m with stage := .core, repeated := true, stale := false }))
    else if t.readG 15 = 1 then
      (if bits e 0 0 = 0 || bits e 1 1 = 0 || 2 ≤ lvl || leafBad e lvl then decline
       else if (m.read && bits e 2 2 == 0) || (m.write && bits e 3 3 == 0) then decline
       else if m.stale then a.mapMiss c m.agent (fun m => { m with stage := .core, stale := false })
       else
         match (leafOf e lvl).tagged m.asid m.va with
         | some l => (a.bufferCore c l).dropMiss c m.agent
         | none => decline)
    else decline

-- ## Invalidation (R205)

/-- Whether an invalidation names the translation of an address, which a leaf of either size may give. -/
def namesVa (p : Leaf → Bool) (asid va : Nat) : Bool :=
  p ⟨asid, false, va / 2 ^ 21, 0, false, false⟩ || p ⟨asid, true, va / 2 ^ 30, 0, false, false⟩

/-- Whether it names the translation of a request to the dispatcher: by the leaf of the core that made it, where that is buffered. -/
def Arch.namesOp (a : Arch) (p : Leaf → Bool) (q : OpReq) : Bool :=
  match q.src.bind (fun e => findLeaf (a.core e.1).tlb q.regs.asid.toNat q.va) with
  | some l => p l
  | none => namesVa p q.regs.asid.toNat q.va

/-- Drop the leaves that `p` selects from every buffer, flush the walkers' caches, empty the template caches (R222), note what has been
translated through one of them, and set BUSY (R205). -/
def Arch.invalidate (a : Arch) (p : Leaf → Bool) : Arch :=
  if a.xlinv.busy then a
  else
    { a with
      cores := SMap.mapv Core.reset a.cores (fun k => { k with
        tlb := k.tlb.filter (fun l => !p l), tmplCache := []
        misses := k.misses.map (fun m => if namesVa p m.asid m.va then { m with stale := true } else m) })
      bricks := SMap.mapv Brick.reset a.bricks (fun k => { k with stb := k.stb.filter (fun l => !p l), nodeCache := [] })
      reqs := a.reqs.map (fun (r : Req) => if r.leaf.any p then { r with named := true } else r)
      fills := a.fills.map (fun (f : Fill) => if f.leaf.any p then { f with named := true } else f)
      opq := a.opq.map (fun (q : OpReq) => if a.namesOp p q then { q with named := true } else q)
      xlinv := { a.xlinv with busy := true, after := a.nextId } }

/-- An access that was translated through a leaf named since, and holds an invalidation up. One that a freeze or trap has withdrawn does
not: it is translated afresh once it has joined again (R205; log entry 82). -/
def Req.stale (r : Req) : Bool := r.named && r.leaf.isSome && r.st != .withdrawn

/-- BUSY clears once the walkers' caches are empty and every access translated through a named entry has been performed: accesses of
cores, fills and requests to the dispatcher, and every write-back sent before (R205). Copies translate each access afresh. -/
def Arch.invalidated (a : Arch) : Arch :=
  if a.xlinv.busy && a.bricks.all (fun e => e.2.nodeCache.isEmpty) && a.reqs.all (fun r => !r.stale) && a.fills.all (fun f => !f.named)
      && a.writeBacks.all (fun w => a.xlinv.after ≤ w.id) && a.opq.all (fun q => !q.named) then
    { a with xlinv := { a.xlinv with busy := false } }
  else a

end Sys2Proof.Machine
end

