-- ==== Sys2Proof/Machine/Ops.lean ====
section
/-! DEFINITION. The shared operations of a slot: reading registers and issuing results (03 R58 to R72), reaching memory
(R23 to R28, R159, R171, R175, R232, R245), taking an exception and returning from it (14 R299 to R304), and committing,
holding or voiding the bundle in issue (R62, R63, R74). -/

namespace Sys2Proof.Machine

-- ## The bundle in issue

/-- What slots read: the module before the bundle (R58). -/
def State.view (s : State) : Arch := s.iss.pre.getD s.arch
/-- The context the bundle reads from. -/
def State.rd (s : State) : Context := s.view.ctx s.iss.core s.iss.ctx
/-- The context as the bundle leaves it so far. -/
def State.cur (s : State) : Context := s.arch.ctx s.iss.core s.iss.ctx
def State.setArch (s : State) (a : Arch) : State := { s with arch := a }
def State.upd (s : State) (f : Context → Context) : State := s.setArch (s.arch.mapCtx s.iss.core s.iss.ctx f)
def State.setIss (s : State) (i : Issue) : State := { s with iss := i }

/-- A slot's guard, read as the bundle reads predicates (R72, R83). -/
def State.guard (s : State) (p : Nat) : Bool :=
  if 16 ≤ p then !s.rd.readP (p % 16) else s.rd.readP (p % 16)

def full4096 : BitVec 4096 := BitVec.allOnes 4096

/-- Issue a result of latency `lat` (R58, R59). -/
def State.result (s : State) (file : RFile) (reg : Nat) (mask val : BitVec 4096) (lat : Nat) : State :=
  s.upd (fun t => { t with inflight := t.inflight ++ [⟨file, reg, mask, val, 0, t.time + lat, t.ord, 0, 0, false⟩] })

/-- Land(gd, x, lat): writes to g0 are discarded (R67). -/
def State.landG (s : State) (d : Nat) (x : Word) (lat : Nat) : State :=
  if d = 0 then s else s.result .g (s.rd.physG d) full4096 (x.setWidth 4096) lat

def State.landP (s : State) (d : Nat) (x : Bool) (lat : Nat) : State :=
  if d = 0 then s else s.result .p (s.rd.physP d) full4096 (if x then 1 else 0) lat

def State.landK (s : State) (d : Nat) (x : Nat) (lat : Nat) : State :=
  if d = 0 then s else s.result .k d full4096 (BitVec.ofNat 4096 x) lat

/-- Land in a vector register the bits `mask` selects (R68). -/
def State.landV (s : State) (d : Nat) (mask : BitVec 4096) (x : Nat) (lat : Nat) : State :=
  s.result .v (s.rd.physV d) mask (BitVec.ofNat 4096 x) lat

/-- Issue a result whose value arrives in `parts` parts (R62, R63); `reg` is none where the result is discarded. -/
def State.pending (s : State) (file : RFile) (reg : Nat) (lat parts entries : Nat) (expand : Bool) : State × Nat :=
  let tag := s.arch.nextId
  let s := s.setArch { s.arch with nextId := tag + 1 }
  (s.upd (fun t => { t with inflight := t.inflight ++
    [⟨file, reg, full4096, 0, parts, t.time + lat, t.ord, tag, entries, expand⟩] }), tag)

-- ## Outcomes of a slot

/-- What a slot does: its effect, a trap (cause, TINFO, step of R104, ARG), a hold that leaves the bundle's later checks
to be made (R232), or a stall that decides nothing more until it is resolved. -/
inductive SlotR where
  | ok (s : State)
  | trap (cause info step arg : Nat)
  | hold (h : Hold)
  | stall (h : Hold) (a : Arch)
deriving DecidableEq, Repr

def SlotR.bind (r : SlotR) (f : State → SlotR) : SlotR :=
  match r with
  | .ok s => f s
  | .trap c i st g => .trap c i st g
  | .hold h => .hold h
  | .stall h a => .stall h a

/-- A guarded-off slot does nothing of its own (R72). -/
def State.whenOn (s : State) (p : Nat) (r : SlotR) : SlotR := if s.guard p then r else .ok s

-- ## Reaching memory

/-- Where a virtual address leads (R23, R24, R198 to R201). -/
inductive Xl where
  | near (off : Nat)
  | aperture (off : Nat)
  | phys (pa : Nat)
  | fault (cause : Nat)
  | poison (pa : Nat)
  | miss
deriving DecidableEq, Repr

/-- Trap cause of a miss that ended against the access (R203, R301). -/
def MissEnd.cause : MissEnd → Nat
  | .declined => 6
  | .access => 7
  | .format => 8
  | .poison _ => 0x0D

/-- What a miss that ended against its access answers; a walk that read a poisoned entry names it (R216, R301). -/
def MissEnd.answer : MissEnd → Xl
  | .poison pa => .poison pa
  | e => .fault e.cause

/-- Translate in the core's buffer for one agent (R200, R201). -/
def Arch.lookup (a : Arch) (c : Nat) (ag : Agent) (asid va : Nat) (r w : Bool) : Xl :=
  let k := a.core c
  match findLeaf k.tlb asid va with
  | some l => if (r && !l.rd) || (w && !l.wr) then .fault 7 else .phys (l.apply va)
  | none =>
    match k.misses.find? (fun m => m.agent == ag && m.va / 2 ^ 21 == va / 2 ^ 21 && m.asid == asid) with
    | some m => (match m.stage with | .ended e => e.answer | _ => .miss)
    | none => .miss

/-- Where an address of a context leads; the shadow context's addresses are physical, with the module's own number added at bit 48: with
bits [55:48] not 0, of which R204 does not speak, they add up (log entry 82). -/
def Arch.xlate (a : Arch) (c x : Nat) (va : Nat) (r w : Bool) : Xl :=
  let off := va % 2 ^ 56
  if va / 2 ^ 56 = 0xFE then
    (if off < spadSize then .near off
     else if 0x100000 ≤ off ∧ off < 0x100400 then .aperture (off - 0x100000)
     else .fault 4)
  else if va / 2 ^ 56 ≠ 0 then .fault 4
  else if x = 2 then .phys (off + a.modnum.toNat * 2 ^ 48)
  else a.lookup c (.ctx x) (a.ctx c x).asid.toNat off r w

def MissStage.isEnded : MissStage → Bool
  | .ended _ => true
  | _ => false

/-- Note a translation miss of an agent, once (R201); one that ended against an access given up since makes way. -/
def Arch.addMiss (a : Arch) (c : Nat) (ag : Agent) (asid root va : Nat) (r w : Bool) : Arch :=
  if (a.core c).misses.any (fun m => m.agent == ag && !m.stage.isEnded) then a
  else a.mapCore c (fun k => { k with misses := k.misses.filter (fun m => m.agent != ag) ++
    [⟨ag, va, asid, root, r, w, .core, 0, 0, 0, false, false, false, 0⟩] })

/-- A context's clock is held while a core access or engine fetch of its core misses (R201, R156), and after a fetch has failed until
its call has stopped and the trap is set (R156 step 4). -/
def Core.clockHeld (k : Core) : Bool :=
  k.misses.any (fun m =>
    match m.agent with
    | .ctx _ => !m.stage.isEnded
    | .engine _ => !m.stage.isEnded || (match findLeaf k.tlb m.asid m.va with
      | some l => (m.read && !l.rd) || (m.write && !l.wr)
      | none => true)
    | _ => false)

/-- Watermark check of one range against one channel (R232): none to pass, a trap with its TINFO, or a hold. -/
inductive Wmark where
  | pass
  | hold
  | trap (n info : Nat)
deriving DecidableEq, Repr

def Chan.check (h : Chan) (n va len : Nat) : Wmark :=
  let lo := max va h.wm.toNat
  let hi := min (va + len) h.wmlim.toNat
  if lo < hi then
    (match h.state with
     | .fault => .trap n lo
     | .active => .hold
     | _ => .pass)
  else .pass

/-- WatermarkCheck over the channels listed, lowest first. -/
def watermark (hs : List (Nat × Chan)) (va len : Nat) : Wmark :=
  hs.foldl (fun r e =>
    match r with
    | .trap n i => .trap n i
    | _ => (match e.2.check e.1 va len with | .pass => r | o => o)) .pass

/-- The owner that context `x` is: A or B; no other owns a group. -/
def ownerOf (x : Nat) : Owner := if x = 0 then .a else if x = 1 then .b else .free

/-- Another context has freed a group at the time `now`: its release takes effect from the next cycle (R173). -/
def Core.freedNow (k : Core) (x g now : Nat) : Bool :=
  ((SMap.get none k.prev g) : Option (Nat × Nat)).any (fun e => e.1 != x && e.2 == now)

/-- Whether context `x` may touch a bank group of its core, at the time `now` (R171, R173). -/
def Core.mayTouch (k : Core) (x g now : Nat) : Bool :=
  let o := SMap.get Owner.free k.owner g
  o == ownerOf x || (o == .free && !k.freedNow x g now)

/-- Bank groups a scratchpad range touches. -/
def groupsOf (off len : Nat) : List Nat :=
  (upTo ((off + len - 1) / 0x8000 - off / 0x8000 + 1)).map (fun i => off / 0x8000 + i)

/-- A range an access may be made to: near or through the global window, as physical segments. -/
structure Range where
  near : Bool
  segs : List (Nat × Nat)
deriving DecidableEq, Repr

/-- What the checks of one range find. -/
inductive RangeR where
  | ok (r : Range)
  | trap (cause info arg : Nat)
  | hold (h : Hold)
  | stall (h : Hold) (a : Arch)
deriving DecidableEq, Repr

/-- A fill in flight is asked for again (R175, R176): one asked for a read is raised to ownership where that is wanted now, and the
first bundle held for a fill that others have asked for waits from then on. -/
def Fill.again (f : Fill) (own touch : Bool) (now : Nat) : Fill :=
  let f := if own && !f.owner then { f with owner := true, stage := .sent } else f
  if f.touch && !touch then { f with touch := false, since := now } else f

/-- Ask for a fill or upgrade of a stash entry, once (R175); `touch` where no bundle is held for it: for a STASHT, the matrix engine or
a drain. -/
def Arch.askFill (a : Arch) (c key pa : Nat) (own touch : Bool) : Arch :=
  if a.fills.any (fun f => f.core == c && f.group * 256 + f.entry == key) then
    { a with fills := a.fills.map (fun f => if f.core = c ∧ f.group * 256 + f.entry = key then f.again own touch a.clock else f) }
  else { a with nextId := a.nextId + 1
                fills := a.fills ++ [⟨a.nextId, c, key / 256, key % 256, pa / 128 * 128, own, .sent, a.clock, touch,
                  (a.core c).leafTo (a.ctx c (if SMap.get Owner.free (a.core c).owner (key / 256) = .b then 1 else 0)).asid.toNat pa, false⟩] }

/-- The virtual address a stash entry caches, where its group is in stash mode (R174). -/
def Core.stashVa (k : Core) (key : Nat) : Option Nat :=
  (SMap.get none k.window (key / 256)).map (fun b => b + 128 * (key % 256))

/-- What an access without permission asks of one stash entry (R175): its key and physical address, or what else its translation
comes to. -/
def State.stashAsk (s : State) (va key wva : Nat) (w : Bool) : (Nat × Nat) ⊕ RangeR :=
  let a := s.view
  match a.xlate s.iss.core s.iss.ctx wva (!w) w with
  | .phys pa => (match a.place pa with | .stack _ _ => .inl (key, pa) | _ => .inr (.trap 5 va 0))
  | .fault k => .inr (.trap k va 0)
  | .poison pa => .inr (.trap 0x0D pa 0)
  | .miss => .inr (.stall .clock (a.addMiss s.iss.core (.ctx s.iss.ctx) s.rd.asid.toNat s.rd.ptroot.toNat wva (!w) w))
  | _ => .inr (.trap 4 va 0)

/-- The entries of a near range that lack permission, with the virtual address each caches (R175). -/
def State.stashLacks (s : State) (off len : Nat) (w : Bool) : List (Nat × Nat) :=
  let k := s.view.core s.iss.core
  ((upTo ((off + len - 1) / 128 - off / 128 + 1)).map (fun i => off / 128 + i)).filterMap (fun key =>
    match k.stashVa key with
    | some wva => if (SMap.get StashState.invalid k.stash key).grants w then none else some (key, wva)
    | none => none)

/-- Permission of the stash entries a near range touches (R175): all that lack it are translated and asked for at once. -/
def State.stashCheck (s : State) (va off len : Nat) (w : Bool) : Option RangeR :=
  let qs := (s.stashLacks off len w).map (fun e => s.stashAsk va e.1 e.2 w)
  match qs.findSome? (fun q => match q with | .inr r => some r | .inl _ => none) with
  | some r => some r
  | none =>
    if qs.isEmpty then none
    else some (.stall .stash (qs.foldl (fun a q => match q with
      | .inl e => a.askFill s.iss.core e.1 e.2 w false
      | .inr _ => a) s.view))

/-- Whether an access homed at `pl` waits behind an acquire (R245). -/
def Context.acquireHeld (t : Context) (c : Nat) (pl : Place) : Bool :=
  t.acqs.any (fun e =>
    match e.2 with
    | 0 => (match pl with | .spad c' _ => c' == c | _ => false)
    | 1 => pl.home == c / 32
    | _ => true)

/-- Segments of a range cut at 2 MiB boundaries. -/
def cutPages (va len : Nat) : List (Nat × Nat) :=
  let room := 0x200000 - va % 0x200000
  if len ≤ room then [(va, len)] else [(va, room), (va + room, len - room)]

/-- What a core may reach (R28, R177, R314): `dword` allows the Quoin registers, for a plain LD.D or ST.D. -/
def Arch.coreReach (a : Arch) (pa len : Nat) (w dword : Bool) : Bool :=
  match a.place pa, a.place (pa + len - 1) with
  | .stack b _, .stack b' _ => b == b'
  | .spad c o, .spad c' o' => c == c' && (groupsOf o (o' + 1 - o)).all (fun g => ((SMap.get none (a.core c).window g) : Option Nat).isNone)
  | .quoin o, .quoin _ => dword && (a.quoinPeek o).isSome && (!w || o == 0x100 || o == 0x4000)
  | _, _ => false

/-- Every check of one global range (R198, R28, R232, R245), in the order translation, physical address, watermark. -/
def State.globalRange (s : State) (va len : Nat) (r w dword : Bool) : RangeR :=
  let a := s.view
  let c := s.iss.core
  let x := s.iss.ctx
  let t := s.rd
  let segs := (cutPages va len).map (fun e => (e.1, e.2, a.xlate c x e.1 r w))
  match segs.findSome? (fun e => match e.2.2 with
      | .fault k => some (some (k, va)) | .poison pa => some (some (0x0D, pa)) | .phys _ => none | _ => some none) with
  | some (some k) => .trap k.1 k.2 0
  | some none =>
    let bad := (segs.find? (fun e => e.2.2 == .miss)).map Prod.fst
    .stall .clock (a.addMiss c (.ctx x) t.asid.toNat t.ptroot.toNat ((bad.getD va) % 2 ^ 56) r w)
  | none =>
    let ps := segs.map (fun e => (match e.2.2 with | .phys p => (p, e.2.1) | _ => (0, e.2.1)))
    if ps.any (fun e => !a.coreReach e.1 e.2 w dword) then .trap 5 va 0
    else
      match watermark t.chans va len with
      | .trap n i => .trap 10 i n
      | .hold => .hold (.watermark va len)
      | .pass =>
        if ps.any (fun e => t.acquireHeld c (a.place e.1)) then .hold .acquire else .ok ⟨false, ps⟩

/-- Where a scratchpad offset of a core is homed for one of its own accesses: in the line that its stash entry caches, where
its group is in stash mode (R175, R244, R245). -/
def Arch.homePa (a : Arch) (c o : Nat) : Nat :=
  match (a.core c).stashKey o with
  | some key => SMap.get 0 (a.core c).stashLine key * 128 + o % 128
  | none => a.spadPa c o

/-- A scratchpad range as segments: whole, or one for each stash entry (R175). -/
def Arch.nearSegs (a : Arch) (c off len : Nat) : List (Nat × Nat) :=
  if (groupsOf off len).all (fun g => ((SMap.get none (a.core c).window g) : Option Nat).isNone) then [(a.spadPa c off, len)]
  else
    (upTo ((off + len - 1) / 128 - off / 128 + 1)).map (fun i =>
      let lo := max off ((off / 128 + i) * 128)
      (a.spadPa c lo, min (off + len) ((off / 128 + i + 1) * 128) - lo))

/-- Every check of one scratchpad range through the core-local space (R159, R171, R175, R232, R245). -/
def State.nearRange (s : State) (va off len : Nat) (w : Bool) : RangeR :=
  let a := s.view
  let c := s.iss.core
  let x := s.iss.ctx
  let t := s.rd
  if spadSize < off + len then .trap 4 va 0
  else if x ≠ 2 && (groupsOf off len).any (fun g => !(a.core c).mayTouch x g a.clock) then .trap 9 va 0
  else
    match watermark t.chans va len with
    | .trap n i => .trap 10 i n
    | .hold => .hold (.watermark va len)
    | .pass =>
      match s.stashCheck va off len w with
      | some r => r
      | none =>
        if (a.nearSegs c off len).any (fun e => t.acquireHeld c (a.place (a.homePa c (e.1 - a.spadPa c 0)))) then .hold .acquire
        else .ok ⟨true, a.nearSegs c off len⟩

/-- The checks of a range of any kind; `dword` marks a plain LD.D or ST.D. -/
def State.range (s : State) (va len align : Nat) (r w dword : Bool) : RangeR :=
  if va % align ≠ 0 then .trap 4 va 0
  else if va / 2 ^ 56 ≠ (va + len - 1) / 2 ^ 56 then .trap 4 va 0
  else if va / 2 ^ 56 = 0 then s.globalRange va len r w dword
  else
    match s.view.xlate s.iss.core s.iss.ctx va r w with
    | .near off => s.nearRange va off len w
    | _ => .trap 4 va 0

def RangeR.bind (q : RangeR) (f : Range → SlotR) : SlotR :=
  match q with
  | .ok r => f r
  | .trap c i g => .trap c i 9 g
  | .hold h => .hold h
  | .stall h a => .stall h a

/-- The class latency of a global home (R28, R61). -/
def State.classLatency (s : State) (segs : List (Nat × Nat)) : Nat :=
  if segs.all (fun e => (s.view.place e.1).home == s.iss.core / 32) then 640 else 896

/-- A segment cut up, as address, length, and offset within the whole access: for a write whole lines (R181), and else aligned
doublewords (R242). -/
def cutFrom (w : Bool) (pa len lo : Nat) : Nat → List (Nat × Nat × Nat)
  | 0 => []
  | f + 1 =>
    if len = 0 then []
    else
      let n := if w && pa % 128 == 0 && 128 ≤ len then 128 else min len (8 - pa % 8)
      (pa, n, lo) :: cutFrom w (pa + n) (len - n) (lo + n) f

/-- The pieces an access is made in: in the scratchpad whole, or by the entries of a stash; elsewhere a write by whole lines,
and what is left by aligned doublewords (R181, R242; log entry 62). -/
def pieces (r : Range) (w : Bool) : List (Nat × Nat × Nat) :=
  (r.segs.foldl (fun (acc : List (Nat × Nat × Nat) × Nat) e =>
    (acc.1 ++ (if r.near then [(e.1, e.2, acc.2)] else cutFrom w e.1 e.2 acc.2 (e.2 + 1)), acc.2 + e.2)) ([], 0)).1

/-- A request of the bundle in issue, not yet numbered. -/
def State.req (s : State) (op : MemOp) (near : Bool) (pa len data : Nat) : Req :=
  { id := 0, seq := 0, va := 0, core := s.iss.core, ctx := s.iss.ctx, op := op, pa := pa, len := len, data := data, cmp := 0, near := near
    acq := none, rel := none, comm := false, det := false, tag := none, lo := 0, hpa := pa, slot := s.iss.pos, time := 0, use := 0
    born := 0, win := none, leaf := none, named := false, st := .flight }

/-- Add an access to the bundle (R243). -/
def State.access (s : State) (r : Req) : State := s.setIss { s.iss with accs := s.iss.accs ++ [r] }
def State.accesses (s : State) (rs : List Req) : State := s.setIss { s.iss with accs := s.iss.accs ++ rs }

/-- Load a range into a result: one request for each piece. -/
def State.loadRange (s : State) (r : Range) (file : RFile) (reg lat entries : Nat) (expand : Bool) (acq : Option Nat) :
    State :=
  let ps := pieces r false
  let q := s.pending file reg lat ps.length (if r.near then 0 else entries) expand
  q.1.accesses (ps.map (fun e =>
    { q.1.req .ld r.near e.1 e.2.1 0 with tag := some q.2, lo := 8 * e.2.2, acq := acq }))

/-- The stores of a value to a range, one for each piece. -/
def State.stores (s : State) (r : Range) (x : Nat) (rel : Option Nat) : List Req :=
  (pieces r true).map (fun e => { s.req .st r.near e.1 e.2.1 (x / 2 ^ (8 * e.2.2) % 2 ^ (8 * e.2.1)) with rel := rel })

/-- Store a value to a range. -/
def State.storeRange (s : State) (r : Range) (x : Nat) (rel : Option Nat) : State := s.accesses (s.stores r x rel)

/-- Physical register of a g destination; 0 discards (R67). -/
def State.destG (s : State) (d : Nat) : Nat := if d = 0 then 0 else s.rd.physG d

-- ## Taking an exception (R299, R303, R309)

/-- TCAUSE (R304). -/
def tcauseWord (cause slot step arg : Nat) : Word :=
  BitVec.ofNat 64 (cause + 2 ^ 8 * slot + 2 ^ 16 * step + 2 ^ 24 * arg)

/-- An access that waits at its bank for a condition (R163, R169). -/
def MemOp.waits : MemOp → Bool
  | .ldf | .ste | .barWait => true
  | _ => false

/-- An access of a context that is waiting at a bank. -/
def Req.waiting (r : Req) (c x : Nat) : Bool := r.core == c && r.ctx == x && r.op.waits && r.st != .flight

/-- Waiting LDF and STE of a context are withdrawn at a freeze, and hold nothing back meanwhile (R166). -/
def Arch.withdraw (a : Arch) (c x : Nat) : Arch :=
  let out (i : Nat) : Bool := a.reqs.any (fun r => r.id == i && r.waiting c x)
  let rs := a.reqs.map (fun (r : Req) => if r.waiting c x then { r with st := .withdrawn } else r)
  (Arch.mapCore { a with reqs := rs } c
    (fun (k : Core) => { k with parked := k.parked.filter (fun i =>
      !a.reqs.any (fun r => r.id == i && r.core == c && r.ctx == x)) })).mapCtx c x
    (fun t => { t with acqs := t.acqs.filter (fun e => !out e.1) })

/-- Whether an access belongs to the program a handler has interrupted (R299). -/
def Context.trappedIssued (t : Context) (r : Req) : Bool :=
  t.latched.any (fun p => some p.tag == r.tag)
    || (match t.latchedWait with | some w => w.req == r.id && (w.kind == .ste || w.kind == .barwait) | none => false)

/-- A withdrawn access that joins again when its context resumes: what runs in a handler leaves its program's aside. -/
def Arch.rejoins (a : Arch) (c x : Nat) (r : Req) : Bool :=
  r.core == c && r.ctx == x && r.st == .withdrawn && !(a.ctx c x).trappedIssued r

/-- On resume they join again, after every access issued meanwhile (R166), and by a translation of then, where an invalidation has named
theirs (R205). -/
def Arch.rejoin (a : Arch) (c x : Nat) : Arch :=
  let acqs := a.reqs.filterMap (fun (r : Req) => if a.rejoins c x r then r.acq.map (fun sc => (r.id, sc)) else none)
  Arch.mapCtx { a with
      nextId := a.nextId + 1
      reqs := a.reqs.map (fun (r : Req) => if a.rejoins c x r then
        { r with st := .flight, seq := a.nextId, leaf := if r.named then none else r.leaf } else r) } c x
    (fun t => { t with acqs := t.acqs ++ acqs })

/-- The core from which the context's bundles are fetched: its gang's lead (R40). -/
def Arch.leadOf (a : Arch) (c x : Nat) : Nat :=
  match (a.ctx c x).unit.bind a.unit with
  | some u => u.cores.headD c
  | none => c

/-- Take a trap of context `x` of core `c` at the bundle at `pc`: which registers save what, what mode follows, where the pc
goes (R303), or the start of a fatal trap (R309), which `fatal` makes it whatever TVEC holds; `left` is REPLEFT. A machine check is
reported to the host (R310, R318). A trap in the shadow context declines its service. A trap of the matrix engine that is still to be
taken comes next, in the handler. -/
def Arch.raiseAs (a : Arch) (c x pc cause slot step arg info left : Nat) (fatal : Bool) : Arch :=
  let a := if cause = 0x0D then a.interruptFrom (c / 32) 0 else a
  if x = 2 then a.declineService c
  else
    let a := (a.withdraw c x).mapCore c (fun k => { k with misses := k.misses.filter (fun m =>
      !(m.agent == .ctx x && m.stage.isEnded)) })
    let t := a.ctx c x
    let tvec := (a.ctx (a.leadOf c x) x).trap.tvec
    if tvec.getLsbD 0 && !t.trap.tmode && !fatal then
      let t := t.freeze
      a.setCtx c x { t with
        trap := { t.trap with
          tcause := tcauseWord cause slot step arg
          tbundle := BitVec.ofNat 64 (pc % 2 ^ 18)
          tinfo := BitVec.ofNat 64 info
          tmode := true
          repleft := left
          hbt := 0 }
        pc := tvec.toNat % 2 ^ 18 / 2 * 2
        owed := none
        bubbles := 0
        latchedWait := t.wait
        wait := none
        engineTrap := if cause = 0x0C then none else t.engineTrap
        hold := none }
    else
      a.setCtx c x { t with
        status := .failing
        dying := cause
        wait := t.wait.filter (fun w => w.kind != .trap)
        engineTrap := none
        hold := none
        trap := { t.trap with
          tcause := tcauseWord cause slot step arg
          tinfo := BitVec.ofNat 64 info
          tbundle := if t.trap.tmode then t.trap.tbundle else BitVec.ofNat 64 (pc % 2 ^ 18)
          repleft := if t.trap.tmode then t.trap.repleft else left } }

/-- A trap at the bundle at `pc`; a machine check is always fatal (R310). -/
def Arch.raiseAt (a : Arch) (c x pc cause slot step arg info left : Nat) : Arch :=
  a.raiseAs c x pc cause slot step arg info left (cause == 0x0D)

/-- A trap before the context's next bundle, or of the bundle in issue. -/
def Arch.raise (a : Arch) (c x cause slot step arg info left : Nat) : Arch :=
  a.raiseAt c x (a.ctx c x).pc cause slot step arg info left

/-- Leave the handler (R304): the program resumes at TBUNDLE with REPLEFT issues owed; `len` is the length of the bundle
at TBUNDLE, which REPLEFT = 0 skips. -/
def Arch.leave (a : Arch) (c x len : Nat) : Arch :=
  let t := a.ctx c x
  let pc := t.trap.tbundle.toNat % 2 ^ 18 / 2 * 2
  let t := { t with trap := { t.trap with tmode := false } }
  let t := t.replay
  (a.setCtx c x { t with
    pc := if t.trap.repleft = 0 then pc + len else pc
    owed := if t.trap.repleft = 0 then none else some t.trap.repleft
    bubbles := 0
    wait := t.latchedWait
    latchedWait := none }).rejoin c x

-- ## Ending a program (R38, R48, R348)

/-- Write back a context's DIRTY stash entries of a group and take the group out of stash mode (R176): the data is on its way, and
what accesses to the group are still to be performed go to the lines' homes. -/
def Arch.dropWindow (a : Arch) (c x g : Nat) : Arch :=
  let keys := ((a.core c).stash.filter (fun e => e.1 / 256 == g && e.2 == .dirty)).map Prod.fst
  let a := keys.foldl (fun a i => { (a.sendBack c x a.nextId i) with nextId := a.nextId + 1 }) a
  let inGroup (r : Req) : Bool := r.near && r.core == c && (match a.place r.pa with | .spad _ o => o / 0x8000 == g | _ => false)
  let stashed := ((SMap.get none (a.core c).window g) : Option Nat).isSome
  let rs := a.reqs.map (fun (r : Req) => if stashed && inGroup r then { r with near := false, pa := r.hpa } else r)
  Arch.mapCore { a with reqs := rs } c (fun k => { k with
    window := SMap.set none k.window g none
    stash := k.stash.filter (fun e => e.1 / 256 != g)
    stashLine := k.stashLine.filter (fun e => e.1 / 256 != g) })

/-- The groups a context owns. -/
def Core.owned (k : Core) (x : Nat) : List Nat := (k.owner.filter (fun e => e.2 == ownerOf x)).map Prod.fst

/-- Free every group the context owns; its stash groups are written back first (R38, R173, R176). -/
def Arch.freeGroups (a : Arch) (c x : Nat) : Arch :=
  ((a.core c).owned x).foldl (fun a g =>
    (a.dropWindow c x g).mapCore c (fun k => { k with owner := SMap.set Owner.free k.owner g .free
                                                      prev := SMap.set none k.prev g (some (x, a.clock)) })) a

/-- The number under which a core keeps what unit `u` has left under way, once its context is another's to take (R35, R45; log
entry 14). -/
def ghostOf (u : Nat) : Nat := 16 + u

def Agent.rename (x g : Nat) : Agent → Agent
  | .ctx y => .ctx (if y = x then g else y)
  | .engine y => .engine (if y = x then g else y)
  | .chan y n => .chan (if y = x then g else y) n
  | .drain y => .drain (if y = x then g else y)

/-- The engine's commands and its running call of context `x` go under the number `g`. -/
def Engine.rename (e : Engine) (x g : Nat) : Engine :=
  let cmd (q : Cmd) : Cmd := if q.ctx = x then { q with ctx := g } else q
  { e with
    queue := e.queue.map cmd
    run := e.run.map (fun r => { r with cmd := cmd r.cmd }) }

/-- A core's context `x` becomes idle, and what it has under way goes under the number `g`. -/
def Core.leaveBehind (k : Core) (x g : Nat) : Core :=
  { (k.setCtx g { (k.ctx x) with name := x }).setCtx x Context.reset with
    prev := SMap.mapv none k.prev (fun e => e.map (fun e => if e.1 = x then (g, e.2) else e))
    engine := k.engine.rename x g
    misses := (k.misses.filter (fun m => m.agent != .ctx x)).map (fun m => { m with agent := m.agent.rename x g })
    evq := k.evq.map (fun e => if e.ctx = x then { e with ctx := g } else e) }

/-- The same for the module: accesses, write-backs, doorbells, requests, waits for a walk or an encoder. -/
def Arch.leaveBehind (a : Arch) (c x g : Nat) : Arch :=
  let ren (d y : Nat) : Nat := if d = c ∧ y = x then g else y
  let src (q : Option (Nat × Nat × Nat)) : Option (Nat × Nat × Nat) := q.map (fun e => (e.1, ren e.1 e.2.1, e.2.2))
  Arch.mapCore { a with
    reqs := a.reqs.map (fun (r : Req) => { r with ctx := ren r.core r.ctx })
    writeBacks := a.writeBacks.map (fun (w : WriteBack) => { w with ctx := ren w.core w.ctx })
    doorbells := a.doorbells.map (fun (b : Doorbell) => { b with ctx := ren b.core b.ctx })
    opq := a.opq.map (fun (q : OpReq) => { q with src := src q.src })
    ops := SMap.mapv none a.ops (fun o => o.map (fun o => { o with src := src o.src }))
    bricks := SMap.mapv Brick.reset a.bricks (fun k => { k with
      walkq := k.walkq.map (fun e => if e.1 = c then (e.1, e.2.rename x g) else e)
      encq := k.encq.map (fun e => (e.1, ren e.1 e.2.1, e.2.2)) }) } c (fun k => k.leaveBehind x g)

/-- The program of a context ends: its results are discarded, its groups freed, and the context is idle; what its unit still has
under way does not keep the context (R348, R35, R45). In the shadow
context, of which R203 and R204 are silent here, the miss stays in service (log entry 82). -/
def Arch.endProgram (a : Arch) (c x : Nat) (fate : UnitEnd) : Arch :=
  let u := (a.ctx c x).unit
  let a := a.freeGroups c x
  let a := { a with reqs := a.reqs.filter (fun (r : Req) => !r.waiting c x) }
  let a := a.mapCtx c x (fun t => { t with status := .idle, inflight := [], latched := [], wait := none
                                           latchedWait := none, hold := none, acqs := [], engineTrap := none })
  match u with
  | some u => (a.leaveBehind c x (ghostOf u)).mapUnit u (fun e => { e with fate := some (e.fate.getD fate), ctx := ghostOf u })
  | none => a

-- ## Performing accesses (R244, R245, R247, R164)

/-- Whether an access is to local memory of its context: its core's scratchpad and stash entries, and what is homed on its core's
Brick (R244). -/
def Arch.isLocal (a : Arch) (r : Req) : Bool := r.near || (a.place r.hpa).home == r.core / 32

/-- Whether two accesses share a doubleword, by where they are homed (R244). -/
def Req.meets (q r : Req) : Bool := q.hpa / 8 ≤ (r.hpa + r.len - 1) / 8 && r.hpa / 8 ≤ (q.hpa + q.len - 1) / 8

/-- An access that waits at a bank for a condition, or one that may wait behind such an access of its context. -/
def Arch.stuck (a : Arch) (q : Req) : Bool :=
  a.reqs.any (fun w => w.core == q.core && w.ctx == q.ctx && w.op.waits && w.st != .withdrawn && w.seq ≤ q.seq)

/-- Which of A and B (0 or 1) made an access, whatever number keeps it now; 2 is the shadow context (log entry 14). -/
def Arch.sideOf (a : Arch) (r : Req) : Nat := if r.ctx < 16 then r.ctx else (a.ctx r.core r.ctx).name

/-- Whether `q` comes before `r` in the order in which the accesses of a core are made: near accesses of one cycle A's first (R161). -/
def Arch.precedes (a : Arch) (q r : Req) : Bool :=
  if q.near && r.near && q.time == r.time && a.sideOf q != a.sideOf r then a.sideOf q < a.sideOf r
  else q.seq < r.seq || (q.seq == r.seq && q.id < r.id)

/-- Whether an earlier access `q` orders `r` behind it: of the same context (R244, R245, R247), an earlier element of one stream use
(R373), or a near access of the core's other context, to the same place or issued in the same cycle (R161, R173). What may wait
for a full/empty word or a barrier holds back of the other context only what issued in its cycle to its place (log entry 78). -/
def Arch.ordersBehind (a : Arch) (q r : Req) : Bool :=
  q.core == r.core && a.precedes q r && q.st != .withdrawn &&
    (if q.ctx = r.ctx then
       r.rel.isSome || (q.use != 0 && q.use == r.use) || (!q.comm && ((a.isLocal q && a.isLocal r) || q.meets r))
     else q.near && r.near && q.st == .flight && !(q.comm && r.comm) && (q.meets r || q.time == r.time)
       && (!a.stuck q || (q.meets r && q.time == r.time)))

/-- A write-back that the context's STASHT started before a release is an access the release comes after (R245, R376). -/
def Arch.backsBefore (a : Arch) (r : Req) : Bool :=
  r.rel.isSome && a.writeBacks.any (fun w => w.core == r.core && w.ctx == r.ctx && w.id < r.seq)

/-- A parked waiter of the same doubleword that is to be served before a new request (R164). -/
def Arch.waiterFirst (a : Arch) (r : Req) : Bool :=
  r.st != .parked && a.reqs.any (fun q => q.st == .parked && q.pa / 8 == r.pa / 8 && a.waiterReady q)

/-- The window rule on one access: a read of memory, by its home and the window it issued in (R253). -/
def Arch.readStalls (a : Arch) (r : Req) : Bool :=
  let p := a.place r.hpa
  r.op.reads && (match p with | .stack _ _ | .spad _ _ => true | _ => false) && !a.homeLost p
    && a.windowStalls p.home (r.core / 32) r.born

/-- An access waits whose way to its home crosses a sleeping mortar port, or the way back of what it reads or of its completion (R22,
R213; log entry 68), unless the home is lost. -/
def Arch.portHolds (a : Arch) (r : Req) : Bool :=
  let p := a.place r.pa
  !r.near && a.tripSleeps (r.core / 32) p.home && !a.homeLost p

/-- A snoop that an access needs waits for a port (R213). -/
def Arch.snoopHolds (a : Arch) (r : Req) : Bool :=
  match a.place r.pa with
  | .stack b _ => !(a.brick b).lost && !(a.snoopsWait r.pa r.len r.op.writes).isEmpty
  | _ => false

/-- Whether an access must wait before it may be performed. -/
def Arch.blocked (a : Arch) (r : Req) : Bool :=
  a.reqs.any (fun q => a.ordersBehind q r) || a.backsBefore r || a.waiterFirst r || a.readStalls r || a.portHolds r
    || a.snoopHolds r || a.bankStopped (a.place r.pa)

/-- An access that has to wait: a stalled read is counted, and snoops that wait for a port are on their way. -/
def Arch.noteBlocked (a : Arch) (r : Req) : Arch :=
  if a.readStalls r then a.noteStretch (r.core / 32) r.born
  else if a.snoopHolds r then a.sendWaiting r.pa r.len r.op.writes r.id
  else a

/-- A wait is for the access `id` of an STE or BARWAIT. -/
def Wait.isFor (w : Wait) (id : Nat) : Bool := (w.kind == .ste || w.kind == .barwait) && w.req == id

/-- An access has been performed: what waited for it, in the context or in the program that its handler has interrupted, is over. -/
def Context.unwaitFor (t : Context) (id : Nat) : Context :=
  { t with wait := t.wait.filter (fun w => !w.isFor id), latchedWait := t.latchedWait.filter (fun w => !w.isFor id) }

/-- The context an access belonged to learns that it is performed, with the value `v`; a write was sent in its window (R252), which
an AMOCAS that fails does not make (R335). -/
def Context.performed (t : Context) (r : Req) (v win : Nat) : Context :=
  let t := match r.tag with | some g => t.fill g r.lo v | none => t
  let t := if r.changes v then t.sentIn r.id (r.win.getD win) else t
  { t with acqs := t.acqs.filter (fun e => e.1 != r.id) }.unwaitFor r.id

/-- Remote waiters parked at the group of a bank (R164). -/
def Arch.parkedRemote (a : Arch) (c o : Nat) : Nat :=
  (a.reqs.filter (fun r => r.st == .parked &&
    (match a.place r.pa with | .spad c' o' => c' == c && o' / 0x8000 == o / 0x8000 && r.core != c | _ => false))).length

/-- Whether the program that issued an access is frozen or in its handler (R166, R299). -/
def Context.setAside (t : Context) (r : Req) : Bool := t.status != .running || t.trappedIssued r

/-- One access is changed. -/
def Arch.mapReq (a : Arch) (id : Nat) (f : Req → Req) : Arch :=
  { a with reqs := a.reqs.map (fun (q : Req) => if q.id = id then f q else q) }

/-- The first entry of a stash that an access finds without its permission is asked for again (R175). -/
def Arch.askAgain (a : Arch) (r : Req) (c o : Nat) : Arch :=
  match (a.core c).stashKey o with
  | some key => if r.near then a.askFill c key r.hpa r.op.writes false else a
  | none => a

/-- An access that must wait at its bank joins the waiter list, is withdrawn where its program is frozen and discarded where it
has ended (R166), or is refused where a remote waiter finds the list full. An exact add waits in its slice, and counts in DETWAIT
where the table is full (R195). -/
def Arch.park (a : Arch) (r : Req) : Arch :=
  match a.place r.pa with
  | .spad c o =>
    if r.op.waits then
      if 16 ≤ r.ctx then { a with reqs := a.reqs.filter (fun (q : Req) => q.id != r.id) }
      else if (a.ctx r.core r.ctx).setAside r then
        (a.mapReq r.id (fun q => { q with st := .withdrawn })).mapCtx
          r.core r.ctx (fun t => { t with acqs := t.acqs.filter (fun e => e.1 != r.id) })
      else
      (if r.core = c ∨ a.parkedRemote c o < 30 then
        (a.mapReq r.id (fun q => { q with st := .parked, win := none })).mapCore c
          (fun (k : Core) => { k with parked :=
            if r.st = .parked then k.parked else k.parked.filter (fun i => i != r.id) ++ [r.id] })
       else a.mapReq r.id (fun q => { q with st := .refused }))
    else a.askAgain r c o
  | .stack b _ =>
    if (a.brick b).detq.contains r.id then a
    else a.mapBrick b (fun k => { k with detq := k.detq ++ [r.id]
                                         detwait := if k.detwait = 0xFFFFFFFF ∨ k.dets.length < 4096 then k.detwait else k.detwait + 1 })
  | _ => a

/-- Issues still owed to the bundle before this one (R56, R304). -/
def Context.owes (t : Context) (rep : Nat) : Nat := t.owed.getD (rep + 1)

/-- Length of the bundle at an address of a core's instruction memory. -/
def Core.lenAt (k : Core) (pc : Nat) : Nat := bundleLen (Memory.read k.imem pc 2)

/-- Repetitions of the bundle at a context's pc. -/
def Arch.repAt (a : Arch) (c x : Nat) : Nat := bits (Memory.read (a.core (a.leadOf c x)).imem (a.ctx c x).pc 2) 11 8

/-- The members of the gang of a context, lead first; only itself outside a gang. -/
def Arch.members (a : Arch) (c x : Nat) : List Nat :=
  match (a.ctx c x).unit.bind a.unit with
  | some u => u.cores
  | none => [c]

/-- A fault of any member stops the gang at the bundle: each records its own cause, or GANG (R302). Where a member's is a machine
check, the trap is fatal to them all (R309, R310). -/
def Arch.gangTrap (a : Arch) (x rep : Nat) (cores : List Nat) (traps : List (Nat × TrapNote)) : Arch :=
  let first := (traps.map Prod.fst).headD 0
  cores.foldl (fun a c =>
    let left := (a.ctx c x).owes rep
    match traps.find? (fun e => e.1 == c) with
    | some (_, n) => a.raiseAs c x (a.ctx c x).pc n.cause n.slot n.step n.arg n.info left (traps.any (fun e => e.2.cause == 0x0D))
    | none => a.raiseAs c x (a.ctx c x).pc 0x0F 7 0 0 (cores.findIdx (fun k => k == first)) left
        (traps.any (fun e => e.2.cause == 0x0D))) a

/-- FCAUSE and FVALID (R309, R311). -/
def Debug.fatal (d : Debug) (x cause : Nat) : Debug :=
  if x = 0 then { d with fcausea := BitVec.ofNat 8 cause, fvalida := true }
  else { d with fcauseb := BitVec.ofNat 8 cause, fvalidb := true }

/-- The FATAL fields of a core's debug block are set (R6, R309). -/
def Arch.fatalAt (a : Arch) (c x cause : Nat) : Arch :=
  (a.sets (.fvalid c x)).mapCore c (fun k => { k with dbg := k.dbg.fatal x cause })

/-- A machine check of a unit whose program has halted fails it, with the FATAL fields of the side it ran on (R309, R310); one that has
failed already keeps its cause. -/
def Arch.failHalted (a : Arch) (c x u : Nat) : Arch :=
  let a := if ((a.unit u).bind ExecUnit.fate) = some .failed then a
    else a.fatalAt c (if x < 2 then x else (a.ctx c x).name) 0x0D
  (a.interruptFrom (c / 32) 0).mapUnit u (fun e => { e with fate := some .failed })

/-- A machine check on an access of a context (R310): fatal to its unit, which a gang shares (R302), and the host is told. One
that is already failing, or whose program has halted, takes no further trap (R309). `slot` is 7 for an access of no slot. -/
def Arch.checkAt (a : Arch) (c x pa slot : Nat) : Arch :=
  let t := a.ctx c x
  if t.status = .idle then
    (match t.unit with
     | some u => a.failHalted c x u
     | none => a.interruptFrom (c / 32) 0)
  else if t.status = .failing then a.interruptFrom (c / 32) 0
  else a.gangTrap x (a.repAt c x) (a.members c x) [(c, ⟨0x0D, slot, if slot = 7 then 0 else 9, 0, pa⟩)]

/-- Accesses come to nothing, and leave what waits in a slice for an accumulator (R195). -/
def Arch.dropReqs (a : Arch) (p : Req → Bool) : Arch :=
  let gone := (a.reqs.filter p).map Req.id
  { a with reqs := a.reqs.filter (fun (q : Req) => !p q)
           bricks := SMap.mapv Brick.reset a.bricks (fun k => { k with detq := k.detq.filter (fun i => !gone.contains i) }) }

/-- Perform one access at its home now, if its home lets it (R178); a machine check is fatal (R310), and the value it should have
given is lost (R309). -/
def Arch.performReq (a : Arch) (r : Req) : Arch :=
  match a.performAt r with
  | .done a v =>
    let win := a.window + 1
    let a := { a with reqs := a.reqs.filter (fun (q : Req) => q.id != r.id), snoops := a.snoops.filter (fun m => m.fill != r.id) }
    let a := match a.place r.pa with
      | .spad c _ => a.mapCore c (fun (k : Core) => { k with parked := k.parked.filter (fun i => i != r.id) })
      | .stack b _ => a.mapBrick b (fun k => { k with detq := k.detq.filter (fun i => i != r.id) })
      | _ => a
    a.mapCtx r.core r.ctx (fun t => t.performed r v win)
  | .wait a => a.park r
  | .check a =>
    let a := a.dropReqs (fun q => q.id == r.id)
    let a := a.checkAt r.core r.ctx r.pa r.slot
    match r.tag with
    | some g => a.mapCtx r.core r.ctx (fun t => t.lose g)
    | none => a

/-- While a context is in deterministic mode no mortar port sleeps: one that sleeps as the mode begins wakes at once (R213; log entry
81). -/
def Arch.wakePorts (a : Arch) : Arch :=
  if a.cores.any (fun e => e.2.ctxs.any (fun x => x.2.detm && x.2.status != .idle)) then a.wakeAll else a

/-- The waiters parked on the words of a range whose condition holds are performed, oldest first: they go before any new access to the
words (R164). `n` bounds their number. -/
def Arch.serveWords (a : Arch) (c pa len : Nat) : Nat → Arch
  | 0 => a
  | n + 1 =>
    match (a.core c).parked.findSome? (fun i => a.reqs.find? (fun r =>
        r.id == i && r.st == .parked && decide (r.pa < pa + len) && decide (pa < r.pa + 8) && a.waiterReady r)) with
    | some r => Arch.serveWords (a.performReq r) c pa len n
    | none => a

/-- An access reaches a bank: the waiters that are to be served before it are (R164). -/
def Arch.bankTurn (a : Arch) (pa len : Nat) : Arch :=
  match a.place pa with
  | .spad c _ => a.serveWords c pa len (a.core c).parked.length
  | _ => a

/-- A write to another die leaves its own, in the present window, once nothing holds it there (R252). -/
def Arch.leaves (a : Arch) (r : Req) : Bool :=
  r.win.isNone && r.op.writes && !r.near && !a.isLocal r && !a.reqs.any (fun q => a.ordersBehind q r) && !a.backsBefore r
    && (!a.routeSleeps (r.core / 32) (a.place r.pa).home || a.homeLost (a.place r.pa))

/-- What a bundle does to the banks of its core waits for the end of the core's own cycle: it is the bundle of context B there, issued in
the cycle of its gang's lead, which may come before that of context A (R161, R172). -/
def Arch.deferred (a : Arch) (c x : Nat) : Bool := x == 1 && a.leadOf c x != c

/-- Perform the near accesses just issued that nothing holds back, in order (R161). -/
def Arch.runNear (a : Arch) (ids : List Nat) : Arch :=
  ids.foldl (fun a i =>
    match a.reqs.find? (fun r => r.id == i) with
    | some r => if !r.near then a else if a.blocked r then a.noteBlocked r else a.performReq r
    | none => a) a

/-- An access that takes its place before the writes of its bundle (R243). -/
def Req.early (r : Req) : Bool := !r.op.writes && (match r.op with | .stashBack _ => false | _ => true)

/-- An access as it is numbered: its place in program order, its home, the leaf that led to it, and the windows it issues and is sent
in. -/
def Arch.numbered (a : Arch) (r : Req) : Req :=
  let h := match a.place r.pa with
    | .spad c o => if r.near then a.homePa c o else r.pa
    | _ => r.pa
  let leaf := if r.near || 2 ≤ r.ctx then none else (a.core r.core).leafTo (a.ctx r.core r.ctx).asid.toNat r.pa
  let r := { r with id := a.nextId, seq := a.nextId, hpa := h, time := a.clock, born := a.window + 1, leaf := leaf }
  { r with win := if a.leaves r then some (a.window + 1) else none }

/-- Number a bundle's accesses: reads before writes, each in slot order (R243), and send them. -/
def Arch.enqueue (a : Arch) (rs : List Req) : Arch × List Nat :=
  (rs.filter Req.early ++ rs.filter (fun r => !r.early)).foldl (fun (q : Arch × List Nat) r =>
    let r := q.1.numbered r
    let i := r.id
    let a := { q.1 with nextId := i + 1, reqs := q.1.reqs ++ [r] }
    let a := match r.acq with
      | some sc => a.mapCtx r.core r.ctx (fun t => { t with acqs := t.acqs ++ [(i, sc)] })
      | none => a
    let a := if r.op = .ste ∨ r.op = .barWait then
        a.mapCtx r.core r.ctx (fun t => { t with
          wait := some ⟨if r.op = .ste then .ste else .barwait, r.va, r.data, false, i⟩ })
      else a
    (a, q.2 ++ [i])) (a, [])

-- ## Committing, voiding and holding the bundle

/-- Landing-buffer entries in use on a core (R63). A result absent at its due BT holds its context (R62); its entries stay occupied
until it has landed, which R63 leaves open (log entry 79). -/
def Core.landing (k : Core) : Nat :=
  ((k.ctxs.map (fun e => ((e.2.inflight ++ e.2.latched).map Pend.entries).sum))).sum

/-- Outside a bundle, with the cursor kept. -/
def Issue.rest (i : Issue) : Issue := { Issue.reset with core := i.core, ctx := i.ctx }

/-- Void the bundle (R74): nothing of it stays. -/
def State.rollback (s : State) : State := s.setArch s.view

/-- Whether a hold counts in DETM.HOLDS (R62, R63, R175): in deterministic mode only a full landing buffer, and late data of which
a stretched window, `late`, is the cause (R65, R76). -/
def Hold.counts (h : Hold) (det late : Bool) : Bool :=
  match h with
  | .landingBuffer => true
  | .lateData => !det || late
  | .stash => !det
  | _ => false

/-- The context is held in this cycle. -/
def Context.held (t : Context) (h : Hold) (late : Bool) : Context :=
  { t with hold := some h
           holds := if h.counts t.detm late && t.holds != 0xFFFFFFFF then t.holds + 1 else t.holds }

def State.holdNow (s : State) (h : Hold) : State :=
  let s := s.rollback
  (s.upd (fun t => t.held h false)).setIss { s.iss with trapped := true, left := 0, accs := [], held := some h }

/-- A trap on the bundle in issue: it is voided, and REPLEFT counts its issues still owed (R302). -/
def State.trapNow (s : State) (cause slot step arg info : Nat) : State :=
  let s := s.rollback
  let left := s.cur.owes s.iss.rep
  (s.setArch (s.arch.raise s.iss.core s.iss.ctx cause slot step arg info left)).setIss
    { s.iss with trapped := true, left := 0, accs := [], trap := some ⟨cause, slot, step, arg, info⟩ }

/-- Where the context goes after this issue (R56, R57, R80). -/
def Context.advance (t : Context) (rep len : Nat) (br : Branch) : Context :=
  let t := if t.trap.tmode then { t with trap := { t.trap with hbt := t.trap.hbt + 1 } } else { t with bt := t.bt + 1 }
  let t := { t with ord := t.ord + 1, hold := none }
  match br with
  | .to pc b => { t with pc := pc, bubbles := b, owed := none }
  | _ =>
    let n := t.owes rep
    if n ≤ 1 then { t with pc := t.pc + len, owed := none } else { t with owed := some (n - 1) }

/-- XRET: once every result of the handler has landed, the program resumes (R304, R422); in the shadow context, once its
accesses are performed, the service ends (R203, R204). Until then the context waits. -/
def Arch.xretLeave (a : Arch) (c x : Nat) : Arch :=
  let t := a.ctx c x
  let waits := a.setCtx c x { t with wait := some ⟨.xret, 0, 0, false, 0⟩ }
  if x = 2 then (if a.reqs.any (fun r => r.core == c && r.ctx == 2) then waits else a.serviceEnd c)
  else
    match t.landAll with
    | some t' => (a.setCtx c x t').leave c x ((a.core (a.leadOf c x)).lenAt (t.trap.tbundle.toNat % 2 ^ 18 / 2 * 2))
    | none => waits

/-- XRET has issued. The members of a gang leave their handler together, once all of them have issued (R302, R422). -/
def Arch.xretIssued (a : Arch) (c x : Nat) : Arch :=
  if (a.members c x).length ≤ 1 then a.xretLeave c x
  else a.mapCtx c x (fun t => { t with wait := some ⟨.xret, 0, 0, false, 0⟩ })

/-- A gang leaves its handler once every result of every member's has landed (R302, R304, R422). -/
def Arch.gangLeave (a : Arch) (x : Nat) (cores : List Nat) : Arch :=
  if cores.all (fun c => let t := a.ctx c x
      t.status == .running && (t.wait.map Wait.kind) == some .xret && t.landAll.isSome) then
    cores.foldl (fun a c => (a.mapCtx c x (fun t => { t with wait := none })).xretLeave c x) a
  else a

/-- The trap after a bundle that held a TRAP, once every result due by now has arrived (R299, R302); until then the context waits.
`n` is the operand of its own TRAP, or 256 and the position of the member whose TRAP the gang takes (R384). -/
def Arch.softTrap (a : Arch) (c x pc n : Nat) : Arch :=
  let t := a.ctx c x
  if !t.allPresent then a.setCtx c x { t with wait := some ⟨.trap, pc, n, false, 0⟩ }
  else
    let a := a.mapCtx c x (fun t => { t with wait := none })
    if n < 256 then a.raiseAt c x pc 0x0E 0 0 n 0 0 else a.raiseAt c x pc 0x0F 7 0 0 (n - 256) 0

/-- The scratchpad rows a bundle's core-local accesses touch (R158, R160); a write-back of a STASHT is a background access (R161). -/
def Arch.rowsOf (a : Arch) (rs : List Req) : List Nat :=
  (rs.filter (fun r => r.near && (match r.op with | .stashBack _ => false | _ => true))).flatMap (fun r =>
    match a.place r.pa with
    | .spad _ o => (upTo ((o + r.len - 1) / 64 - o / 64 + 1)).map (fun i => o / 64 + i)
    | _ => [])

/-- The bank of a row (R158). -/
def bankOf (row : Nat) : Nat := row / 512 * 16 + row % 16

/-- Cycles lost to bank conflicts: the most distinct rows of one bank, less 1 (R160). -/
def bankExcess (rows : List Nat) : Nat :=
  let rows := rows.dedup
  (rows.map (fun r => (rows.filter (fun q => bankOf q == bankOf r)).length)).foldl max 1 - 1

/-- The bundle commits (R56 to R58, R63, R243): its accesses are sent, bundle time advances, results due land, and a
HALT, TRAP or XRET in it takes effect. -/
def State.commit (s : State) : State :=
  let c := s.iss.core
  let x := s.iss.ctx
  if 3072 < (s.arch.core c).landing ∧ (s.view.core c).landing < (s.arch.core c).landing then s.holdNow .landingBuffer
  else
    let q := s.arch.enqueue s.iss.accs
    let rows := s.arch.rowsOf s.iss.accs ++ s.iss.rows
    let a := if rows.isEmpty then q.1 else q.1.mapCore c (fun (k : Core) => { k with cycleRows := k.cycleRows ++ rows })
    let a := a.mapCtx c x (fun t => t.advance s.iss.rep s.iss.len s.iss.branch)
    let a := if a.deferred c x then a else a.runNear q.2
    let a := a.mapCtx c x Context.settle
    let a := match s.iss.branch with
      | .halt => a.endProgram c x .complete
      | .xret => a.xretIssued c x
      | _ => a
    let a := match s.iss.trapAfter with
      | some n => a.softTrap c x s.rd.pc n
      | none => a
    (s.setArch a).setIss { s.iss with left := 0, accs := [], rows := [] }

/-- Every M slot moves the metadata PC by one word, unless an MTS of the bundle wrote it (R72, R76). -/
def State.mpcNext (s : State) : State := if s.iss.mpcSet then s else s.upd (fun t => { t with mpc := t.mpc + 1 })

/-- A slot is done: the bundle commits after its last slot, unless a hold was found (R232). -/
def State.slotDone (s : State) : State :=
  if s.iss.left ≤ 1 then
    (match s.iss.held with
     | some h => s.holdNow h
     | none => s.commit)
  else s.setIss { s.iss with left := s.iss.left - 1 }

/-- Finish a slot with its outcome. A bundle that has trapped or stalled does nothing more (R74); of a bundle held for a stash entry
the later slots ask for theirs as well (R175). -/
def State.finish (s : State) (r : SlotR) : State :=
  if s.iss.trapped then s
  else
    match r with
    | .ok s' => s'.slotDone
    | .trap c i st g => s.trapNow c s.iss.pos st g i
    | .hold h => (s.setIss { s.iss with held := some (s.iss.held.getD h) }).slotDone
    | .stall h a =>
      let s := (s.setArch a).setIss { s.iss with pre := some a }
      if h = .stash then (s.setIss { s.iss with held := some (s.iss.held.getD h) }).slotDone else s.holdNow h

/-- The operand of a wait of one kind, if the context holds it; a frozen context's wait stands as it is (R305, R306). -/
def Context.waiting (t : Context) (k : WaitKind) : Option Wait :=
  if t.status = .running then t.wait.filter (fun w => w.kind == k) else none

/-- CYCLES of a core (R344): edges since cold reset that were not omitted. -/
def Core.cycles (k : Core) : Nat := k.lastEdge / 2 - k.omitted

/-- The response to a droop passes from its omitted edges to halved issue (R328). -/
def Core.stretchEnds (k : Core) (h : Health) : Core :=
  if k.stretchLeft = 1 then { k with stretchLeft := 0, halfLeft := h.dwin.toNat + 1, phase := 0 } else k

/-- The halved issue of a droop response is over (R328). -/
def Core.windowEnds (k : Core) : Core := if k.halfLeft = 1 then { k with halfLeft := 0, phase := 0 } else k

/-- What `exec` answers. -/
abbrev Out := Host.Outcome State Fault Refusal

/-- A step of an agent other than a core in issue: it changes the module only. -/
def State.event (s : State) (f : Arch → Arch) : Out := .next (s.setArch (f s.arch))

end Sys2Proof.Machine
end

