-- ==== Sys2Proof/Machine/Operands.lean ====
section
/-! DEFINITION. Operand forms: b operands and the trailing literal (R86), widths and extension of scalar results (R85,
R333), effective addresses (R89, R97), lanes of a vector operand (R68, R86, R387) and lane masks. -/

namespace Sys2Proof.Machine

-- ## Scalar operands (R82, R85, R86)

/-- SignExtend(literal, 32) as a 64-bit value. -/
def litWord (x : BitVec 32) : Word := x.signExtend 64

/-- The b operand of an S slot. -/
def State.src (s : State) : Src → Word
  | .reg n => s.rd.readG n
  | .lit x => litWord x

/-- W of R333. -/
def rWidth (x : RArgs) : Nat := if x.w then 32 else 64

/-- A `w`-bit result as a register value (R85): sign-extended from its top bit, or zero-extended. -/
def extend (w : Nat) (sg : Bool) (x : Nat) : Word :=
  if sg then BitVec.ofInt 64 (sext x w) else BitVec.ofNat 64 (x % 2 ^ w)

/-- The low `w` bits of a register as A or B of R333. -/
def low (w : Nat) (x : Word) : Nat := x.toNat % 2 ^ w

-- ## Effective addresses (R89, R97)

/-- ga + SignExtend(off, n) x scale, modulo 2^64. -/
def effAddr (g : Word) (off : Int) (scale : Nat) : Nat := wrap (Int.ofNat g.toNat + off * Int.ofNat scale) 64

def State.memEa (s : State) (x : MemArgs) : Nat := effAddr (s.rd.readG x.a) x.off.toInt (2 ^ x.sz)
def State.scopeEa (s : State) (x : ScopeArgs) : Nat := effAddr (s.rd.readG x.a) x.off.toInt (2 ^ x.sz)
def State.dwordEa (s : State) (a : Nat) (off : BitVec 6) : Nat := effAddr (s.rd.readG a) off.toInt 8
/-- The address of a C slot: gb plus `scale` times the signed imm14. -/
def State.cEa (s : State) (g : Nat) (imm : BitVec 14) (scale : Nat) : Nat := effAddr (s.rd.readG g) imm.toInt scale

-- ## Vector operands (R68, R86)

/-- The lanes of a register of `ty`, lane 0 first. -/
def lanesOf (ty : VType) (x : BitVec 4096) : List Nat := toLanes ty.width ty.lanes x.toNat

/-- The literal as a lane of `ty` (R86). -/
def litLane (ty : VType) (x : BitVec 32) : Nat :=
  if ty.width = 64 then (if ty = .n64 then x.toNat else (litWord x).toNat) else x.toNat % 2 ^ ty.width

/-- The lanes of the b operand: a register, or the literal in every lane. -/
def State.lanesB (s : State) (ty : VType) : Src → List Nat
  | .reg n => lanesOf ty (s.rd.readV n)
  | .lit x => List.replicate ty.lanes (litLane ty x)

def State.lanesA (s : State) (ty : VType) (n : Nat) : List Nat := lanesOf ty (s.rd.readV n)

/-- A register of lanes. -/
def packLanes (ty : VType) (xs : List Nat) : Nat := ofLanes ty.width xs

/-- The bits of a destination that a lane mask enables (R68). -/
def laneBits (w n k : Nat) : Nat := ofLanes w ((toLanes 1 n k).map (fun b => if b = 1 then 2 ^ w - 1 else 0))

def State.maskBits (s : State) (ty : VType) (k : Nat) : BitVec 4096 :=
  BitVec.ofNat 4096 (laneBits ty.width ty.lanes (s.rd.readK k).toNat)

/-- Land the lanes of a vector result under lane mask `k`. -/
def State.landLanes (s : State) (ty : VType) (vd k : Nat) (xs : List Nat) (lat : Nat) : State :=
  s.landV vd (s.maskBits ty k) (packLanes ty xs) lat

/-- Land a register in full. -/
def State.landFull (s : State) (vd x lat : Nat) : State := s.landV vd full4096 x lat

end Sys2Proof.Machine
end

