-- ==== Sys2Proof/Machine/Memory.lean ====
section
/-! DEFINITION. Scalar memory instructions (16 R347, R350; 17 R377 to R379): loads, stores, full/empty operations, and the
block-transfer aperture (10 R218 to R220). -/

namespace Sys2Proof.Machine

-- ## The aperture (R24, R218, R219)

/-- The aperture offset of an address in the core-local space. -/
def apertureOf (va : Nat) : Option Nat :=
  let off := va % 2 ^ 56
  if va / 2 ^ 56 = 0xFE ∧ 0x100000 ≤ off ∧ off < 0x100400 then some (off - 0x100000) else none

/-- Word `i` of a channel as a load reads it (R218). -/
def Chan.word (h : Chan) (i : Nat) : Word :=
  match i with
  | 1 => h.src
  | 2 => h.dst
  | 3 => h.ctl
  | 4 => h.bar
  | 5 => h.badcnt.setWidth 64
  | 6 => h.faddr
  | _ => 0

/-- A store to word `i` other than 0: RW fields are set, the rest is ignored (R5, R218). -/
def Chan.setWord (h : Chan) (i : Nat) (x : Word) : Chan :=
  match i with
  | 1 => { h with src := x }
  | 2 => { h with dst := x }
  | 3 => { h with ctl := x &&& 0xFFFFFFFF00FFFFF8 }
  | 4 => { h with bar := x &&& 0xFFFFFFFFFFFFFFF8 }
  | _ => h

/-- A start store at BT `bt`: the copy waits to be armed, and the context with it (R220). It has a place of its own in the order of
accesses and starts (R221, R226). -/
def Arch.startCopy (a : Arch) (c x n : Nat) (w : Word) (bt : Nat) : Arch :=
  (Arch.mapChan { a with nextId := a.nextId + 1 } c x n (fun h => { h with start := some w, startBt := bt, startOrd := a.nextId })).mapCtx c x (fun t =>
    { t with wait := some ⟨.start, 0, n, false, n⟩ })

/-- LD.D and ST.D of an aperture doubleword. -/
def State.apertureLoad (s : State) (d o : Nat) : State :=
  s.landG d ((s.rd.chan (o / 64)).word (o % 64 / 8)) 4

def State.apertureStore (s : State) (o : Nat) (x : Word) : State :=
  if o % 64 / 8 = 0 then
    s.setArch (s.arch.startCopy s.iss.core s.iss.ctx (o / 64) x s.rd.bt)
  else s.setArch (s.arch.mapChan s.iss.core s.iss.ctx (o / 64) (fun h => h.setWord (o % 64 / 8) x))

-- ## Loads and stores

/-- A load of `2^sz` bytes at `ea` (R350); `acq` is the scope of an LDA. -/
def State.load (s : State) (d ea sz : Nat) (acq : Option Nat) : SlotR :=
  match apertureOf ea with
  | some o => if sz = 3 && acq.isNone && ea % 8 == 0 && s.iss.ctx < 2 then .ok (s.apertureLoad d o) else .trap 4 ea 9 0
  | none =>
    (s.range ea (2 ^ sz) (2 ^ sz) true false (sz == 3)).bind (fun r =>
      .ok (s.loadRange r .g (s.destG d) (if r.near then 4 else s.classLatency r.segs) 1 false acq))

/-- A store of the low `2^sz` bytes of a register at `ea` (R377); `rel` is the scope of an STL. -/
def State.store (s : State) (g ea sz : Nat) (rel : Option Nat) : SlotR :=
  let x := s.rd.readG g
  match apertureOf ea with
  | some o => if sz = 3 && rel.isNone && ea % 8 == 0 && s.iss.ctx < 2 then .ok (s.apertureStore o x) else .trap 4 ea 9 0
  | none =>
    (s.range ea (2 ^ sz) (2 ^ sz) false true (sz == 3)).bind (fun r =>
      .ok (s.storeRange r (x.toNat % 2 ^ (8 * 2 ^ sz)) rel))

def execLd (x : MemArgs) (s : State) : Out := .next (s.finish (s.whenOn x.p (s.load x.d (s.memEa x) x.sz none)))
def execSt (x : MemArgs) (s : State) : Out := .next (s.finish (s.whenOn x.p (s.store x.d (s.memEa x) x.sz none)))
def execLda (x : ScopeArgs) (s : State) : Out :=
  .next (s.finish (s.whenOn x.p (s.load x.d (s.scopeEa x) x.sz (some x.scope))))
def execStl (x : ScopeArgs) (s : State) : Out :=
  .next (s.finish (s.whenOn x.p (s.store x.d (s.scopeEa x) x.sz (some x.scope))))

-- ## Scratchpad doublewords (R163, R170)

/-- The doubleword of a scratchpad reached through the global window; any other address is an address fault (log
entry 11 says which permission each operation needs). -/
def State.wordGlobal (s : State) (va : Nat) (r w : Bool) : RangeR :=
  let a := s.view
  let c := s.iss.core
  let x := s.iss.ctx
  match a.xlate c x va r w with
  | .fault k => .trap k va 0
  | .poison pa => .trap 0x0D pa 0
  | .miss => .stall .clock (a.addMiss c (.ctx x) s.rd.asid.toNat s.rd.ptroot.toNat (va % 2 ^ 56) r w)
  | .phys pa =>
    (match a.place pa with
     | .spad c' o =>
       if ((a.core c').stashKey o).isSome then .trap 4 va 0
       else
         match watermark s.rd.chans va 8 with
         | .trap n i => .trap 10 i n
         | .hold => .hold (.watermark va 8)
         | .pass => if s.rd.acquireHeld c (.spad c' o) then .hold .acquire else .ok ⟨false, [(pa, 8)]⟩
     | _ => .trap 4 va 0)
  | _ => .trap 4 va 0

/-- The checks of a full/empty or barrier operation (R163, R170, R347). -/
def State.wordRange (s : State) (va : Nat) (r w : Bool) : RangeR :=
  if va % 8 ≠ 0 then .trap 4 va 0
  else if va / 2 ^ 56 = 0 then s.wordGlobal va r w
  else
    match s.view.xlate s.iss.core s.iss.ctx va r w with
    | .near off =>
      if ((s.view.core s.iss.core).stashKey off).isSome then .trap 4 va 0 else s.nearRange va off 8 w
    | _ => .trap 4 va 0

/-- The scope of a scratchpad operation (R167, R170): core through the core-local space, else device. -/
def Range.scope (r : Range) : Nat := if r.near then 0 else 2
def Range.pa (r : Range) : Nat := (r.segs.map Prod.fst).headD 0

/-- An operation on a scratchpad doubleword without a result. -/
def State.wordOp (s : State) (op : MemOp) (r : Range) (va data : Nat) (acq rel : Option Nat) : State :=
  s.access { s.req op r.near r.pa 8 data with va := va, acq := acq, rel := rel }

/-- An operation on a scratchpad doubleword that gives a result. -/
def State.wordLoad (s : State) (op : MemOp) (r : Range) (va d : Nat) (acq : Option Nat) : State :=
  let q := s.pending .g (s.destG d) (if r.near then 4 else s.classLatency r.segs) 1 (if r.near then 0 else 1) false
  q.1.access { q.1.req op r.near r.pa 8 0 with va := va, tag := some q.2, acq := acq }

def execLdf (p d a : Nat) (off : BitVec 6) (s : State) : Out :=
  .next (s.finish (s.whenOn p ((s.wordRange (s.dwordEa a off) true false).bind (fun r =>
    .ok (s.wordLoad .ldf r (s.dwordEa a off) d (some r.scope))))))
def execFeget (p d a : Nat) (off : BitVec 6) (s : State) : Out :=
  .next (s.finish (s.whenOn p ((s.wordRange (s.dwordEa a off) true false).bind (fun r =>
    .ok (s.wordLoad .feget r (s.dwordEa a off) d none)))))
def execSte (p d a : Nat) (off : BitVec 6) (s : State) : Out :=
  .next (s.finish (s.whenOn p ((s.wordRange (s.dwordEa a off) false true).bind (fun r =>
    .ok (s.wordOp .ste r (s.dwordEa a off) (s.rd.readG d).toNat none (some r.scope))))))
def execFeset (p a : Nat) (off : BitVec 6) (s : State) : Out :=
  .next (s.finish (s.whenOn p ((s.wordRange (s.dwordEa a off) false true).bind (fun r =>
    .ok (s.wordOp .feset r (s.dwordEa a off) 0 none none)))))
def execFeclr (p a : Nat) (off : BitVec 6) (s : State) : Out :=
  .next (s.finish (s.whenOn p ((s.wordRange (s.dwordEa a off) false true).bind (fun r =>
    .ok (s.wordOp .feclr r (s.dwordEa a off) 0 none none)))))

-- ## The steps of homes and waiters that these instructions meet

/-- An access that joined again after an invalidation had named its translation is translated afresh (R205, R166): it waits for the
walk, and where it may not be made any more, or leads to no scratchpad doubleword, its context traps and it is withdrawn again (log
entry 82). -/
def Arch.retranslate (a : Arch) (r : Req) : Arch :=
  let c := r.core
  let t := a.ctx c r.ctx
  let fails (cause info : Nat) : Arch :=
    (a.mapReq r.id (fun q => { q with st := .withdrawn })).gangTrap r.ctx (a.repAt c r.ctx) (a.members c r.ctx) [(c, ⟨cause, 7, 0, 0, info⟩)]
  match a.lookup c (.ctx r.ctx) t.asid.toNat (r.va % 2 ^ 56) (r.op != .ste) (r.op == .ste) with
  | .phys pa =>
    (match a.place pa with
     | .spad d o =>
       if ((a.core d).stashKey o).isSome then fails 4 r.va
       else a.mapReq r.id (fun q => { q with pa := pa, hpa := pa, named := false, leaf := (a.core c).leafTo t.asid.toNat pa })
     | _ => fails 4 r.va)
  | .fault k => fails k r.va
  | .poison pa => fails 0x0D pa
  | _ => a.addMiss c (.ctx r.ctx) t.asid.toNat t.ptroot.toNat (r.va % 2 ^ 56) (r.op != .ste) (r.op == .ste)

/-- A request reaches its home and is performed, unless an earlier access holds it back (R178, R244, R245); a write to another
die that was held at its own leaves it first (R252). -/
def Arch.remoteAccess (a : Arch) (id : Nat) : Arch :=
  match a.reqs.find? (fun r => r.id == id) with
  | some r =>
    if r.st ≠ .flight then a
    else if r.named && r.leaf.isNone then a.retranslate r
    else if a.leaves r then a.mapReq id (fun q => { q with win := some (a.window + 1) })
    else if a.blocked r then a.noteBlocked r
    else a.performReq r
  | none => a

def execRemoteAccess (id : Nat) (s : State) : Out := s.event (fun a => a.remoteAccess id)

/-- A result due by now whose data is late arrives (R62): its access is performed. At a core whose clock is stopped nothing lands
(R328). -/
def Arch.lateArrive (a : Arch) (id : Nat) : Arch :=
  match a.reqs.find? (fun r => r.id == id) with
  | some r =>
    let t := a.ctx r.core r.ctx
    if t.inflight.any (fun p => some p.tag == r.tag && p.parts != 0 && p.due ≤ t.time) && !(a.core r.core).stopped then
      (a.remoteAccess id).mapCtx r.core r.ctx Context.settle
    else a
  | none => a

def execLateDataArrive (id : Nat) (s : State) : Out := s.event (fun a => a.lateArrive id)

/-- The oldest waiter parked at a core's banks whose condition holds is performed (R164, R169); the banks of a core whose clock is
stopped serve none (R328). -/
def Arch.serveWaiter (a : Arch) (c : Nat) : Arch :=
  if (a.core c).stopped then a
  else
  match (a.core c).parked.findSome? (fun i => a.reqs.find? (fun r => r.id == i && r.st == .parked && a.waiterReady r)) with
  | some r => a.performReq r
  | none => a

def execFeWaiterServed (c : Nat) (s : State) : Out := s.event (fun a => a.serveWaiter c)

/-- A remote waiter parked for 1 ms is refused (R165): the i-th of the core's list; its core will send it again. -/
def Arch.refuseWaiter (a : Arch) (c i : Nat) : Arch :=
  match (a.core c).parked[i]? with
  | none => a
  | some id =>
    match a.reqs.find? (fun r => r.id == id) with
    | some r =>
      if r.core = c || r.st ≠ .parked || (a.core c).stopped then a
      else
        Arch.mapCore { a with reqs := a.reqs.map (fun (q : Req) => if q.id = id then { q with st := .refused } else q) } c
          (fun (k : Core) => { k with parked := k.parked.filter (fun j => j != id) })
    | none => a

def execFeWaiterRefuse (c i : Nat) (s : State) : Out := s.event (fun a => a.refuseWaiter c i)

/-- A refused request is sent again (R165). -/
def Arch.resend (a : Arch) (id : Nat) : Arch :=
  { a with reqs := a.reqs.map (fun (q : Req) => if q.id = id ∧ q.st = .refused then { q with st := .flight } else q) }

def execFeWaiterRetry (id : Nat) (s : State) : Out := s.event (fun a => a.resend id)

/-- An exact add that waits for an accumulator enters one that has become free, in arrival order (R195). -/
def Arch.detServe (a : Arch) (b : Nat) : Arch :=
  match (a.brick b).detq.findSome? (fun i => a.reqs.find? (fun r => r.id == i)) with
  | some r => if (a.brick b).detRoom r then a.performReq r else a
  | none => a

def execDetAddPerform (b : Nat) (s : State) : Out := s.event (fun a => a.detServe b)

end Sys2Proof.Machine
end

