-- ==== Sys2Proof/Machine/Atomic.lean ====
section
/-! DEFINITION. Atomics (16 R335 to R337; 11 R246, R247; 08 R193). -/

namespace Sys2Proof.Machine

/-- Bytes an atomic acts on: a word for the F32 add, else a doubleword. -/
def Amo.bytes (k : Amo) : Nat := if k = .fadd then 4 else 8

/-- Exact adds waiting at the slice of an address back up the REQ class, so that an atomic to it cannot enter the fabric and its
context is held before issue (R195); how many may wait before that is open (log entry 58). -/
def State.reqFull (s : State) (pa : Nat) : Bool :=
  match s.view.place pa with
  | .stack b _ => !(s.view.brick b).detq.isEmpty && decide (Config.requestRoom < (s.view.brick b).detq.length)
  | _ => false

/-- A value-returning atomic (R335, R336, R246). -/
def State.amo (s : State) (k : Amo) (x : AmoArgs) : SlotR :=
  let ea := (s.rd.readG x.a).toNat
  (s.range ea k.bytes k.bytes true true false).bind (fun r =>
    if s.reqFull r.pa then .hold .request
    else
    let sc := r.scope
    let q := s.pending .g (s.destG x.d) (if r.near then 6 else s.classLatency r.segs) 1 (if r.near then 0 else 1) false
    .ok (q.1.access { q.1.req (.amo k) r.near r.pa k.bytes ((s.rd.readG x.b).toNat % 2 ^ (8 * k.bytes)) with
      tag := some q.2
      cmp := (s.rd.readG x.d).toNat
      acq := if x.ord % 2 = 1 then some sc else none
      rel := if 2 ≤ x.ord then some sc else none }))

/-- Whether an add goes to an exact accumulator: deterministic mode, and a stack address (R193). -/
def State.isExact (s : State) (pa : Nat) : Bool :=
  s.rd.detm && (match s.view.place pa with | .stack _ _ => true | _ => false)

/-- A commutative atomic (R247). -/
def State.amoC (s : State) (k : Amo) (a b : Nat) : SlotR :=
  let ea := (s.rd.readG a).toNat
  (s.range ea k.bytes k.bytes true true false).bind (fun r =>
    if s.reqFull r.pa then .hold .request
    else
    .ok (s.access { s.req (.amo k) r.near r.pa k.bytes ((s.rd.readG b).toNat % 2 ^ (8 * k.bytes)) with
      comm := true
      det := k == .fadd && s.isExact r.pa }))

def execAmoadd (x : AmoArgs) (s : State) : Out := .next (s.finish (s.whenOn x.p (s.amo .add x)))
def execAmoand (x : AmoArgs) (s : State) : Out := .next (s.finish (s.whenOn x.p (s.amo .and x)))
def execAmoor (x : AmoArgs) (s : State) : Out := .next (s.finish (s.whenOn x.p (s.amo .or x)))
def execAmoxor (x : AmoArgs) (s : State) : Out := .next (s.finish (s.whenOn x.p (s.amo .xor x)))
def execAmomin (x : AmoArgs) (s : State) : Out := .next (s.finish (s.whenOn x.p (s.amo .min x)))
def execAmomax (x : AmoArgs) (s : State) : Out := .next (s.finish (s.whenOn x.p (s.amo .max x)))
def execAmoswp (x : AmoArgs) (s : State) : Out := .next (s.finish (s.whenOn x.p (s.amo .swp x)))
def execAmocas (x : AmoArgs) (s : State) : Out := .next (s.finish (s.whenOn x.p (s.amo .cas x)))
def execAmofadd (x : AmoArgs) (s : State) : Out := .next (s.finish (s.whenOn x.p (s.amo .fadd x)))
def execAmoaddC (p a b : Nat) (s : State) : Out := .next (s.finish (s.whenOn p (s.amoC .add a b)))
def execAmoandC (p a b : Nat) (s : State) : Out := .next (s.finish (s.whenOn p (s.amoC .and a b)))
def execAmoorC (p a b : Nat) (s : State) : Out := .next (s.finish (s.whenOn p (s.amoC .or a b)))
def execAmoxorC (p a b : Nat) (s : State) : Out := .next (s.finish (s.whenOn p (s.amoC .xor a b)))
def execAmominC (p a b : Nat) (s : State) : Out := .next (s.finish (s.whenOn p (s.amoC .min a b)))
def execAmomaxC (p a b : Nat) (s : State) : Out := .next (s.finish (s.whenOn p (s.amoC .max a b)))
def execAmofaddC (p a b : Nat) (s : State) : Out := .next (s.finish (s.whenOn p (s.amoC .fadd a b)))

end Sys2Proof.Machine
end

