-- ==== Sys2Proof/Machine/Flags.lean ====
section
/-! DEFINITION. Conditions: the compare codes of CMP and CMPI (R87, R343) and of VCMP (R93, R391). The machine has no
flags; conditions go to predicate and lane-mask registers. -/

namespace Sys2Proof.Machine

/-- The condition of CMP and CMPI on two `w`-bit patterns: 0 EQ, 1 NE, 2 LT signed, 3 LTN unsigned. -/
def condS (cc w a b : Nat) : Bool :=
  match cc with
  | 0 => a % 2 ^ w == b % 2 ^ w
  | 1 => a % 2 ^ w != b % 2 ^ w
  | 2 => sext a w < sext b w
  | _ => a % 2 ^ w < b % 2 ^ w

/-- The condition of VCMP on an order, none where unordered: EQ, NE, LT, LE, GT, GE, UN (R93). -/
def condV (cc : Nat) (o : Option Ordering) : Bool :=
  match cc with
  | 0 => o == some .eq
  | 1 => o != some .eq
  | 2 => o == some .lt
  | 3 => o == some .lt || o == some .eq
  | 4 => o == some .gt
  | 5 => o == some .gt || o == some .eq
  | _ => o.isNone

end Sys2Proof.Machine
end

