-- ==== Sys2Proof/Machine/Scalar.lean ====
section
/-! DEFINITION. Scalar arithmetic and logic of the S slot (16 R333, R334, R340; 17 R352 to R355; 19 R421). -/

namespace Sys2Proof.Machine

/-- The register-form mould of R333: `f W A B` is the W-bit result, extended as R85 says. -/
def State.alu (s : State) (x : RArgs) (lat : Nat) (sg : Bool) (f : Nat → Nat → Nat → Nat) : SlotR :=
  s.whenOn x.p (.ok (s.landG x.d
    (extend (rWidth x) sg (f (rWidth x) (low (rWidth x) (s.rd.readG x.a)) (low (rWidth x) (s.src x.b)))) lat))

/-- Div, DivN of R333; MOD, MODN of R352, on W-bit patterns. -/
def divS (w a b : Nat) : Nat := if b % 2 ^ w = 0 then 2 ^ w - 1 else wrap (divTrunc (sext a w) (sext b w)) w
def divU (w a b : Nat) : Nat := if b = 0 then 2 ^ w - 1 else a / b
def modS (w a b : Nat) : Nat := if b % 2 ^ w = 0 then a else wrap (modTrunc (sext a w) (sext b w)) w
def modU (a b : Nat) : Nat := if b = 0 then a else a % b

def mulLow (w a b : Nat) : Nat := wrap (sext a w * sext b w) w
def mulHighS (w a b : Nat) : Nat := wrap (sext a w * sext b w / pow2 w) w
def mulHighU (w a b : Nat) : Nat := a * b / 2 ^ w

def shiftL (w a b : Nat) : Nat := a * 2 ^ (b % w) % 2 ^ w
def shiftR (w a b : Nat) : Nat := a / 2 ^ (b % w)
def shiftA (w a b : Nat) : Nat := wrap (sext a w / pow2 (b % w)) w

def minS (w a b : Nat) : Nat := if sext b w < sext a w then b else a
def maxS (w a b : Nat) : Nat := if sext a w < sext b w then b else a

def execAdd (x : RArgs) (s : State) : Out := .next (s.finish (s.alu x 1 true (fun w a b => (a + b) % 2 ^ w)))
def execSub (x : RArgs) (s : State) : Out :=
  .next (s.finish (s.alu x 1 true (fun w a b => wrap (Int.ofNat a - Int.ofNat b) w)))
def execMul (x : RArgs) (s : State) : Out := .next (s.finish (s.alu x 3 true mulLow))
def execMulh (x : RArgs) (s : State) : Out := .next (s.finish (s.alu x 3 true mulHighS))
def execMulhn (x : RArgs) (s : State) : Out := .next (s.finish (s.alu x 3 false mulHighU))
def execDiv (x : RArgs) (s : State) : Out := .next (s.finish (s.alu x 20 true divS))
def execDivn (x : RArgs) (s : State) : Out := .next (s.finish (s.alu x 20 false divU))
def execMod (x : RArgs) (s : State) : Out := .next (s.finish (s.alu x 20 true modS))
def execModn (x : RArgs) (s : State) : Out := .next (s.finish (s.alu x 20 false (fun _ => modU)))
def execAnd (x : RArgs) (s : State) : Out := .next (s.finish (s.alu x 1 true (fun _ a b => a.land b)))
def execOr (x : RArgs) (s : State) : Out := .next (s.finish (s.alu x 1 true (fun _ a b => a.lor b)))
def execXor (x : RArgs) (s : State) : Out := .next (s.finish (s.alu x 1 true (fun _ a b => a.xor b)))
def execAndn (x : RArgs) (s : State) : Out :=
  .next (s.finish (s.alu x 1 true (fun w a b => a.land (b.xor (2 ^ w - 1)))))
def execShl (x : RArgs) (s : State) : Out := .next (s.finish (s.alu x 1 true shiftL))
def execShr (x : RArgs) (s : State) : Out := .next (s.finish (s.alu x 1 false shiftR))
def execSar (x : RArgs) (s : State) : Out := .next (s.finish (s.alu x 1 true shiftA))
def execMin (x : RArgs) (s : State) : Out := .next (s.finish (s.alu x 1 true minS))
def execMax (x : RArgs) (s : State) : Out := .next (s.finish (s.alu x 1 true maxS))
def execMinn (x : RArgs) (s : State) : Out := .next (s.finish (s.alu x 1 false (fun _ a b => min a b)))
def execMaxn (x : RArgs) (s : State) : Out := .next (s.finish (s.alu x 1 false (fun _ a b => max a b)))

/-- The one-operand forms (R333, R352); their results are zero-extended. -/
def State.alu1 (s : State) (p d a : Nat) (w : Bool) (f : Nat → Nat → Nat) : SlotR :=
  let n := if w then 32 else 64
  s.whenOn p (.ok (s.landG d (BitVec.ofNat 64 (f n (low n (s.rd.readG a)))) 1))

def execClz (p d a : Nat) (w : Bool) (s : State) : Out := .next (s.finish (s.alu1 p d a w (fun n x => leadZeros x n)))
def execCtz (p d a : Nat) (w : Bool) (s : State) : Out := .next (s.finish (s.alu1 p d a w (fun n x => trailZeros x n)))
def execPopc (p d a : Nat) (w : Bool) (s : State) : Out := .next (s.finish (s.alu1 p d a w (fun n x => popCount x n)))

/-- Position and length of R340. -/
def fieldPos (b : Word) : Nat := bits b.toNat 5 0
def fieldLen (b : Word) : Nat := bits b.toNat 13 8 + 1

/-- Bfx of R340. -/
def bfx (a b : Word) : Word := BitVec.ofNat 64 (a.toNat / 2 ^ fieldPos b % 2 ^ fieldLen b)

/-- Bfi of R340: the field's bits that fit below bit 64 come from `a`, the others from `d`. -/
def bfi (d a b : Word) : Word :=
  let m := BitVec.ofNat 64 ((2 ^ fieldLen b - 1) * 2 ^ fieldPos b)
  (d &&& ~~~m) ||| (BitVec.ofNat 64 (a.toNat * 2 ^ fieldPos b) &&& m)

def execBfx (p d a : Nat) (b : Src) (s : State) : Out :=
  .next (s.finish (s.whenOn p (.ok (s.landG d (bfx (s.rd.readG a) (s.src b)) 1))))
def execBfi (p d a : Nat) (b : Src) (s : State) : Out :=
  .next (s.finish (s.whenOn p (.ok (s.landG d (bfi (s.rd.readG d) (s.rd.readG a) (s.src b)) 1))))

/-- SEXT and ZEXT; field b holds the width minus 1 (R354, R421). -/
def execSext (p d a w : Nat) (s : State) : Out :=
  .next (s.finish (s.whenOn p (.ok (s.landG d (extend (w + 1) true (s.rd.readG a).toNat) 1))))
def execZext (p d a w : Nat) (s : State) : Out :=
  .next (s.finish (s.whenOn p (.ok (s.landG d (extend (w + 1) false (s.rd.readG a).toNat) 1))))

/-- Wrap(SignExtend(imm8, 8), 64) (R334). -/
def immWord (imm : BitVec 8) : Word := imm.signExtend 64

/-- Format I with a 64-bit operation (R334, R353, R421). -/
def State.aluI (s : State) (p d a : Nat) (f : Word → Word) : SlotR :=
  s.whenOn p (.ok (s.landG d (f (s.rd.readG a)) 1))

def execAddi (p d a : Nat) (imm : BitVec 8) (s : State) : Out :=
  .next (s.finish (s.aluI p d a (fun x => x + immWord imm)))
def execAndi (p d a : Nat) (imm : BitVec 8) (s : State) : Out :=
  .next (s.finish (s.aluI p d a (fun x => x &&& immWord imm)))
def execOri (p d a : Nat) (imm : BitVec 8) (s : State) : Out :=
  .next (s.finish (s.aluI p d a (fun x => x ||| immWord imm)))
def execXori (p d a : Nat) (imm : BitVec 8) (s : State) : Out :=
  .next (s.finish (s.aluI p d a (fun x => x ^^^ immWord imm)))

/-- The immediate shifts (R353), with W of imm8[6]. -/
def State.aluShift (s : State) (p d a n : Nat) (w sg : Bool) (f : Nat → Nat → Nat → Nat) : SlotR :=
  let k := if w then 32 else 64
  s.aluI p d a (fun x => extend k sg (f k (low k x) n))

def execShli (p d a n : Nat) (w : Bool) (s : State) : Out := .next (s.finish (s.aluShift p d a n w true shiftL))
def execShri (p d a n : Nat) (w : Bool) (s : State) : Out := .next (s.finish (s.aluShift p d a n w false shiftR))
def execSari (p d a n : Nat) (w : Bool) (s : State) : Out := .next (s.finish (s.aluShift p d a n w true shiftA))

/-- MOVI, MOVHI and LIT (R334, R355). -/
def execMovi (p d : Nat) (imm : BitVec 14) (s : State) : Out :=
  .next (s.finish (s.whenOn p (.ok (s.landG d (imm.signExtend 64) 1))))
def execMovhi (p d a : Nat) (x : BitVec 32) (s : State) : Out :=
  .next (s.finish (s.aluI p d a (fun g => x ++ g.setWidth 32)))
def execLit (p d : Nat) (x : BitVec 32) (s : State) : Out :=
  .next (s.finish (s.whenOn p (.ok (s.landG d (litWord x) 1))))

end Sys2Proof.Machine
end

