-- ==== Sys2Proof/Machine/Predicate.lean ====
section
/-! DEFINITION. Compares and predicate instructions (16 R343; 17 R356, R357). -/

namespace Sys2Proof.Machine

def State.setPred (s : State) (p pd : Nat) (x : Bool) : SlotR := s.whenOn p (.ok (s.landP pd x 1))

def execCmp (p pd cc a : Nat) (b : Src) (w : Bool) (s : State) : Out :=
  .next (s.finish (s.setPred p pd (condS cc (if w then 32 else 64) (s.rd.readG a).toNat (s.src b).toNat)))
def execCmpi (p pd cc a : Nat) (imm : BitVec 8) (s : State) : Out :=
  .next (s.finish (s.setPred p pd (condS cc 64 (s.rd.readG a).toNat (immWord imm).toNat)))

/-- A source predicate, inverted by its negate bit (R87). -/
def State.predSrc (s : State) (n : Nat) (neg : Bool) : Bool := s.rd.readP n != neg

def execPand (p pd pa : Nat) (na : Bool) (pb : Nat) (nb : Bool) (s : State) : Out :=
  .next (s.finish (s.setPred p pd (s.predSrc pa na && s.predSrc pb nb)))
def execPor (p pd pa : Nat) (na : Bool) (pb : Nat) (nb : Bool) (s : State) : Out :=
  .next (s.finish (s.setPred p pd (s.predSrc pa na || s.predSrc pb nb)))
def execPxor (p pd pa : Nat) (na : Bool) (pb : Nat) (nb : Bool) (s : State) : Out :=
  .next (s.finish (s.setPred p pd (s.predSrc pa na != s.predSrc pb nb)))
def execPnot (p pd pa : Nat) (s : State) : Out := .next (s.finish (s.setPred p pd (!s.rd.readP pa)))
def execPset (p pd : Nat) (v : Bool) (s : State) : Out := .next (s.finish (s.setPred p pd v))

/-- The predicates named p0 to p15, as bits (R357). -/
def predBits (t : Context) : Nat := ofLanes 1 ((upTo 16).map (fun i => if t.readP i then 1 else 0))

def execPget (p d : Nat) (s : State) : Out :=
  .next (s.finish (s.whenOn p (.ok (s.landG d (BitVec.ofNat 64 (predBits s.rd)) 1))))

end Sys2Proof.Machine
end

