-- ==== Sys2Proof/Machine/Control.lean ====
section
/-! DEFINITION. Control transfer, rotation, ending a program, traps by instruction, and the event ring's WAITEV and EVACK
(16 R341, R342, R346, R348; 17 R368, R369; 18 R384; 19 R415, R422). -/

namespace Sys2Proof.Machine

-- ## Transfers (R57, R88, R40)

/-- Take a transfer, unless the bundle follows its gang's lead (R40). -/
def State.transfer (s : State) (pc bubbles : Nat) : State :=
  match s.iss.follow with
  | some _ => s
  | none => s.setIss { s.iss with branch := .to pc bubbles }

/-- Whether a transfer of this bundle is taken: by the slot's own guard, or by the lead. -/
def State.takes (s : State) (p : Nat) : Bool :=
  match s.iss.follow with
  | some (.to _ _) => true
  | some _ => false
  | none => s.guard p

/-- PC plus two bytes for each parcel of the offset, modulo 0x4_0000 (R88). -/
def branchTarget (pc : Nat) (off : Int) : Nat := wrap (Int.ofNat pc + 2 * off) 18

/-- Bits(g, 17, 1) x 2 (R88). -/
def regTarget (x : Word) : Nat := x.toNat % 2 ^ 18 / 2 * 2

/-- A taken transfer with the two bubbles of R57; `link` writes g62 (R88). -/
def State.jump (s : State) (p target : Nat) (link : Bool) : SlotR :=
  if s.takes p then
    let s' := if link then s.landG 62 (BitVec.ofNat 64 (s.rd.pc + s.iss.len)) 1 else s
    .ok (s'.transfer target 2)
  else .ok s

def execBr (p : Nat) (off : BitVec 20) (s : State) : Out :=
  .next (s.finish (s.jump p (branchTarget s.rd.pc off.toInt) false))
def execCall (p : Nat) (off : BitVec 20) (s : State) : Out :=
  .next (s.finish (s.jump p (branchTarget s.rd.pc off.toInt) true))
def execJmpi (p a : Nat) (s : State) : Out := .next (s.finish (s.jump p (regTarget (s.rd.readG a)) false))
def execCalli (p a : Nat) (s : State) : Out := .next (s.finish (s.jump p (regTarget (s.rd.readG a)) true))
def execRet (p : Nat) (s : State) : Out := .next (s.finish (s.jump p (regTarget (s.rd.readG 62)) false))

-- ## LOOP (R71, R342)

/-- The lead of the unit that occupies the context. -/
def State.lead (s : State) : Context :=
  match s.cur.unit.bind s.arch.unit with
  | some u => s.arch.ctx (u.cores.headD s.iss.core) s.iss.ctx
  | none => s.cur

/-- Write p8 in the register it names after rotation, readable from the next bundle. -/
def State.landP8 (s : State) (x : Bool) : State :=
  s.result .p (s.cur.physP 8) full4096 (if x then 1 else 0) 1

/-- Predicate `n` as the bundle just committed leaves it, though its landing may still wait (R62). -/
def Context.newP (t : Context) (n : Nat) : Bool :=
  match (t.inflight.filter (fun p => p.file == .p && p.reg == t.physP n && p.due ≤ t.time)).getLast? with
  | some p => p.val.getLsbD 0
  | none => t.readP n

/-- A gang member takes the values its lead computed (R342). -/
def State.copyLoop (s : State) (rotates : Bool) : State :=
  let l := s.lead
  if rotates then
    (s.upd (fun t => { t with lc := l.lc, ec := l.ec, rg := l.rg, rp := l.rp, rv := l.rv })).landP8 (l.newP 8)
  else s.upd (fun t => { t with lc := l.lc })

/-- LOOP: count down and branch while LC > 0. -/
def State.loopPlain (s : State) (target : Nat) : State :=
  if s.rd.lc = 0 then s else (s.upd (fun t => { t with lc := s.rd.lc - 1 })).transfer target 0

/-- LOOP.R of R71. -/
def State.loopRotate (s : State) (target : Nat) : State :=
  if s.rd.lc ≠ 0 then
    ((s.upd (fun t => { t.rotate with lc := s.rd.lc - 1 })).landP8 true).transfer target 0
  else if s.rd.ec ≠ 0 then
    ((s.upd (fun t => { t.rotate with ec := s.rd.ec - 1 })).landP8 false).transfer target 0
  else s

/-- Either LOOP, as the lead decides for a gang (R342). -/
def State.loopAny (s : State) (p : Nat) (rotates : Bool) (own : State → State) : SlotR :=
  match s.iss.follow with
  | some (.to _ _) => .ok (s.copyLoop rotates)
  | some _ => .ok s
  | none => s.whenOn p (.ok (own s))

def execLoop (p : Nat) (off : BitVec 19) (s : State) : Out :=
  .next (s.finish (s.loopAny p false (fun s => s.loopPlain (branchTarget s.rd.pc off.toInt))))
def execLoopR (p : Nat) (off : BitVec 19) (s : State) : Out :=
  .next (s.finish (s.loopAny p true (fun s => s.loopRotate (branchTarget s.rd.pc off.toInt))))
def execRotb (p : Nat) (s : State) : Out := .next (s.finish (s.whenOn p (.ok (s.upd Context.rotate))))

/-- A bundle with no slots takes an issue and does nothing (R79). -/
def execNop (_rep : Nat) (s : State) : Out := .next (s.finish (.ok s))

-- ## HALT, TRAP, XRET

/-- HALT takes effect as its bundle commits; a gang's lead decides (R348). -/
def execHalt (p : Nat) (s : State) : Out :=
  .next (s.finish (match s.iss.follow with
    | some _ => .ok s
    | none => s.whenOn p (.ok (s.setIss { s.iss with branch := .halt }))))

/-- TRAP n raises SOFTWARE after its bundle commits (R302, R384). -/
def execTrap (p n : Nat) (s : State) : Out :=
  .next (s.finish (s.whenOn p (.ok (s.setIss { s.iss with trapAfter := some n }))))

/-- XRET (R304, R422): it takes effect as its bundle commits; outside a handler it is an illegal instruction. -/
def State.xret (s : State) (p : Nat) : SlotR :=
  match s.iss.follow with
  | some _ => .ok s
  | none =>
    if s.iss.ctx ≠ 2 && !s.rd.trap.tmode then .trap 2 (packR 0x39 p 0 0 0 0) 7 0
    else .ok (s.setIss { s.iss with branch := .xret })

def execXret (p : Nat) (s : State) : Out := .next (s.finish (s.whenOn p (s.xret p)))

-- ## Event ring (R346, R415)

/-- Entries in a ring of `2^EVSIZE.LOG2` bytes. -/
def RingRegs.size (r : RingRegs) : Nat := 2 ^ r.evsize.toNat / 16
/-- Draining is enabled and not stopped (R136, R137). -/
def RingRegs.enabled (r : RingRegs) : Bool := 8 ≤ r.evsize.toNat && r.evsize.toNat ≤ 20
def RingRegs.avail (r : RingRegs) : BitVec 32 := r.evhead - r.evtail
/-- `need` of R415 for an operand. -/
def RingRegs.need (r : RingRegs) (n : Nat) : Nat := if !r.enabled || r.stopped then 0 else min n r.size

/-- How many entries EVACK frees (R346). -/
def RingRegs.freed (r : RingRegs) (n : BitVec 32) : BitVec 32 := if r.avail < n then r.avail else n

/-- EVACK of R346; the entries it frees are room once every access numbered below `bound` that loads has been performed. -/
def RingRegs.ack (r : RingRegs) (n : BitVec 32) (bound : Nat) : RingRegs :=
  { r with evtail := r.evtail + r.freed n
           acks := if r.freed n = 0 then r.acks else r.acks ++ [((r.freed n).toNat, bound)] }

def execEvack (p a : Nat) (s : State) : Out :=
  .next (s.finish (s.whenOn p (.ok (s.upd (fun t => { t with ring := t.ring.ack ((s.rd.readG a).setWidth 32) s.view.nextId })))))

/-- WAITEV (R415): a wait record of kind WAITEV whose value arrives when the condition is observed. -/
def State.waitev (s : State) (d a : Nat) : SlotR :=
  let n := (s.rd.readG a).toNat % 2 ^ 32
  let r := s.rd.ring
  if r.need n ≤ r.avail.toNat then .ok (s.landG d (r.avail.setWidth 64) 2)
  else
    let q := s.pending .g (s.destG d) 2 1 0 false
    .ok (q.1.upd (fun t => { t with wait := some ⟨.waitev, 0, n, false, q.2⟩ }))

def execWaitev (p d a : Nat) (s : State) : Out := .next (s.finish (s.whenOn p (s.waitev d a)))

/-- A waiting WAITEV passes when enough entries are present: the count lands (R415). -/
def Arch.waitevPass (a : Arch) (c x : Nat) : Arch :=
  let t := a.ctx c x
  match t.waiting .waitev with
  | some w =>
    if w.sat = true ∨ t.ring.need w.operand ≤ t.ring.avail.toNat then
      a.setCtx c x { t.fill w.req 0 t.ring.avail.toNat with wait := none }
    else a
  | none => a

def execWaitevRelease (c x : Nat) (s : State) : Out := s.event (fun a => a.waitevPass c x)

end Sys2Proof.Machine
end

