-- ==== Sys2Proof/Machine/Course.lean ====
section
/-! DEFINITION. Course encoding of weights (12 R257, R258): the coded group, and the bytes of an output unit. -/

namespace Sys2Proof.Machine

/-- One block's group of R258: its exponent and mantissas, an exponent of 0xFF replaced. -/
def courseBlock (w : Nat) (bytes : List Byte) (b c : Nat) : Nat × List Int :=
  let E := ((bytes.drop (4096 + 32 * b + c)).headD 0).toNat
  let ms := (List.range 32).map (fun t => ((bytes.drop (32 * (32 * b + t) + c)).headD 0).toInt)
  if E = 0xFF then (0xFE, ms.map (fun m => Int.sign m * (pow2 (w - 1) - 1))) else (E, ms)

/-- Coded weights of a group (R258), none where one is out of range; `bs` lists the blocks with their indices. -/
def courseGroup (p np : Nat) (bs : List (Nat × Nat × List Int)) : Option (Nat × List Int) :=
  let live := bs.filter (fun b => b.2.2.any (fun m => m != 0))
  match live with
  | [] => some (0, List.replicate 32 0)
  | l :: ls =>
    let emin := ls.foldl (fun e b => min e b.2.1) l.2.1
    let cs := (List.range 32).map (fun t =>
      (live.map (fun b => Int.ofNat ((b.1 + 1) ^ p) * b.2.2.getD t 0 * pow2 (b.2.1 - emin))).sum)
    if cs.all (fun x => minOf true (8 * np) ≤ x && x ≤ maxOf true (8 * np)) then some (emin, cs) else none

/-- The 128 groups of a unit, in the order 32 b + c. -/
def courseGroups (p w np : Nat) (blocks : List (List Byte)) : List (Option (Nat × List Int)) :=
  (List.range 128).map (fun g =>
    courseGroup p np ((List.zip (List.range blocks.length) blocks).map (fun e =>
      (e.1, courseBlock w e.2 (g / 32) (g % 32)))))

/-- The bytes of plane `pl` of a unit: 4,096 weight bytes, and for plane 0 the exponents. -/
def courseBytes (gs : List (Option (Nat × List Int))) (pl : Nat) : List Byte :=
  (List.range 4096).map (fun o =>
    match gs.getD (32 * (o / 1024) + o % 32) none with
    | some g => BitVec.ofInt 8 (g.2.getD (o / 32 % 32) 0 / pow2 (8 * pl))
    | none => 0)
  ++ (if pl = 0 then gs.map (fun g => match g with | some g => BitVec.ofNat 8 g.1 | none => 0) else [])

/-- Indices of the groups out of range. -/
def courseBad (gs : List (Option (Nat × List Int))) : List Nat :=
  (List.range gs.length).filter (fun i => (gs.getD i none).isNone)

end Sys2Proof.Machine
end

