-- ==== Sys2Proof/Machine/Block.lean ====
section
/-! DEFINITION. Block floating point and the anchored accumulator (05_number_formats R120 to R129). -/

namespace Sys2Proof.Machine

/-- What a mantissa of a BXw block with exponent `E` reads as (R120): a mantissa and its scale exponent. -/
def bxRead (w E : Nat) (M : Int) : Int × Int :=
  if E = 0xFF then (Int.sign M * (pow2 (w - 1) - 1), 128 - Int.ofNat w)
  else (M, Int.ofNat E - 127 - (Int.ofNat w - 1))

/-- That value. -/
def bxValue (w E : Nat) (M : Int) : FVal := let r := bxRead w E M; FVal.ofInt r.1 r.2 false

/-- QuantizeBX at one exponent (R123): the rounded mantissas, infinities left out of range. -/
def quantAt (w E : Nat) (xs : List FVal) : List (Option Int) :=
  xs.map (fun x =>
    match x with
    | .nan => some 0
    | .inf _ => none
    | .fin neg m e => some (roundInt 0 neg m (e + 127 + Int.ofNat w - 1 - Int.ofNat E)))

def fitsIn (w : Nat) (x : Option Int) : Bool :=
  match x with
  | some m => minOf true w ≤ m && m ≤ maxOf true w
  | none => false

/-- QuantizeBX (R123): exponent, mantissas, and whether QSAT and QNAN are posted. What it gives need not be canonical, though R124
says of every block that XQNT writes that it is: the model follows the algorithm of R123 (log entry 77). -/
def quantizeBX (w : Nat) (xs : List FVal) : Nat × List Int × Bool × Bool :=
  let nan := xs.any (fun x => x == .nan)
  match (List.range 255).find? (fun E => (quantAt w E xs).all (fitsIn w)) with
  | some E => (E, (quantAt w E xs).map (fun m => m.getD 0), false, nan)
  | none =>
    (254, (List.zipWith (fun x m =>
      match x with
      | .inf neg => if neg then minOf true w else maxOf true w
      | _ => sat (m.getD 0) (minOf true w) (maxOf true w)) xs (quantAt w 254 xs)), true, nan)

/-- PlaceProduct of R127, and whether low bits were dropped. -/
def placeProduct (a b : Int × Int) (X : Int) : Int × Bool :=
  let s := a.2 + b.2 + X
  if 0 ≤ s then (a.1 * b.1 * pow2 s.toNat, false) else (a.1 * b.1 / pow2 (-s).toNat, true)

/-- AccAdd of R128, and whether it saturated. -/
def accAdd (i t : Int) : Int × Bool :=
  if i = -pow2 63 ∨ i = pow2 63 - 1 then (i, false)
  else
    let s := i + t
    if pow2 63 - 1 < s ∨ s < -pow2 63 then (sat s (-pow2 63) (pow2 63 - 1), true) else (s, false)

/-- Conversion of an accumulator to an integer of `w` bits (R129), and whether it saturated. -/
def accToInt (w : Nat) (rm : Nat) (i X : Int) : Nat × Bool :=
  let n := roundInt rm (i < 0) i.natAbs (-X)
  (wrap (sat n (minOf true w) (maxOf true w)) w, n < minOf true w || maxOf true w < n)

/-- Conversion of an accumulator to a float (R129): an infinity becomes the largest finite value. -/
def accToFloat (f : Fmt) (rm : Nat) (i X : Int) : Nat × Bool :=
  let n := f.round rm (FVal.ofInt i (-X) false)
  if n = f.infBits (i < 0) then (f.maxBits (i < 0), true) else (n, false)

end Sys2Proof.Machine
end

