-- ==== Sys2Proof/Machine/Stream.lean ====
section
/-! DEFINITION. The C slot: vector loads and stores (16 R351; 17 R380), stream patterns (10 R223, R224; 17 R370 to R375)
and STASHT (17 R376; 07 R176). -/

namespace Sys2Proof.Machine

-- ## Patterns (R223, R224, R371)

def patBase (a : Nat) : Nat := bits a 63 0
def patCnt (a d : Nat) : Nat := bits a (79 + 16 * d) (64 + 16 * d)
def patStr (a d : Nat) : Int := sext (bits a (151 + 24 * d) (128 + 24 * d)) 24
def patEsz (a : Nat) : Nat := bits a 226 224
def patInd (a : Nat) : Bool := bits a 227 227 == 1
def patIdim (a : Nat) : Nat := bits a 229 228
def patTab (a : Nat) : Nat := bits a 250 232

/-- A pattern out of range (R375). -/
def patBad (a : Nat) : Bool := patEsz a == 7 || bits a 231 230 != 0 || bits a 255 251 != 0

/-- Elements of a walk. -/
def patTotal (a : Nat) : Nat := (patCnt a 0 + 1) * (patCnt a 1 + 1) * (patCnt a 2 + 1) * (patCnt a 3 + 1)

/-- Index of dimension `d` at a walk position. -/
def patIdx (a p : Nat) (d : Nat) : Nat :=
  match d with
  | 0 => p % (patCnt a 0 + 1)
  | 1 => p / (patCnt a 0 + 1) % (patCnt a 1 + 1)
  | 2 => p / ((patCnt a 0 + 1) * (patCnt a 1 + 1)) % (patCnt a 2 + 1)
  | _ => p / ((patCnt a 0 + 1) * (patCnt a 1 + 1) * (patCnt a 2 + 1)) % (patCnt a 3 + 1)

/-- Where the index word of an element stands, when the index table applies. -/
def patWord (a p : Nat) : Nat := patTab a + 4 * patIdx a p (patIdim a)

/-- The address of an element; `ix` gives the indexed dimension's word, when the table applies. -/
def patAddr (a p base : Nat) (ix : Option Nat) : Int :=
  Int.ofNat base + ((upTo 4).map (fun d =>
    match ix with
    | some w => if d = patIdim a then Int.ofNat w * patStr a d else Int.ofNat (patIdx a p d) * patStr a d
    | none => Int.ofNat (patIdx a p d) * patStr a d)).sum

/-- Elements a use covers. -/
def patUse (a : Nat) : Nat := 512 / 2 ^ patEsz a

-- ## Checks of the elements of a use (R375)

/-- What the checks of a list of ranges find; each range with the element it belongs to. -/
inductive RangesR where
  | ok (rs : List (Nat × Range))
  | trap (cause info arg : Nat)
  | hold (h : Hold)
  | stall (h : Hold) (a : Arch)
deriving DecidableEq, Repr

def RangesR.bind (q : RangesR) (f : List (Nat × Range) → SlotR) : SlotR :=
  match q with
  | .ok rs => f rs
  | .trap c i g => .trap c i 9 g
  | .hold h => .hold h
  | .stall h a => .stall h a

/-- What an index word is read after (R161, R244): earlier local accesses of the context, and near ones of the core's other context to
the word or of this cycle, that are not yet performed. -/
def State.localBehind (s : State) (r : Range) : Bool :=
  let a := s.view
  r.segs.any (fun e => let q := { s.req .ld true e.1 e.2 0 with
    id := a.nextId, seq := a.nextId, time := a.clock, hpa := a.homePa s.iss.core (e.1 - a.spadPa s.iss.core 0) }
    a.reqs.any (fun p => a.ordersBehind p q))

/-- The index word at a scratchpad offset, checked as a read of the core-local space. -/
def State.indexWord (s : State) (off : Nat) : RangeR :=
  let va := 0xFE00000000000000 + off
  if off % 4 ≠ 0 then .trap 4 va 0
  else
    match s.nearRange va off 4 false with
    | .ok r => if s.localBehind r then .hold .order else .ok r
    | r => r

/-- An index word at the bank: waiters to be served before the read go first (R164). -/
def Arch.indexAt (a : Arch) (pa : Nat) : Nat := Memory.read (a.bankTurn pa 4).mem pa 4

/-- An element of a use: its index within the use, and its pattern, position and whether the table applies. -/
def State.element (s : State) (a p : Nat) (ind r w : Bool) : RangeR :=
  let go (ix : Option Nat) : RangeR :=
    let ad := patAddr a p (patBase a) ix
    if ad < 0 || pow2 64 ≤ ad then .trap 4 (wrap ad 64) 0
    else s.range ad.toNat (2 ^ patEsz a) (2 ^ patEsz a) r w (patEsz a == 3 && !(r && w))
  if ind then
    match s.indexWord (patWord a p) with
    | .ok q => go (some (s.view.indexAt ((q.segs.map Prod.fst).headD 0)))
    | q => q
  else go none

/-- Check elements in walk order; a hold leaves the later checks to be made (R232), and the stash entries of all of them are asked for
at once (R175). -/
def State.elements (s : State) (a : Nat) (ind r w : Bool) : List (Nat × Nat) → Option Hold → List (Nat × Range) → RangesR
  | [], some h, _ => if h = .stash then .stall .stash s.view else .hold h
  | [], none, acc => .ok acc.reverse
  | (j, p) :: es, h, acc =>
    match s.element a p ind r w with
    | .ok q => State.elements s a ind r w es h ((j, q) :: acc)
    | .trap c i g => .trap c i g
    | .hold k => State.elements s a ind r w es (some (h.getD k)) acc
    | .stall k m =>
      if k = .stash then State.elements (s.setIss { s.iss with pre := some m }) a ind r w es (some .stash) acc else .stall k m

/-- The elements a use of an a register accesses. -/
def State.uses (s : State) (ai : Nat) : List (Nat × Nat) :=
  let a := (s.rd.readA ai).toNat
  ((upTo (patUse a)).map (fun j => (j, s.rd.readPos ai + j))).filter (fun e => e.2 < patTotal a)

/-- The scratchpad rows of the index words a use reads (R160). -/
def State.indexRows (s : State) (ai : Nat) (ind : Bool) : List Nat :=
  let a := (s.rd.readA ai).toNat
  if ind then (s.uses ai).map (fun e => patWord a e.2 / 64) else []

/-- The walk position after a use, and the rows of the index words it has read. -/
def State.advancePos (s : State) (ai : Nat) (ind : Bool) : State :=
  let a := (s.rd.readA ai).toNat
  (s.setIss { s.iss with rows := s.iss.rows ++ s.indexRows ai ind }).upd (fun t => { t with apos := SMap.set 0 t.apos ai (min (s.rd.readPos ai + patUse a) (patTotal a)) })

-- ## LDV, LDV.Z, STV

def State.ldv (s : State) (v ea : Nat) : SlotR :=
  (s.range ea 512 64 true false false).bind (fun r =>
    .ok (s.loadRange r .v (s.rd.physV v) (if r.near then 6 else s.classLatency r.segs) 8 false none))

/-- LDV.Z: only from the scratchpad through the core-local space; the block is expanded as it lands (R192). -/
def State.ldvZ (s : State) (v ea : Nat) : SlotR :=
  if ea / 2 ^ 56 ≠ 0xFE then .trap 4 ea 9 0
  else (s.range ea 512 64 true false false).bind (fun r => .ok (s.loadRange r .v (s.rd.physV v) 10 0 true none))

def State.stv (s : State) (v ea : Nat) : SlotR :=
  (s.range ea 512 64 false true false).bind (fun r => .ok (s.storeRange r (s.rd.readV v).toNat none))

def execLdv (p v g : Nat) (imm : BitVec 14) (s : State) : Out :=
  .next (s.finish (s.whenOn p (s.ldv v (s.cEa g imm 64))))
def execLdvZ (p v g : Nat) (imm : BitVec 14) (s : State) : Out :=
  .next (s.finish (s.whenOn p (s.ldvZ v (s.cEa g imm 64))))
def execStv (p v g : Nat) (imm : BitVec 14) (s : State) : Out :=
  .next (s.finish (s.whenOn p (s.stv v (s.cEa g imm 64))))

-- ## SCFG and SADV

def State.scfg (s : State) (a ea : Nat) : SlotR :=
  (s.range ea 32 32 true false false).bind (fun r =>
    .ok (s.loadRange r .a a (if r.near then 6 else s.classLatency r.segs) 1 false none))

def execScfg (p a g : Nat) (imm : BitVec 14) (s : State) : Out :=
  .next (s.finish (s.whenOn p (s.scfg a (s.cEa g imm 32))))

/-- SADV lands a walk position; the record stays (R375). -/
def State.sadv (s : State) (a : Nat) (g : Word) : State :=
  let x := (s.rd.readA a).toNat
  s.result .a a 0 (BitVec.ofInt 4096 (sat (Int.ofNat (s.rd.readPos a) + g.toInt) 0 (Int.ofNat (patTotal x)))) 1

def execSadv (p a g : Nat) (s : State) : Out :=
  .next (s.finish (s.whenOn p (.ok (s.sadv a (s.rd.readG g)))))

-- ## SLD, SGATH (R372)

/-- The requests that load the elements of a use into result `tag`. -/
def State.loadElements (s : State) (e tag : Nat) (rs : List (Nat × Range)) : List Req :=
  rs.flatMap (fun q => (pieces q.2 false).map (fun x =>
    { s.req .ld q.2.near x.1 x.2.1 0 with tag := some tag, lo := 8 * (q.1 * e + x.2.2) }))

def State.streamLoad (s : State) (v ai lat : Nat) (ind : Bool) : SlotR :=
  let a := (s.rd.readA ai).toNat
  if patBad a then .ok (s.landFull v 0 lat)
  else
    (s.elements a (ind && patInd a) true false (s.uses ai) none []).bind (fun rs =>
      let far := rs.filter (fun q => !q.2.near)
      let lat := if far.isEmpty then lat else s.classLatency (far.flatMap (fun q => q.2.segs))
      let parts := (rs.map (fun q => (pieces q.2 false).length)).sum
      let q := (s.advancePos ai (ind && patInd a)).pending .v (s.rd.physV v) lat parts (if far.isEmpty then 0 else 8) false
      .ok (q.1.accesses (q.1.loadElements (2 ^ patEsz a) q.2 rs)))

def execSld (p v a : Nat) (s : State) : Out := .next (s.finish (s.whenOn p (s.streamLoad v a 6 false)))
def execSgath (p v a : Nat) (s : State) : Out := .next (s.finish (s.whenOn p (s.streamLoad v a 12 true)))

-- ## SST, SSCAT (R373)

/-- Store one element of a use: the elements of a use are performed in walk order (R373). -/
def State.storeElem (s : State) (r : Range) (x : Nat) : State :=
  s.accesses ((s.stores r x none).map (fun q => { q with use := 8 * s.view.nextId + s.iss.pos + 1 }))

/-- Element `j` of a vector register, of `e` bytes. -/
def vecElem (x : VReg) (e j : Nat) : Nat := x.toNat / 2 ^ (8 * e * j) % 2 ^ (8 * e)

def State.streamStore (s : State) (v ai : Nat) (ind : Bool) : SlotR :=
  let a := (s.rd.readA ai).toNat
  let x := s.rd.readV v
  if patBad a then .ok s
  else
    (s.elements a (ind && patInd a) false true (s.uses ai) none []).bind (fun rs =>
      .ok (rs.foldl (fun s q => s.storeElem q.2 (vecElem x (2 ^ patEsz a) q.1)) (s.advancePos ai (ind && patInd a))))

def execSst (p v a : Nat) (s : State) : Out := .next (s.finish (s.whenOn p (s.streamStore v a false)))
def execSscat (p v a : Nat) (s : State) : Out := .next (s.finish (s.whenOn p (s.streamStore v a true)))

-- ## SAMO (R374)

/-- The operation of flags[1:0]: ADD, FADD, MAX, MIN. -/
def samoOp (op : Nat) : Amo :=
  match op with
  | 0 => .add
  | 1 => .fadd
  | 2 => .max
  | _ => .min

/-- Whether the table of R374 accepts an element size. -/
def samoSize (op esz : Nat) : Bool := esz == 2 || (esz == 3 && op != 1)

def State.samo (s : State) (v ai op : Nat) : SlotR :=
  let a := (s.rd.readA ai).toNat
  let x := s.rd.readV v
  let e := 2 ^ patEsz a
  if patBad a then .ok s
  else if !samoSize op (patEsz a) then .ok (s.advancePos ai false)
  else
    (s.elements a (patInd a) true true (s.uses ai) none []).bind (fun rs =>
      if rs.any (fun q => s.reqFull q.2.pa) then .hold .request
      else
      .ok ((s.advancePos ai (patInd a)).accesses (rs.map (fun q =>
        { s.req (.amo (samoOp op)) q.2.near q.2.pa e (vecElem x e q.1) with
          comm := true
          det := op == 1 && s.isExact q.2.pa }))))

def execSamo (p v a op : Nat) (s : State) : Out := .next (s.finish (s.whenOn p (s.samo v a op)))

-- ## STASHT (R176, R376)

/-- The stash entry of a core whose window holds a virtual address. -/
def Core.entryAt (k : Core) (va : Nat) : Option Nat :=
  k.window.findSome? (fun e => e.2.bind (fun b => if b ≤ va ∧ va < b + 0x8000 then some (e.1 * 256 + (va - b) / 128) else none))

/-- TOUCH: a fill for ownership, once the entry's address is translated. -/
def State.touch (s : State) (key va : Nat) : SlotR :=
  let c := s.iss.core
  if (SMap.get StashState.invalid (s.arch.core c).stash key).grants true then .ok s
  else
    match s.view.xlate c s.iss.ctx va false true with
    | .phys pa =>
      (match s.view.place pa with | .stack _ _ => .ok (s.setArch (s.arch.askFill c key pa true true)) | _ => .ok s)
    | .miss => .stall .clock (s.view.addMiss c (.ctx s.iss.ctx) s.rd.asid.toNat s.rd.ptroot.toNat va false true)
    | _ => .ok s

/-- STASHT: WB and WBINV take their place among the bundle's accesses (R243). -/
def State.stasht (s : State) (ea op : Nat) : SlotR :=
  if ea / 2 ^ 56 ≠ 0 ∧ ea / 2 ^ 56 ≠ 0xFE then .trap 4 ea 9 0
  else
    match (s.view.core s.iss.core).entryAt ea with
    | none => .ok s
    | some key =>
      if op = 0 then s.touch key (ea / 128 * 128)
      else .ok (s.access (s.req (.stashBack (op == 2)) true (s.view.spadPa s.iss.core (key * 128)) 128 0))

def execStasht (p g : Nat) (imm : BitVec 14) (op : Nat) (s : State) : Out :=
  .next (s.finish (s.whenOn p (s.stasht (s.cEa g imm 128) op)))

end Sys2Proof.Machine
end

