-- ==== Sys2Proof/Machine/Engine.lean ====
section
/-! DEFINITION. The matrix engine of a core (06_matrix_engine): fetches, calls and their end, the row buffer, passes, and
the meaning of each micro-op on the running call. -/

namespace Sys2Proof.Machine

def Arch.mapEngine (a : Arch) (c : Nat) (f : Engine → Engine) : Arch :=
  a.mapCore c (fun k => { k with engine := f k.engine })

-- ## Fetches (R154, R156, R171, R175, R232)

/-- What a fetch of the engine meets: a value, a stall, a fault at an address, or poison. -/
inductive Fetch where
  | ok (a : Arch) (x : Nat)
  | wait (a : Arch)
  | fault (a : Arch) (va : Nat)
  | check (a : Arch)
deriving DecidableEq, Repr

def Fetch.bind (q : Fetch) (f : Arch → Nat → Fetch) : Fetch :=
  match q with
  | .ok a x => f a x
  | .wait a => .wait a
  | .fault a v => .fault a v
  | .check a => .check a

/-- Stores to the core's scratchpad that the issuing context made before the command and that are not yet performed. -/
def Arch.storesBefore (a : Arch) (c : Nat) (cmd : Cmd) : Bool :=
  a.reqs.any (fun r => r.core == c && r.ctx == cmd.ctx && r.op.writes && r.seq < cmd.ord && r.st != .withdrawn
    && (match a.place r.pa with | .spad c' _ => c' == c | _ => false))

/-- Permission of the stash entries of a range: an entry without it is translated and asked for, and holds the engine. -/
def Arch.engineStash (a : Arch) (c : Nat) (cmd : Cmd) (va off len : Nat) : Option Fetch :=
  ((upTo ((off + len - 1) / 128 - off / 128 + 1)).map (fun i => off / 128 + i)).findSome? (fun key =>
    match (a.core c).stashVa key with
    | none => none
    | some wva =>
      if (SMap.get StashState.invalid (a.core c).stash key).grants false then none
      else
        match a.lookup c (.engine cmd.ctx) cmd.asid.toNat wva true false with
        | .phys pa => some (match a.place pa with | .stack _ _ => .wait (a.askFill c key pa false true) | _ => .fault a va)
        | .miss => some (.wait (a.addMiss c (.engine cmd.ctx) cmd.asid.toNat (a.ctx c cmd.ctx).ptroot.toNat wva true false))
        | .poison pa => some (.check (a.checkAt c cmd.ctx pa 7))
        | _ => some (.fault a va))

/-- A scratchpad read of the engine that the window rule stalls (R253). -/
def Arch.nearStalls (a : Arch) (c off len : Nat) : Bool :=
  ((a.nearSegs c off len).map (fun e => a.place (a.homePa c (e.1 - a.spadPa c 0)))).any (fun p =>
    !a.homeLost p && a.windowStalls p.home (c / 32) (a.window + 1))

/-- A scratchpad read of the engine. -/
def Arch.fetchNear (a : Arch) (c : Nat) (cmd : Cmd) (va off len : Nat) : Fetch :=
  if spadSize < off + len then .fault a va
  else if (groupsOf off len).any (fun g => !(a.core c).mayTouch cmd.ctx g a.clock) then .fault a va
  else
    match watermark (a.ctx c cmd.ctx).chans va len with
    | .trap _ i => .fault a i
    | .hold => .wait a
    | .pass =>
      match a.engineStash c cmd va off len with
      | some r => r
      | none =>
        if a.storesBefore c cmd then .wait a
        else if a.nearStalls c off len then .wait (a.noteStretch (c / 32) (a.window + 1))
        else let a := a.bankTurn (a.spadPa c off) len; .ok a (Memory.read a.mem (a.spadPa c off) len)

/-- Read physical segments at their homes. -/
def Arch.fetchSegs (a : Arch) : List (Nat × Nat) → Option (Nat × Arch)
  | [] => some (0, a)
  | (pa, len) :: ss =>
    if !a.readable pa len then none
    else
      let q := match a.place pa with
        | .stack _ _ => a.homeRead pa len
        | _ => let a := a.bankTurn pa len; (Memory.read a.mem pa len, a)
      (Arch.fetchSegs q.2 ss).map (fun r => (q.1 + 2 ^ (8 * len) * r.1, r.2))

/-- A read through the translated global space. -/
def Arch.fetchGlobal (a : Arch) (c : Nat) (cmd : Cmd) (va len : Nat) : Fetch :=
  let segs := (cutPages va len).map (fun e => (e.1, e.2, a.lookup c (.engine cmd.ctx) cmd.asid.toNat e.1 true false))
  match segs.find? (fun e => match e.2.2 with | .phys _ => false | _ => true) with
  | some e =>
    (match e.2.2 with
     | .miss => .wait (a.addMiss c (.engine cmd.ctx) cmd.asid.toNat (a.ctx c cmd.ctx).ptroot.toNat e.1 true false)
     | .poison pa => .check (a.checkAt c cmd.ctx pa 7)
     | _ => .fault a e.1)
  | none =>
    let ps := segs.map (fun e => (match e.2.2 with | .phys p => (p, e.2.1) | _ => (0, e.2.1)))
    if ps.any (fun e => !a.coreReach e.1 e.2 false false) then .fault a va
    else
      match watermark (a.ctx c cmd.ctx).chans va len with
      | .trap _ i => .fault a i
      | .hold => .wait a
      | .pass =>
        if ps.any (fun e => match a.place e.1 with | .spad c' _ => c' == c | _ => false) && a.storesBefore c cmd then .wait a
        else
          match ps.findSome? (fun e => a.reachHeld (c / 32) e.1 e.2 false) with
          | some a => .wait a
          | none =>
            match a.fetchSegs ps with
            | some (x, a) => .ok a x
            | none => .check (a.checkAt c cmd.ctx (((ps.find? (fun e => !a.readable e.1 e.2)).map Prod.fst).getD 0) 7)

/-- A fetch of `len` bytes at a virtual address; 0 bytes need nothing. -/
def Arch.engineFetch (a : Arch) (c : Nat) (cmd : Cmd) (va len : Nat) : Fetch :=
  if va / 2 ^ 56 = 0 ∧ (va + len - 1) / 2 ^ 56 = 0 then a.fetchGlobal c cmd va len
  else if va / 2 ^ 56 = 0xFE then a.fetchNear c cmd va (va % 2 ^ 56) len
  else .fault a va

/-- Fetch ranges in order; the values follow one another. -/
def Arch.fetchAll (a : Arch) (c : Nat) (cmd : Cmd) : List (Nat × Nat) → Nat → Nat → Fetch
  | [], _, acc => .ok a acc
  | (va, len) :: rs, sh, acc =>
    (a.engineFetch c cmd va len).bind (fun a x => Arch.fetchAll a c cmd rs (sh + 8 * len) (acc + 2 ^ sh * x))

-- ## Status and the end of a call (R151, R156, R264)

def errNoRoutine : Nat := 1
def errUnderrun : Nat := 2
def errAccRange : Nat := 3
def errPlane : Nat := 4
def errAnchor : Nat := 5
def errFootprint : Nat := 6
def errFault : Nat := 7
def errParam : Nat := 8
def errRange : Nat := 9
def errBarrier : Nat := 10
def errOverflow : Nat := 11

/-- The first error since the last MSTAT stays. -/
def EngineStat.note (t : EngineStat) (err routine : Nat) : EngineStat :=
  if t.err = 0 then { t with err := BitVec.ofNat 4 err, erout := BitVec.ofNat 8 routine } else t

/-- An error of the context `x` of core `c` is noted in its status (R151, R6). -/
def Arch.noteErr (a : Arch) (c x err routine : Nat) : Arch :=
  let a := if ((a.core c).engine.statOf x).err = 0 then a.sets (.err c x (BitVec.ofNat 4 err) (BitVec.ofNat 8 routine)) else a
  a.mapEngine c (fun e => e.mapStat x (fun t => t.note err routine))

/-- The task-exactness flag of a context is set (R264). -/
def Arch.inexact (a : Arch) (c x : Nat) : Arch := a.mapCtx c x (fun t => { t with exact := true })

/-- A call ends: it counts in DONE, and its private copies and row buffer are discarded. -/
def Arch.endCall (a : Arch) (c : Nat) (r : Call) : Arch :=
  a.mapEngine c (fun e => { (e.mapStat r.cmd.side (fun t => { t with done := t.done + 1 })) with run := none })

/-- A call stops with an error. -/
def Arch.stopCall (a : Arch) (c : Nat) (r : Call) (err : Nat) : Arch :=
  ((a.noteErr c r.cmd.side err r.cmd.routine).inexact c r.cmd.ctx).endCall c r

/-- A fetch that fails (R156 step 4): FAULT, the context's queued commands are discarded, and it will trap. -/
def Arch.fetchFault (a : Arch) (c : Nat) (cmd : Cmd) (va : Nat) : Arch :=
  (((a.noteErr c cmd.side errFault cmd.routine).mapEngine c (fun e =>
    { e with queue := e.queue.filter (fun q => q.ctx != cmd.ctx), loading := false })).dropMiss c (.engine cmd.ctx)).mapCtx c cmd.ctx
    (fun t => { t with engineTrap := some ⟨0x0C, va⟩ })

-- ## One micro-op

/-- What a micro-op does: it completes, waits, stops the call with an error, or faults. -/
inductive Micro where
  | go (a : Arch) (r : Call)
  | wait (a : Arch)
  | finish (a : Arch)
  | stop (a : Arch) (err : Nat)
  | fault (a : Arch) (va : Nat)
  | check (a : Arch)
deriving DecidableEq, Repr

/-- Apply a micro-op to the running call of core `c`. A fetch that meets poison ends its call with FAULT beside the machine check: R156
names no error for it (log entry 80). -/
def Arch.micro (a : Arch) (c : Nat) (f : Arch → Call → Micro) : Arch :=
  match (a.core c).engine.run with
  | none => a
  | some r =>
    match f a r with
    | .go a r => a.mapEngine c (fun e => { e with run := some r })
    | .wait a => a
    | .finish a => a.endCall c r
    | .stop a err => a.stopCall c r err
    | .fault a va => ((a.fetchFault c r.cmd va).inexact c r.cmd.ctx).endCall c r
    | .check a => (a.dropMiss c (.engine r.cmd.ctx)).stopCall c r errFault

def Call.next (r : Call) : Call := { r with pos := r.pos + 1 }
def Call.m (r : Call) (i : Nat) : Nat := (SMap.get (0 : Word) r.cmd.m i).toNat
def Call.setM (r : Call) (i : Nat) (x : Nat) : Call :=
  { r with cmd := { r.cmd with m := SMap.set (0 : Word) r.cmd.m i (BitVec.ofNat 64 x) } }

/-- Use a fetched value. -/
def Fetch.micro (q : Fetch) (f : Arch → Nat → Micro) : Micro :=
  match q with
  | .ok a x => f a x
  | .wait a => .wait a
  | .fault a v => .fault a v
  | .check a => .check a

-- ## MXLDB (R140, R142)

/-- Write a plane image into consecutive macros. -/
def Engine.loadPlane (e : Engine) (first slot size : Nat) (x : Nat) : Nat → Engine
  | 0 => e
  | n + 1 =>
    let e := Engine.loadPlane e first slot size x n
    let img := toBytes size (x / 2 ^ (8 * size * n))
    let q := (first + n) * 8 + slot
    { e with planes := Memory.writeBytes e.planes (q * 4096) (img.take 4096)
             exps := Memory.writeBytes e.exps (q * 128) (img.drop 4096) }

/-- MXLDB. The order in which its errors are looked at, PARAM first, is the model's choice, as that of MXSTREAM's and MXSTREAM.S's is
(log entry 80). -/
def mxldb (c i first count plane : Nat) (a : Arch) (r : Call) : Micro :=
  let d := r.m i
  let slot := bits d 2 0 + plane
  let size := if plane = 0 then 4224 else 4096
  if bits d 5 3 ≠ 0 then .stop a errParam
  else if 7 < slot then .stop a errPlane
  else
    (a.engineFetch c r.cmd (d / 64 * 64) (size * (count + 1))).micro (fun a x =>
      .go (a.mapEngine c (fun e => e.loadPlane first slot size x (count + 1))) (r.setM i (d + size * (count + 1))).next)

-- ## MXSTREAM (R143, R153)

/-- Whether block `i` of a stream is skipped. -/
def Call.skips (r : Call) (i : Nat) : Bool := r.skip && r.cmd.mask.getLsbD (i % 32)

/-- A block from its bytes: mantissas, then exponent. -/
def blockOf (w x : Nat) : Block := ⟨x % 2 ^ (32 * w), x / 2 ^ (32 * w) % 256, w, false⟩
def skippedBlock (w : Nat) : Block := ⟨0, 0, w, true⟩

/-- A stream that waits keeps the blocks it has fetched, and goes on from there (R143, R156): as far as it came, when a later block had
to wait. -/
def Micro.keep (c : Nat) (r : Call) (got : List Block) (part : Nat × Nat) : Micro → Micro
  | .wait a => .wait (a.mapEngine c (fun e =>
      if e.run.any (fun q => decide (got.length ≤ q.got.length)) then e
      else { e with run := some { r with got := got, part := part } }))
  | m => m

/-- A micro-op that waited is over. -/
def Call.fresh (r : Call) : Call := { r with got := [], part := (0, 0), sat := false }

/-- Blocks from the scratchpad, from block `i` on. -/
def streamNear (c w mo eo : Nat) (a : Arch) (r : Call) (i : Nat) (acc : List Block) :
    Nat → (Arch → List Block → Micro) → Micro
  | 0, k => k a acc
  | n + 1, k =>
    if r.skips i then streamNear c w mo eo a r (i + 1) (acc ++ [skippedBlock w]) n k
    else
      let m := mo + 4 * w * i
      if spadSize < m + 4 * w ∨ spadSize < eo + i + 1 then .stop a errRange
      else
        ((a.fetchAll c r.cmd [(0xFE00000000000000 + m, 4 * w), (0xFE00000000000000 + eo + i, 1)] 0 0).micro (fun a x =>
          streamNear c w mo eo a r (i + 1) (acc ++ [blockOf w x]) n k)).keep c r acc (0, 0)

/-- MXSTREAM advances MOFF and EOFF by what it took, as one sum: what passes a field's width goes into the bits above, which the
next MXSTREAM refuses (log entry 63). -/
def mxstream (c i w blocks : Nat) (a : Arch) (r : Call) : Micro :=
  let d := r.m i
  let w := w + 2
  let n := blocks + 1
  if bits d 31 19 ≠ 0 ∨ bits d 63 51 ≠ 0 then .stop a errParam
  else if 256 < r.row.length + n then .stop a errOverflow
  else
    streamNear c w (bits d 18 0) (bits d 50 32) a r r.got.length r.got (n - r.got.length) (fun a bs =>
      .go a ({ r with row := r.row ++ bs }.setM i (d + 4 * w * n + 2 ^ 32 * n)).fresh.next)

/-- The parts of elements that the next `n` bytes of a stream take: position, offset and length of each, and where the
stream stands then. -/
def takeBytes (e : Nat) (p off n : Nat) : Nat → List (Nat × Nat × Nat) × Nat × Nat
  | 0 => ([], p, off)
  | fuel + 1 =>
    if n = 0 then ([], p, off)
    else
      let k := min n (e - off)
      let q := if off + k = e then takeBytes e (p + 1) 0 (n - k) fuel else takeBytes e p (off + k) (n - k) fuel
      ((p, off, k) :: q.1, q.2)

/-- The address range of a part of an element, with its index word read when the table applies. -/
def Arch.partRange (a : Arch) (c : Nat) (cmd : Cmd) (pat : Nat) (part : Nat × Nat × Nat) : Fetch :=
  let go (a : Arch) (ix : Option Nat) : Fetch :=
    let ad := patAddr pat part.1 (patBase pat) ix
    if ad < 0 || pow2 64 ≤ ad || ad % pow2 (patEsz pat) != 0 then .fault a (wrap ad 64)
    else a.engineFetch c cmd (ad.toNat + part.2.1) part.2.2
  if patInd pat then
    if patWord pat part.1 % 4 ≠ 0 then .fault a (0xFE00000000000000 + patWord pat part.1)
    else
      (a.engineFetch c cmd (0xFE00000000000000 + patWord pat part.1) 4).bind (fun a w => go a (some w))
  else go a none

/-- Fetch the parts of one block. -/
def Arch.fetchParts (a : Arch) (c : Nat) (cmd : Cmd) (pat : Nat) : List (Nat × Nat × Nat) → Nat → Nat → Fetch
  | [], _, acc => .ok a acc
  | q :: qs, sh, acc =>
    (a.partRange c cmd pat q).bind (fun a x => Arch.fetchParts a c cmd pat qs (sh + 8 * q.2.2) (acc + 2 ^ sh * x))

/-- Blocks through a pattern, from block `i` on; `p` and `off` say where the byte stream stands. -/
def streamPat (c w pat : Nat) (a : Arch) (r : Call) (i p off : Nat) (acc : List Block) :
    Nat → (Arch → List Block → Nat → Nat → Micro) → Micro
  | 0, k => k a acc p off
  | n + 1, k =>
    let q := takeBytes (2 ^ patEsz pat) p off (4 * w + 1) (4 * w + 2)
    if r.skips i then streamPat c w pat a r (i + 1) q.2.1 q.2.2 (acc ++ [skippedBlock w]) n k
    else if q.1.any (fun e => patTotal pat ≤ e.1) then .stop a errRange
    else
      ((a.fetchParts c r.cmd pat q.1 0 0).micro (fun a x =>
        streamPat c w pat a r (i + 1) q.2.1 q.2.2 (acc ++ [blockOf w x]) n k)).keep c r acc (p, off)

def mxstreamS (c j w blocks : Nat) (a : Arch) (r : Call) : Micro :=
  let pat := (SMap.get (0 : BitVec 256) r.cmd.a j).toNat
  if patBad pat then .stop a errParam
  else if 256 < r.row.length + blocks + 1 then .stop a errOverflow
  else
    let from_ := if r.got = [] then (SMap.get 0 r.cmd.apos j, SMap.get 0 r.offs j) else r.part
    streamPat c (w + 2) pat a r r.got.length from_.1 from_.2 r.got (blocks + 1 - r.got.length) (fun a bs p off =>
      .go a { r with row := r.row ++ bs
                     cmd := { r.cmd with apos := SMap.set 0 r.cmd.apos j p }
                     offs := SMap.set 0 r.offs j off }.fresh.next)

-- ## MXACC (R139, R144, R145, R424)

/-- The weight set of one macro (R139): mantissa and scale of K-row `k`, column `col`. -/
def Engine.weight (e : Engine) (q slot planes wb k col : Nat) : Int × Int :=
  let byte (pl : Nat) : Nat := (SMap.get (0 : Byte) e.planes (((q * 8 + slot + pl) * 128 + k) * 32 + col)).toNat
  let m := sext (ofLanes 8 ((upTo (planes + 1)).map byte)) (8 * (planes + 1))
  bxRead (wb + 2) (SMap.get (0 : Byte) e.exps ((q * 8 + slot) * 128 + 32 * (k / 32) + col)).toNat m

/-- The products of one macro into one column: their sum, and whether any was cut. -/
def Engine.column (e : Engine) (q slot planes wb col : Nat) (X : Int) (bs : List Block) : Int × Bool :=
  (List.zip (upTo 4) bs).foldl (fun acc kb =>
    if kb.2.skipped then acc
    else
      (upTo 32).foldl (fun acc t =>
        let p := placeProduct (bxRead kb.2.w kb.2.exp (sext (kb.2.mant / 2 ^ (kb.2.w * t)) kb.2.w))
          (e.weight q slot planes wb (32 * kb.1 + t) col) X
        (acc.1 + p.1, acc.2 || p.2)) acc) (0, false)

/-- The term of output column `n` of a pass. -/
def Engine.term (e : Engine) (first F slot planes wb n : Nat) (X : Int) (bs : List Block) : Int × Bool :=
  (upTo F).foldl (fun acc f =>
    let p := e.column (first + n / 32 * F + f) slot planes wb (n % 32) X ((bs.drop (4 * f)).take 4)
    (acc.1 + p.1, acc.2 || p.2)) (0, false)

/-- Add one term; its events are posted for the call's context (R127, R128, R134). A product is placed before its term is added,
so that ACCLOW comes before ACCSAT. -/
def Arch.addTerm (a : Arch) (c row j : Nat) (t : Int × Bool) (r : Call) : Arch × Call :=
  let key := row * 64 + j
  let old := (a.core c).engine.acc
  let s := accAdd (sext (SMap.get 0 old key).toNat 64) t.1
  let info := BitVec.ofNat 64 (row + 2 ^ 12 * j + 2 ^ 32 * (r.pass % 2 ^ 32))
  let post (a : Arch) (code : Nat) : Arch := (a.post c ⟨code, r.cmd.ctx, r.cmd.bt % 2 ^ 32, info⟩).inexact c r.cmd.ctx
  let low := t.2 && !r.low.contains key
  let a := a.mapEngine c (fun e => { e with acc := SMap.set 0 e.acc key (BitVec.ofInt 64 s.1) })
  let a := if low then post a 0x02 else a
  (if s.2 then post a 0x01 else a, if low then { r with low := key :: r.low } else r)

/-- The anchor a context's coded task must use (R264): its operator's X. -/
def Arch.taskAnchor (a : Arch) (c x : Nat) : Option Int := do
  let u ← (a.ctx c x).unit
  let v ← a.unit u
  let l ← a.launch v.launch
  let t ← l.task
  let o ← a.op t.1
  return sext (bits o.desc.toNat 98 88) 11

/-- MXACC (R144): it writes all its accumulators, as every micro-op reads all its bytes, at one moment of the module (log entry 64). -/
def mxacc (c i first count : Nat) (a : Arch) (r : Call) : Micro :=
  let d := r.m i
  let row := bits d 11 0
  let F := 2 ^ bits d 14 12
  let planes := bits d 16 15
  let slot := bits d 19 17
  let wb := bits d 22 20
  let X := sext (bits d 42 32) 11
  let n := count + 1
  let rows := (32 * n + 64 * F - 1) / (64 * F)
  if 2559 < row ∨ 6 < bits d 14 12 ∨ 2 < planes ∨ 6 < wb ∨ bits d 31 23 ≠ 0 ∨ bits d 63 43 ≠ 0 ∨ n % F ≠ 0 then
    .stop a errParam
  else if 7 < slot + planes then .stop a errPlane
  else if r.anchor.any (fun x => x.toInt != X) then .stop a errAnchor
  else
    let a := if (a.taskAnchor c r.cmd.ctx).any (fun x => x != X) then a.inexact c r.cmd.ctx else a
    if r.row.length < 4 * F then .stop a errUnderrun
    else if 2559 < row + rows - 1 then .stop a errAccRange
    else if 2048 < r.rows + rows then .stop a errFootprint
    else
      let e := (a.core c).engine
      let bs := r.row.take (4 * F)
      let q := (upTo (32 * n / F)).foldl (fun (q : Arch × Call) k =>
        q.1.addTerm c (row + k / 64) (k % 64) (e.term first F slot planes wb k X bs) q.2) (a, r)
      .go q.1 ({ q.2 with row := r.row.drop (4 * F), anchor := some (BitVec.ofInt 11 X), rows := r.rows + rows
                          pass := r.pass + 1 }.setM i (d + rows)).next

-- ## The other micro-ops (R146, R152, R366)

def mxclr (c i rows : Nat) (a : Arch) (r : Call) : Micro :=
  let d := r.m i
  let row := bits d 11 0
  if 2560 < row + rows + 1 then .stop a errAccRange
  else
    .go (a.mapEngine c (fun e => { e with
      acc := e.acc.filter (fun x => x.1 < row * 64 || (row + rows + 1) * 64 ≤ x.1) })) (r.setM i (d + rows + 1)).next

/-- The position after the MXEND that matches an MXLOOP whose body starts at the head of `code`. -/
def skipBody (pos depth : Nat) : List Nat → Nat
  | [] => pos
  | w :: ws =>
    if w / 2 ^ 27 = 5 then skipBody (pos + 1) (depth + 1) ws
    else if w / 2 ^ 27 = 6 then (if depth = 0 then pos + 1 else skipBody (pos + 1) (depth - 1) ws)
    else skipBody (pos + 1) depth ws

def openLoop (n : Nat) (r : Call) : Call :=
  if n = 0 then { r with pos := skipBody (r.pos + 1) 0 (r.code.drop (r.pos + 1)) }
  else { r.next with loops := (r.pos + 1, n) :: r.loops }

def mxloopImm (n : Nat) (a : Arch) (r : Call) : Micro := .go a (openLoop n r)
def mxloopReg (i : Nat) (a : Arch) (r : Call) : Micro := .go a (openLoop (bits (r.m i) 15 0) r)

def mxend (a : Arch) (r : Call) : Micro :=
  match r.loops with
  | [] => .finish a
  | (start, n) :: ls => if 1 < n then .go a { r with pos := start, loops := (start, n - 1) :: ls } else .go a { r with loops := ls }.next

/-- The scratchpad offset of a barrier operand (R152); none outside the core's scratchpad in the core-local space. -/
def barOperand (ga : Word) : Option Nat :=
  let va := ga.toNat / 8 * 8
  if va / 2 ^ 56 = 0xFE ∧ va % 2 ^ 56 + 8 ≤ spadSize then some (va % 2 ^ 56) else none

/-- An operation of the engine on its barrier object: BARRIER for an address that is no object of the scratchpad, FAULT
for a group the other context owns (R152, R170, R171). -/
def onBarrier (c : Nat) (a : Arch) (r : Call) (f : Nat → Micro) : Micro :=
  match r.cmd.ga with
  | none => .go a r.next
  | some ga =>
    match barOperand ga with
    | none => .stop a errBarrier
    | some o =>
      if ((a.core c).stashKey o).isSome then .stop a errBarrier
      else if !(a.core c).mayTouch r.cmd.ctx (o / 0x8000) a.clock then .fault a (ga.toNat / 8 * 8)
      else f o

/-- One arrival on an object (R168, R169). -/
def Arch.arrive (a : Arch) (pa : Nat) : Arch :=
  let a := a.bankTurn pa 8
  { a with mem := Memory.write a.mem pa 8 (barArrive (Memory.read a.mem pa 8)) }.barWake pa

/-- MXWAITB: it goes on once it has observed the phase to differ from P, be it when it looks or after an action on the object since
(R152, R169). -/
def mxwaitb (c : Nat) (a : Arch) (r : Call) : Micro :=
  onBarrier c a r (fun o =>
    if r.sat then .go a r.fresh.next
    else if a.nearStalls c o 8 then .wait (a.noteStretch (c / 32) (a.window + 1))
    else
      let a := a.bankTurn (a.spadPa c o) 8
      if a.phaseTurned (a.spadPa c o) (r.cmd.ga.getD 0).toNat then .go a r.fresh.next else .wait a)

/-- MXARR: its arrival reads the object, which the window rule may stall (R152, R169, R253). -/
def mxarr (c : Nat) (a : Arch) (r : Call) : Micro :=
  onBarrier c a r (fun o =>
    if a.nearStalls c o 8 then .wait (a.noteStretch (c / 32) (a.window + 1)) else .go (a.arrive (a.spadPa c o)) r.next)

def mxskip (a : Arch) (r : Call) : Micro := .go a { r with skip := true }.next
def mxpar (i j : Nat) (a : Arch) (r : Call) : Micro := .go a (r.setM i (r.m j)).next
def mxaddp (i : Nat) (imm : BitVec 24) (a : Arch) (r : Call) : Micro :=
  .go a (r.setM i (wrap (Int.ofNat (r.m i) + imm.toInt) 64)).next

/-- MXSYNC: micro-ops run strictly in order here, so every earlier one has completed (R147). -/
def mxsync (a : Arch) (r : Call) : Micro := .go a r.next

/-- A micro-op of the store; any other instruction is none. -/
def microOp (c : Nat) : Instr → Option (Arch → Call → Micro)
  | .mxldb i f n p => some (mxldb c i f n p)
  | .mxstream i w b => some (mxstream c i w b)
  | .mxstreamS j w b => some (mxstreamS c j w b)
  | .mxacc i f n => some (mxacc c i f n)
  | .mxclr i n => some (mxclr c i n)
  | .mxloopImm n => some (mxloopImm n)
  | .mxloopReg i => some (mxloopReg i)
  | .mxend => some mxend
  | .mxwaitb => some (mxwaitb c)
  | .mxarr => some (mxarr c)
  | .mxskip => some mxskip
  | .mxpar i j => some (mxpar i j)
  | .mxaddp i x => some (mxaddp i x)
  | .mxsync => some mxsync
  | _ => none

/-- The running call's next micro-op acts; not while the core's clock is stopped (R328). -/
def Arch.engineStep (a : Arch) (c : Nat) : Arch :=
  match (a.core c).engine.run with
  | none => a
  | some r =>
    if (a.core c).stopped then a
    else
    match (decodeMicro (r.code.getD r.pos 0)).bind (microOp c) with
    | some f => a.micro c f
    | none => a

-- ## Executing a micro-op

/-- A micro-op acts on the running call of the core named by the cursor (R365). -/
def State.runMicro (s : State) (f : Arch → Call → Micro) : Out := s.event (fun a => a.micro s.iss.core f)

def execMxldb (i first count plane : Nat) (s : State) : Out := s.runMicro (mxldb s.iss.core i first count plane)
def execMxstream (i w blocks : Nat) (s : State) : Out := s.runMicro (mxstream s.iss.core i w blocks)
def execMxstreamS (j w blocks : Nat) (s : State) : Out := s.runMicro (mxstreamS s.iss.core j w blocks)
def execMxacc (i first count : Nat) (s : State) : Out := s.runMicro (mxacc s.iss.core i first count)
def execMxclr (i rows : Nat) (s : State) : Out := s.runMicro (mxclr s.iss.core i rows)
def execMxloopImm (n : Nat) (s : State) : Out := s.runMicro (mxloopImm n)
def execMxloopReg (i : Nat) (s : State) : Out := s.runMicro (mxloopReg i)
def execMxend (s : State) : Out := s.runMicro mxend
def execMxwaitb (s : State) : Out := s.runMicro (mxwaitb s.iss.core)
def execMxarr (s : State) : Out := s.runMicro (mxarr s.iss.core)
def execMxskip (s : State) : Out := s.runMicro mxskip
def execMxpar (i j : Nat) (s : State) : Out := s.runMicro (mxpar i j)
def execMxaddp (i : Nat) (imm : BitVec 24) (s : State) : Out := s.runMicro (mxaddp i imm)
def execMxsync (s : State) : Out := s.runMicro mxsync

end Sys2Proof.Machine
end

