-- ==== Sys2Proof/Machine/Stash.lean ====
section
/-! DEFINITION. Coherence of stash entries (09 R207 to R214): the directory, its fine table and snoop filters, fills,
snoops, write-backs and release notices. -/

namespace Sys2Proof.Machine

-- ## What a die holds (R207)

/-- Lines a core's stash holds, and whether OWNED or DIRTY. -/
def Core.lines (k : Core) : List (Nat × Bool) :=
  k.stash.map (fun e => (SMap.get 0 k.stashLine e.1, e.2 == .owned || e.2 == .dirty))

/-- Lines of a region held on a die, from its snoop filter. -/
def Arch.dieLines (a : Arch) (d region : Nat) : List (Nat × Bool) :=
  (a.cores.filter (fun e => e.1 / 32 == d)).flatMap (fun e => e.2.lines.filter (fun l => regionOf l.1 == region))

-- ## The fine table (R209, R210)

def Brick.setRegion (k : Brick) (r : Nat) (v : Region) : Brick := { k with regions := SMap.set Region.absent k.regions r v }
def Brick.setFine (k : Brick) (l : Nat) (v : FineLine) : Brick := { k with fine := SMap.set FineLine.none k.fine l v }
def Brick.region (k : Brick) (r : Nat) : Region := SMap.get Region.absent k.regions r
def Brick.fineOf (k : Brick) (l : Nat) : FineLine := SMap.get FineLine.none k.fine l

/-- Enter one line of die `d`. -/
def Brick.enterLine (k : Brick) (d : Nat) (l : Nat × Bool) : Brick :=
  k.setFine l.1 (if l.2 then .owner d
    else match k.fineOf l.1 with
      | .sharers v => .sharers (v ||| dieBit d)
      | .none => .sharers (dieBit d)
      | .owner e => .owner e)

/-- Recall a FINE region: every line is invalidated, and the region becomes ABSENT. -/
def Arch.recall (a : Arch) (b region : Nat) : Arch :=
  let ls := ((a.brick b).fine.map Prod.fst).filter (fun l => regionOf l == region)
  (ls.foldl (fun a l => a.snoopLine l true) a).mapBrick b (fun k =>
    { (k.setRegion region .absent) with
      fine := k.fine.filter (fun e => regionOf e.1 != region)
      promoted := k.promoted.filter (fun r => r != region) })

/-- Recall least recently promoted regions until `n` entries are free (R210). One in need that is itself the least recently promoted is
spared, and the next is recalled: of that R210 does not speak (log entry 84). -/
def Arch.makeRoom (a : Arch) (b keep n : Nat) : Nat → Arch
  | 0 => a
  | fuel + 1 =>
    if (a.brick b).fine.length + n ≤ 65536 then a
    else
      match (a.brick b).promoted.find? (fun r => r != keep) with
      | some r => Arch.makeRoom (a.recall b r) b keep n fuel
      | none => a

/-- Promote a region to FINE for a request to `line`, entering the lines of the dies listed. -/
def Arch.promote (a : Arch) (b line : Nat) (ds : List Nat) : Arch :=
  let region := regionOf line
  let n := (line :: ds.flatMap (fun d => (a.dieLines d region).map Prod.fst)).dedup.length
  let a := a.makeRoom b region n (a.brick b).promoted.length
  let ls := ds.flatMap (fun d => (a.dieLines d region).map (fun l => (d, l)))
  a.mapBrick b (fun k =>
    let k := ls.foldl (fun k e => k.enterLine e.1 e.2) (k.setRegion region .fine)
    { k with promoted := k.promoted.filter (fun r => r != region) ++ [region] })

/-- Send snoops about a line, on behalf of a fill, to its owner or to its sharers. -/
def Arch.sendSnoops (a : Arch) (b line fill : Nat) (inval own : Bool) (ds : List Nat) : Arch :=
  { a with snoops := a.snoops ++ ds.map (fun d => ⟨b, d, line, inval, fill, own, a.clock⟩) }

/-- The FINE rows of R209. -/
def Arch.fineStep (a : Arch) (b line e fill : Nat) (own : Bool) : Arch :=
  let a := if (a.brick b).fineOf line = .none then a.makeRoom b (regionOf line) 1 (a.brick b).promoted.length else a
  let put (a : Arch) (v : FineLine) : Arch := a.mapBrick b (fun k => k.setFine line v)
  match (a.brick b).fineOf line with
  | .owner d =>
    if d = e then a
    else if own then put (a.sendSnoops b line fill true true [d]) (.owner e)
    else put (a.sendSnoops b line fill false true [d]) (.sharers (dieBit d ||| dieBit e))
  | .sharers v =>
    if own then put (a.sendSnoops b line fill true false ((diesOf v).filter (fun d => d != e))) (.owner e)
    else put a (.sharers (v ||| dieBit e))
  | .none => put a (if own then .owner e else .sharers (dieBit e))

/-- The state change of R209 for a request from die `e`. -/
def Arch.directory (a : Arch) (b line e fill : Nat) (own : Bool) : Arch :=
  let r := regionOf line
  match (a.brick b).region r with
  | .absent => a.mapBrick b (fun k => k.setRegion r (.priv e))
  | .priv d =>
    if d = e then a
    else if !own && (a.dieLines d r).all (fun l => !l.2) then
      a.mapBrick b (fun k => k.setRegion r (.shared (dieBit d ||| dieBit e)))
    else (a.promote b line [d]).fineStep b line e fill own
  | .shared v =>
    if own then (a.promote b line (diesOf v)).fineStep b line e fill own
    else a.mapBrick b (fun k => k.setRegion r (.shared (v ||| dieBit e)))
  | .fine => a.fineStep b line e fill own

/-- Whether the directory records that die `e` may hold the line as a fill asks. -/
def Brick.covers (k : Brick) (line e : Nat) (own : Bool) : Bool :=
  match k.region (regionOf line) with
  | .absent => false
  | .priv d => d == e
  | .shared v => !own && v.getLsbD e
  | .fine => (match k.fineOf line with
    | .owner d => d == e
    | .sharers v => !own && v.getLsbD e
    | .none => false)

/-- The home Brick of a physical address. -/
def Arch.homeBrick (a : Arch) (pa : Nat) : Option Nat :=
  match a.place pa with
  | .stack b _ => some b
  | _ => none

def Arch.mapFill (a : Arch) (id : Nat) (f : Fill → Fill) : Arch :=
  { a with fills := a.fills.map (fun q => if q.id = id then f q else q) }

/-- What the home does with a fill's request. -/
def Arch.grant (a : Arch) (b : Nat) (f : Fill) : Arch :=
  (a.directory b (lineOf f.pa) (f.core / 32) f.id f.owner).mapFill f.id (fun f => { f with stage := .granted })

/-- The lines that the request would recall from a die that is behind a sleeping port, and those dies (R210, R213). -/
def Arch.recallsWait (a : Arch) (b : Nat) (f : Fill) : List (Nat × Nat) :=
  let left := ((a.grant b f).brick b).promoted
  let gone := ((a.brick b).promoted).filter (fun r => !left.contains r)
  (((a.brick b).fine.map Prod.fst).filter (fun l => gone.contains (regionOf l))).flatMap (fun l =>
    ((a.snoopDies l true).filter (fun d => !(a.brick d).lost && a.tripSleeps b d)).map (fun d => (l, d)))

/-- Snoops of a recall that wait for a port, there or on the way back, are on their way, each once (R22, R213). -/
def Arch.sendRecalls (a : Arch) (b : Nat) (f : Fill) (ws : List (Nat × Nat)) : Arch :=
  let ws := ws.filter (fun e => !a.snoops.any (fun m => m.fill == f.id && m.die == e.2 && m.line == e.1))
  { a with snoops := a.snoops ++ ws.map (fun e => ⟨b, e.2, e.1, true, f.id, false, a.clock⟩) }

/-- The home directory takes the oldest request that has reached it; requests to one line are handled one at a time (R22, R211). One
that needs a recall over a sleeping port waits for the port (R213). -/
def Arch.directoryStep (a : Arch) (b : Nat) : Arch :=
  match a.fills.find? (fun f => f.stage == .sent && a.homeBrick f.pa == some b && !a.routeSleeps (f.core / 32) b
      && !a.fills.any (fun g => g.stage == .granted && g.pa == f.pa)) with
  | none => a
  | some f =>
    match a.recallsWait b f with
    | [] => a.grant b f
    | ws => a.sendRecalls b f ws

def execDirectoryRequest (b : Nat) (s : State) : Out :=
  s.event (fun a => if (a.brick b).lost then a else a.directoryStep b)

-- ## Completion of a fill (R175, R207)

/-- Another entry of the same die gives way: to a reader it becomes SHARED, to an owner INVALID. -/
def Arch.localSnoop (a : Arch) (c key line : Nat) (own : Bool) : Arch :=
  ((a.cores.map Prod.fst).filter (fun d => d / 32 == c / 32)).foldl (fun a d =>
    (((a.core d).holders line).filter (fun i => d != c || i != key)).foldl (fun a i => a.snoopEntry d i line own) a) a

/-- The context a fill is for: the owner of its group. -/
def Arch.fillCtx (a : Arch) (f : Fill) : Nat := if SMap.get Owner.free (a.core f.core).owner f.group = .b then 1 else 0

/-- When a fill for a context in deterministic mode lands: exactly 640 arithmetic cycles after the access that asked for it where the
line is homed on its own Brick, else 896 (R65, R175). -/
def Arch.fillTime (a : Arch) (f : Fill) : Nat :=
  f.since + 2 * (if a.homeBrick f.pa = some (f.core / 32) then 640 else 896)

/-- A fill may not land yet. -/
def Arch.fillEarly (a : Arch) (f : Fill) : Bool := (a.ctx f.core (a.fillCtx f)).detm && decide (a.clock < a.fillTime f)

/-- A fill lands: the line's data comes from its home, and the entry takes its state. -/
def Arch.fillLands (a : Arch) (f : Fill) : Arch :=
  let key := f.group * 256 + f.entry
  let line := lineOf f.pa
  let a := { a with fills := a.fills.filter (fun g => g.id != f.id) }
  if ((a.core f.core).stashVa key).isNone then a
  else if !a.readable f.pa 128 then
    a.checkAt f.core (a.fillCtx f) f.pa 7
  else
    let a := ((a.landBacks line).localSnoop f.core key line f.owner).retireRange f.pa 128
    let a := a.touchLine false line
    ({ a with mem := copyMem a.mem f.pa (a.spadPa f.core (key * 128)) 128 }.setStash f.core key
      (if f.owner then .owned else .shared)).mapCore f.core (fun k => { k with stashLine := SMap.set 0 k.stashLine key line })

/-- A fill completes once its snoops have been answered; one that a recall has overtaken asks again. At a home that is lost it
completes at once, with a machine check (R214). While the core's clock is stopped nothing lands there (R328). -/
def Arch.fillStep (a : Arch) (id : Nat) : Arch :=
  match a.fills.find? (fun f => f.id == id) with
  | none => a
  | some f =>
    match a.homeBrick f.pa with
    | none => a
    | some b =>
      let d := f.core / 32
      if (a.core f.core).stopped && !(a.brick d).lost then a
      else if (a.brick b).lost then a.fillLands f
      else if f.stage = .sent ∨ a.snoops.any (fun m => m.fill == id) = true ∨ a.fillEarly f = true ∨ a.routeSleeps b d = true then a
      else if a.windowStalls b d (a.window + 1) then a.noteStretch d (a.window + 1)
      else if (a.brick b).covers (lineOf f.pa) d f.owner then a.fillLands f
      else a.mapFill id (fun f => { f with stage := .sent })

def execStashFillComplete (i : Nat) (s : State) : Out := s.event (fun a => a.fillStep i)

-- ## Snoops and write-backs (R211 to R213)

/-- A snoop reaches a die and is answered, unless a port on its way or on the way of its response sleeps (R22, R213). -/
def Arch.snoopArrives (a : Arch) (b d line : Nat) (inval : Bool) : Arch :=
  match a.snoops.find? (fun m => m.home == b && m.die == d && m.line == line && m.inval == inval) with
  | none => a
  | some m =>
    if a.tripSleeps b d || (a.brick d).lost then a
    else
      { (a.landBacks line).snoopCores line inval (fun c => c / 32 == d) with snoops := a.snoops.erase m }

def execSnoop (b d line : Nat) (inval : Bool) (s : State) : Out := s.event (fun a => a.snoopArrives b d line inval)

/-- A write-back whose home is lost is performed nowhere: its core takes a machine check (R216). -/
def Arch.backFails (a : Arch) (w : WriteBack) : Arch := (a.backLands w).checkAt w.core w.ctx w.pa 7

/-- A write-back arrives at its home; write-backs of one line arrive in order. One that a sleeping port holds at its die leaves it
first, in the window of then (R22, R252). -/
def Arch.writeBackArrives (a : Arch) (id : Nat) : Arch :=
  match a.writeBacks.find? (fun w => w.id == id) with
  | none => a
  | some w =>
    let p := a.place w.pa
    if (a.writeBacks.find? (fun v => v.pa == w.pa)) != some w || (a.routeSleeps (w.core / 32) p.home && !a.homeLost p) then a
    else if w.win.isNone && p.home != w.core / 32 then
      { a with writeBacks := a.writeBacks.map (fun v => if v.id = id then { v with win := some (a.window + 1) } else v) }
    else if a.homeLost p then a.backFails w
    else a.backLands w

def execWriteBack (i : Nat) (s : State) : Out := s.event (fun a => a.writeBackArrives i)

/-- A die that holds no line of a region any more leaves its record (R207, R209), once its notice has reached the home (R22). -/
def Arch.releaseStep (a : Arch) (b d region : Nat) : Arch :=
  if a.routeSleeps d b || !(a.dieLines d region).isEmpty || a.fills.any (fun f => f.stage == .granted && f.core / 32 == d
      && regionOf (lineOf f.pa) == region) then a
  else
    a.mapBrick b (fun k =>
      match k.region region with
      | .absent => k
      | .priv e => if e = d then k.setRegion region .absent else k
      | .shared v =>
        let v := v &&& ~~~dieBit d
        k.setRegion region (if v = 0 then .absent else .shared v)
      | .fine =>
        let ls := k.fine.filter (fun e => regionOf e.1 == region)
        let k := ls.foldl (fun k e =>
          match e.2 with
          | .owner x => if x = d then k.setFine e.1 .none else k
          | .sharers v =>
            let v := v &&& ~~~dieBit d
            k.setFine e.1 (if v = 0 then .none else .sharers v)
          | .none => k) k
        if k.fine.any (fun e => regionOf e.1 == region) then k
        else { (k.setRegion region .absent) with promoted := k.promoted.filter (fun r => r != region) })

def execReleaseNotice (b d region : Nat) (s : State) : Out := s.event (fun a => a.releaseStep b d region)

-- ## What must have been performed in time (R65, R214)

/-- 1 µs in thirds of a nanosecond: the time between two heartbeats of a die (R214). -/
def beatPeriod : Nat := 3000

/-- Die `d` is silent to another die: its heartbeat is overdue, and it has not been declared lost (R214; log entry 85). -/
def Arch.silent (a : Arch) (d from_ : Nat) : Bool :=
  d < 8 && d != from_ && !(a.brick d).lost && decide ((a.brick d).lastBeat + beatPeriod < a.clock)

/-- An access has to do with a silent die: its home, or one whose copies of its lines must be snooped (R214). -/
def Arch.unanswered (a : Arch) (r : Req) : Bool :=
  let h := (a.place r.pa).home
  !r.near && (a.silent h (r.core / 32)
    || (linesOf r.pa r.len).any (fun l => (a.snoopDies l r.op.writes).any (fun d => a.silent d h)))

/-- Sleeping ports in the way of an access wake (R213: in deterministic mode none may delay it). -/
def Arch.wakeFor (a : Arch) (r : Req) : Arch :=
  if a.portHolds r || a.snoopHolds r
      || a.writeBacks.any (fun w => w.core == r.core && w.ctx == r.ctx && a.routeSleeps (w.core / 32) (a.place w.pa).home) then a.wakeAll
  else a

/-- Write-backs that a release must come after arrive (R245, R376). -/
def Arch.pushBacks (a : Arch) (r : Req) : Arch :=
  if a.backsBefore r then
    (a.writeBacks.filter (fun w => w.core == r.core && w.ctx == r.ctx && w.id < r.seq)).foldl
      (fun a w => (a.writeBackArrives w.id).writeBackArrives w.id) a
  else a

/-- An access is sent on and performed as far as its home lets it. -/
def Arch.pushReq (a : Arch) (id : Nat) : Arch :=
  let a := a.resend id
  match a.reqs.find? (fun r => r.id == id) with
  | some r =>
    if a.unanswered r then a
    else ((((a.wakeFor r).pushBacks r).bankTurn r.pa r.len).remoteAccess id).remoteAccess id
  | none => a

/-- What a context has issued up to the accesses that `p` selects is pushed on, in order. -/
def Arch.pushUpTo (a : Arch) (c x : Nat) (p : Req → Bool) : Arch :=
  let own := a.reqs.filter (fun r => r.core == c && r.ctx == x)
  (own.filter (fun r => own.any (fun q => p q && decide (r.seq ≤ q.seq)))).foldl (fun a r => a.pushReq r.id) a

/-- Before the clock of core `c` stops, accesses of contexts in deterministic mode to its banks are performed: within their latency a
droop response must not delay them (R65, R328; log entry 85). -/
def Arch.pushBanks (a : Arch) (c : Nat) : Arch :=
  (a.cores.flatMap (fun e => (e.2.ctxs.filter (fun x => x.2.detm)).map (fun x => (e.1, x.1)))).foldl (fun a e =>
    a.pushUpTo e.1 e.2 (fun q => !q.near && (match a.place q.pa with | .spad d _ => d == c | _ => false))) a

end Sys2Proof.Machine
end

