-- ==== Sys2Proof/Machine/Copies.lean ====
section
/-! DEFINITION. Copy channels (10_copies_and_watermarks): arming and its checks, landing behind the watermark, faults and
the four ways a copy ends. -/

namespace Sys2Proof.Machine

-- ## Reaching memory (R26 to R28, R221)

/-- Where `mem` holds a physical range that a copy may reach, if it may; poison counts as unreachable. -/
def Arch.copyKey (a : Arch) (pa len : Nat) (w : Bool) : Option Nat :=
  match a.place pa, a.place (pa + len - 1) with
  | .stack b _, .stack b' _ => if b = b' ∧ (if w then a.writable pa len else a.readable pa len) then some pa else none
  | .spad c o, .spad c' o' =>
    if c = c' ∧ !(a.brick (c / 32)).lost ∧ (groupsOf o (o' + 1 - o)).all (fun g =>
      ((SMap.get none (a.core c).window g) : Option Nat).isNone) then some pa else none
  | .host o, .host o' =>
    (match a.hostBus o, a.hostBus o' with
     | some x, some y => if o / 2 ^ 38 = o' / 2 ^ 38 ∧ y = x + (len - 1) then some (hostKey x) else none
     | _, _ => none)
  | .other m o, .other m' o' =>
    if m = m' ∧ (a.route m).isSome then
      (match placeInModule o, placeInModule o' with
       | .stack b _, .stack b' _ => if b = b' then some pa else none
       | .spad c _, .spad c' _ => if c = c' then some pa else none
       | .host _, .host _ => some pa
       | _, _ => none)
    else none
  | _, _ => none

/-- What reaching a range finds: the places of its parts in memory, a wait, or a fault. -/
inductive CopyAt where
  | ok (segs : List (Nat × Nat × Nat))
  | wait (a : Arch)
  | fault (va : Nat)
deriving DecidableEq, Repr

/-- A local access of the context to these bytes, issued before the start, is still to be performed (R221). -/
def Arch.copyBehind (a : Arch) (c x ord pa len : Nat) : Bool :=
  a.reqs.any (fun r => r.core == c && r.ctx == x && r.seq < ord && r.st != .withdrawn && a.isLocal r && r.hpa < pa + len && pa < r.hpa + r.len)

/-- Memory homed on a core's own Brick (R221). -/
def Arch.homedOn (a : Arch) (c pa : Nat) : Bool :=
  match a.place pa with | .stack b _ => b == c / 32 | .spad d _ => d / 32 == c / 32 | _ => false

/-- A part in another module: its request is sent, and the answer comes later (R321). -/
def Arch.askRemote (a : Arch) (c x n pa : Nat) : Option Arch :=
  match a.place pa with
  | .other _ _ =>
    if ((a.ctx c x).chan n).asked.isSome then none else some (a.mapChan c x n (fun h => { h with asked := some a.clock }))
  | _ => none

/-- Reach `len` bytes at a virtual address for channel `n` and a start with place `ord`: each part as physical address, key and
length. -/
def Arch.copyReachAs (a : Arch) (c x n ord va len : Nat) (w : Bool) : CopyAt :=
  if len = 0 then .ok []
  else if va / 2 ^ 56 = 0xFE then
    (if spadSize < va % 2 ^ 56 + len then .fault va
     else
       let pa := a.spadPa c (va % 2 ^ 56)
       if a.copyBehind c x ord pa len then .wait a
       else (match a.reachHeld (c / 32) pa len w with | some a => .wait a | none => .ok [(pa, pa, len)]))
  else if va / 2 ^ 56 ≠ 0 ∨ 2 ^ 56 < va + len then .fault va
  else
    let t := a.ctx c x
    let segs := (cutPages va len).map (fun e => (e.1, e.2, a.lookup c (.chan x n) t.asid.toNat e.1 (!w) w))
    match segs.find? (fun e => match e.2.2 with | .phys _ => false | _ => true) with
    | some e =>
      if e.2.2 = .miss then .wait (a.addMiss c (.chan x n) t.asid.toNat t.ptroot.toNat e.1 (!w) w) else .fault e.1
    | none =>
      let ps := segs.map (fun e =>
        (match e.2.2 with
         | .phys p => (p, a.copyKey p e.2.1 w, e.1, e.2.1)
         | _ => (0, none, e.1, e.2.1)))
      match ps.find? (fun e => e.2.1.isNone) with
      | some e => .fault e.2.2.1
      | none =>
        if ps.any (fun e => a.homedOn c e.1 && a.copyBehind c x ord e.1 e.2.2.2) then .wait a
        else
          match ps.findSome? (fun e => (a.reachHeld (c / 32) e.1 e.2.2.2 w).or (a.askRemote c x n e.1)) with
          | some a => .wait a
          | none => .ok (ps.map (fun e => (e.1, e.2.1.getD 0, e.2.2.2)))

/-- The same for the copy that the channel runs. -/
def Arch.copyReach (a : Arch) (c x n va len : Nat) (w : Bool) : CopyAt :=
  a.copyReachAs c x n ((a.ctx c x).chan n).ord va len w

/-- Read parts that have been reached. -/
def Arch.copyRead (a : Arch) : List (Nat × Nat × Nat) → List Byte × Arch
  | [] => ([], a)
  | (pa, key, len) :: ss =>
    let q := match a.place pa with
      | .stack _ _ => a.homeRead pa len
      | _ => let a := a.bankTurn pa len; (Memory.read a.mem key len, a)
    let r := Arch.copyRead q.2 ss
    (toBytes len q.1 ++ r.1, r.2)

/-- Write parts that have been reached. -/
def Arch.copyWrite (a : Arch) : List (Nat × Nat × Nat) → List Byte → Arch
  | [], _ => a
  | (pa, key, len) :: ss, bs =>
    let a := match a.place pa with
      | .stack _ _ => a.homeWrite pa len (ofBytes (bs.take len))
      | .spad _ _ => let a := a.bankTurn pa len; Arch.barWakeAll { a with mem := Memory.writeBytes a.mem key (bs.take len) } pa len
      | _ => { a with mem := Memory.writeBytes a.mem key (bs.take len) }
    Arch.copyWrite a ss (bs.drop len)

-- ## Templates (R222, R223, R225)

def tmplSrc (t : Nat) : Nat := bits t 255 0
def tmplDst (t : Nat) : Nat := bits t 511 256
def tmplMode (t : Nat) : Nat := bits t 514 512
def tmplCsrc (t : Nat) : Nat := bits t 519 516
def tmplCdst (t : Nat) : Nat := bits t 523 520
def tmplCrm (t : Nat) : Nat := bits t 525 524
def tmplCourse (t : Nat) : Nat := bits t 543 528
def tmplCstep (t : Nat) : Nat := bits t 575 544

def courseK (t : Nat) : Nat := bits (tmplCourse t) 2 0 + 1
def coursePar (t : Nat) : Nat := bits (tmplCourse t) 4 3
def courseWb (t : Nat) : Nat := bits (tmplCourse t) 7 5 + 2
def coursePl (t : Nat) : Nat := bits (tmplCourse t) 9 8

/-- Dimensions 0 and 1 exchanged in nesting order (R226). -/
def swapDims (p : Nat) : Nat :=
  bits p 63 0 + 2 ^ 64 * bits p 95 80 + 2 ^ 80 * bits p 79 64 + 2 ^ 96 * bits p 127 96 + 2 ^ 128 * bits p 175 152
    + 2 ^ 152 * bits p 151 128 + 2 ^ 176 * bits p 255 176

/-- The source walk of a template. -/
def srcPat (t : Nat) : Nat := if tmplMode t = 2 then swapDims (tmplSrc t) else tmplSrc t

/-- Bytes a pattern walks. -/
def patBytes (p : Nat) : Nat := patTotal p * 2 ^ patEsz p

/-- log2 of the size of an F type code (R226). -/
def fSize (code : Nat) : Nat := if code = 10 then 2 else 1

/-- Source and destination bases (R224). -/
def Chan.sbase (h : Chan) : Nat := h.lsrc.toNat + patBase (tmplSrc h.tmpl.toNat)
def Chan.dbase (h : Chan) : Nat := h.ldst.toNat + patBase (tmplDst h.tmpl.toNat)
def Chan.srclim (h : Chan) : Nat := bits h.lctl.toNat 63 32
/-- Entries of the bad-chunk ring, and its offset (R218). -/
def Chan.ringLog (h : Chan) : Nat := let n := bits h.lctl.toNat 23 19; if n ≤ 12 then n else 0
def Chan.ringBase (h : Chan) : Nat := bits h.lctl.toNat 18 3 * 8

-- ## Checks at arming (R227, R228)

/-- The footprint of a walk: low address and end. -/
def footprint (p base : Nat) : Int × Int :=
  let term (d : Nat) : Int := patStr p d * Int.ofNat (patCnt p d)
  (Int.ofNat base + ((upTo 4).map (fun d => min 0 (term d))).sum,
   Int.ofNat base + ((upTo 4).map (fun d => max 0 (term d))).sum + pow2 (patEsz p))

/-- A walk is monotonic (R227). -/
def monotonic (p : Nat) : Bool :=
  ((upTo 4).foldl (fun (q : Bool × Int) d =>
    if patCnt p d = 0 then q
    else (q.1 && q.2 ≤ patStr p d, patStr p d * Int.ofNat (patCnt p d) + q.2)) (true, pow2 (patEsz p))).1

def spadVa : Nat := 0xFE00000000000000

/-- The source footprint (R227, R257). -/
def Chan.sourceFoot (h : Chan) : Int × Int :=
  let t := h.tmpl.toNat
  let b := h.sbase
  if tmplMode t = 1 || patInd (tmplSrc t) then
    (Int.ofNat b,
     if h.srclim ≠ 0 then Int.ofNat (b + h.srclim)
     else if b / 2 ^ 56 = 0xFE then Int.ofNat (spadVa + spadSize) else pow2 56)
  else
    let f := footprint (tmplSrc t) b
    if tmplMode t = 4 then (f.1, f.2 + Int.ofNat ((courseK t - 1) * tmplCstep t)) else f

/-- A type code of R91 that names no type. -/
def noType (code : Nat) : Bool := code == 13 || code == 15

/-- Reserved or out-of-range fields, whatever the mode, and combinations R226 and R257 forbid (CODE 1). -/
def Chan.badTemplate (h : Chan) : Bool :=
  let t := h.tmpl.toNat
  let s := tmplSrc t
  let d := tmplDst t
  let mode := tmplMode t
  4 < mode || patBad s || patBad d || bits t 515 515 != 0 || bits t 527 526 != 0 || bits t 1023 576 != 0
    || noType (tmplCsrc t) || noType (tmplCdst t)
    || coursePar t == 3 || 8 < courseWb t || coursePl t == 3 || bits (tmplCourse t) 15 10 != 0
    || patInd d || (patInd s && (mode != 0 || patTab s % 4 != 0))
    || (mode == 1 && (s / 2 ^ 64 != 0 || h.srclim == 0))
    || (mode == 2 && patEsz s != patEsz d)
    || (mode == 3 && (tmplCsrc t < 8 || 10 < tmplCsrc t || tmplCdst t < 8 || 10 < tmplCdst t || tmplCsrc t == tmplCdst t
        || patEsz s != fSize (tmplCsrc t) || patEsz d != fSize (tmplCdst t)))

/-- Totals that disagree (CODE 2). -/
def Chan.badLength (h : Chan) : Bool :=
  let t := h.tmpl.toNat
  match tmplMode t with
  | 0 | 2 => patBytes (tmplSrc t) != patBytes (tmplDst t)
  | 3 => patTotal (tmplSrc t) != patTotal (tmplDst t)
  | 4 =>
    let n := patBytes (tmplSrc t)
    n % 4224 != 0 || patBytes (tmplDst t) != n / 4224 * (4224 + 4096 * coursePl t)
  | _ => false

/-- Bank groups of the core's scratchpad that an address range reaches. -/
def footGroups (f : Int × Int) : List Nat :=
  (upTo 12).filter (fun g =>
    f.1 < Int.ofNat (spadVa + (g + 1) * 0x8000) && Int.ofNat (spadVa + g * 0x8000) < f.2)

/-- The ranges whose groups are checked: footprints, index table, ring. -/
def Chan.checkedFoots (h : Chan) : List (Int × Int) :=
  let t := h.tmpl.toNat
  let s := tmplSrc t
  [footprint (tmplDst t) h.dbase, h.sourceFoot]
  ++ (if patInd s then [(Int.ofNat (spadVa + patTab s), Int.ofNat (spadVa + patTab s + 4 * (patCnt s (patIdim s) + 1)))] else [])
  ++ (if h.ringLog ≠ 0 then [(Int.ofNat (spadVa + h.ringBase), Int.ofNat (spadVa + h.ringBase + 8 * 2 ^ h.ringLog))] else [])

def intersects (f g : Int × Int) : Bool := f.1 < g.2 && g.1 < f.2

/-- The first check of R228 that fails, after the template has been read. -/
def Arch.armCheck (a : Arch) (c x : Nat) (h : Chan) : Option Nat :=
  let t := h.tmpl.toNat
  let d := footprint (tmplDst t) h.dbase
  let gs := h.checkedFoots.flatMap footGroups
  if h.badTemplate then some 1
  else if h.badLength then some 2
  else if !((0 ≤ d.1 && d.2 ≤ pow2 56) || (Int.ofNat spadVa ≤ d.1 && d.2 ≤ Int.ofNat (spadVa + spadSize))) then some 3
  else if !monotonic (tmplDst t) then some 4
  else if h.ringLog ≠ 0 ∧ spadSize < h.ringBase + 8 * 2 ^ h.ringLog then some 12
  else if gs.any (fun g => !(a.core c).mayTouch x g a.clock) then some 5
  else if gs.any (fun g => ((SMap.get none (a.core c).window g) : Option Nat).isSome) then some 6
  else if tmplMode t ≠ 0 && intersects d h.sourceFoot then some 7
  else none

-- ## The end of a copy (R234, R235, R237, R239)

def Arch.copyEvent (a : Arch) (c x n code info : Nat) : Arch :=
  let h := (a.ctx c x).chan n
  a.post c ⟨code, x, h.bt % 2 ^ 32, BitVec.ofNat 64 (n + 2 ^ 4 * info + 2 ^ 32 * h.ticket.toNat)⟩

/-- tl.n advances; waits of TLWAIT on it are observed by their release. -/
def Context.tlBump (t : Context) (n : Nat) : Context :=
  let v := SMap.get (0 : Word) t.tl n
  { t with tl := SMap.set 0 t.tl n (BitVec.ofNat 64 (min (v.toNat + 1) (2 ^ 64 - 1)))
           wait := t.wait.map (fun w =>
             if w.kind = .tlwait ∧ w.addr = n ∧ w.operand ≤ v.toNat + 1 then { w with sat := true } else w) }

/-- The channel stops: its state, code, encoder and pause. -/
def Chan.ended (h : Chan) (st : CopyState) (code : Nat) : Chan :=
  { h with state := st, code := BitVec.ofNat 8 code, enc := false, stop := none, cancel := false, asked := none }

def Arch.copyEnd (a : Arch) (c x n : Nat) (st : CopyState) (code : Nat) : Arch :=
  (a.mapChan c x n (fun h => h.ended st code)).mapCtx c x (fun t => t.tlBump n)

/-- REJECT: both footprint registers are 0 (R231). -/
def Arch.copyReject (a : Arch) (c x n code faddr : Nat) : Arch :=
  let a := a.mapChan c x n (fun h => { (h.ended .reject code) with
    wmbase := 0, wmlim := 0, badcnt := 0, bad := false, faddr := if code = 11 then BitVec.ofNat 64 faddr else h.faddr })
  (a.copyEvent c x n 0x07 code).mapCtx c x (fun t => t.tlBump n)

/-- FAULT, or the CANCEL that was on its way (R234, R240), be it a read or a landing that faults (log entry 26). -/
def Arch.copyFaults (a : Arch) (c x n code va : Nat) : Arch :=
  let a := a.dropMiss c (.chan x n)
  if ((a.ctx c x).chan n).cancel then a.copyEnd c x n .cancel 0
  else
    let a := a.mapChan c x n (fun h => { (h.ended .fault code) with faddr := BitVec.ofNat 64 va })
    (a.copyEvent c x n 0x06 code).mapCtx c x (fun t => t.tlBump n)

/-- An object that an arrival reaches, and what the arrival has to wait for: an earlier access of the context to it (R221), the window
rule (R253), or a port on its way (R22). -/
def Arch.arrivalGo (a : Arch) (c x n pa : Nat) : Option Nat × Option Arch :=
  (some pa, if a.homedOn c pa && a.copyBehind c x ((a.ctx c x).chan n).ord pa 8 then some a else a.rmwHeld (c / 32) pa 8)

/-- Where the arrival of a copy goes: a scratchpad object, none where it is lost, or something to wait for (R239). Who owns the bank group
of an object in the core-local space is not asked, and an arrival at another module is lost (log entry 65). -/
def Arch.arrivalAt (a : Arch) (c x n : Nat) (va : Nat) : Option Nat × Option Arch :=
  if va / 2 ^ 56 = 0xFE then
    (if va % 2 ^ 56 + 8 ≤ spadSize ∧ ((a.core c).stashKey (va % 2 ^ 56)).isNone then a.arrivalGo c x n (a.spadPa c (va % 2 ^ 56))
     else (none, none))
  else if va / 2 ^ 56 ≠ 0 then (none, none)
  else
    let t := a.ctx c x
    match a.lookup c (.chan x n) t.asid.toNat va true true with
    | .phys pa =>
      (match a.place pa with
       | .spad d o => if ((a.core d).stashKey o).isNone ∧ !(a.brick (d / 32)).lost then a.arrivalGo c x n pa else (none, none)
       | _ => (none, none))
    | .miss => (none, some (a.addMiss c (.chan x n) t.asid.toNat t.ptroot.toNat va true true))
    | _ => (none, none)

/-- DONE: the event of bad chunks, the counter, then the arrival (R235, R239). -/
def Arch.copyDone (a : Arch) (c x n : Nat) : Arch :=
  let h := (a.ctx c x).chan n
  let a := if h.badcnt ≠ 0 then a.copyEvent c x n (if tmplMode h.tmpl.toNat = 4 then 0x09 else 0x08) 0 else a
  let a := a.copyEnd c x n .done 0
  if h.arr then
    (match (a.arrivalAt c x n h.lbar.toNat).1 with
     | some pa => (a.dropMiss c (.chan x n)).arrive pa
     | none => a.dropMiss c (.chan x n))
  else a

-- ## Start and arming (R220, R222)

/-- The COPY_START row: a store to aperture word +0 of a context that may start a copy. -/
def Arch.startStep (a : Arch) (c x n : Nat) (w : Word) : Arch :=
  let t := a.ctx c x
  if t.status = .running ∧ t.wait = none ∧ (t.chan n).start = none then
    a.startCopy c x n w t.bt
  else a

def execCopyStart (c x n : Nat) (word : BitVec 64) (s : State) : Out := s.event (fun a => a.startStep c x n word)

/-- The template: from the cache, or read from memory; none where it cannot be read. -/
def Arch.readTemplate (a : Arch) (c x n va : Nat) : CopyAt × Option (BitVec 1024) :=
  let key := (a.ctx c x).asid.toNat * 2 ^ 64 + va
  match SMap.get none (a.core c).tmplCache key with
  | some t => (.ok [], some t)
  | none =>
    match a.copyReachAs c x n ((a.ctx c x).chan n).startOrd va 128 false with
    | .ok segs => (.ok segs, none)
    | q => (q, none)

/-- Keep a template, up to 64 (R222). -/
def Arch.cacheTemplate (a : Arch) (c x va : Nat) (t : BitVec 1024) : Arch :=
  let key := (a.ctx c x).asid.toNat * 2 ^ 64 + va
  a.mapCore c (fun k => { k with
    tmplCache := SMap.set none (if 64 ≤ k.tmplCache.length then k.tmplCache.drop 1 else k.tmplCache) key (some t) })

/-- A channel as arming latches it (R219, R237). -/
def Chan.latch (h : Chan) (w : Word) (tl : Word) : Chan :=
  { h with start := none, lsrc := h.src, ldst := h.dst, lctl := h.ctl, lbar := h.bar, arr := w.getLsbD 12
           ticket := (tl + 1).setWidth 32, bt := h.startBt, ord := h.startOrd, si := 0, di := 0, chunk := 0, lost := false, stop := none
           cancel := false, enc := false, asked := none }

/-- A channel as a copy that passed its checks begins (R230, R231). -/
def Chan.begin (h : Chan) : Chan :=
  let d := footprint (tmplDst h.tmpl.toNat) h.dbase
  { h with state := .active, code := 0, bad := false, badcnt := 0, wmbase := BitVec.ofInt 64 d.1
           wmlim := BitVec.ofInt 64 d.2, wm := BitVec.ofInt 64 d.1 }

/-- Channels of a Brick that hold a course encoder. -/
def Arch.encoders (a : Arch) (b : Nat) : Nat :=
  ((a.cores.filter (fun e => e.1 / 32 == b)).map (fun e =>
    (e.2.ctxs.map (fun x => (x.2.chans.filter (fun h => h.2.enc)).length)).sum)).sum

/-- A COURSE copy takes a free encoder, or waits for one in start order (R226). -/
def Arch.wantEncoder (a : Arch) (c x n : Nat) : Arch :=
  let b := c / 32
  let ord (e : Nat × Nat × Nat) : Nat := ((a.ctx e.1 e.2.1).chan e.2.2).ord
  let first (e : Nat × Nat × Nat) : Bool := ord e < ord (c, x, n)
  if (a.brick b).encq.isEmpty ∧ a.encoders b < 4 then a.mapChan c x n (fun h => { h with enc := true })
  else a.mapBrick b (fun k => { k with encq := k.encq.filter first ++ (c, x, n) :: k.encq.filter (fun e => !first e) })

/-- The template is at hand: the checks, and the start of the copy. -/
def Arch.armWith (a : Arch) (c x n : Nat) (t : BitVec 1024) : Arch :=
  let a := a.mapChan c x n (fun h => { h with tmpl := t })
  match a.armCheck c x ((a.ctx c x).chan n) with
  | some code => a.copyReject c x n code 0
  | none =>
    let a := a.mapChan c x n Chan.begin
    if tmplMode t.toNat = 4 then a.wantEncoder c x n else a

/-- A start is latched, and its context released (R220). -/
def Arch.latchStart (a : Arch) (c x n : Nat) (w : Word) : Arch :=
  (a.mapChan c x n (fun h => h.latch w ((a.ctx c x).readTl n))).mapCtx c x (fun t => { t with
    wait := t.wait.filter (fun k => k.kind != .start || k.req != n)
    latchedWait := t.latchedWait.filter (fun k => k.kind != .start || k.req != n) })

/-- The virtual address of the template a start names (R222). -/
def Context.templateVa (t : Context) (w : Word) : Nat := t.tmplbase.toNat * 2 ^ 7 + 128 * bits w.toNat 11 0

/-- A start whose template cannot be read (R228). -/
def Arch.startFails (a : Arch) (c x n : Nat) (w : Word) : Arch :=
  ((a.latchStart c x n w).dropMiss c (.chan x n)).copyReject c x n 11 ((a.ctx c x).templateVa w)

/-- A context's channels pause: its unit is being swapped out, or halts for a debugger who asked for it (R240, R312). -/
def Arch.pausing (a : Arch) (c x : Nat) : Bool :=
  match (a.ctx c x).status with
  | .swapping => true
  | .halting | .debugHalted => (a.core c).dbg.stopch
  | _ => false

/-- Arming (R220): once any active copy has ended, the start is latched, checked and begun, and its context released; not while the
context's channels are to pause, or the core's clock is stopped. -/
def Arch.armCopy (a : Arch) (c x n : Nat) : Arch :=
  let t := a.ctx c x
  match (t.chan n).start with
  | none => a
  | some w =>
    if (t.chan n).state = .active || (a.core c).stopped || a.pausing c x then a
    else
      let va := t.templateVa w
      if t.tmplcnt.toNat ≤ bits w.toNat 11 0 then (a.latchStart c x n w).copyReject c x n 1 0
      else
        match a.readTemplate c x n va with
        | (.ok _, some tm) => (a.latchStart c x n w).armWith c x n tm
        | (.ok segs, none) =>
          let q := a.copyRead segs
          let tm := BitVec.ofNat 1024 (ofBytes q.1)
          ((q.2.latchStart c x n w).cacheTemplate c x va tm).armWith c x n tm
        | (.wait a, _) => a
        | (.fault _, _) => a.startFails c x n w

def execCopyArm (c x n : Nat) (s : State) : Out := s.event (fun a => a.armCopy c x n)

/-- The oldest COURSE copy still waiting takes a free encoder. -/
def Arch.grantEncoder (a : Arch) (b : Nat) : Arch :=
  let live := (a.brick b).encq.filter (fun e =>
    let h := (a.ctx e.1 e.2.1).chan e.2.2
    h.state == .active && !h.enc)
  match live with
  | [] => a.mapBrick b (fun k => { k with encq := [] })
  | e :: es =>
    if a.encoders b < 4 then
      (a.mapBrick b (fun k => { k with encq := es })).mapChan e.1 e.2.1 e.2.2 (fun h => { h with enc := true })
    else a

def execCourseEncoderGrant (b : Nat) (s : State) : Out := s.event (fun a => a.grantEncoder b)

-- ## Reading the source

/-- What a step of a copy finds: bytes, a wait, or a fault with its code. -/
inductive CopyR where
  | bytes (a : Arch) (bs : List Byte)
  | wait (a : Arch)
  | fault (a : Arch) (code va : Nat)
deriving DecidableEq, Repr

def CopyR.bind (q : CopyR) (f : Arch → List Byte → CopyR) : CopyR :=
  match q with
  | .bytes a bs => f a bs
  | .wait a => .wait a
  | .fault a k v => .fault a k v

/-- Read a source range; `upto` is the number of source bytes read by then, bounded by SRCLIM (R191, R234). -/
def Arch.readSource (a : Arch) (c x n : Nat) (va len upto : Nat) : CopyR :=
  let h := (a.ctx c x).chan n
  if h.srclim ≠ 0 ∧ h.srclim < upto then .fault a 10 va
  else
    match a.copyReach c x n va len false with
    | .ok segs => let q := a.copyRead segs; .bytes q.2 q.1
    | .wait a => .wait a
    | .fault v => .fault a 8 v

/-- Source element `i` of a walk at `base`. -/
def Arch.sourceElem (a : Arch) (c x n i base upto : Nat) : CopyR :=
  let h := (a.ctx c x).chan n
  let p := srcPat h.tmpl.toNat
  let go (a : Arch) (ix : Option Nat) : CopyR :=
    let ad := patAddr p i base ix
    let e := 2 ^ patEsz p
    if ad < 0 || pow2 64 ≤ ad || (patInd p && ad.toNat / 2 ^ 56 != base / 2 ^ 56) then .fault a 8 (wrap ad 64)
    else a.readSource c x n ad.toNat e upto
  if patInd p then
    match a.copyReach c x n (spadVa + patWord p i) 4 false with
    | .ok segs => let q := a.copyRead segs; go q.2 (some (ofBytes q.1))
    | .wait a => .wait a
    | .fault v => .fault a 8 v
  else go a none

/-- Source elements `i` to `i + k - 1` of a walk, as bytes; `extra` counts bytes read beside this walk. -/
def Arch.sourceElems (a : Arch) (c x n base extra : Nat) : Nat → Nat → List Byte → CopyR
  | _, 0, acc => .bytes a acc
  | i, k + 1, acc =>
    let e := 2 ^ patEsz (srcPat ((a.ctx c x).chan n).tmpl.toNat)
    (a.sourceElem c x n i base (extra + (i + 1) * e)).bind (fun a bs =>
      Arch.sourceElems a c x n base extra (i + 1) k (acc ++ bs))

/-- Bytes `lo` to `lo + len - 1` of the source stream. -/
def Arch.sourceBytes (a : Arch) (c x n base extra lo len : Nat) : CopyR :=
  let e := 2 ^ patEsz (srcPat ((a.ctx c x).chan n).tmpl.toNat)
  (a.sourceElems c x n base extra (lo / e) ((lo + len - 1) / e + 1 - lo / e) []).bind (fun a bs =>
    .bytes a ((bs.drop (lo % e)).take len))

-- ## Landing (R230)

/-- The parts of destination elements that bytes `lo` to `lo + len - 1` of the destination stream fall into, contiguous
parts joined: address and length. -/
def destRuns (p base lo : Nat) : Nat → Nat → List (Int × Nat)
  | _, 0 => []
  | len, fuel + 1 =>
    if len = 0 then []
    else
      let e := 2 ^ patEsz p
      let k := min len (e - lo % e)
      let ad := patAddr p (lo / e) base none + Int.ofNat (lo % e)
      match destRuns p base (lo + k) (len - k) fuel with
      | (b, m) :: rs => if b = ad + Int.ofNat k then (ad, k + m) :: rs else (ad, k) :: (b, m) :: rs
      | [] => [(ad, k)]

/-- Land runs in order: the parts before one that faults stay landed. -/
def Arch.landRuns (a : Arch) (c x n : Nat) : List (Int × Nat) → List Byte → CopyR
  | [], _ => .bytes a []
  | (ad, len) :: rs, bs =>
    match a.copyReach c x n (wrap ad 64) len true with
    | .ok segs => Arch.landRuns (a.copyWrite segs bs) c x n rs (bs.drop len)
    | .wait a => .wait a
    | .fault v => .fault a 9 v

/-- No run is waiting for a translation or an earlier access: runs land together. -/
def Arch.runsReady (a : Arch) (c x n : Nat) (rs : List (Int × Nat)) : Option Arch :=
  rs.findSome? (fun r => match a.copyReach c x n (wrap r.1 64) r.2 true with | .wait a => some a | _ => none)

/-- The address of the first run that faults. -/
def Arch.runFaults (a : Arch) (c x n : Nat) (rs : List (Int × Nat)) : Option Nat :=
  rs.findSome? (fun r => match a.copyReach c x n (wrap r.1 64) r.2 true with | .fault v => some v | _ => none)

/-- The end of destination element `i`. -/
def Chan.elemEnd (h : Chan) (i : Nat) : Int :=
  let p := tmplDst h.tmpl.toNat
  patAddr p i h.dbase none + pow2 (patEsz p)

/-- Destination bytes in all. -/
def Chan.total (h : Chan) : Nat := patBytes (tmplDst h.tmpl.toNat)

/-- The watermark after bytes up to `upto` of the destination have landed: the end of the last whole element. -/
def Chan.mark (h : Chan) (upto : Nat) : Chan :=
  let k := upto / 2 ^ patEsz (tmplDst h.tmpl.toNat)
  if k = 0 then h else { h with wm := BitVec.ofInt 64 (h.elemEnd (k - 1)), di := k }

/-- A copy whose last byte would land here: its arrival's address must be translated first. -/
def Arch.arrivalWaits (a : Arch) (c x n upto : Nat) : Option Arch :=
  let h := (a.ctx c x).chan n
  if h.arr ∧ h.total ≤ upto then (a.arrivalAt c x n h.lbar.toNat).2 else none

/-- Land `bs` at destination byte `lo`, move the watermark, and end the copy with its last byte. Where a part would fault, nothing
lands, and the watermark stands below it all (R230, R234). -/
def Arch.landAt (a : Arch) (c x n lo : Nat) (bs : List Byte) (after : Chan → Chan) : CopyR :=
  let h := (a.ctx c x).chan n
  let len := min bs.length (h.total - lo)
  let rs := destRuns (tmplDst h.tmpl.toNat) h.dbase lo len (len + 1)
  match a.runsReady c x n rs with
  | some a => .wait a
  | none =>
    match a.arrivalWaits c x n (lo + len) with
    | some a => .wait a
    | none =>
     match a.runFaults c x n rs with
     | some v => .fault a 9 v
     | none =>
      (a.landRuns c x n rs bs).bind (fun a _ =>
        let a := a.mapChan c x n (fun h => after (h.mark (lo + len)))
        .bytes (if h.total ≤ lo + len then a.copyDone c x n else a) [])

/-- Where the next entry of the bad-chunk ring goes (R236). -/
def Arch.ringAt (a : Arch) (c : Nat) (h : Chan) (i : Nat) : Nat := a.spadPa c (h.ringBase + 8 * ((h.badcnt.toNat + i) % 2 ^ h.ringLog))

/-- The ring writes of `k` chunks wait for earlier accesses (R221). -/
def Arch.ringWaits (a : Arch) (c x : Nat) (h : Chan) (k : Nat) : Bool :=
  h.ringLog != 0 && (upTo k).any (fun i => a.copyBehind c x h.ord (a.ringAt c h i) 8)

/-- Append an index to the bad-chunk ring and count it (R236). -/
def Arch.badChunk (a : Arch) (c x n idx : Nat) : Arch :=
  let h := (a.ctx c x).chan n
  let a := if h.ringLog = 0 then a
    else
      let a := a.bankTurn (a.ringAt c h 0) 8
      Arch.barWakeAll { a with mem := Memory.write a.mem (a.ringAt c h 0) 8 (idx % 2 ^ 32 + 2 ^ 32 * h.ticket.toNat) } (a.ringAt c h 0) 8
  a.mapChan c x n (fun h => { h with bad := true, badcnt := h.badcnt + 1 })

-- ## One step of a copy, by mode (R226, R229)

/-- Elements that make up a whole aligned line at the next destination element, which land as one write; else 1, and 1 on the way to
a stop point (R240). -/
def Chan.lineRun (h : Chan) : Nat :=
  let p := tmplDst h.tmpl.toNat
  let e := 2 ^ patEsz p
  let k := 128 / e
  let ad := patAddr p h.di h.dbase none
  if h.stop.isNone = true ∧ ad % 128 = 0 ∧ h.di + k ≤ patTotal p ∧
      (upTo k).all (fun i => patAddr p (h.di + i) h.dbase none == ad + Int.ofNat (i * e)) then k else 1

/-- A copy that runs element by element (R229). -/
def Chan.serial (h : Chan) : Bool :=
  let t := h.tmpl.toNat
  tmplMode t == 0 && (patInd (tmplSrc t) || intersects (footprint (tmplDst t) h.dbase) h.sourceFoot)

/-- PLAIN and TRANSPOSE. -/
def Arch.stepPlain (a : Arch) (c x n : Nat) (h : Chan) : CopyR :=
  let e := 2 ^ patEsz (tmplDst h.tmpl.toNat)
  let k := if h.serial then 1 else h.lineRun
  (a.sourceBytes c x n h.sbase 0 (h.di * e) (k * e)).bind (fun a bs => a.landAt c x n (h.di * e) bs id)

/-- The format of an F type code. -/
def codeFmt (code : Nat) : Fmt :=
  match code with
  | 8 => f16
  | 9 => bf16
  | _ => f32

/-- CONVERT: each element becomes the other format's (R226). -/
def Arch.stepConvert (a : Arch) (c x n : Nat) (h : Chan) : CopyR :=
  let t := h.tmpl.toNat
  let e := 2 ^ patEsz (tmplDst t)
  let f := 2 ^ patEsz (tmplSrc t)
  let k := h.lineRun
  (a.sourceBytes c x n h.sbase 0 (h.di * f) (k * f)).bind (fun a bs =>
    a.landAt c x n (h.di * e) ((upTo k).flatMap (fun i =>
      toBytes e ((codeFmt (tmplCdst t)).round (tmplCrm t) ((codeFmt (tmplCsrc t)).unpack (ofBytes ((bs.drop (i * f)).take f)))))) id)

/-- A chunk that fails: zeros land, and its index is appended (R191). -/
def Arch.zeroChunk (a : Arch) (c x n : Nat) (h : Chan) (after : Chan → Chan) : CopyR :=
  match a.runsReady c x n (destRuns (tmplDst h.tmpl.toNat) h.dbase (4096 * h.chunk) 4096 4097) with
  | some a => .wait a
  | none =>
    match a.arrivalWaits c x n (4096 * (h.chunk + 1)) with
    | some a => .wait a
    | none =>
      if a.ringWaits c x h 1 then .wait a
      else (a.badChunk c x n h.chunk).landAt c x n (4096 * h.chunk) (List.replicate 4096 0) after

/-- EXPAND: one chunk (R191). -/
def Arch.stepExpand (a : Arch) (c x n : Nat) (h : Chan) : CopyR :=
  if h.lost then a.zeroChunk c x n h (fun h => { h with chunk := h.chunk + 1 })
  else
    (a.readSource c x n (h.sbase + h.si) 8 (h.si + 8)).bind (fun a hd =>
      let len := ofBytes ((hd.drop 4).take 2)
      if len < 40 ∨ 4136 < len then a.zeroChunk c x n h (fun h => { h with chunk := h.chunk + 1, lost := true })
      else
        (a.readSource c x n (h.sbase + h.si) len (h.si + len)).bind (fun a rec =>
          let after (h : Chan) : Chan := { h with chunk := h.chunk + 1, si := h.si + roundUp len 8 }
          match decodeChunk rec len with
          | some ls => a.landAt c x n (4096 * h.chunk) (ls.flatMap (toBytes 128)) after
          | none => a.zeroChunk c x n h after))

/-- The same unit of every source block (R258). -/
def Arch.courseSource (a : Arch) (c x n q : Nat) (h : Chan) : Nat → CopyR
  | 0 => .bytes a []
  | k + 1 =>
    (Arch.courseSource a c x n q h k).bind (fun a acc =>
      (a.sourceBytes c x n (h.sbase + k * tmplCstep h.tmpl.toNat) (q * 4224 * (courseK h.tmpl.toNat - 1) + k * 4224)
        (q * 4224) 4224).bind (fun a bs => .bytes a (acc ++ bs)))

/-- Cut a list into blocks of 4,224 bytes. -/
def unitBlocks (bs : List Byte) : Nat → List (List Byte)
  | 0 => []
  | k + 1 => bs.take 4224 :: unitBlocks (bs.drop 4224) k

/-- COURSE: one output unit (R258, R259). -/
def Arch.stepCourse (a : Arch) (c x n : Nat) (h : Chan) : CopyR :=
  let t := h.tmpl.toNat
  let U := patBytes (tmplSrc t) / 4224
  let pl := h.chunk / U
  let q := h.chunk % U
  let lo := if pl = 0 then 4224 * q else 4224 * U + 4096 * ((pl - 1) * U + q)
  if !h.enc then .wait a
  else
    (a.courseSource c x n q h (courseK t)).bind (fun a bs =>
      let gs := courseGroups (coursePar t) (courseWb t) (coursePl t + 1) (unitBlocks bs (courseK t))
      let out := courseBytes gs pl
      match a.runsReady c x n (destRuns (tmplDst t) h.dbase lo out.length (out.length + 1)) with
      | some a => .wait a
      | none =>
        match a.arrivalWaits c x n (lo + out.length) with
        | some a => .wait a
        | none =>
          if pl = 0 ∧ a.ringWaits c x h (courseBad gs).length = true then .wait a
          else
          let a := if pl = 0 then (courseBad gs).foldl (fun a g => a.badChunk c x n (q * 128 + g)) a else a
          a.landAt c x n lo out (fun h => { h with chunk := h.chunk + 1 }))

/-- At its stop point (R240). -/
def Chan.atStop (h : Chan) : Bool :=
  match h.stop with
  | some b => b ≤ h.wm.toNat
  | none => false

/-- Paused there, with no request to another module outstanding (R50, R240). -/
def Chan.paused (h : Chan) : Bool := h.atStop && h.asked.isNone

/-- What an ACTIVE copy does next, by its mode. -/
def Arch.stepMode (a : Arch) (c x n : Nat) (h : Chan) : CopyR :=
  match tmplMode h.tmpl.toNat with
  | 1 => a.stepExpand c x n h
  | 3 => a.stepConvert c x n h
  | 4 => a.stepCourse c x n h
  | _ => a.stepPlain c x n h

/-- One step of an ACTIVE copy. At its stop point nothing more of it lands: a request still outstanding there is answered, or has its
timeout, before it ends (R50, R240). -/
def Arch.copyStep (a : Arch) (c x n : Nat) : CopyR :=
  let h := (a.ctx c x).chan n
  let ends (a : Arch) : Arch := (a.dropMiss c (.chan x n)).copyEnd c x n .cancel 0
  if h.state ≠ .active then .wait a
  else if h.atStop then
    (if h.asked.isNone then (if h.cancel then .bytes (ends a) [] else .wait a)
     else
       match a.stepMode c x n h with
       | .bytes _ _ => .bytes (if h.cancel then ends a else a) []
       | q => q)
  else a.stepMode c x n h

/-- The COPY_LAND row: what lands, lands; a wait is noted; a fault is left to COPY_FAULT. While the edges of its core are omitted the
core's copy units do nothing (R328). -/
def Arch.copyLands (a : Arch) (c x n : Nat) : Arch :=
  if (a.core c).stopped then a
  else
  match a.copyStep c x n with
  | .bytes a _ => a.mapChan c x n (fun h => { h with asked := none })
  | .wait a => a
  | .fault _ _ _ => a

def execCopyLand (c x n : Nat) (s : State) : Out := s.event (fun a => a.copyLands c x n)

/-- The COPY_FAULT row. -/
def Arch.copyFaultStep (a : Arch) (c x n : Nat) : Arch :=
  if (a.core c).stopped then a
  else
  match a.copyStep c x n with
  | .fault a code va => a.copyFaults c x n code va
  | _ => a

def execCopyFault (c x n : Nat) (s : State) : Out := s.event (fun a => a.copyFaultStep c x n)

/-- A channel is asked to stop at its stop point (R240), to pause there or to end there CANCEL. -/
def Arch.stopChan (a : Arch) (c x n : Nat) (cancel : Bool) : Arch :=
  let h := (a.ctx c x).chan n
  if h.state ≠ .active then a
  else
    let a := a.mapChan c x n (fun h => { h with stop := some (h.stop.getD (roundUp h.wm.toNat 128)), cancel := h.cancel || cancel })
    if ((a.ctx c x).chan n).paused && cancel then (a.dropMiss c (.chan x n)).copyEnd c x n .cancel 0 else a

end Sys2Proof.Machine
end

