-- ==== Sys2Proof/Machine/Events.lean ====
section
/-! DEFINITION. Draining the event queue to its rings (05 R135, R136), machine checks without an access (14 R310), and
the control bits of a cache slice (08 R189, R194). -/

namespace Sys2Proof.Machine

-- ## Draining (R135, R136)

/-- Entries in a context's ring, and whether it has room, with `kept` entries consumed that may not be overwritten yet. -/
def RingRegs.entries (r : RingRegs) : Nat := 2 ^ r.evsize.toNat / 16
def RingRegs.room (r : RingRegs) (kept : Nat) : Bool :=
  8 ≤ r.evsize.toNat && r.evsize.toNat ≤ 20 && !r.stopped && decide ((r.evhead - r.evtail + BitVec.ofNat 32 kept).toNat ≠ r.entries)

/-- Entries that EVACK has freed and a load issued before it may still read (R346). -/
def Arch.keptEntries (a : Arch) (c x : Nat) : Nat :=
  (((a.ctx c x).ring.acks.filter (fun k =>
    a.reqs.any (fun r => r.core == c && r.ctx == x && r.id < k.2 && r.op.reads))).map Prod.fst).sum

/-- The ring of a context has room for an entry (R135, R346). -/
def Arch.ringRoom (a : Arch) (c x : Nat) : Bool := (a.ctx c x).ring.room (a.keptEntries c x)

/-- The 16 bytes of an entry (R134). -/
def Event.word (e : Event) : Nat := e.code + 2 ^ 8 * e.ctx + 2 ^ 32 * (e.bt % 2 ^ 32) + 2 ^ 64 * e.info.toNat

/-- Where the next entry of a ring goes: written, not yet (a miss or a fill), or faulted. -/
inductive DrainAt where
  | at (pa : Nat) (near : Bool)
  | wait (a : Arch)
  | fault
deriving DecidableEq, Repr

/-- A ring address in the core-local space. -/
def Arch.drainNear (a : Arch) (c x off : Nat) : DrainAt :=
  if spadSize < off + 16 then .fault
  else if !(a.core c).mayTouch x (off / 0x8000) a.clock then .fault
  else
    match (a.core c).stashVa (off / 128) with
    | none => .at (a.spadPa c off) true
    | some wva =>
      if (SMap.get StashState.invalid (a.core c).stash (off / 128)).grants true then .at (a.spadPa c off) true
      else
        let t := a.ctx c x
        match a.lookup c (.drain x) t.asid.toNat wva false true with
        | .phys pa => (match a.place pa with | .stack _ _ => .wait (a.askFill c (off / 128) pa true true) | _ => .fault)
        | .miss => .wait (a.addMiss c (.drain x) t.asid.toNat t.ptroot.toNat wva false true)
        | _ => .fault

/-- A ring address of either space. -/
def Arch.drainPlace (a : Arch) (c x va : Nat) : DrainAt :=
  let t := a.ctx c x
  if va / 2 ^ 56 = 0xFE then a.drainNear c x (va % 2 ^ 56)
  else if va / 2 ^ 56 ≠ 0 then .fault
  else
    match a.lookup c (.drain x) t.asid.toNat va false true with
    | .phys pa => if a.coreReach pa 16 true false then .at pa false else .fault
    | .miss => .wait (a.addMiss c (.drain x) t.asid.toNat t.ptroot.toNat va false true)
    | _ => .fault

/-- A drain store that faults: DFAULT, and draining stops for the context. -/
def Arch.drainFault (a : Arch) (c x : Nat) : Arch :=
  ((a.dropMiss c (.drain x)).sets (.dfault c x)).mapCtx c x (fun t => { t with ring := { t.ring with dfault := true, stopped := true, moved := true } })

/-- An entry as it goes to memory: of a unit whose program has ended, under the context it ran on (R134). -/
def Arch.eventWord (a : Arch) (c : Nat) (e : Event) : Nat :=
  ({ e with ctx := if e.ctx < 2 then e.ctx else (a.ctx c e.ctx).name } : Event).word

/-- The store of an entry and the advance of EVHEAD; a poisoned line is a machine check (R216). -/
def Arch.drainStore (a : Arch) (c x pa : Nat) (near : Bool) (e : Event) : Arch :=
  if !near && !a.writable pa 16 then (a.drainFault c x).checkAt c x pa 7
  else
    let w := a.eventWord c e
    let a := a.bankTurn pa 16
    let a := if near then
        let o := pa % 0x100000
        let a := Arch.barWakeAll { a with mem := Memory.write a.mem pa 16 w } pa 16
        if ((a.core c).stashKey o).isSome then (a.setStash c (o / 128) .dirty).signalsWritten (a.homePa c o) 16 else a
      else (a.homeWrite pa 16 w).barWakeAll pa 16
    (a.mapCore c (fun k => { k with evq := k.evq.erase e })).mapCtx c x (fun t =>
      { t with ring := { t.ring with evhead := t.ring.evhead + 1, moved := true
                                     acks := t.ring.acks.filter (fun k => a.reqs.any (fun r => r.core == c && r.ctx == x && r.id < k.2)) } })

/-- Drain the oldest entry whose context's ring has room. -/
def Arch.drainEvent (a : Arch) (c : Nat) : Arch :=
  match (a.core c).evq.find? (fun e => a.ringRoom c e.ctx) with
  | none => a
  | some e =>
    let r := (a.ctx c e.ctx).ring
    match a.drainPlace c e.ctx (r.evbase.toNat + 16 * (r.evhead.toNat % r.entries)) with
    | .at pa near =>
      (match (if near then none else a.reachHeld (c / 32) pa 16 true) with
       | some a => a
       | none => a.drainStore c e.ctx pa near e)
    | .wait a => a
    | .fault => a.drainFault c e.ctx

/-- The drain of a cycle in which no S slot issued, once. -/
def Arch.drainCycle (a : Arch) (c : Nat) : Arch :=
  if (a.core c).drainable then (a.drainEvent c).mapCore c (fun k => { k with drainable := false }) else a

def execEventDrain (c : Nat) (s : State) : Out := s.event (fun a => a.drainCycle c)

-- ## Machine checks (R310)

/-- An error that cannot be corrected poisons the line it is in (R183). -/
def Arch.lineError (a : Arch) (pa : Nat) : Arch :=
  match a.place pa with
  | .stack b _ => a.mapBrick b (fun k => { k with poison := SMap.set false k.poison (lineOf pa) true })
  | _ => a

/-- A machine check of a unit that is swapped out, in what it has on core `c`, fails it: nothing of it is restored, and the FATAL fields
of its members' debug blocks say so (R309, R310). -/
def Arch.failSwapped (a : Arch) (u c : Nat) : Arch :=
  match a.unit u with
  | some e =>
    if e.swapped ∧ e.fate = none then
      let a := e.cores.foldl (fun a k => a.fatalAt k e.ctx (if k = c then 0x0D else 0x0F)) a
      ((a.dropReqs (fun r => r.ctx == ghostOf u)).interruptFrom (c / 32) 0).setUnit u
        { e with fate := some .failed, swapped := false, kept := [], wanted := false, ctx := ghostOf u }
    else a
  | none => a

/-- An error that cannot be corrected: in what core `c` holds for context `x`, or in the save area of the swapped-out unit that the
number `x` names; where `c` is 256, no core, in the line of a stack at address `x` (R183, R310; log entry 14). -/
def Arch.machineCheck (a : Arch) (c x : Nat) : Arch :=
  if 256 ≤ c then a.lineError x
  else if 16 ≤ x ∧ ((a.unit (x - 16)).any ExecUnit.swapped) = true then a.failSwapped (x - 16) c
  else a.checkAt c x 0 7

def execMachineCheck (c x : Nat) (s : State) : Out := s.event (fun a => a.machineCheck c x)

-- ## Slice control (R189, R194)

def execLlcCounterClr (b : Nat) (s : State) : Out :=
  s.event (fun a => a.mapBrick b (fun k => { k with expevict := 0, detwait := 0 }))
def execLlcRetire (b : Nat) (s : State) : Out := s.event (fun a => a.retire b)

end Sys2Proof.Machine
end

