-- ==== Sys2Proof/Machine/Matrix.lean ====
section
/-! DEFINITION. The M slot (17 R360 to R364) and the command queue of the matrix engine (06 R148 to R151): starting
calls, installing routines, drains, and the releases of R150 and R156. -/

namespace Sys2Proof.Machine

-- ## M slots

/-- Commands that side A or B has queued or running (R150, R151). -/
def Engine.commands (e : Engine) (x : Nat) : Nat :=
  (e.queue.filter (fun q => q.side == x)).length + (match e.run with | some r => if r.cmd.side = x then 1 else 0 | none => 0)

/-- Commands of the program on a context, or of what a unit has left behind, queued or running (R34). -/
def Engine.count (e : Engine) (x : Nat) : Nat :=
  (e.queue.filter (fun q => q.ctx == x)).length + (match e.run with | some r => if r.cmd.ctx = x then 1 else 0 | none => 0)

/-- The g operand of an M slot; g0 is no operand (R152). -/
def State.mOperand (s : State) (g : Nat) : Option Word := if g = 0 then none else some (s.rd.readG g)

/-- The command an M slot enqueues, with the copies of R141 and the metadata word at MPC (R153). -/
def State.command (s : State) (kind : CmdKind) (n g : Nat) : Cmd :=
  { kind := kind, ctx := s.iss.ctx, side := s.iss.ctx, routine := n, ga := s.mOperand g
    mask := BitVec.ofNat 32 (Memory.read (s.view.core s.iss.core).imem (4 * s.rd.mpc.toNat) 4)
    bt := s.rd.bt, m := s.rd.m, a := s.rd.a, apos := s.rd.apos, asid := s.rd.asid, ord := s.view.nextId }

/-- Enqueue a command; a context with 8 is held before issue (R150). -/
def State.enqueueCmd (s : State) (kind : CmdKind) (n g : Nat) : SlotR :=
  if 8 ≤ (s.view.core s.iss.core).engine.commands s.iss.ctx then .hold .engineQueue
  else .ok (s.setArch (s.arch.mapEngine s.iss.core (fun e => { e with queue := e.queue ++ [s.command kind n g] })))

/-- Every M slot advances MPC, whatever its guard (R72, R153). -/
def State.mSlot (s : State) (p : Nat) (r : SlotR) : SlotR := (s.whenOn p r).bind (fun s => .ok s.mpcNext)

def execMcall (p n g : Nat) (s : State) : Out := .next (s.finish (s.mSlot p (s.enqueueCmd .call n g)))
def execMpload (p n g : Nat) (s : State) : Out := .next (s.finish (s.mSlot p (s.enqueueCmd .load n g)))
def execMdrain (p g : Nat) (s : State) : Out := .next (s.finish (s.mSlot p (s.enqueueCmd .drain 0 g)))

def execMpar (p i g : Nat) (s : State) : Out :=
  .next (s.finish (s.mSlot p (.ok (s.result .m i full4096 ((s.rd.readG g).setWidth 4096) 1))))

/-- The status of R151 for context `x`. -/
def Engine.status (e : Engine) (x : Nat) : Nat :=
  let t := e.statOf x
  e.commands 0 + 2 ^ 4 * e.commands 1 + 2 ^ 8 * (if e.run.isSome || e.loading then 1 else 0) + 2 ^ 12 * t.err.toNat + 2 ^ 16 * t.erout.toNat
    + 2 ^ 24 * t.load.toNat + 2 ^ 32 * t.done.toNat

/-- What a read by MSTAT clears, but for what is set at the same time (R6). -/
def Engine.clearStatus (e : Engine) (x : Nat) : Engine := e.mapStat x (fun t => { t with err := 0, erout := 0, load := 0 })

def State.mstat (s : State) (g : Nat) : State :=
  (s.setArch (s.arch.mapEngine s.iss.core (fun e => e.clearStatus s.iss.ctx)).setsWin).landG g
    (BitVec.ofNat 64 ((s.view.core s.iss.core).engine.status s.iss.ctx)) 2

def execMstat (p g : Nat) (s : State) : Out := .next (s.finish (s.mSlot p (.ok (s.mstat g))))

-- ## ROM routines (R148)

def uStream (i w : Nat) : Nat := 0x10000000 + i * 2 ^ 24 + (w - 2) * 2 ^ 21 + 3 * 2 ^ 8
def uStreamS (w : Nat) : Nat := 0x10100000 + (w - 2) * 2 ^ 21 + 3 * 2 ^ 8
def uLoad (plane : Nat) : Nat := 0x08000000 + 63 * 2 ^ 12 + plane * 2 ^ 10

/-- The product routine around one MXSTREAM. -/
def romProduct (stream : Nat) : List Nat :=
  [0x38000000, 0x2B000000, 0x2C000000, stream, 0x30000000, 0x1A000000 + 63 * 2 ^ 12, 0x30000000, 0x40000000, 0x30000000]

/-- The micro-ops of ROM routine `n`. -/
def romRoutine (n : Nat) : Option (List Nat) :=
  if n = 0 then some [0x30000000]
  else if n ≤ 7 then some (romProduct (uStream 1 (n + 1)))
  else if n = 8 then some [0x2B000000, 0x22000000, 0x30000000, 0x40000000, 0x30000000]
  else if n ≤ 11 then some ((upTo (n - 8)).map uLoad ++ [0x40000000, 0x30000000])
  else if n ≤ 18 then some (0x48000000 :: romProduct (uStream 1 (n - 10)))
  else if n ≤ 25 then some (romProduct (uStreamS (n - 17)))
  else none

/-- The micro-ops of a routine, ROM or installed. -/
def Engine.code (e : Engine) (n : Nat) : Option (List Nat) :=
  if n < 64 then romRoutine n
  else match SMap.get [] e.routines n with | [] => none | c => some c

-- ## The command queue (R149 to R151)

/-- The command at the head of an idle engine's queue. -/
def Engine.head (e : Engine) : Option Cmd := if e.run.isSome then none else e.queue.head?

def Engine.drop (e : Engine) : Engine := { e with queue := e.queue.drop 1, loading := false }

/-- A call as it begins (R143, R147). -/
def newCall (cmd : Cmd) (code : List Nat) : Call := ⟨cmd, code, 0, [], false, [], none, 0, 0, [], [], [], (0, 0), false⟩

/-- The next queued call starts, or stops at once with NOROUTINE; not while the core's clock is stopped (R328). -/
def Arch.callStart (a : Arch) (c : Nat) : Arch :=
  let e := (a.core c).engine
  match e.head with
  | some cmd =>
    if cmd.kind = .call ∧ (a.core c).stopped = false then
      let a := a.mapEngine c Engine.drop
      match e.code cmd.routine with
      | some code => a.mapEngine c (fun e => { e with run := some (newCall cmd code) })
      | none => a.stopCall c (newCall cmd []) errNoRoutine
    else a
  | none => a

def execMcallRun (c : Nat) (s : State) : Out := s.event (fun a => a.callStart c)

/-- The checks of R100 on the words of an image; `d` is the loop depth. -/
def imageOk (d : Nat) : List Nat → Bool
  | [] => false
  | w :: ws =>
    (decodeMicro w).isSome &&
      (if w / 2 ^ 27 = 5 then d < 4 && imageOk (d + 1) ws
       else if w / 2 ^ 27 = 6 then (if d = 0 then ws.isEmpty else imageOk (d - 1) ws)
       else imageOk d ws)

/-- A command ends with a value of LOAD. -/
def Arch.loadDone (a : Arch) (c x load : Nat) : Arch :=
  (a.sets (.load c x (BitVec.ofNat 2 load))).mapEngine c (fun e => (e.mapStat x (fun t => { t with load := BitVec.ofNat 2 load })).drop)

/-- Install an image's words, unless R100 refuses them or they do not fit (R149). -/
def Arch.install (a : Arch) (c : Nat) (cmd : Cmd) (ws : List Nat) : Arch :=
  let e := (a.core c).engine
  let used := ((e.routines.filter (fun r => r.1 != cmd.routine)).map (fun r => r.2.length)).sum
  if !imageOk 0 ws then a.loadDone c cmd.side 2
  else if 4096 < used + ws.length then a.loadDone c cmd.side 3
  else (a.mapEngine c (fun e => { e with routines := SMap.set [] e.routines cmd.routine ws })).loadDone c cmd.side 1

/-- MPLOAD in its place in the queue (R149, R156, R362). One whose fetch meets poison ends with FAULT beside the machine check,
for which R156 names no error (log entry 80). Nothing comes of it while the core's clock is stopped (R328). -/
def Arch.loadStep (a : Arch) (c : Nat) : Arch :=
  match (a.core c).engine.head with
  | some cmd =>
    if cmd.kind ≠ .load ∨ (a.core c).stopped = true then a
    else
      let ga := (cmd.ga.getD 0).toNat
      if ga % 8 ≠ 0 ∨ (ga / 2 ^ 56 ≠ 0 ∧ (ga / 2 ^ 56 ≠ 0xFE ∨ spadSize ≤ ga % 2 ^ 56)) then a.loadDone c cmd.side 2
      else
        match (a.engineFetch c cmd ga 8).bind (fun a h =>
          let n := h % 2 ^ 16
          if h / 2 ^ 16 ≠ 0 ∨ n = 0 ∨ 4096 < n then .ok a 0
          else (a.engineFetch c cmd (ga + 8) (4 * n)).bind (fun a x => .ok a (n + 2 ^ 16 * x))) with
        | .ok a r => a.install c cmd (toLanes 32 (r % 2 ^ 16) (r / 2 ^ 16))
        | .wait a => a.mapEngine c (fun e => { e with loading := true })
        | .fault a va => a.fetchFault c cmd va
        | .check a => (a.dropMiss c (.engine cmd.ctx)).noteErr c cmd.side errFault cmd.routine |>.mapEngine c Engine.drop
  | none => a

def execMploadInstall (c : Nat) (s : State) : Out := s.event (fun a => a.loadStep c)

/-- MDRAIN in its place in the queue: every earlier command of its context has ended (R151, R363). Whose bank group the object lies
in is not asked (log entry 65). Its arrival reads the object, which the window rule may stall (R253). -/
def Arch.drainStep (a : Arch) (c : Nat) : Arch :=
  match (a.core c).engine.head with
  | some cmd =>
    if cmd.kind ≠ .drain ∨ (a.core c).stopped = true then a
    else
      let m := a.mapEngine c Engine.drop
      let bad : Arch := m.noteErr c cmd.side errBarrier 0
      match cmd.ga with
      | none => m
      | some ga =>
        match barOperand ga with
        | none => bad
        | some o =>
          if ((a.core c).stashKey o).isSome then bad
          else if a.nearStalls c o 8 then a.noteStretch (c / 32) (a.window + 1)
          else m.arrive (a.spadPa c o)
  | none => a

def execMdrainArrive (c : Nat) (s : State) : Out := s.event (fun a => a.drainStep c)

-- ## Releases (R143, R150, R156)

/-- A fetch or stream that waited is tried again. -/
def execEngineStallRelease (c : Nat) (s : State) : Out := s.event (fun a => a.engineStep c)

/-- The engine's miss of a context ended against it. -/
def Core.engineFailed (k : Core) (x : Nat) : Bool :=
  k.misses.any (fun m => m.agent == .engine x && m.stage.isEnded)

/-- A fetch whose translation failed stops its call or MPLOAD (R156 step 4). -/
def Arch.fetchFails (a : Arch) (c : Nat) : Arch :=
  if (a.core c).misses.any (fun m => (match m.agent with | .engine x => (a.core c).engineFailed x | _ => false)) then
    (if (a.core c).engine.run.isSome then a.engineStep c else a.loadStep c)
  else a

def execEngineFetchFault (c : Nat) (s : State) : Out := s.event (fun a => a.fetchFails c)

/-- A bundle held for want of queue room may issue (R150). -/
def Arch.queueRoom (a : Arch) (c x : Nat) : Arch :=
  if (a.ctx c x).hold = some .engineQueue ∧ (a.core c).engine.commands x < 8 then
    a.mapCtx c x (fun t => { t with hold := none })
  else a

def execMQueueRoom (c x : Nat) (s : State) : Out := s.event (fun a => a.queueRoom c x)

end Sys2Proof.Machine
end

