-- ==== Sys2Proof/Machine/Sync.lean ====
section
/-! DEFINITION. Synchronisation: bank ownership (16 R338; 07 R171 to R173), barriers (16 R339; 07 R168 to R170), timeline
counters (18 R381 to R383), DRAIN (16 R345; 11 R248), and the steps that release these waits and the holds of R63, R232
and R245. -/

namespace Sys2Proof.Machine

-- ## Bank ownership

/-- The groups a 12-bit mask names. -/
def groupsIn (mask : Nat) : List Nat := (upTo 12).filter (fun g => mask.testBit g)

/-- Every group named is free or the context's own (R172). -/
def Core.canTake (k : Core) (x mask now : Nat) : Bool := (groupsIn mask).all (fun g => k.mayTouch x g now)

/-- Take or free groups; others stay as they are (R172, R173). What becomes of a group in stash mode that is released before HALT, the
spec leaves open: the model only frees it, and its window and stash mode stay (log entry 73). `now` is the time of the release. -/
def Core.take (k : Core) (x mask : Nat) : Core :=
  { k with owner := (groupsIn mask).foldl (fun o g => SMap.set Owner.free o g (ownerOf x)) k.owner }
def Core.release (k : Core) (x mask now : Nat) : Core :=
  { k with
    owner := (groupsIn mask).foldl (fun o g =>
      if SMap.get Owner.free o g = ownerOf x then SMap.set Owner.free o g .free else o) k.owner
    prev := (groupsIn mask).foldl (fun m g =>
      if SMap.get Owner.free k.owner g = ownerOf x then SMap.set none m g (some (x, now)) else m) k.prev }

/-- An access that another context, the last owner of one of these groups, made to it before it freed the group has not been performed:
a BANKACQ acquires every one of them, by whichever address and though it wait for a full/empty word (R172, R173; log entry 78). A group
that is the context's own already has been acquired. -/
def Arch.unfinished (a : Arch) (c x mask : Nat) : Bool :=
  (groupsIn mask).any (fun g =>
    match SMap.get (none : Option (Nat × Nat)) (a.core c).prev g with
    | some (y, t) => y != x && SMap.get Owner.free (a.core c).owner g != ownerOf x && a.reqs.any (fun q => q.core == c && q.ctx == y && q.time ≤ t && q.st != .withdrawn &&
        (match a.place q.pa with | .spad d o => d == c && (groupsOf o q.len).contains g | _ => false))
    | none => false)

/-- Context `x` can take the groups of a mask now (R172, R173). -/
def Arch.able (a : Arch) (c x mask : Nat) : Bool := (a.core c).canTake x mask a.clock && !a.unfinished c x mask

/-- Context A waits for one of these groups and can take what it waits for now: it comes before B (R172). -/
def Arch.aFirst (a : Arch) (c x mask : Nat) : Bool :=
  x == 1 && (match (a.ctx c 0).wait with
    | some w => w.kind == .bankacq && w.operand &&& mask != 0 && (a.ctx c 0).status == .running && a.able c 0 w.operand
    | none => false)

/-- BANKACQ (R172): at once when it can, else the context waits. Where context A of the core is still to have its turn in this cycle, B
waits for the end of it. -/
def State.bankacq (s : State) (mask : BitVec 12) : State :=
  if s.arch.able s.iss.core s.iss.ctx mask.toNat && !s.arch.aFirst s.iss.core s.iss.ctx mask.toNat
      && !s.arch.deferred s.iss.core s.iss.ctx then
    s.setArch (s.arch.mapCore s.iss.core (fun k => k.take s.iss.ctx mask.toNat))
  else s.upd (fun t => { t with wait := some ⟨.bankacq, 0, mask.toNat, false, 0⟩ })

def execBankacq (p : Nat) (mask : BitVec 12) (s : State) : Out := .next (s.finish (s.whenOn p (.ok (s.bankacq mask))))
def execBankrel (p : Nat) (mask : BitVec 12) (s : State) : Out :=
  .next (s.finish (s.whenOn p (.ok (s.setArch
    (s.arch.mapCore s.iss.core (fun k => k.release s.iss.ctx mask.toNat s.arch.clock))))))

/-- A wait of some kind ends. -/
def Context.unwait (t : Context) : Context := { t with wait := none }

/-- A waiting BANKACQ takes its groups, A first (R172). -/
def Arch.bankGrant (a : Arch) (c x : Nat) : Arch :=
  match (a.ctx c x).waiting .bankacq with
  | some w =>
    if a.able c x w.operand && !a.aFirst c x w.operand then (a.mapCore c (fun k => k.take x w.operand)).mapCtx c x Context.unwait else a
  | none => a

def execBankacqGrant (c x : Nat) (s : State) : Out := s.event (fun a => a.bankGrant c x)

-- ## Barriers

/-- BARINIT of a count outside 1 to 2^31 - 1 is an operand fault (R339). -/
def State.barinit (s : State) (a : Nat) (n : Word) : SlotR :=
  (s.wordRange (s.rd.readG a).toNat false true).bind (fun r =>
    if n.toNat = 0 ∨ 2 ^ 31 ≤ n.toNat then .trap 0x0B n.toNat 9 0
    else .ok (s.wordOp .barInit r (s.rd.readG a).toNat n.toNat none (some r.scope)))

def execBarinit (p a : Nat) (b : Src) (s : State) : Out := .next (s.finish (s.whenOn p (s.barinit a (s.src b))))
def execBararr (p a : Nat) (s : State) : Out :=
  .next (s.finish (s.whenOn p ((s.wordRange (s.rd.readG a).toNat true true).bind (fun r =>
    .ok (s.wordOp .barArr r (s.rd.readG a).toNat 0 none (some r.scope))))))
def execBarwait (p a : Nat) (b : Src) (s : State) : Out :=
  .next (s.finish (s.whenOn p ((s.wordRange (s.rd.readG a).toNat true false).bind (fun r =>
    .ok (s.wordOp .barWait r (s.rd.readG a).toNat ((s.src b).toNat % 2) (some r.scope) none)))))

/-- A barrier waiter whose condition was observed to hold is released (R169). -/
def Arch.barRelease (a : Arch) (c x : Nat) : Arch :=
  match (a.ctx c x).waiting .barwait with
  | some w =>
    if w.sat then
      Arch.mapCtx { a with reqs := a.reqs.filter (fun (r : Req) => r.id != w.req) } c x
        (fun t => { t.unwait with acqs := t.acqs.filter (fun e => e.1 != w.req) })
    else
      match a.reqs.find? (fun r => r.id == w.req && r.st == .parked && a.waiterReady r) with
      | some r => a.performReq r
      | none => a
  | none => a

def execBarwaitRelease (c x : Nat) (s : State) : Out := s.event (fun a => a.barRelease c x)

-- ## Timeline counters

/-- TLADV adds to the counter, which does not wrap (R382). -/
def Context.tlAdd (t : Context) (n x : Nat) : Context :=
  { t with tl := SMap.set 0 t.tl n (BitVec.ofNat 64 (min ((t.readTl n).toNat + x) (2 ^ 64 - 1))) }

def execTladv (p n a : Nat) (s : State) : Out :=
  .next (s.finish (s.whenOn p (.ok (s.upd (fun t => t.tlAdd n (s.rd.readG a).toNat)))))
def execTlread (p d n : Nat) (s : State) : Out := .next (s.finish (s.whenOn p (.ok (s.landG d (s.rd.readTl n) 2))))

/-- TLWAIT (R383). -/
def State.tlwait (s : State) (n m : Nat) : State :=
  if m ≤ (s.rd.readTl n).toNat then s else s.upd (fun t => { t with wait := some ⟨.tlwait, n, m, false, 0⟩ })

def execTlwait (p n a : Nat) (s : State) : Out :=
  .next (s.finish (s.whenOn p (.ok (s.tlwait n (s.rd.readG a).toNat))))

def Arch.tlRelease (a : Arch) (c x : Nat) : Arch :=
  match (a.ctx c x).waiting .tlwait with
  | some w => if w.sat || w.operand ≤ ((a.ctx c x).readTl w.addr).toNat then a.mapCtx c x Context.unwait else a
  | none => a

def execTlwaitRelease (c x : Nat) (s : State) : Out := s.event (fun a => a.tlRelease c x)

-- ## DRAIN (R248)

/-- The accesses of the set E not yet performed: those of the context issued before `id`, without the withdrawn (R166). -/
def Arch.before (a : Arch) (c x id : Nat) : List Req :=
  a.reqs.filter (fun r => r.core == c && r.ctx == x && r.id < id && r.st != .withdrawn)

/-- The condition of DRAIN at a scope; `id` bounds E, and `m` is the latest window in which a write of E already performed was sent,
plus 1. Write-backs of STASHT are in E at every scope. -/
def Arch.drained (a : Arch) (c x scope id m : Nat) : Bool :=
  let e := a.before c x id
  let backs := a.writeBacks.filter (fun b => b.core == c && b.ctx == x && b.id < id)
  if scope = 4 then
    let w := (e.filter (fun r => !r.early)).map Req.win ++ backs.map WriteBack.win
    let m := (w.map (fun n => n.getD 0)).foldl max m
    w.all Option.isSome && (m == 0 || (m + 1) * 2 ^ a.time.wlog2.toNat ≤ a.now)
  else e.isEmpty && backs.isEmpty

/-- DRAIN waits from the bundle after it, unless its condition holds already. -/
def State.drain (s : State) (scope : Nat) : State :=
  let id := s.view.nextId
  if s.view.drained s.iss.core s.iss.ctx scope id s.rd.sent then s
  else s.upd (fun t => { t with wait := some ⟨.drain, s.rd.sent, scope, false, id⟩ })

def execDrain (p scope : Nat) (s : State) : Out := .next (s.finish (s.whenOn p (.ok (s.drain scope))))

def Arch.drainRelease (a : Arch) (c x : Nat) : Arch :=
  match (a.ctx c x).waiting .drain with
  | some w => if a.drained c x w.operand w.req w.addr then a.mapCtx c x Context.unwait else a
  | none => a

def execDrainComplete (c x : Nat) (s : State) : Out := s.event (fun a => a.drainRelease c x)

-- ## Holds of a bundle (R63, R232, R245)

/-- A hold whose cause is gone ends; the bundle is checked afresh when it issues. -/
def Arch.unhold (a : Arch) (c x : Nat) : Arch := a.mapCtx c x (fun t => { t with hold := none })

def execLandingBufferRelease (c x : Nat) (s : State) : Out :=
  s.event (fun a =>
    if (a.ctx c x).hold = some .landingBuffer ∧ (a.core c).landing < 3072 then a.unhold c x else a)

def Arch.watermarkRelease (a : Arch) (c x : Nat) : Arch :=
  match (a.ctx c x).hold with
  | some (.watermark va len) => if watermark (a.ctx c x).chans va len = .hold then a else a.unhold c x
  | _ => a

def execWatermarkRelease (c x : Nat) (s : State) : Out := s.event (fun a => a.watermarkRelease c x)

def execAcquireHoldRelease (c x : Nat) (s : State) : Out :=
  s.event (fun a => if (a.ctx c x).hold = some .acquire ∧ (a.ctx c x).acqs = [] then a.unhold c x else a)

end Sys2Proof.Machine
end

