-- ==== Sys2Proof/Machine/System.lean ====
section
/-! DEFINITION. System registers (17 R358, R359; 03 R75, R76; 05 R137; 14 R304; 10 R231, R237; 09 R199; 10 R222), clocks
(16 R344; 18 R385), tiles (17 R367; 02 R42 to R44), and the S slots that send work to the front end (12 R262; 13 R291). -/

namespace Sys2Proof.Machine

-- ## Reading (R358)

def Context.rotbase (t : Context) : Nat := t.rg.toNat + 2 ^ 8 * t.rp.toNat + 2 ^ 16 * t.rv.toNat
def TrapRegs.tstate (r : TrapRegs) : Nat :=
  at_ 0 r.tmode + 2 * r.repleft + 2 ^ 16 * r.swapcnt.toNat + 2 ^ 32 * (r.hbt % 2 ^ 32)
def RingRegs.evlost (r : RingRegs) : Nat := at_ 0 r.lost + at_ 1 r.dfault + 2 ^ 16 * r.count.toNat
def Chan.wmstat (h : Chan) : Nat :=
  h.state.code + 2 ^ 8 * h.code.toNat + at_ 16 h.bad + 2 ^ 32 * h.ticket.toNat
def Context.detmReg (t : Context) : Nat := at_ 0 t.detm + 2 ^ 32 * t.holds.toNat

/-- A watermark register of a channel: 0 WMBASE, 1 WMLIM, 2 WM, 3 WMSTAT. -/
def Chan.wmReg (h : Chan) (i : Nat) : Nat :=
  match i with
  | 0 => h.wmbase.toNat
  | 1 => h.wmlim.toNat
  | 2 => h.wm.toNat
  | _ => h.wmstat

/-- The system register `n` of context `x` of core `c` (R75). CTXID.CTX, one bit, reads 0 in the shadow context, for which R76 gives no
value (log entry 82). -/
def Arch.sysReg (a : Arch) (c x n : Nat) : Nat :=
  let t := a.ctx c x
  match n with
  | 0x001 => t.lc.toNat
  | 0x002 => t.rotbase
  | 0x003 => 4 * t.mpc.toNat
  | 0x004 => t.bt % 2 ^ 64
  | 0x005 => x % 2 + 2 ^ 4 * t.gpos.toNat + 2 ^ 8 * t.gsize.toNat
  | 0x006 => c + 2 ^ 8 * (c / 32) + 2 ^ 16 * a.modnum.toNat
  | 0x007 => t.ec.toNat
  | 0x040 => t.trap.tvec.toNat
  | 0x041 => t.trap.tcause.toNat
  | 0x042 => t.trap.tbundle.toNat
  | 0x043 => t.trap.tinfo.toNat
  | 0x044 => t.trap.tstate
  | 0x060 => t.ring.evbase.toNat
  | 0x061 => t.ring.evsize.toNat
  | 0x062 => t.ring.evhead.toNat
  | 0x063 => t.ring.evtail.toNat
  | 0x064 => t.ring.evlost
  | 0x180 => t.detmReg
  | 0x200 => 2 ^ 12 * t.ptroot.toNat
  | 0x201 => t.asid.toNat
  | 0x202 => 2 ^ 7 * t.tmplbase.toNat
  | 0x203 => t.tmplcnt.toNat
  | _ =>
    if 0x140 ≤ n then (t.readTl (n - 0x140)).toNat else (t.chan ((n - 0x100) / 4)).wmReg ((n - 0x100) % 4)

/-- RC fields that a read of register `n` clears (R5, R76, R137). -/
def Context.sysClear (t : Context) (n : Nat) : Context :=
  match n with
  | 0x064 => { t with ring := { t.ring with count := 0 } }
  | 0x180 => { t with holds := 0 }
  | _ => t

/-- The effect of a read or write of register `n` on the context; what hardware sets in EVLOST at the same time is set still (R6). -/
def State.updReg (s : State) (n : Nat) (f : Context → Context) : State :=
  if n = 0x064 then (s.upd f).setArch (s.upd f).arch.setsWin else s.upd f

def execMfs (p d n : Nat) (s : State) : Out :=
  .next (s.finish (s.whenOn p (.ok ((s.updReg n (fun t => t.sysClear n)).landG d
    (BitVec.ofNat 64 (s.view.sysReg s.iss.core s.iss.ctx n)) 2))))

-- ## Writing (R359)

/-- Bits of a register under a mask of its RW fields. -/
def maskWord (x : Word) (m : Nat) : Word := x &&& BitVec.ofNat 64 m

/-- W1C fields of EVLOST. -/
def RingRegs.w1c (r : RingRegs) (x : Word) : RingRegs :=
  { r with lost := r.lost && !x.getLsbD 0, dfault := r.dfault && !x.getLsbD 1 }

/-- DISMISS of WMSTAT (R231): a copy that has ended becomes IDLE. -/
def Chan.dismiss (h : Chan) (x : Word) : Chan :=
  if x.getLsbD 31 && (match h.state with | .idle | .active => false | _ => true) then { h with state := .idle } else h

/-- Writes to a context's registers; RO fields and registers ignore them. -/
def Context.sysWrite (t : Context) (n : Nat) (x : Word) : Context :=
  match n with
  | 0x001 => { t with lc := x }
  | 0x002 => { t with rg := x.setWidth 4, rp := (x >>> 8).setWidth 3
                      rv := BitVec.ofNat 8 (bits x.toNat 23 16 % 192) }
  | 0x003 => { t with mpc := (x >>> 2).setWidth 16 }
  | 0x007 => { t with ec := x }
  | 0x040 => { t with trap := { t.trap with tvec := maskWord x 0x3FFFF } }
  | 0x042 => { t with trap := { t.trap with tbundle := maskWord x 0x3FFFE } }
  | 0x044 => { t with trap := { t.trap with repleft := min (bits x.toNat 5 1) 16 } }
  | 0x060 => { t with ring := { t.ring with evbase := maskWord x 0xFFFFFFFFFFFFFFF0, stopped := false } }
  | 0x061 => { t with ring := { t.ring with evsize := x.setWidth 5 } }
  | 0x063 => { t with ring := { t.ring with evtail := x.setWidth 32, acks := [] } }
  | 0x064 => { t with ring := t.ring.w1c x }
  | 0x180 => { t with wait := some ⟨.detm, 0, x.toNat % 2, false, 0⟩ }
  | _ =>
    if 0x100 ≤ n && n < 0x140 && n % 4 == 3 then
      t.setChan ((n - 0x100) / 4) ((t.chan ((n - 0x100) / 4)).dismiss x)
    else t

/-- MTS: privileged registers trap (R75); an MTS to MPC overrides an M slot's advance (R76). -/
def State.mts (s : State) (n : Nat) (x : Word) : SlotR :=
  if 0x200 ≤ n then .trap 3 n 8 0
  else
    let s' := s.updReg n (fun t => t.sysWrite n x)
    .ok (if n = 3 then s'.setIss { s'.iss with mpcSet := true } else s')

def execMts (p d n : Nat) (s : State) : Out := .next (s.finish (s.whenOn p (s.mts n (s.rd.readG d))))

-- ## Clocks

/-- Arithmetic cycles by which the member of a gang follows its lead (R40; log entry 74). -/
def State.skew (s : State) : Nat := s.rd.gpos.toNat

/-- The time of a member's own issue, with what is slewed until then, and none before a time that its core has given already (R40,
R325, R385; log entry 74). -/
def State.timeOf (s : State) : Nat := max (s.view.elapse (2 * s.skew)).now (s.view.core s.iss.core).stamp

/-- The count of a member's own issue: edges of its core since cold reset, as far as its lead's edge and its place after it, that
were not omitted (R40, R344). -/
def State.cyclesOf (s : State) : Nat :=
  (s.view.core (s.view.leadOf s.iss.core s.iss.ctx)).lastEdge / 2 + s.skew - (s.view.core s.iss.core).omitted

def execTstamp (p d : Nat) (s : State) : Out :=
  .next (s.finish (s.whenOn p (.ok ((s.setArch (s.arch.mapCore s.iss.core (fun k => { k with stamp := s.timeOf }))).landG d
    (BitVec.ofNat 64 s.timeOf) 2))))
def execCycles (p d : Nat) (s : State) : Out :=
  .next (s.finish (s.whenOn p (.ok (s.landG d (BitVec.ofNat 64 s.cyclesOf) 2))))

-- ## Tiles (R42 to R44, R367)

/-- The dimensions of a persistent launch (R42, R279). -/
def tileDims (desc : BitVec 2048) : Nat × Nat × Nat :=
  let w := bits desc.toNat 511 448
  (bits w 19 0 + 1, bits w 39 20 + 1, bits w 59 40 + 1)

/-- The null record. -/
def nullTile : Word := 0x8000000000000000

/-- The record of a linear index. -/
def tileRecord (desc : BitVec 2048) (i : Nat) : Word :=
  let d := tileDims desc
  BitVec.ofNat 64 (i % d.1 + 2 ^ 20 * (i / d.1 % d.2.1) + 2 ^ 40 * (i / (d.1 * d.2.1)))

def tileCount (desc : BitVec 2048) : Nat := (tileDims desc).1 * (tileDims desc).2.1 * (tileDims desc).2.2

/-- The Brick of a launch's lowest core, which owns the counter, can be asked from Brick `b` now: no sleeping port holds the claim or its
answer (R22, R43). -/
def Arch.tileReach (a : Arch) (b : Nat) (v : Launch) : Bool := !a.tripSleeps b (v.base / 32) || (a.brick (v.base / 32)).lost

/-- A Brick claims a batch of 32 indices from the owner's counter, if it has 8 or fewer (R43). -/
def Arch.claim (a : Arch) (b l : Nat) : Arch :=
  match a.launch l with
  | none => a
  | some v =>
    let have_ := SMap.get [] (a.brick b).batches l
    let n := min 32 (tileCount v.desc - v.tiles)
    if v.drained || n = 0 || 8 < have_.length || !a.tileReach b v then a
    else
      (a.setLaunch l { v with tiles := v.tiles + n }).mapBrick b (fun k =>
        { k with batches := SMap.set [] k.batches l (have_ ++ (upTo n).map (fun i => v.tiles + i)) })

/-- A unit of a launch whose program has not ended has a core on Brick `b`: the Brick takes part (R43). -/
def Arch.takesPart (a : Arch) (b l : Nat) : Bool :=
  a.units.any (fun e => e.2.any (fun u => u.launch == l && u.fate.isNone && u.cores.any (fun c => c / 32 == b)))

/-- The next record of a persistent launch on a Brick, an empty batch being refilled, or the null record when all are gone; none where
the owner cannot be asked yet (R43, R44; log entry 28). -/
def Arch.nextTile (a : Arch) (b l : Nat) : Option (Word × Arch) :=
  match a.launch l with
  | none => some (nullTile, a)
  | some v =>
    if v.drained then some (nullTile, a)
    else
      let m := if (SMap.get [] (a.brick b).batches l).isEmpty then a.claim b l else a
      match SMap.get [] (m.brick b).batches l with
      | [] => if a.tileReach b v then some (nullTile, m) else none
      | i :: rest => some (tileRecord v.desc i, m.mapBrick b (fun k => { k with batches := SMap.set [] k.batches l rest }))

/-- A record arrives for every NXTILE that waits for it. -/
def Arch.tileArrives (a : Arch) (r : TileReq) (w : Word) : Arch :=
  r.dests.foldl (fun a e => a.mapCtx e.1 e.2.1 (fun t => t.fill e.2.2 0 w.toNat)) a

/-- The NXTILEs that wait on a Brick for records get them, oldest first, as far as there are any (R43, R44): at the edges of its cores,
and as it claims a batch. -/
def Arch.serveTiles (a : Arch) (b : Nat) : Arch :=
  (a.brick b).tileq.foldl (fun a r =>
    match a.nextTile b r.launch with
    | some q => (q.2.tileArrives r q.1).mapBrick b (fun k => { k with tileq := k.tileq.filter (fun e => e != r) })
    | none => a) a

/-- TILE_BATCH_CLAIM (R43): a Brick that takes part refills its batch, and NXTILEs that wait there get their records. -/
def Arch.claimBatch (a : Arch) (b l : Nat) : Arch := (if a.takesPart b l then a.claim b l else a).serveTiles b

/-- The tile record a member of the gang has just asked for (R44). -/
def Context.tileJustAsked (t : Context) : Option Pend :=
  t.inflight.find? (fun p => p.file == .g && p.ord + 1 == t.ord && p.due == t.time + 23)

/-- The first member of the gang to ask for a record in this bundle, and its result. -/
def State.gangTile (s : State) : Option (Nat × Pend) :=
  match s.iss.follow, s.cur.unit.bind s.arch.unit with
  | some _, some u => (u.cores.takeWhile (fun k => k != s.iss.core)).findSome? (fun k =>
      (s.arch.ctx k s.iss.ctx).tileJustAsked.map (fun p => (k, p)))
  | _, _ => none

/-- A result whose record comes later (R44): `ask` notes on a Brick who gets it. -/
def State.tileLater (s : State) (d b : Nat) (ask : Nat × Nat × Nat → List TileReq → List TileReq) : State :=
  let q := s.pending .g (s.destG d) 24 1 0 false
  q.1.setArch (q.1.arch.mapBrick b (fun k => { k with tileq := ask (s.iss.core, s.iss.ctx, q.2) k.tileq }))

def State.nxtile (s : State) (d : Nat) : State :=
  match s.gangTile with
  | some (k, p) =>
    if p.parts = 0 then s.landG d (p.val.setWidth 64) 24
    else s.tileLater d (k / 32) (fun e rs => rs.map (fun r =>
      if r.dests.contains (k, s.iss.ctx, p.tag) then { r with dests := r.dests ++ [e] } else r))
  | none =>
    match s.rd.tile with
    | none => s.landG d nullTile 24
    | some l =>
      let b := s.iss.core / 32
      match (if (s.arch.brick b).tileq.any (fun r => r.launch == l) then none else s.arch.nextTile b l) with
      | some q => (s.setArch q.2).landG d q.1 24
      | none => s.tileLater d b (fun e rs => rs ++ [⟨l, [e]⟩])

def execNxtile (p d : Nat) (s : State) : Out := .next (s.finish (s.whenOn p (.ok (s.nxtile d))))
def execTileBatchClaim (b l : Nat) (s : State) : Out := s.event (fun a => a.claimBatch b l)

-- ## OPGO (R262)

def Context.xlRegs (t : Context) : XlRegs := ⟨t.ptroot, t.asid, t.tmplbase, t.tmplcnt⟩

/-- A request enters the dispatcher queue; beyond 256 the context waits for room (R262). -/
def State.sendOp (s : State) (pa va : Nat) : State :=
  let full := 256 ≤ s.arch.opq.length
  let s' := s.setArch { s.arch with opq := s.arch.opq ++
    [⟨pa, va, s.rd.xlRegs, some (s.iss.core, s.iss.ctx, s.rd.bt), none, none, none, s.view.nextId, false⟩] }
  if full then s'.upd (fun t => { t with wait := some ⟨.opgo, va, 0, false, 0⟩ }) else s'

def State.opgo (s : State) (ga : Nat) : SlotR :=
  if ga % 128 ≠ 0 ∨ ga / 2 ^ 56 ≠ 0 ∨ s.iss.ctx = 2 then .trap 4 ga 9 0
  else (s.globalRange ga 128 true false false).bind (fun r => .ok (s.sendOp r.pa ga))

def execOpgo (p a : Nat) (s : State) : Out := .next (s.finish (s.whenOn p (s.opgo (s.rd.readG a).toNat)))

/-- A context held by a full dispatcher queue resumes when its own request has room: the first 256 of `opq` are in the queue, and what
stands after them waits to enter it, in the order in which it came (R262). -/
def Arch.opRoom (a : Arch) (c x : Nat) : Arch :=
  match (a.ctx c x).waiting .opgo with
  | some _ =>
    if (a.opq.drop 256).any (fun r => match r.src with | some (d, y, _) => d == c && y == x | none => false) then a
    else a.mapCtx c x Context.unwait
  | none => a

def execOpgoQueueRoom (c x : Nat) (s : State) : Out := s.event (fun a => a.opRoom c x)

-- ## QPUB (R291)

def State.qpub (s : State) (a : Nat) (b : Word) : State :=
  s.setArch { s.arch with doorbells := s.arch.doorbells ++
    [⟨(s.rd.readG a).toNat % 4096, b.toNat % 2 ^ 32, s.iss.core, s.iss.ctx, s.rd.unit, s.rd.asid, s.rd.bt,
      s.view.nextId⟩] }

def execQpub (p a : Nat) (b : Src) (s : State) : Out := .next (s.finish (s.whenOn p (.ok (s.qpub a (s.src b)))))

end Sys2Proof.Machine
end

