-- ==== Sys2Proof/Machine/Front.lean ====
section
/-! DEFINITION. The command front end (02 R29 to R50; 13 R273, R279, R280, R284, R286, R296): what it reads and writes
through a queue's translation, completion records and signals, the levels of work and how they end, launches and their
release. -/

namespace Sys2Proof.Machine

-- ## Memory through a queue's translation (R273)

/-- Bits [hi:lo] of the doubleword at byte `o` of a structure. -/
def dw (d o hi lo : Nat) : Nat := bits d (8 * o + hi) (8 * o + lo)

/-- The translation and template registers a queue descriptor gives. -/
def queueRegs (d : BitVec 1024) : XlRegs :=
  ⟨BitVec.ofNat 44 (dw d.toNat 0x10 55 12), BitVec.ofNat 12 (dw d.toNat 0x08 19 8), BitVec.ofNat 49 (dw d.toNat 0x18 55 7),
   BitVec.ofNat 13 (dw d.toNat 0x20 12 0)⟩

def queuePrio (d : BitVec 1024) : Nat := dw d.toNat 0x08 6 5

/-- Firmware runs, and no thermal trip has stopped the module (R297, R327, R329): only then are packets processed and units released. -/
def Arch.firmware (a : Arch) : Bool := a.boot.state == .running && !a.power.tripped

/-- What no wait holds back: a step taken though an access of it would have to wait (log entry 68). -/
def Arch.anyway (a : Arch) : Arch := { a with feHeld := false }

/-- An access of the front end has to wait, in the module given. -/
def Arch.feWait (a : Arch) : Arch := { a with feHeld := true }

/-- A step of the front end, unless an access of it has to wait for a port or for the window rule (R22, R253): then nothing of it
happens now but what the wait itself leaves (log entry 68). -/
def Arch.unlessHeld (a : Arch) (f : Arch → Arch) : Arch :=
  let b := f a
  if b.feHeld then { a with windows := b.windows, snoops := b.snoops } else b

/-- The physical address of one address, where a walk ends at a leaf with the permissions. -/
def Arch.feXlate (a : Arch) (r : XlRegs) (va : Nat) (rd wr : Bool) : Option Nat × Arch :=
  if va / 2 ^ 56 ≠ 0 then (none, a)
  else
    let q := a.walkFrom 8 r.asid.toNat va 4 (r.ptroot.toNat * 2 ^ 12)
    match q.1 with
    | .leaf big base r' w' =>
      (if (rd && !r') || (wr && !w') then none else some (base + va % 2 ^ (if big then 30 else 21)), q.2)
    | .wait => (none, q.2.feWait)
    | _ => (none, q.2)

/-- Reach a range: its parts as physical address, key and length. -/
def Arch.feReach (a : Arch) (r : XlRegs) (va len : Nat) (wr : Bool) : Option (List (Nat × Nat × Nat)) × Arch :=
  if len = 0 then (some [], a)
  else
    (cutPages va len).foldl (fun (q : Option (List (Nat × Nat × Nat)) × Arch) e =>
      let x := q.2.feXlate r e.1 (!wr) wr
      (match q.1, x.1 with
       | some ss, some pa => (x.2.copyKey pa e.2 wr).map (fun k => ss ++ [(pa, k, e.2)])
       | _, _ => none,
       match x.1.bind (fun pa => x.2.reachHeld 8 pa e.2 wr) with | some a => a.feWait | none => x.2)) (some [], a)

def Arch.feRead (a : Arch) (r : XlRegs) (va len : Nat) : Option (List Byte) × Arch :=
  let q := a.feReach r va len false
  match q.1 with
  | some ss => let x := q.2.copyRead ss; (some x.1, x.2)
  | none => (none, q.2)

def Arch.feWrite (a : Arch) (r : XlRegs) (va : Nat) (bs : List Byte) : Bool × Arch :=
  let q := a.feReach r va bs.length true
  match q.1 with
  | some ss => (true, q.2.copyWrite ss bs)
  | none => (false, q.2)

/-- Read a range of physical memory the front end names directly. -/
def Arch.fePhys (a : Arch) (pa len : Nat) : Option (List Byte) × Arch :=
  match a.copyKey pa len false with
  | some k =>
    (match a.reachHeld 8 pa len false with
     | some a => (none, a.feWait)
     | none => let q := a.copyRead [(pa, k, len)]; (some q.1, q.2))
  | none => (none, a)

-- ## The job event ring (R296)

def evStarve : Nat := 1
def evBadPacket : Nat := 2
def evBadSignal : Nat := 3
def evAbort : Nat := 4
def evThrottle : Nat := 5

/-- Post an entry; with no ring, or one that cannot be reached, it is only counted. -/
def Arch.jobEvent (a : Arch) (q code index info : Nat) : Arch :=
  let k := a.queue q
  let ring := dw k.desc.toNat 0x38 63 0
  let a := if ring = 0 then a
    else (a.feWrite (queueRegs k.desc) (ring + 16 * (k.evcnt.toNat % 2 ^ dw k.desc.toNat 0x40 4 0))
      (toBytes 16 (code + 2 ^ 8 * q + 2 ^ 32 * (index % 2 ^ 32) + 2 ^ 64 * (info % 2 ^ 64)))).2
  a.mapQueue q (fun k => { k with evcnt := k.evcnt + 1 })

-- ## Signals (R286)

/-- The address of a signal: aligned, readable and writable, in a stack of the module. An action on it reads it (R253). -/
def Arch.signalAt (a : Arch) (r : XlRegs) (va : Nat) : Option Nat × Arch :=
  if va % 8 ≠ 0 then (none, a)
  else
    let q := a.feXlate r va true true
    (q.1.filter (fun pa => (match q.2.place pa with | .stack _ _ => q.2.readable pa 8 | _ => false)),
     match q.1.bind (fun pa => q.2.rmwHeld 8 pa 8) with | some a => a.feWait | none => q.2)

/-- One atomic on a doubleword at its home: 0 ADD, 1 STORE, 2 MIN. -/
def Arch.signalAtomic (a : Arch) (pa op v : Nat) : Arch :=
  let q := a.homeRead pa 8
  q.2.homeWrite pa 8 (amoNew (match op with | 0 => .add | 1 => .swp | _ => .min) 8 q.1 v 0)

/-- Act on a signal of queue `q`; one that cannot be reached posts BADSIGNAL. -/
def Arch.signalOp (a : Arch) (desc : BitVec 1024) (q index va op v : Nat) : Bool × Arch :=
  let x := a.signalAt (queueRegs desc) va
  match x.1 with
  | some pa => (true, x.2.signalAtomic pa op v)
  | none => (false, x.2.jobEvent q evBadSignal index va)

def minusOne : Nat := 2 ^ 64 - 1

/-- The completion signal of a packet, decremented or aborted, and then its interrupt (R286, R318). -/
def Arch.completeSignal (a : Arch) (desc : BitVec 1024) (q index signal : Nat) (vector : Option Nat) (abort : Bool) : Arch :=
  let a := if signal = 0 then a else (a.signalOp desc q index signal (if abort then 2 else 0) minusOne).2
  match vector with
  | some v => a.interrupt v
  | none => a

-- ## Levels (R29 to R33)

def LevelState.live : LevelState → Bool
  | .waiting | .running => true
  | _ => false

/-- The completion record of a level (R31). -/
def Level.bytes (l : Level) : List Byte :=
  toBytes 32 (l.pending % 2 ^ 32 + 2 ^ 32 * l.state.code + at_ 35 l.childloss + 2 ^ 64 * (l.done % 2 ^ 32)
    + 2 ^ 96 * (l.abandoned % 2 ^ 32) + 2 ^ 128 * (l.tstart % 2 ^ 64) + 2 ^ 192 * (l.tend % 2 ^ 64))

/-- Write a level's record, where it has one (R31, R32). -/
def Arch.writeRecord (a : Arch) (l : Nat) : Arch :=
  match a.level l with
  | some v =>
    if v.record = 0 ∨ (v.frozen = true ∧ v.cancelled = false) then a
    else (a.feWrite (queueRegs v.desc) v.record v.bytes).2
  | none => a

/-- Change a level and its record. -/
def Arch.updLevel (a : Arch) (l : Nat) (f : Level → Level) : Arch := (a.mapLevel l f).writeRecord l

/-- A new level, waiting, with `pending` children. -/
def Arch.newLevel (a : Arch) (v : Level) : Nat × Arch :=
  let l := a.nextId
  (l, ({ a with nextId := l + 1 }.setLevel l v).writeRecord l)

/-- A level as its packet is accepted. -/
def levelOf (kind : LevelKind) (parent unit : Option Nat) (depth q index : Nat) (desc : BitVec 1024) (pending record : Nat)
    (signal : Nat) (vector : Option Nat) : Level :=
  { kind := kind, parent := parent, unit := unit, depth := depth, queue := q, index := index, desc := desc
    pending := pending, done := 0, abandoned := 0, state := .waiting, childloss := false, tstart := 0, tend := 0
    record := record, signal := signal, vector := vector, cancelled := false, isOpen := false, abort := false, frozen := false }

/-- The level of the launch that contains a unit. -/
def Arch.unitLevel (a : Arch) (u : Nat) : Option Nat := ((a.unit u).bind (fun e => a.launch e.launch)).bind Launch.level

/-- A descendant ended CANCELLED or FAILED: CHILDLOSS in every enclosing level, units' levels included (R31, R45). -/
def Arch.markLoss (a : Arch) (l : Nat) : Nat → Arch
  | 0 => a
  | f + 1 =>
    match a.level l with
    | none => a
    | some v =>
      let a := if v.childloss then a else a.updLevel l (fun v => { v with childloss := true })
      let a := match v.parent with | some p => Arch.markLoss a p f | none => a
      match v.unit.bind a.unitLevel with | some p => Arch.markLoss a p f | none => a

/-- Nesting is at most 15 units of four levels each. -/
def nestMax : Nat := 80

/-- A child of level `l` has ended (R31). -/
def Arch.countEnd (a : Arch) (l : Nat) (ok : Bool) : Arch :=
  let a := a.updLevel l (fun v => { v with
    pending := v.pending - 1
    done := if ok then v.done + 1 else v.done
    abandoned := if ok then v.abandoned else v.abandoned + 1 })
  if ok then a else a.markLoss l nestMax

/-- A counted child of unit `u` has ended (R45). -/
def Arch.unitChildEnd (a : Arch) (u : Nat) (ok : Bool) : Arch :=
  let a := a.mapUnit u (fun e => { e with children := e.children - 1 })
  match (if ok then none else a.unitLevel u) with
  | some l => a.markLoss l nestMax
  | none => a

/-- The first unit below a level has been released: it and every level it stands in run (R31). -/
def Arch.levelStarts (a : Arch) (l : Nat) : Nat → Arch
  | 0 => a
  | f + 1 =>
    match a.level l with
    | none => a
    | some v =>
      let a := if v.state = .waiting then a.updLevel l (fun v => { v with state := .running, tstart := a.now }) else a
      match v.parent with
      | some p => Arch.levelStarts a p f
      | none => a

-- ## Nodes of a graph (R283)

def Progress.ended : Progress → Bool
  | .waiting | .started => false
  | _ => true

def Graph.mapNode (g : Graph) (n : Nat) (f : Node → Node) : Graph :=
  { g with nodes := (g.nodes.zipIdx).map (fun e => if e.2 = n then f e.1 else e.1) }

def Arch.mapGraph (a : Arch) (g : Nat) (f : Graph → Graph) : Arch :=
  match a.graph g with
  | some v => a.setGraph g (f v)
  | none => a

/-- Node `n` of graph `g` has ended: its entry is freed. -/
def Arch.nodeOver (a : Arch) (g n : Nat) (p : Progress) : Arch :=
  match a.graph g with
  | none => a
  | some v =>
    let a := a.setGraph g (v.mapNode n (fun k => { k with progress := p }))
    if v.admitted then a.mapBrick (n % 8) (fun k => { k with nodes := k.nodes - 1 }) else a

/-- A 32-byte record written once with an end state, for a level that never had children (R423). -/
def Arch.deadRecord (a : Arch) (desc : BitVec 1024) (record : Nat) (st : LevelState) : Arch :=
  if record = 0 ∨ record % 32 ≠ 0 then a else (a.feWrite (queueRegs desc) record (toBytes 32 (2 ^ 32 * st.code))).2

/-- Nodes that end without firing, each followed by its successors (R283). -/
def Arch.failNodes (a : Arch) (g : Nat) (st : LevelState) : List Nat → Nat → Arch
  | [], _ => a
  | _, 0 => a
  | n :: ns, f + 1 =>
    match (a.graph g).bind (fun v => (v.nodes[n]?).map (fun k => (v, k))) with
    | some (v, k) =>
      if k.progress = .waiting then
        let a := a.nodeOver g n (if st = .cancelled then .cancelled else .failed)
        let a := match a.level v.level with
          | some l => (a.deadRecord l.desc k.record st).countEnd v.level false
          | none => a
        Arch.failNodes a g .failed (k.succs ++ ns) f
      else Arch.failNodes a g st ns f
    | none => Arch.failNodes a g st ns f

def Graph.edges (v : Graph) : Nat := (v.nodes.map (fun k => k.succs.length + 1)).sum

/-- A fired node's level has ended. -/
def Arch.nodeEnds (a : Arch) (l : Nat) (ok : Bool) : Arch :=
  match a.graphs.findSome? (fun e => e.2.bind (fun v =>
      ((v.nodes.findIdx? (fun k => k.level == some l)).map (fun n => (e.1, v, n))))) with
  | none => a
  | some (g, v, n) =>
    let a := a.nodeOver g n (if ok then .complete else .failed)
    let ss := (v.nodes[n]?.map Node.succs).getD []
    if ok then
      a.mapGraph g (fun v => { v with nodes := (v.nodes.zipIdx).map (fun e =>
        { e.1 with preds := e.1.preds - (ss.filter (fun s => s == e.2)).length }) })
    else a.failNodes g .failed ss (v.edges + 1)

-- ## The end of a level (R33)

/-- How a level whose children have all ended ends. -/
def Level.due (v : Level) : Option LevelState :=
  if v.state.live && v.pending == 0 && (!v.isOpen || v.cancelled) then
    some (if v.cancelled then .cancelled else if v.abandoned ≠ 0 then .failed else .complete)
  else none

def LevelState.progress : LevelState → Progress
  | .complete => .complete
  | .cancelled => .cancelled
  | _ => .failed

/-- The packet that created a level has ended. -/
def Queue.packetEnds (k : Queue) (l : Nat) (p : Progress) : Queue :=
  { k with packets := k.packets.map (fun e => if e.level = some l then { e with progress := p } else e) }

/-- A level ends: record, completion signal, interrupt, and the levels that counted it. -/
def Arch.endLevel (a : Arch) (l : Nat) (v : Level) (st : LevelState) : Arch :=
  let a := a.updLevel l (fun v => { v with state := st, tend := a.now })
  let a := a.completeSignal v.desc v.queue v.index v.signal v.vector v.abort
  let a := a.mapQueue v.queue (fun k => k.packetEnds l st.progress)
  let a := a.mapQueue v.queue (fun k => if v.kind = .job ∧ k.job = some l then { k with ended := true } else k)
  let ok := st = .complete
  let a := match v.unit with | some u => a.unitChildEnd u ok | none => a
  let a := match v.parent with | some p => a.countEnd p ok | none => a
  let a := a.nodeEnds l ok
  { a with levels := SMap.set none a.levels l none
           launches := a.launches.filter (fun e => (e.2.bind Launch.level) != some l || (e.2.bind Launch.task).isSome)
           graphs := a.graphs.filter (fun e => (e.2.map Graph.level) != some l) }

/-- End every level that is due, lowest first. -/
def Arch.settleLevels (a : Arch) : Nat → Arch
  | 0 => a
  | f + 1 =>
    match a.levels.findSome? (fun e => e.2.bind (fun v => v.due.map (fun st => (e.1, v, st)))) with
    | some (l, v, st) => Arch.settleLevels (a.endLevel l v st) f
    | none => a

def Arch.settled (a : Arch) : Arch := a.settleLevels (2 * a.levels.length + 1)

-- ## Slots (R293, R294)

def pktType (raw : BitVec 512) : Nat := dw raw.toNat 0 7 0
def pktBarrier (raw : BitVec 512) : Bool := raw.getLsbD 8 || pktType raw == 7
def pktAchain (raw : BitVec 512) : Bool := raw.getLsbD 9

/-- Where the packet at READ lies, and its bytes; none where it cannot be read (R272). -/
def Arch.nextPacket (a : Arch) (q : Nat) : Option Nat × Arch :=
  let k := a.queue q
  let x := a.fePhys (dw k.desc.toNat 0 63 0 + 64 * (k.read.toNat % 2 ^ dw k.desc.toNat 0x08 4 0)) 64
  (x.1.map ofBytes, x.2)

/-- Packets of the present registration. -/
def Queue.current (k : Queue) : List Packet := k.packets.filter (fun p => !p.stale)

/-- The next packet can be processed under R276 and R283. -/
def Arch.canProcess (a : Arch) (q : Nat) : Bool :=
  let k := a.queue q
  let ps := k.current
  let raw := BitVec.ofNat 512 ((a.nextPacket q).1.getD 0)
  k.read != k.write
    && !a.graphs.any (fun e => match e.2 with
        | some g => !g.admitted && ps.any (fun p => p.level == some g.level)
        | none => false)
    && !ps.any (fun p => !p.progress.ended && pktBarrier p.raw)
    && (!pktBarrier raw || ps.all (fun p => p.progress.ended))
    && (!pktAchain raw || (match ps.getLast? with | some p => p.progress.ended | none => true))

def Arch.ready_ (a : Arch) (q : Nat) : Bool :=
  let k := a.queue q
  k.armed && !k.ended && !k.throttled && a.canProcess q

/-- Give up and take slots: a queue that is not ready leaves its slot and the list; one that has become ready joins the
list; free slots go to its head. -/
def Arch.reslot (a : Arch) : Arch :=
  let ok := a.queues.filter (fun e => a.ready_ e.1)
  let a := { a with queues := a.queues.map (fun (e : Nat × Queue) => if a.ready_ e.1 then e else (e.1, { e.2 with mapped := false })) }
  let old := a.readyList.filter (fun q => ok.any (fun e => e.1 == q))
  let list := old ++ ((ok.filter (fun (e : Nat × Queue) => !e.2.mapped && !old.contains e.1)).map Prod.fst)
  let free := 64 - (ok.filter (fun e => e.2.mapped)).length
  (list.take free).foldl (fun a q => a.mapQueue q (fun k => { k with mapped := true, mappedAt := a.clock }))
    { a with readyList := list.drop free }

/-- Packets that have ended are forgotten, but for the last one processed. -/
def Queue.forget (k : Queue) : Queue :=
  let last (p : Packet × Nat) : Bool := !p.1.stale && p.2 + 1 == k.packets.length
  { k with packets := (k.packets.zipIdx.filter (fun p => !p.1.progress.ended || last p)).map Prod.fst }

/-- An action of the front end: levels that are due end, packets that have ended are forgotten, and slots are given out while firmware
runs (R297). -/
def Arch.frontDone (a : Arch) : Arch :=
  let a := a.settled
  let a := { a with queues := a.queues.map (fun (e : Nat × Queue) => (e.1, e.2.forget)) }
  if a.firmware then a.reslot else a

def State.frontEvent (s : State) (f : Arch → Arch) : Out := s.event (fun a => a.unlessHeld (fun a => (f a).frontDone))

-- ## Launch descriptors (R279, R280)

def ldNunits (d : Nat) : Nat := dw d 0 16 8
def ldGang (d : Nat) : Nat := 2 ^ dw d 0 19 17
def ldCtx (d : Nat) : Nat := dw d 0 21 20
def ldPersist (d : Nat) : Bool := dw d 0 23 23 == 1
def ldFloat (d : Nat) : Bool := dw d 0 24 24 == 1
def ldBanks (d : Nat) : Nat := dw d 0 36 25
def ldStash (d : Nat) : Nat := dw d 0 48 37
def ldIlen (d : Nat) : Nat := dw d 0x10 18 0
def ldIbase (d : Nat) : Nat := dw d 0x10 36 19
def ldEntry (d : Nat) : Nat := dw d 0x10 54 37
def ldWindow (d g : Nat) : Nat := dw d (0x40 + 8 * g) 63 0

/-- A field of R279 out of range, or a check of R280 that does not look at memory. The windows that R174 keeps from overlapping are
those of the one descriptor: whether another launch's windows on the same core count too, the spec leaves open, and the model does
not look at them (log entry 72). -/
def launchBad (d : Nat) : Bool :=
  let n := ldNunits d * ldGang d
  let c0 := dw d 0 7 0
  dw d 0 63 49 != 0 || dw d 0x10 63 55 != 0 || dw d 0x20 63 13 != 0 || dw d 0x30 63 5 != 0 || dw d 0x38 63 60 != 0
    || dw d 0xE8 63 13 != 0 || dw d 0xF0 63 0 != 0 || dw d 0xF8 63 0 != 0
    || ldNunits d == 0 || 256 < ldNunits d || 4 < dw d 0 19 17 || ldCtx d == 3
    || dw d 0x08 2 0 != 0 || dw d 0x18 2 0 != 0 || 4096 < dw d 0x20 12 0
    || ldIlen d % 2 != 0 || ldIlen d < 2 || 0x40000 < ldIlen d || ldIbase d % 2 != 0 || 0x40000 < ldIbase d + ldIlen d
    || ldEntry d % 2 != 0 || ldEntry d < ldIbase d || ldIbase d + ldIlen d < ldEntry d + 2
    || (if ldFloat d then 32 < c0 + n else 256 < c0 + n)
    || c0 % ldGang d != 0
    || ldStash d &&& ldBanks d != ldStash d
    || (ldPersist d && 2 ^ 40 < tileCount (BitVec.ofNat 2048 d))
    || (groupsIn (ldStash d)).any (fun g => ldWindow d g % 0x8000 != 0 || ldWindow d g / 2 ^ 56 != 0
        || (groupsIn (ldStash d)).any (fun h => h != g && ldWindow d h == ldWindow d g))
    || dw d 0xE0 6 0 != 0 || 4096 < dw d 0xE8 12 0 || (dw d 0xE0 63 0 == 0 && dw d 0xE8 12 0 != 0)

/-- The presets of a list: doubleword offset, value and bit; none where one is refused. -/
def presetsOf (bs : List Byte) : Nat → Option (List (Nat × Word × Bool))
  | 0 => some []
  | n + 1 =>
    let x := ofBytes (bs.take 16)
    if bits x 2 1 ≠ 0 ∨ bits x 63 19 ≠ 0 ∨ spadSize ≤ 8 * bits x 18 3 then none
    else (presetsOf (bs.drop 16) n).map (fun ps => (8 * bits x 18 3, BitVec.ofNat 64 (bits x 127 64), x % 2 == 1) :: ps)

/-- The launch that a descriptor describes: descriptor, image and presets; none where it is bad (R278, R280). -/
def Arch.readLaunch (a : Arch) (r : XlRegs) (va : Nat) : Option (Nat × List Byte × List (Nat × Word × Bool)) × Arch :=
  if va % 256 ≠ 0 then (none, a)
  else
    let x := a.feRead r va 256
    match x.1 with
    | none => (none, x.2)
    | some bs =>
      let d := ofBytes bs
      if launchBad d then (none, x.2)
      else
        let y := x.2.feRead r (dw d 0x08 63 0) (ldIlen d)
        let z := y.2.feRead r (dw d 0x18 63 0) (16 * dw d 0x20 12 0)
        match y.1, z.1 with
        | some im, some ps => ((presetsOf ps (dw d 0x20 12 0)).map (fun ps => (d, im, ps)), z.2)
        | _, _ => (none, z.2)

/-- The parts of a range whose translation lies in a stack, each with its Brick and length (R284); a walk may have to wait (R22, R253),
and leaves its trace in the slices (R206). -/
def Arch.sharesOf (a : Arch) (r : XlRegs) (va : Nat) : Nat → Nat → List (Nat × Nat) × Arch
  | _, 0 => ([], a)
  | len, f + 1 =>
    if len = 0 then ([], a)
    else
      let n := min len (0x200000 - va % 0x200000)
      let x := a.feXlate r va true false
      let y := Arch.sharesOf x.2 r (va + n) (len - n) f
      ((match x.1.map a.place with | some (.stack b _) => [(b, n)] | _ => []) ++ y.1, y.2)

/-- The parts of the input ranges. -/
def Arch.inputShares (a : Arch) (r : XlRegs) (d : Nat) : List (Nat × Nat) × Arch :=
  (upTo 4).foldl (fun (q : List (Nat × Nat) × Arch) i =>
    let x := q.2.sharesOf r (dw d (0xA0 + 16 * i) 63 0) (dw d (0xA8 + 16 * i) 63 0) (dw d (0xA8 + 16 * i) 63 0 / 0x200000 + 2)
    (q.1 ++ x.1, x.2)) ([], a)

/-- The lowest Brick with the most bytes; `slice` where no input lies in a stack (R284). -/
def bestShare (ps : List (Nat × Nat)) (slice : Nat) : Nat :=
  let share (b : Nat) : Nat := ((ps.filter (fun p => p.1 == b)).map Prod.snd).sum
  let best := (upTo 8).foldl (fun (q : Nat × Nat) b => if q.2 < share b then (b, share b) else q) (0, 0)
  if best.2 = 0 then slice else best.1

/-- The Brick a floating launch is placed on (R284). -/
def Arch.placement (a : Arch) (r : XlRegs) (d slice : Nat) : Nat × Arch :=
  let q := a.inputShares r d
  (bestShare q.1 slice, q.2)

/-- The template registers of a launch (R273, R279). -/
def launchRegs (r : XlRegs) (d : Nat) : XlRegs :=
  if dw d 0xE0 63 0 = 0 then r
  else { r with tmplbase := BitVec.ofNat 49 (dw d 0xE0 55 7), tmplcnt := BitVec.ofNat 13 (dw d 0xE8 12 0) }

/-- A launch waits for release, under the number of its level or a new one. The 100 ms of R46 count from here, the processing of its
packet or the firing of its node (log entry 66). -/
def Arch.addLaunch (a : Arch) (id : Nat) (level queue : Option Nat) (r : XlRegs) (d base : Nat) (image : List Byte)
    (presets : List (Nat × Word × Bool)) (task : Option (Nat × Nat)) : Arch :=
  a.setLaunch id { level := level, queue := queue, desc := BitVec.ofNat 2048 d, base := base, regs := r, image := image
                   presets := presets, released := false, sent := none, due := none, tiles := 0, drained := false, task := task
                   waitingSince := a.clock, starved := false }

-- ## Release (R35 to R38)

/-- The cores of unit `u` of a launch. -/
def Launch.unitCores (v : Launch) (u : Nat) : List Nat :=
  let g := ldGang v.desc.toNat
  (upTo g).map (fun j => v.base + u * g + j)

/-- Nothing of a program, or of what a unit has left behind, is under way (R34; log entry 14). -/
def Arch.quiet (a : Arch) (c x : Nat) : Bool :=
  a.reqs.all (fun r => !(r.core == c && r.ctx == x))
    && (a.ctx c x).chans.all (fun h => h.2.state != .active && h.2.start.isNone)
    && (a.core c).engine.count x == 0
    && a.writeBacks.all (fun w => !(w.core == c && w.ctx == x))
    && !((a.core c).evq.any (fun e => e.ctx == x && a.ringRoom c x))

/-- A context no unit occupies (R35, R45). -/
def Arch.free (a : Arch) (c x : Nat) : Bool :=
  (a.ctx c x).status == .idle && (a.ctx c x).unit.isNone && !(a.brick (c / 32)).lost

/-- The instruction region of the program on a context. -/
def Arch.region (a : Arch) (c x : Nat) : Option (Nat × Nat) :=
  if (a.ctx c x).status = .idle then none
  else (((a.ctx c x).unit.bind a.unit).bind (fun e => a.launch e.launch)).map (fun v =>
    (ldIbase v.desc.toNat, ldIbase v.desc.toNat + ldIlen v.desc.toNat))

/-- The image of a launch may be loaded beside the other context's program (R35). -/
def Arch.imageFits (a : Arch) (c x : Nat) (v : Launch) : Bool :=
  match a.region c (1 - x) with
  | some (lo, hi) => hi ≤ ldIbase v.desc.toNat || ldIbase v.desc.toNat + ldIlen v.desc.toNat ≤ lo
  | none => true

def Arch.coresFree (a : Arch) (v : Launch) (cs : List Nat) (x : Nat) : Bool :=
  cs.all (fun c => a.free c x && a.imageFits c x v)

/-- The context a unit would take now, with the two of one name in order A, B. -/
def Arch.unitCtx (a : Arch) (v : Launch) (cs : List Nat) : Option Nat :=
  match ldCtx v.desc.toNat with
  | 0 => if a.coresFree v cs 0 then some 0 else none
  | 1 => if a.coresFree v cs 1 then some 1 else none
  | _ => if a.coresFree v cs 0 then some 0 else if a.coresFree v cs 1 then some 1 else none

/-- Cores and context of every unit, when all can be placed. -/
def Arch.placeUnits (a : Arch) (v : Launch) : Option (List (List Nat × Nat)) :=
  ((upTo (ldNunits v.desc.toNat)).map v.unitCores).foldr (fun cs q =>
    match a.unitCtx v cs, q with
    | some x, some us => some ((cs, x) :: us)
    | _, _ => none) (some [])

def takes (us : List (List Nat × Nat)) : List (Nat × Nat) := us.flatMap (fun e => e.1.map (fun c => (c, e.2)))

def Arch.launchPrio (a : Arch) (v : Launch) : Nat := (v.queue.map (fun q => queuePrio (a.queue q).desc)).getD 0

/-- The bank groups a save area that has been read records (R308). -/
def Arch.savedGroups (a : Arch) (c x : Nat) : Nat := Memory.read a.mem (a.saveArea c x + 0x88) 2 % 4096

/-- A swapped-out unit could take its contexts back now (R307). -/
def Arch.canRestore (a : Arch) (e : ExecUnit) : Bool :=
  e.swapped && e.fate.isNone
    && (match a.launch e.launch with
        | some v => a.coresFree v e.cores e.ctx && !((v.queue.map (fun q => (a.queue q).throttled)).getD false)
        | none => false)
    && e.cores.all (fun c => a.able c e.ctx (SMap.get 0 e.groups c) && !a.aFirst c e.ctx (SMap.get 0 e.groups c))

/-- A launch whose release message is on its way keeps its contexts, and its region of instruction memory (R35, R36). -/
def Launch.keeps (w : Launch) (v : Launch) (c x : Nat) : Bool :=
  let lo (v : Launch) : Nat := ldIbase v.desc.toNat
  let hi (v : Launch) : Nat := ldIbase v.desc.toNat + ldIlen v.desc.toNat
  !w.released && (match w.sent with
    | some s => s.2.any (fun e => e.1.contains c && (e.2 == x || !(hi v ≤ lo w || hi w ≤ lo v)))
    | none => false)

/-- Another launch keeps one of these contexts, or the memory the image of `v` needs there. -/
def Arch.promised (a : Arch) (l : Nat) (v : Launch) (us : List (Nat × Nat)) : Bool :=
  a.launches.any (fun e => match e.2 with
    | some w => e.1 != l && us.any (fun k => w.keeps v k.1 k.2)
    | none => false)

/-- Another launch or restore that could take one of these contexts now comes first (R294, R307). -/
def Arch.outranked (a : Arch) (l : Nat) (v : Launch) (us : List (Nat × Nat)) : Bool :=
  a.launches.any (fun e => match e.2 with
    | some w => e.1 != l && !w.released && (match a.placeUnits w with | some ws => (takes ws).any us.contains | none => false)
        && (a.launchPrio v < a.launchPrio w || (a.launchPrio v == a.launchPrio w &&
          (match v.queue, w.queue with
           | some q, some p => p < q || (p == q && e.1 < l)
           | some _, none => false
           | none, some _ => true
           | none, none => e.1 < l)))
    | none => false)
  || a.units.any (fun e => match e.2 with
    | some u => u.wanted && a.canRestore u && u.cores.any (fun c => us.contains (c, u.ctx))
        && (match a.launch u.launch with | some w => a.launchPrio v ≤ a.launchPrio w | none => false)
    | none => false)

/-- Write presets to a core's scratchpad (R37). -/
def Arch.preset (a : Arch) (c : Nat) (ps : List (Nat × Word × Bool)) : Arch :=
  ps.foldl (fun a e => let a := a.bankTurn (a.spadPa c e.1) 8; { a with mem := Memory.write a.mem (a.spadPa c e.1) 8 e.2.1.toNat }.setFull c e.1 e.2.2) a

/-- Grant the bank groups that are free, and put those of STASH in stash mode (R38, R174). -/
def Core.grant (k : Core) (x d : Nat) : Core :=
  (groupsIn (ldBanks d)).foldl (fun k g =>
    if SMap.get Owner.free k.owner g = .free then
      { k with owner := SMap.set Owner.free k.owner g (ownerOf x)
               window := if (ldStash d).testBit g then SMap.set none k.window g (some (ldWindow d g)) else k.window }
    else k) k

/-- A free group that an earlier program left in stash mode leaves it before it is granted, its DIRTY entries written back (R174, R176;
log entry 73). -/
def Arch.clearGroup (a : Arch) (c x g : Nat) : Arch :=
  if SMap.get Owner.free (a.core c).owner g = .free && (SMap.get none (a.core c).window g : Option Nat).isSome then
    a.dropWindow c (((SMap.get none (a.core c).prev g).map Prod.fst).getD x) g
  else a

def Arch.clearGrant (a : Arch) (c x d : Nat) : Arch := (groupsIn (ldBanks d)).foldl (fun a g => a.clearGroup c x g) a

/-- A context as its unit's first bundle sees it (R36, R67, R137, R199, R222, R304). -/
def startContext (v : Launch) (l u j : Nat) : Context :=
  let d := v.desc.toNat
  { Context.reset with
    status := .running
    unit := some u
    pc := ldEntry d
    gpos := BitVec.ofNat 4 j
    gsize := BitVec.ofNat 3 (dw d 0 19 17)
    detm := dw d 0 22 22 == 1
    ring := { RingRegs.reset with evbase := BitVec.ofNat 64 (dw d 0x28 63 4 * 16), evsize := BitVec.ofNat 5 (dw d 0x30 4 0) }
    ptroot := v.regs.ptroot
    asid := v.regs.asid
    tmplbase := v.regs.tmplbase
    tmplcnt := v.regs.tmplcnt
    tile := if ldPersist d then some l else none }

/-- The image and the presets of a member are in place on its core (R35, R37). -/
def Arch.loadMember (a : Arch) (v : Launch) (c : Nat) : Arch :=
  (a.preset c v.presets).mapCore c (fun k => { k with imem := Memory.writeBytes k.imem (ldIbase v.desc.toNat) v.image })

/-- Member `j` of unit `u` starts on its core. -/
def Arch.startMember (a : Arch) (v : Launch) (l u x : Nat) (e : Nat × Nat) : Arch :=
  ((a.clearGrant e.1 x v.desc.toNat).mapCore e.1 (fun k => { (k.grant x v.desc.toNat) with tmplCache := [] })).setCtx e.1 x (startContext v l u e.2)

/-- A unit is released. -/
def Arch.startUnit (a : Arch) (v : Launch) (l depth : Nat) (e : List Nat × Nat) : Arch :=
  let u := a.nextId
  e.1.zipIdx.foldl (fun a m => a.startMember v l u e.2 m)
    ({ a with nextId := u + 1 }.setUnit u ⟨l, e.1, e.2, none, 0, depth, false, [], false, []⟩)

/-- How deep a launch's units are: as deep as the launch. The tasks of an operator that OPGO opened have no level, and the spec gives
them no depth: DESIGN CHOICE, they count as depth 0, so that what they publish begins at depth 1 (R45; log entry 84). -/
def Arch.launchDepth (a : Arch) (v : Launch) : Nat := ((v.level.bind a.level).map Level.depth).getD 0

/-- Launches of a throttled queue wait, and with no firmware all do but the tasks of coded operators already started (R295, R297). -/
def Arch.mayRelease (a : Arch) (v : Launch) : Bool :=
  (a.firmware || (v.task.isSome && !a.power.tripped)) && !((v.queue.map (fun q => (a.queue q).throttled)).getD false)

/-- A mortar port sleeps on the way from the Quoin die to one of these cores (R22); a lost die is not waited for. -/
def Arch.deaf (a : Arch) (cs : List Nat) : Bool := cs.any (fun c => a.routeSleeps 8 (c / 32) && !(a.brick (c / 32)).lost)

/-- A step of the front end reaches these cores, or waits for a port on the way (R22; log entry 68). -/
def Arch.feTell (a : Arch) (cs : List Nat) : Arch := if a.deaf cs then a.feWait else a

/-- The release message is sent once every context is idle, every image loaded and every preset applied (R35, R36), and no port on its
way sleeps (R22). -/
def Arch.sendRelease (a : Arch) (l : Nat) (v : Launch) : Arch :=
  if !a.mayRelease v then a
  else
  match a.placeUnits v with
  | none => a
  | some us =>
    if a.outranked l v (takes us) || a.promised l v (takes us) || a.deaf ((takes us).map Prod.fst) then a
    else (takes us).foldl (fun a e => a.loadMember v e.1) (a.setLaunch l { v with sent := some (a.clock, us) })

/-- Every unit of a launch starts at once (R36); where a context has been taken away meanwhile, the release is prepared afresh. -/
def Arch.startUnits (a : Arch) (l : Nat) (v : Launch) (us : List (List Nat × Nat)) : Arch :=
  if a.mayRelease v && us.all (fun e => a.coresFree v e.1 e.2) then
    let a := us.foldl (fun a e => a.startUnit v l (a.launchDepth v) e) (a.setLaunch l { v with released := true })
    let a := a.wakePorts
    match v.level with
    | some k => a.levelStarts k nestMax
    | none => a
  else a.setLaunch l { v with sent := none, due := none }

/-- The release of a launch (R35, R36): its message; then its time T, at least 64 fabric cycles later, on a fabric cycle that is a
multiple of 4 (log entry 69); and at T every unit at once. -/
def Arch.release (a : Arch) (l : Nat) : Arch :=
  match a.launch l with
  | none => a
  | some v =>
    if v.released then a
    else
      match v.sent, v.due with
      | none, _ => a.sendRelease l v
      | some s, none => a.setLaunch l { v with due := some (roundUp (max (s.1 + 96) (a.clock + 1)) 6) }
      | some s, some T => if T ≤ a.clock then a.startUnits l v s.2 else a

def execLaunchRelease (l : Nat) (s : State) : Out := s.frontEvent (fun a => a.release l)

-- ## Starvation (R46)

/-- 100 ms in thirds of a nanosecond. -/
def starveTime : Nat := 300000000

/-- The level that a launch's level belongs to and that is a counted child of a unit: itself, or the graph around it. -/
def Arch.childLevel (a : Arch) (l : Nat) : Nat → Option (Nat × Level)
  | 0 => none
  | f + 1 =>
    match a.level l with
    | none => none
    | some w => if w.unit.isSome then some (l, w) else w.parent.bind (fun p => Arch.childLevel a p f)

/-- Another launch of the same child has been reported. -/
def Arch.starvedBefore (a : Arch) (k : Nat) : Bool :=
  a.launches.any (fun e => match e.2 with
    | some v => v.starved && ((v.level.bind (fun l => a.childLevel l nestMax)).map Prod.fst) == some k
    | none => false)

/-- Nothing of a child has been released (R46): reported once for the child, a launch or a graph. -/
def Arch.starve (a : Arch) (l : Nat) : Arch :=
  match a.launch l, (a.launch l).bind (fun v => v.level.bind (fun k => a.childLevel k nestMax)) with
  | some v, some (k, w) =>
    if w.state == .waiting && !v.released && !a.starvedBefore k && v.waitingSince + starveTime ≤ a.clock then
      (a.setLaunch l { v with starved := true }).jobEvent w.queue evStarve w.index a.now
    else a
  | _, _ => a

def execLaunchStarvation (l : Nat) (s : State) : Out := s.frontEvent (fun a => a.starve l)

-- ## Stopping and ending units (R34, R48)

/-- A context's queued commands are discarded and its running call stops (R48); a call that is stopped so does not count in DONE
(log entry 67). -/
def Engine.cancel (e : Engine) (x : Nat) : Engine :=
  { e with queue := e.queue.filter (fun q => q.ctx != x)
           loading := e.loading && (e.queue.head?.map Cmd.ctx) != some x
           run := e.run.filter (fun r => r.cmd.ctx != x) }

/-- The program of one member stops where it stands. A start of a copy that has not been armed is discarded, with no ticket and no event:
R48 and R240 speak of copies only (log entry 26). -/
def Arch.stopMember (a : Arch) (c x : Nat) (fate : UnitEnd) : Arch :=
  let a := a.feTell [c]
  let a := (upTo 16).foldl (fun a n => (a.stopChan c x n true).mapChan c x n (fun h => { h with start := none })) a
  let a := (a.mapEngine c (fun e => e.cancel x)).dropMiss c (.engine x)
  ((a.withdraw c x).dropMiss c (.ctx x)).endProgram c x fate

/-- A unit that has not ended stops (R48). -/
def Arch.stopUnit (a : Arch) (u : Nat) (fate : UnitEnd) : Arch :=
  match a.unit u with
  | none => a
  | some e =>
    if e.fate.isSome then
      -- a program that has halted: its commands are discarded, its copies run to their ends (R48 to R50; log entry 53)
      e.cores.foldl (fun a c =>
        if (a.ctx c e.ctx).unit = some u then (a.mapEngine c (fun g => g.cancel e.ctx)).dropMiss c (.engine e.ctx) else a) a
    else if e.swapped then
      (a.dropReqs (fun r => r.ctx == ghostOf u)).setUnit u
        { e with fate := some fate, swapped := false, kept := [], wanted := false, ctx := ghostOf u }
    else e.cores.foldl (fun a c => a.stopMember c e.ctx fate) a

/-- Everything the unit issued has been performed, its children and doorbells are done, and its report is not held by a port (R22, R34,
R45, R292). -/
def Arch.unitQuiet (a : Arch) (u : Nat) (e : ExecUnit) : Bool :=
  e.cores.all (fun c => (a.brick (c / 32)).lost || (a.quiet c e.ctx && !a.routeSleeps (c / 32) 8)) && e.children == 0
    && a.doorbells.all (fun b => b.unit != some u)

/-- A miss of a context, its engine commands, copies or event ring. -/
def Agent.isOf (g : Agent) (x : Nat) : Bool :=
  match g with | .ctx y | .engine y | .chan y _ | .drain y => y == x

/-- A unit is counted as ended (R34): its contexts forget it, and its launch counts it. -/
def Arch.endUnit (a : Arch) (u : Nat) (e : ExecUnit) (fate : UnitEnd) : Arch :=
  let a := e.cores.foldl (fun a c =>
    if (a.ctx c e.ctx).unit = some u then
      (a.setCtx c e.ctx Context.reset).mapCore c (fun k =>
        { k with evq := k.evq.filter (fun v => v.ctx != e.ctx), misses := k.misses.filter (fun m => !m.agent.isOf e.ctx) })
    else a) a
  let a := { a with units := SMap.set none a.units u none }
  match a.launch e.launch with
  | none => a
  | some v =>
    if v.task.isSome then { a with launches := SMap.set none a.launches e.launch none }
    else
      match v.level with
      | some l => a.countEnd l (fate == .complete)
      | none => a

end Sys2Proof.Machine
end

