-- ==== Sys2Proof/Machine/Sha.lean ====
section
/-! DEFINITION. SHA-512, which 15_links_power_trust names (R329, R330). -/

namespace Sys2Proof.Machine

/-- Trial division. -/
def hasDivisor (n d : Nat) : Nat → Bool
  | 0 => false
  | f + 1 => d * d ≤ n && (n % d == 0 || hasDivisor n (d + 1) f)

/-- The first `k` primes from `n` on. -/
def primesFrom (n : Nat) : Nat → Nat → List Nat
  | _, 0 => []
  | 0, _ => []
  | k + 1, f + 1 => if hasDivisor n 2 n then primesFrom (n + 1) (k + 1) f else n :: primesFrom (n + 1) k f

/-- The greatest `x` with `x ^ p ≤ n`, found bit by bit. -/
def rootOf (p n : Nat) : Nat → Nat → Nat
  | 0, x => x
  | b + 1, x => rootOf p n b (if (x + 2 ^ b) ^ p ≤ n then x + 2 ^ b else x)

/-- The first 64 bits of the fractional part of the `p`-th root of `n`. -/
def rootFraction (p n : Nat) : Nat := rootOf p (n * 2 ^ (64 * p)) 80 0 % 2 ^ 64

/-- The constants: 80 from cube roots of primes, 8 initial words from square roots. -/
def shaK : List Word := (primesFrom 2 80 500).map (fun n => BitVec.ofNat 64 (rootFraction 3 n))
def shaInit : List Word := (primesFrom 2 8 500).map (fun n => BitVec.ofNat 64 (rootFraction 2 n))

def ror (x : Word) (n : Nat) : Word := x.rotateRight n

/-- The next word of the message schedule, from the last 16. -/
def shaNext (w : List Word) : Word :=
  let x := w.getD 14 0
  let y := w.getD 1 0
  (ror x 19 ^^^ ror x 61 ^^^ (x >>> 6)) + w.getD 9 0 + (ror y 1 ^^^ ror y 8 ^^^ (y >>> 7)) + w.getD 0 0

/-- One round on the working words. -/
def shaRound (h : List Word) (k w : Word) : List Word :=
  let a := h.getD 0 0
  let e := h.getD 4 0
  let t := h.getD 7 0 + (ror e 14 ^^^ ror e 18 ^^^ ror e 41) + ((e &&& h.getD 5 0) ^^^ (~~~e &&& h.getD 6 0)) + k + w
  let u := (ror a 28 ^^^ ror a 34 ^^^ ror a 39) + ((a &&& h.getD 1 0) ^^^ (a &&& h.getD 2 0) ^^^ (h.getD 1 0 &&& h.getD 2 0))
  [t + u, a, h.getD 1 0, h.getD 2 0, h.getD 3 0 + t, e, h.getD 5 0, h.getD 6 0]

/-- The 80 rounds; `w` holds the next 16 words of the schedule. -/
def shaRounds (h w : List Word) : List Word → List Word
  | [] => h
  | k :: ks => shaRounds (shaRound h k (w.getD 0 0)) (w.drop 1 ++ [shaNext w]) ks

/-- A big-endian number. -/
def bigEndian (bs : List Byte) : Nat := bs.foldl (fun n b => n * 256 + b.toNat) 0

/-- The 16 words of a block. -/
def shaWords (bs : List Byte) : Nat → List Word
  | 0 => []
  | n + 1 => BitVec.ofNat 64 (bigEndian (bs.take 8)) :: shaWords (bs.drop 8) n

/-- One block. -/
def shaBlock (h : List Word) (bs : List Byte) : List Word :=
  List.zipWith (· + ·) h (shaRounds h (shaWords bs 16) shaK)

def shaBlocks (h : List Word) (bs : List Byte) : Nat → List Word
  | 0 => h
  | n + 1 => shaBlocks (shaBlock h (bs.take 128)) (bs.drop 128) n

/-- The message with its padding and length. -/
def shaPad (bs : List Byte) : List Byte :=
  let z := (240 - (bs.length + 1) % 128) % 128
  bs ++ [0x80] ++ List.replicate z 0 ++ (toBytes 16 (8 * bs.length)).reverse

/-- The 64 bytes of a digest, in order. -/
def sha512Bytes (bs : List Byte) : List Byte :=
  let m := shaPad bs
  (shaBlocks shaInit m (m.length / 128)).flatMap (fun w => (toBytes 8 w.toNat).reverse)

/-- The digest as the registers hold it: byte i at bits [8i + 7:8i]. -/
def sha512 (bs : List Byte) : BitVec 512 := BitVec.ofNat 512 (ofBytes (sha512Bytes bs))

end Sys2Proof.Machine
end

