-- ==== Sys2Proof/Machine/Translation.lean ====
section
/-! DEFINITION. The steps of the translation agents (09 R198 to R205). -/

namespace Sys2Proof.Machine

def execTranslationMiss (c : Nat) (s : State) : Out := s.event (fun a => a.missStep c)
def execPageWalk (b : Nat) (s : State) : Out := s.event (fun a => a.walkStep b)
def execShadowService (c : Nat) (s : State) : Out := s.event (fun a => a.serviceStart c)

/-- A service that has run 100 microseconds and has not reached its XRET declines (R203). -/
def execShadowServiceTimeout (c : Nat) (s : State) : Out :=
  s.event (fun a =>
    match (a.core c).inService with
    | some m =>
      if m.since + 300000 ≤ a.clock ∧ ((a.ctx c 2).wait.map Wait.kind) ≠ some .xret then a.declineService c else a
    | none => a)

/-- The three scopes of XLINVA (R205). -/
def Arch.xlinvVa (a : Arch) (va : Nat) : Arch :=
  a.invalidate (fun l => l.asid == a.xlinv.asid.toNat && l.vpn == va / 2 ^ (if l.big then 30 else 21))
def Arch.xlinvAsid (a : Arch) : Arch := a.invalidate (fun l => l.asid == a.xlinv.asid.toNat)
def Arch.xlinvAll (a : Arch) : Arch := a.invalidate (fun _ => true)

def execXlinvVa (va : Nat) (s : State) : Out := s.event (fun a => a.xlinvVa va)
def execXlinvAsid (s : State) : Out := s.event Arch.xlinvAsid
def execXlinvAll (s : State) : Out := s.event Arch.xlinvAll
def execXlinvComplete (s : State) : Out := s.event Arch.invalidated

end Sys2Proof.Machine
end

