-- ==== Sys2Proof/Machine/Save.lean ====
section
/-! DEFINITION. Save areas (14 R308, R426, R427), swaps and restores (R305 to R307), the end of a fatal trap (R309), and the
debugger's halts, steps and breakpoints (R311, R312). -/

namespace Sys2Proof.Machine

-- ## Records of the shadow latches (R308, R426)

def RFile.code : RFile → Nat
  | .g => 0 | .p => 1 | .k => 2 | .v => 3 | .m => 4 | .a => 5

def RFile.ofCode (n : Nat) : RFile :=
  match n with
  | 0 => .g
  | 1 => .p
  | 2 => .k
  | 3 => .v
  | 4 => .m
  | _ => .a

/-- Length of the payload of a record. -/
def RFile.payload : RFile → Nat
  | .g | .p | .m => 8
  | .k => 256
  | .v => 640
  | .a => 40

/-- One bit for each nibble of a v mask, and back. -/
def nibbleMask (m : Nat) : Nat := ofLanes 1 ((toLanes 4 1024 m).map (fun x => if x = 0 then 0 else 1))
def nibbleBits (m : Nat) : Nat := ofLanes 4 ((toLanes 1 1024 m).map (fun x => 15 * x))

/-- A record: its length and bytes, for a result due in `d`. -/
def Pend.record (p : Pend) (d : Nat) : Nat × Nat :=
  let head := p.file.code + 2 ^ 4 * p.reg + 2 ^ 16 * (d % 2 ^ 16)
  let body := match p.file with
    | .g | .m => p.val.toNat % 2 ^ 64
    | .p => p.val.toNat % 2
    | .k => p.val.toNat % 2 ^ 1024 + 2 ^ 1024 * (p.mask.toNat % 2 ^ 1024)
    | .v => (if p.expand then expandBlock p.val.toNat else p.val.toNat) + 2 ^ 4096 * nibbleMask p.mask.toNat
    | .a => p.val.toNat % 2 ^ 256
  (16 + p.file.payload, head + 2 ^ 128 * body)

/-- The result a record describes, `d` from the time `now`; `old` is the result as the context held it, whose identity
and missing parts it keeps. What gives an a register a walk position only goes on doing so (R375). -/
def recordPend (x now ord : Nat) (old : Option Pend) : Pend :=
  let f := RFile.ofCode (bits x 3 0)
  let body := x / 2 ^ 128
  let q := old.getD ⟨f, 0, full4096, 0, 0, 0, ord, 0, 0, false⟩
  { q with
    file := f
    reg := bits x 11 4
    mask := match f with
      | .k => BitVec.ofNat 4096 (bits body 2047 1024)
      | .v => BitVec.ofNat 4096 (nibbleBits (bits body 5119 4096))
      | .a => if q.file = .a ∧ q.mask = 0 then 0 else full4096
      | _ => full4096
    val := match f with
      | .k => BitVec.ofNat 4096 (bits body 1023 0)
      | .v => BitVec.ofNat 4096 (bits body 4095 0)
      | .a => BitVec.ofNat 4096 (bits body 255 0)
      | _ => BitVec.ofNat 4096 (bits body 63 0)
    due := now + bits x 31 16
    expand := q.parts != 0 && q.expand }

/-- Records one after another from an offset: offset, length, value. -/
def recordList (off : Nat) : List (Pend × Nat) → List (Nat × Nat × Nat)
  | [] => []
  | e :: es => let r := e.1.record e.2; (off, r.1, r.2) :: recordList (off + r.1) es

/-- Read `n` records at an address. -/
def readRecords (m : Memory) (pa now : Nat) (old : List Pend) : Nat → Nat → List Pend
  | _, 0 => []
  | i, n + 1 =>
    let f := RFile.ofCode (Memory.read m pa 1 % 16)
    let len := 16 + f.payload
    recordPend (Memory.read m pa len) now i old[i]? :: readRecords m (pa + len) now old (i + 1) n

/-- Results due after the freeze, with the delay each still has. -/
def Context.owedResults (t : Context) : List (Pend × Nat) := t.inflight.map (fun p => (p, p.due - t.time))
def Context.latchedResults (t : Context) : List (Pend × Nat) := t.latched.map (fun p => (p, p.due))

/-- The program's records, and the handler's. -/
def Context.programRecords (t : Context) : List (Pend × Nat) := if t.trap.tmode then t.latchedResults else t.owedResults
def Context.handlerRecords (t : Context) : List (Pend × Nat) := if t.trap.tmode then t.owedResults else []

-- ## The save area (R308)

def areaRecords : Nat := 0x24000
def areaHandler : Nat := 0x100000

/-- Every piece of a register file: offset, length, value. -/
def fileImage (off len n : Nat) (f : Nat → Nat) : List (Nat × Nat × Nat) := (upTo n).map (fun i => (off + len * i, len, f i))

/-- Kind, SAT, address and operand of the wait record. -/
def Arch.waitRecord (a : Arch) (c x : Nat) : Nat × Nat × Nat :=
  let t := a.ctx c x
  let k (w : WaitKind) : Nat := match w with
    | .ste => 2 | .barwait => 3 | .tlwait => 4 | .waitev => 5 | .bankacq => 6 | .drain => 7 | .opgo => 10 | _ => 0
  match t.wait with
  | some w => (k w.kind + at_ 4 w.sat, if w.kind = .drain then 0 else w.addr, w.operand)
  | none =>
    match t.hold with
    | some (.watermark va len) => (8, va, len)
    | some .landingBuffer => (9, 0, 0)
    | some .lateData =>
      (match a.reqs.find? (fun r => r.core == c && r.ctx == x && r.op == .ldf) with
       | some r => (1, r.va, 0)
       | none => (0, 0, 0))
    | _ => (0, 0, 0)

/-- Groups of a context in stash mode. -/
def Core.stashOf (k : Core) (x : Nat) : List Nat :=
  (k.owned x).filter (fun g => ((SMap.get none k.window g) : Option Nat).isSome)

def maskOf (gs : List Nat) : Nat := (gs.map (fun g => 2 ^ g)).sum

/-- The header. -/
def Arch.saveHeader (a : Arch) (c x stash : Nat) : List (Nat × Nat × Nat) :=
  let t := a.ctx c x
  let w := a.waitRecord c x
  [t.pc + 2 ^ 18 * t.owes (a.repAt c x) + 2 ^ 23 * t.bubbles, t.bt % 2 ^ 64, t.lc.toNat, t.ec.toNat, t.rotbase, 4 * t.mpc.toNat,
   t.detmReg, t.trap.tvec.toNat, t.trap.tcause.toNat, t.trap.tbundle.toNat, t.trap.tinfo.toNat, t.trap.tstate,
   t.ring.evbase.toNat, t.ring.evsize.toNat, t.ring.evhead.toNat, t.ring.evtail.toNat, t.ring.evlost,
   maskOf ((a.core c).owned x) + 2 ^ 12 * stash, w.1, w.2.1, w.2.2, t.programRecords.length,
   ((a.core c).evq.filter (fun e => e.ctx == x)).length, t.handlerRecords.length].zipIdx.map (fun e => (8 * e.2, 8, e.1))
  ++ [(0xC0, 64, 0)]

/-- The source elements a copy has taken: as far as its destination has gone, or, for EXPAND and COURSE, the bytes of the record stream
or of each block (R240, R308). -/
def Chan.srcIndex (h : Chan) : Nat :=
  let t := h.tmpl.toNat
  match tmplMode t with
  | 1 => h.si
  | 3 => h.di
  | 4 => 4224 * (h.chunk % max 1 (patBytes (tmplSrc t) / 4224)) / 2 ^ patEsz (tmplSrc t)
  | _ => h.di * 2 ^ patEsz (tmplDst t) / 2 ^ patEsz (tmplSrc t)

/-- The twelve words a channel saves. -/
def Chan.saved (h : Chan) : List Nat :=
  [(h.word 1).toNat, (h.word 2).toNat, (h.word 3).toNat, (h.word 4).toNat, (h.word 5).toNat, h.wmbase.toNat, h.wmlim.toNat,
   h.wm.toNat, h.wmstat, h.srcIndex, h.di, h.chunk]

/-- Bank groups: bytes, then full/empty bits. -/
def Arch.saveGroups (a : Arch) (c x : Nat) : List (Nat × Nat × Nat) :=
  ((a.core c).owned x).flatMap (fun g =>
    [(0x80000 + 0x8000 * g, 0x8000, Memory.read a.mem (a.spadPa c (0x8000 * g)) 0x8000),
     (0xE0000 + 512 * g, 512,
      ofLanes 1 ((upTo 4096).map (fun i => if a.isFull c (0x8000 * g + 8 * i) then 1 else 0)))])

/-- Everything the save area of a context holds. -/
def Arch.saveImage (a : Arch) (c x stash : Nat) : List (Nat × Nat × Nat) :=
  let t := a.ctx c x
  a.saveHeader c x stash
  ++ fileImage 0x100 8 64 (fun i => (SMap.get 0 t.g i).toNat)
  ++ fileImage 0x300 8 8 (fun i => (t.readM i).toNat)
  ++ [(0x340, 8, ((upTo 16).map (fun i => at_ i (i == 0 || SMap.get false t.p i))).sum)]
  ++ fileImage 0x400 128 16 (fun i => (t.readK i).toNat)
  ++ fileImage 0xC00 40 16 (fun i => (t.readA i).toNat + 2 ^ 256 * (t.readPos i % 2 ^ 64))
  ++ fileImage 0xF00 8 16 (fun i => (t.readTl i).toNat)
  ++ ((a.core c).evq.filter (fun e => e.ctx == x)).zipIdx.map (fun e => (0x1000 + 16 * e.2, 16, e.1.word))
  ++ (upTo 16).flatMap (fun n => (t.chan n).saved.zipIdx.map (fun e => (0x2000 + 128 * n + 8 * e.2, 8, e.1)))
  ++ fileImage 0x4000 512 256 (fun i => (SMap.get (0 : VReg) t.v i).toNat)
  ++ recordList areaRecords t.programRecords
  ++ a.saveGroups c x
  ++ recordList areaHandler t.handlerRecords

/-- Pieces that follow on one another are one: offset, length, value. -/
def joinPieces : List (Nat × Nat × Nat) → List (Nat × Nat × Nat)
  | [] => []
  | e :: es =>
    match joinPieces es with
    | f :: fs =>
      if e.1 + e.2.1 = f.1 then (e.1, e.2.1 + f.2.1, e.2.2 % 2 ^ (8 * e.2.1) + 2 ^ (8 * e.2.1) * f.2.2) :: fs else e :: f :: fs
    | [] => [e]

/-- The writes of a save: whole lines as far as they go (R181), each with its physical address, length and value. -/
def Arch.saveWrites (a : Arch) (c x stash : Nat) : List (Nat × Nat × Nat) :=
  let pa := a.saveArea c x
  match a.place pa with
  | .stack _ _ => (joinPieces (a.saveImage c x stash)).flatMap (fun e =>
      (cutFrom true (pa + e.1) e.2.1 0 (e.2.1 + 1)).map (fun w => (w.1, w.2.1, e.2.2 / 2 ^ (8 * w.2.2) % 2 ^ (8 * w.2.1))))
  | _ => []

/-- Write the save area of a context, at device scope; what is poisoned or lost takes no write of a part of it. -/
def Arch.saveCtx (a : Arch) (c x stash : Nat) : Arch :=
  (a.saveWrites c x stash).foldl (fun a e => if a.writable e.1 e.2.1 then a.homeWrite e.1 e.2.1 e.2.2 else a) a

/-- A write of the save waits for a port (R22). -/
def Arch.saveHeld (a : Arch) (c x stash : Nat) : Option Arch :=
  (a.saveWrites c x stash).findSome? (fun e => a.reachHeld (c / 32) e.1 e.2.1 true)

/-- An error in the save area: the first write of the save that cannot be made (R310). -/
def Arch.saveError (a : Arch) (c x stash : Nat) : Option Nat :=
  ((a.saveWrites c x stash).find? (fun e => !a.writable e.1 e.2.1)).map Prod.fst

/-- The parts of a save area that a reload reads beside its latch records: offset and length; `groups` adds those of the bank
groups. -/
def Arch.areaSpans (a : Arch) (pa groups : Nat) : List (Nat × Nat) :=
  let w (o : Nat) : Nat := Memory.read a.mem (pa + o) 8
  [(0, 0x348), (0x400, 0xA80), (0xF00, 0x80), (0x2000, 0x800), (0x4000, 0x20000)]
  ++ (if w 0xB0 = 0 then [] else [(0x1000, 16 * w 0xB0)])
  ++ (groupsIn groups).flatMap (fun g => [(0x80000 + 0x8000 * g, 0x8000), (0xE0000 + 512 * g, 512)])

/-- A register file as its image gives it. -/
def loadFile {α : Type} [DecidableEq α] (d : α) (n : Nat) (f : Nat → α) : SMap α :=
  (upTo n).foldl (fun m i => SMap.set d m i (f i)) []

/-- A channel that has gone on while its context was halted: it was ACTIVE or a start was under way, and the halt did not pause it
(R312). -/
def Chan.wentOn (h : Chan) (stat : Nat) : Bool :=
  (stat % 2 ^ 8 == 1 && h.stop.isNone) || h.start.isSome || bits stat 63 32 != h.ticket.toNat

/-- A channel as its save area gives it, reserved bits apart (R8); `h` as the module held it. -/
def loadChan (m : Memory) (pa : Nat) (h : Chan) : Chan :=
  let w (i : Nat) : Nat := Memory.read m (pa + 8 * i) 8
  if h.wentOn (w 8) then h
  else
  { h with
    src := BitVec.ofNat 64 (w 0), dst := BitVec.ofNat 64 (w 1), ctl := BitVec.ofNat 64 (w 2) &&& 0xFFFFFFFF00FFFFF8, bar := BitVec.ofNat 64 (w 3 / 8 * 8)
    badcnt := BitVec.ofNat 32 (w 4), wmbase := BitVec.ofNat 64 (w 5), wmlim := BitVec.ofNat 64 (w 6), wm := BitVec.ofNat 64 (w 7)
    code := BitVec.ofNat 8 (bits (w 8) 15 8), bad := bits (w 8) 16 16 == 1, ticket := BitVec.ofNat 32 (bits (w 8) 63 32)
    si := if tmplMode h.tmpl.toNat = 1 then w 9 else h.si, di := w 10, chunk := w 11, stop := none }

/-- The trap registers of a header; reserved bits stay 0 (R8, R304). -/
def loadTrap (m : Memory) (pa : Nat) (r : TrapRegs) : TrapRegs :=
  let w (o : Nat) : Nat := Memory.read m (pa + o) 8
  { r with
    tvec := BitVec.ofNat 64 (w 0x38 % 2 ^ 18), tcause := BitVec.ofNat 64 (w 0x40) &&& 0xFFFF07FF, tbundle := BitVec.ofNat 64 (w 0x48) &&& 0x3FFFE
    tinfo := BitVec.ofNat 64 (w 0x50), tmode := w 0x58 % 2 == 1, repleft := min (bits (w 0x58) 5 1) 16
    swapcnt := BitVec.ofNat 16 (bits (w 0x58) 31 16)
    hbt := r.hbt / 2 ^ 32 * 2 ^ 32 + bits (w 0x58) 63 32 }

/-- The ring registers; EVHEAD and EVLOST stand as they are where entries have drained or been lost since the save, as a context that
is only halted goes on posting and draining (R135, R312; log entry 26). -/
def loadRing (m : Memory) (pa : Nat) (r : RingRegs) : RingRegs :=
  let w (o : Nat) : Nat := Memory.read m (pa + o) 8
  let r := { r with
    evbase := BitVec.ofNat 64 (w 0x60 / 16 * 16), evsize := BitVec.ofNat 5 (w 0x68), evtail := BitVec.ofNat 32 (w 0x78) }
  if r.moved then r
  else
    { r with evhead := BitVec.ofNat 32 (w 0x70), lost := w 0x80 % 2 == 1, dfault := bits (w 0x80) 1 1 == 1
             count := BitVec.ofNat 32 (bits (w 0x80) 47 16) }

/-- The registers of a context from its save area; `t` holds what the area does not (R307, R312). -/
def loadContext (m : Memory) (pa : Nat) (t : Context) : Context :=
  let w (o : Nat) : Nat := Memory.read m (pa + o) 8
  let trap := loadTrap m pa t.trap
  let bt := t.bt / 2 ^ 64 * 2 ^ 64 + w 8
  let time := if trap.tmode then trap.hbt else bt
  let prog := readRecords m (pa + areaRecords) (if trap.tmode then 0 else time) (t.programRecords.map Prod.fst) 0 (w 0xA8)
  let hand := readRecords m (pa + areaHandler) time (t.handlerRecords.map Prod.fst) 0 (w 0xB8)
  { t with
    pc := w 0 % 2 ^ 18 / 2 * 2
    owed := some (max 1 (min 16 (bits (w 0) 22 18)))
    bubbles := bits (w 0) 24 23
    bt := bt
    lc := BitVec.ofNat 64 (w 0x10), ec := BitVec.ofNat 64 (w 0x18)
    rg := BitVec.ofNat 4 (w 0x20), rp := BitVec.ofNat 3 (bits (w 0x20) 10 8), rv := BitVec.ofNat 8 (bits (w 0x20) 23 16 % 192)
    mpc := BitVec.ofNat 16 (w 0x28 / 4)
    detm := w 0x30 % 2 == 1, holds := BitVec.ofNat 32 (bits (w 0x30) 63 32)
    trap := trap
    ring := loadRing m pa t.ring
    g := loadFile 0 64 (fun i => BitVec.ofNat 64 (if i = 0 then 0 else w (0x100 + 8 * i)))
    m := loadFile 0 8 (fun i => BitVec.ofNat 64 (w (0x300 + 8 * i)))
    p := loadFile false 16 (fun i => i != 0 && (w 0x340).testBit i)
    k := loadFile 0 16 (fun i => if i = 0 then 0 else BitVec.ofNat 1024 (Memory.read m (pa + 0x400 + 128 * i) 128))
    a := loadFile 0 16 (fun i => BitVec.ofNat 256 (Memory.read m (pa + 0xC00 + 40 * i) 32))
    apos := loadFile 0 16 (fun i => Memory.read m (pa + 0xC20 + 40 * i) 8)
    tl := loadFile 0 16 (fun i =>
      if (t.chan i).wentOn (w (0x2000 + 128 * i + 64)) then t.readTl i else BitVec.ofNat 64 (w (0xF00 + 8 * i)))
    v := loadFile 0 256 (fun i => BitVec.ofNat 4096 (Memory.read m (pa + 0x4000 + 512 * i) 512))
    chans := loadFile Chan.reset 16 (fun n => loadChan m (pa + 0x2000 + 128 * n) (t.chan n))
    inflight := if trap.tmode then hand else prog
    latched := if trap.tmode then prog else [] }

/-- What reading a save area finds: it has been read, so that memory holds its contents, it waits for a port or for the window rule,
or it holds an error (R22, R253, R310). -/
inductive AreaR where
  | ok (a : Arch)
  | wait (a : Arch)
  | error (c pa : Nat)
deriving DecidableEq, Repr

def AreaR.bind (q : AreaR) (f : Arch → AreaR) : AreaR :=
  match q with
  | .ok a => f a
  | .wait a => .wait a
  | .error c pa => .error c pa

/-- Read parts of a save area through its slice. -/
def Arch.readSpans (a : Arch) (c pa : Nat) : List (Nat × Nat) → AreaR
  | [] => .ok a
  | e :: es =>
    match a.reachHeld (c / 32) (pa + e.1) e.2 false with
    | some a => .wait a
    | none =>
      match (linesOf (pa + e.1) e.2).find? (fun l => a.spoiled l) with
      | some l => .error c (l * 128)
      | none => Arch.readSpans (a.homeRead (pa + e.1) e.2).2 c pa es

/-- Read `n` latch records from an offset on, each from its head, which gives its length. -/
def Arch.readHeads (a : Arch) (c pa off : Nat) : Nat → AreaR
  | 0 => .ok a
  | n + 1 =>
    (a.readSpans c pa [(off, 16)]).bind (fun a =>
      let len := (RFile.ofCode (Memory.read a.mem (pa + off) 1 % 16)).payload
      (a.readSpans c pa [(off + 16, len)]).bind (fun a => Arch.readHeads a c pa (off + 16 + len) n))

/-- Read the save area of a context, its header first. -/
def Arch.readArea (a : Arch) (c x : Nat) (groups : Bool) : AreaR :=
  let pa := a.saveArea c x
  match a.place pa with
  | .stack _ _ =>
    (a.readSpans c pa [(0, 0x100)]).bind (fun a =>
      (a.readSpans c pa (a.areaSpans pa (if groups then a.savedGroups c x else 0))).bind (fun a =>
        (a.readHeads c pa areaRecords (Memory.read a.mem (pa + 0xA8) 8)).bind (fun a =>
          a.readHeads c pa areaHandler (Memory.read a.mem (pa + 0xB8) 8))))
  | _ => .ok a

/-- Reload a context from its save area, which has been read. -/
def Arch.reload (a : Arch) (c x : Nat) (t : Context) : Arch :=
  let pa := a.saveArea c x
  a.setCtx c x (match a.place pa with | .stack _ _ => loadContext a.mem pa t | _ => t)

/-- Read the save areas of several contexts. -/
def Arch.readAreas (a : Arch) (x : Nat) (groups : Bool) : List Nat → AreaR
  | [] => .ok a
  | c :: cs => (a.readArea c x groups).bind (fun a => Arch.readAreas a x groups cs)

-- ## Freezing (R299, R305, R306)

/-- A wait whose condition is true at the freeze is satisfied (R306). -/
def Arch.waitTrue (a : Arch) (c x : Nat) (w : Wait) : Bool :=
  let t := a.ctx c x
  w.sat || (match w.kind with
    | .tlwait => w.operand ≤ (t.readTl w.addr).toNat
    | .waitev => t.ring.need w.operand ≤ t.ring.avail.toNat
    | .barwait => a.reqs.any (fun r => r.id == w.req && r.st == .parked && a.waiterReady r)
    | _ => false)

/-- Every global access of the context has been performed and its value has arrived (R66); a held context's BT stands
still, so a value that waits for its due BT must not hold it (log entry 52). -/
def Arch.settledGlobal (a : Arch) (c x : Nat) : Bool :=
  a.reqs.all (fun r => !(r.core == c && r.ctx == x && !r.near && r.st != .withdrawn))

/-- DETM changes once every outstanding global access has landed (R66). -/
def Arch.detmApply (a : Arch) (c x : Nat) : Arch :=
  let t := a.ctx c x
  match t.wait with
  | some w =>
    if w.kind = .detm ∧ a.settledGlobal c x = true then
      (a.setCtx c x { t with detm := w.operand % 2 == 1, wait := none }).wakePorts
    else a
  | none => a

/-- A running context stands at a bundle boundary: the trap of a TRAP, or the return of an XRET, that has issued is not still to come. -/
def Context.atBoundary (t : Context) : Bool :=
  t.status == .running && t.wait.all (fun w => w.kind != .xret && w.kind != .trap)

/-- One member freezes; its channels pause if asked. -/
def Arch.freezeMember (a : Arch) (c x : Nat) (st : Status) (pause : Bool) : Arch :=
  let a := a.mapCtx c x (fun t => { t.settle with status := st, wait := t.wait.map (fun w => { w with sat := a.waitTrue c x w }) })
  let a := a.withdraw c x
  if pause then (upTo 16).foldl (fun a n => a.stopChan c x n false) a else a

/-- Every result that is on its way has been captured, tile records too; what a withdrawn LDF owes stays owed (R44, R166, R309). -/
def Arch.captured (a : Arch) (c x : Nat) : Bool :=
  a.reqs.all (fun r => !(r.core == c && r.ctx == x) || r.tag.isNone || r.st == .withdrawn)
    && !a.bricks.any (fun e => e.2.tileq.any (fun r => r.dests.any (fun d => d.1 == c && d.2.1 == x)))

/-- No channel is on its way to its stop point. -/
def Context.paused (t : Context) : Bool := t.chans.all (fun h => h.2.state != .active || h.2.stop.isNone || h.2.paused)

-- ## Swaps (R305)

def Arch.membersAre (a : Arch) (e : ExecUnit) (p : Context → Bool) : Bool := e.cores.all (fun c => p (a.ctx c e.ctx))

/-- A swap begins: the unit freezes as a whole (R305). -/
def Arch.swapBegin (a : Arch) (e : ExecUnit) : Arch :=
  if a.membersAre e Context.atBoundary then
    e.cores.foldl (fun a c => a.freezeMember c e.ctx .swapping false) a
  else a

/-- Step 3 of R305, in its order: once the matrix commands of a member have ended, which may need what its channels land (R157), the
channels are asked to pause; that request fixes the stop point of each, and it lands no further (R240; log entry 26). -/
def Arch.swapPause (a : Arch) (e : ExecUnit) : Arch :=
  e.cores.foldl (fun a c =>
    if (a.ctx c e.ctx).status = .swapping ∧ (a.core c).engine.count e.ctx = 0 then (upTo 16).foldl (fun a n => a.stopChan c e.ctx n false) a
    else a) a

/-- Results have arrived, commands ended, channels paused, and other accesses have been performed. -/
def Arch.swapReady (a : Arch) (e : ExecUnit) : Bool :=
  e.cores.all (fun c => (a.ctx c e.ctx).status == .swapping && a.captured c e.ctx && (a.core c).engine.count e.ctx == 0
    && (a.ctx c e.ctx).chans.all (fun h => h.2.state != .active || h.2.paused)
    && a.reqs.all (fun r => !(r.core == c && r.ctx == e.ctx) || r.st == .withdrawn))

/-- Results that were due at the freeze and late have landed by now (R299); the DIRTY entries of a member go home, and its groups
leave stash mode (R305). What stood in stash mode is answered. -/
def Arch.swapSettle (a : Arch) (c x : Nat) : List Nat × Arch :=
  let gs := (a.core c).stashOf x
  (gs, gs.foldl (fun a g => a.dropWindow c x g) ((a.detmApply c x).mapCtx c x Context.settle))

/-- One member is saved and its context, groups and channels freed; what it has under way waits under the unit. -/
def Arch.swapMember (a : Arch) (u c x : Nat) : Arch :=
  let q := a.swapSettle c x
  let a := q.2.saveCtx c x (maskOf q.1)
  let t := a.ctx c x
  let a := (a.mapUnit u (fun e => { e with
    kept := e.kept ++ [(c, { t with ring := { t.ring with moved := false } })]
    groups := SMap.set 0 e.groups c (maskOf ((a.core c).owned x)) })).freeGroups c x
  let a := (a.mapBrick (c / 32) (fun k => { k with encq := k.encq.filter (fun e => !(e.1 == c && e.2.1 == x)) })).mapCore c
    (fun k => { k with evq := k.evq.filter (fun e => e.ctx != x), misses := k.misses.filter (fun m => !m.agent.isOf x) })
  (a.leaveBehind c x (ghostOf u)).setCtx c (ghostOf u) { Context.reset with unit := some u, name := x }

/-- The first member whose save meets an error in its save area, and where (R310). -/
def Arch.swapError (a : Arch) (e : ExecUnit) : Option (Nat × Nat) :=
  e.cores.findSome? (fun c =>
    let q := a.swapSettle c e.ctx
    (q.2.saveError c e.ctx (maskOf q.1)).map (fun pa => (c, pa)))

/-- A save of the unit waits for a port. -/
def Arch.swapHeld (a : Arch) (e : ExecUnit) : Option Arch :=
  e.cores.findSome? (fun c => let q := a.swapSettle c e.ctx; (q.2.saveHeld c e.ctx (maskOf q.1)).map (fun b => { a with snoops := b.snoops }))

/-- SWAP_OUT: begin, and complete once the unit is ready; an error in a save area fails the unit instead (R310). -/
def Arch.swapOut (a : Arch) (u : Nat) : Arch :=
  match a.unit u with
  | none => a
  | some e =>
    if e.swapped || e.fate.isSome || a.deaf e.cores then a
    else
      let a := (a.swapBegin e).swapPause e
      if !a.swapReady e then a
      else
        match a.swapError e, a.swapHeld e with
        | some (c, pa), _ => a.checkAt c e.ctx pa 7
        | none, some a => a
        | none, none => (e.cores.foldl (fun a c => a.swapMember u c e.ctx) a).mapUnit u (fun e => { e with swapped := true })

def execSwapOut (u : Nat) (s : State) : Out := s.frontEvent (fun a => a.swapOut u)

-- ## Restores (R307)

/-- Groups come back with their bytes and bits, whatever they were last; stash windows with every entry INVALID (R174, R307). -/
def Arch.restoreGroups (a : Arch) (c x : Nat) (d : Nat) : Arch :=
  let pa := a.saveArea c x
  let st := bits (Memory.read a.mem (pa + 0x88) 8) 23 12
  (groupsIn (a.savedGroups c x)).foldl (fun a g =>
    let a := a.clearGroup c x g
    let a := { a with mem := copyMem a.mem (pa + 0x80000 + 0x8000 * g) (a.spadPa c (0x8000 * g)) 0x8000 }
    let f := Memory.read a.mem (pa + 0xE0000 + 512 * g) 512
    let a := (upTo 4096).foldl (fun a i => a.setFull c (0x8000 * g + 8 * i) (f.testBit i)) a
    a.mapCore c (fun k => { k with
      owner := SMap.set Owner.free k.owner g (ownerOf x)
      window := if st.testBit g then SMap.set none k.window g (some (ldWindow d g)) else k.window })) a

/-- Entries of a swapped-out unit that found the queue full count in its EVLOST (R133). -/
def RingRegs.missed (r g : RingRegs) : RingRegs :=
  { r with lost := r.lost || g.lost, count := BitVec.ofNat 32 (min (r.count.toNat + g.count.toNat) 0xFFFFFFFF) }

/-- The event entries of a save area. -/
def savedEvents (m : Memory) (pa : Nat) : List Event :=
  (upTo (Memory.read m (pa + 0xB0) 8)).map (fun i =>
    let x := Memory.read m (pa + 0x1000 + 16 * i) 16
    ⟨bits x 7 0, bits x 31 8, bits x 63 32, BitVec.ofNat 64 (bits x 127 64)⟩)

/-- One member is released again. Its saved events, and those posted for it meanwhile, enter the queue again as far as it has room;
of the others nothing is left but the loss, as R133 has it of any event. What the queue does with more entries than it holds, the
spec leaves open, and this is the model's choice (log entry 70). -/
def Arch.restoreMember (a : Arch) (u x : Nat) (v : Launch) (e : Nat × Context) : Arch :=
  let c := e.1
  let pa := a.saveArea c x
  let missed := (a.ctx c (ghostOf u)).ring
  let a := a.restoreGroups c x v.desc.toNat
  let late := (a.core c).evq.filter (fun e => e.ctx == ghostOf u)
  let a := a.mapCore c (fun k => { k with
    imem := Memory.writeBytes k.imem (ldIbase v.desc.toNat) v.image
    evq := k.evq.filter (fun e => e.ctx != ghostOf u) })
  let a := ((a.leaveBehind c (ghostOf u) x).reload c x e.2).mapCtx c x (fun t => { t with
    status := .running
    trap := { t.trap with swapcnt := t.trap.swapcnt + 1 }
    ring := t.ring.missed missed
    chans := t.chans.map (fun h => (h.1, { h.2 with enc := false, stop := none })) })
  let a := (savedEvents a.mem pa ++ late.map (fun (e : Event) => { e with ctx := x })).foldl (fun (a : Arch) e => a.post c e) a
  let a := (a.ctx c x).chans.foldl (fun a h =>
    if h.2.state = .active ∧ tmplMode h.2.tmpl.toNat = 4 then a.wantEncoder c x h.1 else a) a
  a.rejoin c x

/-- The members of a unit are released again once their save areas have been read; an error in one of them fails the unit (R310). -/
def Arch.restoreUnit (a : Arch) (u : Nat) (e : ExecUnit) (v : Launch) : Arch :=
  match a.readAreas e.ctx true (e.kept.map Prod.fst) with
  | .ok a =>
    if e.cores.all (fun c => a.able c e.ctx (a.savedGroups c e.ctx)) then
      ((e.kept.foldl (fun a k => a.restoreMember u e.ctx v k) a).setUnit u
        { e with swapped := false, kept := [], wanted := false, groups := [] }).wakePorts
    else a.setUnit u { e with wanted := true }
  | .wait a => a
  | .error c _ => a.failSwapped u c

/-- SWAP_RESTORE: at once, or from now on the unit waits for its contexts. -/
def Arch.swapRestore (a : Arch) (u : Nat) : Arch :=
  match a.unit u with
  | none => a
  | some e =>
    match a.launch e.launch with
    | none => a
    | some v =>
      if e.swapped && e.fate.isNone && (!a.canRestore e || a.promised e.launch v (e.cores.map (fun c => (c, e.ctx)))
          || a.launches.any (fun l => match l.2 with
            | some w => !w.released && a.launchPrio v < a.launchPrio w
                && (match a.placeUnits w with | some ws => (takes ws).any (fun k => e.cores.contains k.1 && k.2 == e.ctx) | none => false)
            | none => false)) then a.setUnit u { e with wanted := true }
      else if !a.canRestore e then a
      else a.restoreUnit u e v

def execSwapRestore (u : Nat) (s : State) : Out := s.frontEvent (fun a => a.swapRestore u)

-- ## Fatal traps (R309)

/-- One member of a failing unit ends: its save area is written, and its channels run to their ends, from a pause too (R34, R309). -/
def Arch.failMember (a : Arch) (c x : Nat) : Arch :=
  let a := (a.detmApply c x).mapCtx c x Context.settle
  let a := (a.saveCtx c x (maskOf ((a.core c).stashOf x))).mapCtx c x (fun t => { t with
    chans := t.chans.map (fun h => (h.1, { h.2 with stop := if h.2.cancel then h.2.stop else none })) })
  (a.fatalAt c x (a.ctx c x).dying).endProgram c x .failed

/-- A unit with a fatal trap ends FAILED once its results have arrived and every member of a gang has recorded its cause. -/
def Arch.finishFailing (a : Arch) (u : Nat) (e : ExecUnit) : Arch :=
  if e.fate.isNone && e.cores.any (fun c => (a.ctx c e.ctx).status == .failing) && e.cores.all (fun c => a.captured c e.ctx
      && ((a.ctx c e.ctx).wait.map Wait.kind) != some .trap) then
    match e.cores.findSome? (fun c => a.saveHeld c e.ctx (maskOf ((a.core c).stashOf e.ctx))) with
    | some b => { a with snoops := b.snoops }
    | none => (e.cores.foldl (fun a c => a.failMember c e.ctx) a).mapUnit u (fun e => { e with fate := some .failed })
  else a

-- ## The debugger (R311, R312)

def Debug.hreq (d : Debug) (x : Nat) : Bool := if x = 0 then d.hreqa else d.hreqb
def Debug.cleared (d : Debug) (x : Nat) : Bool := if x = 0 then d.cleara else d.clearb
def Debug.stepping (d : Debug) (x : Nat) : Bool := if x = 0 then d.stepa else d.stepb
def Debug.fresh (d : Debug) (x : Nat) : Debug :=
  if x = 0 then { d with cleara := false, stepa := false } else { d with clearb := false, stepb := false }

/-- The members freeze for the debugger. -/
def Arch.haltBegin (a : Arch) (c x : Nat) : Arch :=
  let cs := a.members c x
  if cs.all (fun k => (a.ctx k x).atBoundary || (a.ctx k x).status == .halting) then
    cs.foldl (fun a k => (a.freezeMember k x .halting (a.core k).dbg.stopch).mapCore k (fun k =>
      { k with dbg := k.dbg.fresh x })) a
  else a

/-- Save areas are written and HALTED is set, once every result has been captured. -/
def Arch.haltFinish (a : Arch) (c x : Nat) : Arch :=
  let cs := a.members c x
  let save (k : Nat) : Nat := maskOf ((a.core k).stashOf x)
  let a := if cs.all (fun k => (a.ctx k x).status == .halting) then
      cs.foldl (fun a k => (a.detmApply k x).freezeMember k x .halting (a.core k).dbg.stopch) a
    else a
  if !cs.all (fun k => (a.ctx k x).status == .halting && a.captured k x && (a.ctx k x).paused
      && ((a.ctx k x).wait.map Wait.kind) != some .detm) then a
  else
    match cs.findSome? (fun k => (a.saveError k x (save k)).map (fun pa => (k, pa))), cs.findSome? (fun k => a.saveHeld k x (save k)) with
    | some (k, pa), _ => a.checkAt k x pa 7
    | none, some a => a
    | none, none =>
      cs.foldl (fun a k => (a.saveCtx k x (maskOf ((a.core k).stashOf x))).mapCtx k x (fun t =>
        { t with status := .debugHalted, ring := { t.ring with moved := false } })) a

/-- HALT_REQUEST. -/
def Arch.haltRequest (a : Arch) (c x : Nat) : Arch :=
  let a := if (a.ctx c x).status = .running ∧ (a.core c).dbg.hreq x = true ∧ (a.ctx c x).stepOnce = false then a.haltBegin c x else a
  if (a.ctx c x).status = .halting then a.haltFinish c x else a

def execHaltRequest (c x : Nat) (s : State) : Out := s.event (fun a => a.haltRequest c x)

/-- The breakpoint of a context matches its pc, and the bundle there is about to issue. -/
def Core.atBreak (k : Core) (x : Nat) : Bool :=
  let bp := if x = 0 then k.dbg.bpa else k.dbg.bpb
  bp.getLsbD 0 && bits bp.toNat 17 1 == bits (k.ctx x).pc 17 1 && !(k.ctx x).stepOnce

/-- BREAKPOINT. -/
def Arch.breakpoint (a : Arch) (c x : Nat) : Arch :=
  let t := a.ctx c x
  let a := if t.status = .running ∧ t.wait = none ∧ t.bubbles = 0 ∧ (a.core c).atBreak x = true then a.haltBegin c x else a
  if (a.ctx c x).status = .halting then a.haltFinish c x else a

def execBreakpoint (c x : Nat) (s : State) : Out := s.event (fun a => a.breakpoint c x)

/-- A halted context takes its registers back from the save area and runs; its channels go on. -/
def Arch.resume (a : Arch) (c x : Nat) (step : Bool) : Arch :=
  let a := ((a.reload c x (a.ctx c x)).rejoin c x).mapCore c (fun k => { k with dbg := k.dbg.fresh x })
  a.mapCtx c x (fun t => { t with
    status := .running
    stepOnce := step
    chans := t.chans.map (fun h => (h.1, { h.2 with stop := if h.2.cancel then h.2.stop else none })) })

/-- The halted members of a gang resume together, once their save areas have been read; an error there fails the unit (R310). -/
def Arch.resumeAll (a : Arch) (x : Nat) (cs : List Nat) (step : Bool) : Arch :=
  match a.readAreas x false cs with
  | .ok a => (cs.foldl (fun a k => a.resume k x step) a).wakePorts
  | .wait a => a
  | .error c pa => a.checkAt c x pa 7

/-- HALT_RELEASE: HREQ has been cleared. -/
def Arch.haltRelease (a : Arch) (c x : Nat) : Arch :=
  let cs := a.members c x
  if cs.all (fun k => (a.ctx k x).status == .debugHalted && !(a.core k).dbg.hreq x)
      && cs.any (fun k => (a.core k).dbg.cleared x) then a.resumeAll x cs false
  else a

def execHaltRelease (c x : Nat) (s : State) : Out := s.event (fun a => a.haltRelease c x)

/-- DEBUG_STEP: one issue, then a halt again. -/
def Arch.debugStep (a : Arch) (c x : Nat) : Arch :=
  let cs := a.members c x
  if (a.core c).dbg.stepping x && (a.core c).dbg.hreq x && cs.all (fun k => (a.ctx k x).status == .debugHalted) then
    a.resumeAll x cs true
  else a

def execDebugStep (c x : Nat) (s : State) : Out := s.event (fun a => a.debugStep c x)

end Sys2Proof.Machine
end

