-- ==== Sys2Proof/Machine/Operators.lean ====
section
/-! DEFINITION. Coded operators (12 R261 to R271): opening an operator from its descriptor, the returns of its tasks,
closing, checking, rebuilding and locating, and the operator record. -/

namespace Sys2Proof.Machine

-- ## The descriptor (R261)

def opK (d : Nat) : Nat := dw d 0 2 0 + 1
def opR (d : Nat) : Nat := dw d 0 4 3
def opOuter (d : Nat) : Bool := dw d 0x48 0 0 == 1
def opRows (d : Nat) : Nat := dw d 0x08 22 12 + 1
def opRecord (d : Nat) : Nat := dw d 0x38 63 0
def opBar (d : Nat) : Nat := dw d 0x40 63 3 * 8
def opBrick (d j : Nat) : Nat := bits (dw d 0 47 24) (3 * j + 2) (3 * j)
def opModule (d j : Nat) : Nat := bits (dw d 0x50 63 0) (8 * j + 7) (8 * j)

/-- The tasks dispatched: data tasks, and the parities of PAVAIL (R263). -/
def opTasks (d : Nat) : List Nat :=
  (upTo (opK d)) ++ ((upTo (opR d)).filter (fun p => (dw d 0 10 8).testBit p)).map (fun p => opK d + p)

/-- Distinct members. -/
def allDistinct (l : List Nat) : Bool := l.dedup.length == l.length

/-- A field that makes the operator fail with PARAM (R263, R271), but for those that need memory. -/
def opBad (d : Nat) : Bool :=
  dw d 0 7 5 != 0 || dw d 0 15 11 != 0 || dw d 0 63 48 != 0 || dw d 0x08 23 23 != 0 || dw d 0x08 35 35 != 0
    || dw d 0x08 63 48 != 0 || dw d 0x18 63 53 != 0 || dw d 0x40 2 0 != 0 || dw d 0x48 63 1 != 0 || bits d 1023 768 != 0
    || 8 < opK d + opR d || dw d 0 10 8 / 2 ^ opR d != 0
    || 2560 < dw d 0x08 11 0 + opRows d
    || dw d 0x20 6 0 != 0 || dw d 0x28 6 0 != 0
    || (if opOuter d then
          dw d 0 47 16 != 0 || dw d 0x08 47 36 != 0 || dw d 0x10 63 0 != 0 || dw d 0x18 63 0 != 0 || dw d 0x58 6 0 != 0
        else
          dw d 0 22 21 == 3 || !allDistinct ((opTasks d).map (opBrick d))
            || dw d 0x18 18 0 % 2 != 0 || dw d 0x18 18 0 < 2 || 0x40000 < dw d 0x18 18 0
            || dw d 0x18 36 19 % 2 != 0 || dw d 0x18 18 0 ≤ dw d 0x18 36 19
            || spadSize ≤ 8 * dw d 0x18 52 37 || dw d 0x10 2 0 != 0 || dw d 0x10 63 56 != 0
            || dw d 0x20 63 56 != 0 || dw d 0x28 63 56 != 0)
    || (opOuter d && dw d 0x58 63 48 != 0)

/-- The descriptor of an outer operator's inner task. -/
def innerDesc (d j : Nat) : Nat := opModule d j * 2 ^ 48 + dw d 0x58 47 0 + 128 * j

/-- The first inner descriptor among those of the tasks listed that can be read. -/
def Arch.innerRead (a : Arch) (d : Nat) : List Nat → Option Nat × Arch
  | [] => (none, a)
  | j :: js =>
    let q := a.fePhys (innerDesc d j) 128
    match q.1 with
    | some bs => (some (ofBytes bs), q.2)
    | none => Arch.innerRead q.2 d js

/-- Bytes of one tile: rows of the accumulator space, or every data tile of the inner operators, as the first descriptor of them that
can be read gives it (R261, R271). -/
def Arch.opTile (a : Arch) (d : Nat) : Nat × Arch :=
  if opOuter d then
    let q := a.innerRead d (opTasks d)
    ((q.1.map (fun i => opK i * opRows i * 512)).getD 0, q.2)
  else (opRows d * 512, a)

/-- Where the slot of task `j` begins. -/
def OpSet.slot (o : OpSet) (j : Nat) : Nat :=
  let d := o.desc.toNat
  if j < opK d then dw d 0x20 63 0 + j * o.tile else dw d 0x28 63 0 + (j - opK d) * o.tile

/-- Parts of a slot, through the operator's translation; an outer operator's slots are physical. -/
def Arch.slotReach (a : Arch) (o : OpSet) (j : Nat) (wr : Bool) : Option (List (Nat × Nat × Nat)) × Arch :=
  if opOuter o.desc.toNat then
    (match a.copyKey (o.slot j) o.tile wr with
     | none => (none, a)
     | some k => (some [(o.slot j, k, o.tile)], match a.reachHeld 8 (o.slot j) o.tile wr with | some a => a.feWait | none => a))
  else
    let q := a.feReach o.regs (o.slot j) o.tile wr
    (q.1.filter (fun ss => ss.all (fun e => match a.place e.1 with | .stack _ _ => true | _ => false)), q.2)

/-- Values of a tile, and the checksum of values (R264). -/
def tileValues (bs : List Byte) : List Int := (toLanes 64 (bs.length / 8) (ofBytes bs)).map (fun x => sext x 64)
def tileSum (xs : List Int) : Word := BitVec.ofInt 64 xs.sum
def tileBytes (xs : List Int) : List Byte := xs.flatMap (fun x => toBytes 8 (wrap x 64))

-- ## Records, levels and close (R269)

def Arch.mapOp (a : Arch) (n : Nat) (f : OpSet → OpSet) : Arch :=
  match a.op n with
  | some o => a.setOp n (some (f o))
  | none => a

/-- The dispatcher has not closed the operator (R265). A closed one keeps STATE OPEN until a repointing unit takes it (R266). -/
def OpSet.isOpen (o : OpSet) : Bool := o.state == .opened && o.closed.isNone

/-- Tasks of an operator that have returned usable. -/
def OpSet.count (o : OpSet) (p : TaskState → Bool) : Nat := (o.tasks.filter (fun t => p t.state)).length
def OpSet.usables (o : OpSet) : Nat := o.count (fun s => s == .usable)

/-- A microsecond in thirds of a nanosecond. -/
def microsecond : Nat := 3000

/-- The times at which GRACE, and TMAX, close the operator (R265). -/
def OpSet.graceAt (o : OpSet) : Option Nat := o.tk.map (fun t => t + dw o.desc.toNat 0x30 31 0 * microsecond)
def OpSet.tmaxAt (o : OpSet) : Option Nat :=
  let t := dw o.desc.toNat 0x30 63 32
  if t ≠ 0 ∧ o.usables < opK o.desc.toNat then some (o.opened + t * microsecond) else none

/-- The dispatcher cycle of a time: a fabric cycle. -/
def fabricCycle (t : Nat) : Nat := 2 * t / 3

/-- The operator should have closed in an earlier dispatcher cycle than that of `now`: no report counts any more (R265). -/
def OpSet.overdue (o : OpSet) (now : Nat) : Bool :=
  [o.graceAt, o.tmaxAt].any (fun t => match t with | some t => decide (fabricCycle t < fabricCycle now) | none => false)

/-- Write the operator record. -/
def Arch.opWrite (a : Arch) (o : OpSet) : Arch :=
  (a.feWrite o.regs (opRecord o.desc.toNat) (o.record.flatMap (toBytes 8))).2

/-- The coded level of a packet or node ends with its operator (R281). -/
def Arch.codedEnds (a : Arch) (l : Option Nat) (st : LevelState) : Arch :=
  match l with
  | none => a
  | some l =>
    let a := a.mapLevel l (fun v => { v with
      pending := 0, done := if st = .complete then 1 else 0, abandoned := if st = .complete then 0 else 1
      cancelled := v.cancelled || st == .cancelled })
    if st = .complete then a else a.markLoss l nestMax

/-- The return of outer task `j` of set `s`: its tile `bs` is copied to the outer slot and its CKSUM reported, or it counts as
missing (R271). -/
def Arch.outerReturn (a : Arch) (s j : Nat) (bs : Option (List Byte)) (cs : Word) : Arch :=
  match a.op s with
  | none => a
  | some w =>
    let t := a.slotReach w j true
    match (if w.isOpen && !w.overdue a.clock then bs else none), t.1 with
    | some x, some ss => (t.2.copyWrite ss x).mapOp s (fun w => { w with
        tasks := setAt w.tasks j { (w.tasks.getD j ⟨.absent, none, 0⟩) with state := .usable, cs := cs }
        tk := if w.usables + 1 = opK w.desc.toNat then some a.clock else w.tk })
    | _, _ => a.mapOp s (fun w => { w with
        tasks := setAt w.tasks j { (w.tasks.getD j ⟨.absent, none, 0⟩) with state := .ended } })

/-- The outer task that an inner operator of this module was ends with it: its data tiles are one outer tile (R271). -/
def Arch.innerEnds (a : Arch) (o : OpSet) : Arch :=
  match o.outer with
  | none => a
  | some (s, j) =>
    let bs := (upTo (opK o.desc.toNat)).foldl (fun (q : Option (List Byte) × Arch) i =>
      let r := q.2.slotReach o i false
      match q.1, r.1 with
      | some acc, some ss => let x := r.2.copyRead ss; (some (acc ++ x.1), x.2)
      | _, _ => (none, r.2)) (some [], a)
    bs.2.outerReturn s j (if o.state == .done then bs.1 else none) o.cksum

/-- The barrier object BAR names, where it is usable (R261, R263). -/
def Arch.opBarAt (a : Arch) (r : XlRegs) (d : Nat) : Option Nat × Arch :=
  let q := a.feXlate r (opBar d) true true
  (q.1.filter (fun pa => match a.place pa with | .spad c o => ((a.core c).stashKey o).isNone | _ => false), q.2)

/-- One arrival on BAR, where it is nonzero and usable (R269); a port on its way holds it (R22). -/
def Arch.opArrive (a : Arch) (r : XlRegs) (d : Nat) : Arch :=
  if opBar d = 0 then a
  else
    let q := a.opBarAt r d
    match q.1 with
    | some pa => (match q.2.rmwHeld 8 pa 8 with | some a => a.feWait | none => q.2.arrive pa)
    | none => q.2

/-- The outcome is recorded, the set freed, and the arrival made. -/
def Arch.opFinish (a : Arch) (n : Nat) (o : OpSet) (st : OpState) (cause : Nat) : Arch :=
  let o := { o with state := st, cause := BitVec.ofNat 4 cause, tclose := a.now }
  let a := (a.opWrite o).setOp n none
  let a := a.codedEnds o.level (match st with | .done => .complete | .cancelled => .cancelled | _ => .failed)
  let a := a.innerEnds o
  a.opArrive o.regs o.desc.toNat

-- ## Returns and closing (R264, R265)

/-- Bits of the tasks in a state. -/
def OpSet.maskOf (o : OpSet) (st : TaskState) : BitVec 8 :=
  BitVec.ofNat 8 ((o.tasks.zipIdx.map (fun e => at_ e.2 (e.1.state == st))).sum)

/-- An operator with the masks that its record takes when it closes (R269). -/
def OpSet.masked (o : OpSet) : OpSet := { o with usable := o.maskOf .usable, inex := o.maskOf .inexact }

/-- Tasks of an operator still waiting or running are cancelled, and belong to no operator any more; of one whose program has halted,
what it published is cancelled (R48). -/
def Arch.opDrop (a : Arch) (n : Nat) : Arch :=
  let mine (e : Nat × Option Launch) : Bool := (e.2.bind Launch.task).map Prod.fst == some n
  let us := (a.units.filter (fun e => match e.2 with
    | some u => (a.launches.any (fun l => mine l && l.1 == u.launch)) | none => false)).map Prod.fst
  let a := us.foldl (fun a u => a.stopUnit u .cancelled) a
  { a with
    opq := a.opq.filter (fun r => r.outer.map Prod.fst != some n)
    launches := (a.launches.filter (fun e => !(mine e && (e.2.map Launch.released) == some false))).map (fun e =>
      if mine e then (e.1, e.2.map (fun v => { v with task := some (64, 0) })) else e) }

/-- Inner operators of an outer one are cancelled with it. -/
def Arch.opInner (a : Arch) (n : Nat) : List Nat :=
  (a.ops.filter (fun e => (e.2.bind OpSet.outer).map Prod.fst == some n)).map Prod.fst

/-- The dispatcher closes an open operator (R265), which writes its record (R269): it waits for a repointing unit, or is FAILED with
TOOFEW. -/
def Arch.opClose (a : Arch) (n : Nat) : Arch :=
  match a.op n with
  | none => a
  | some o =>
    if !o.isOpen then a
    else
      let o := o.masked
      let a := a.opDrop n
      if o.usables < opK o.desc.toNat then a.opFinish n o .failed 1
      else
        ({ a with nextId := a.nextId + 1 }.setOp n (some { o with closed := some a.nextId })).opWrite o

/-- Close once every dispatched task is accounted for. -/
def Arch.opCheck (a : Arch) (n : Nat) : Arch :=
  match a.op n with
  | some o => if o.isOpen ∧ o.count (fun s => s == .running || s == .accepted) = 0 then a.opClose n else a
  | none => a

/-- Task `j` of set `n` ended without a usable return. -/
def Arch.taskEnds (a : Arch) (n j : Nat) (st : TaskState) : Arch :=
  (a.mapOp n (fun o =>
    if o.isOpen ∧ (o.tasks.getD j ⟨.absent, none, 0⟩).state = .running then
      { o with tasks := setAt o.tasks j { (o.tasks.getD j ⟨.absent, none, 0⟩) with state := st } }
    else o)).opCheck n

/-- Rows of a core's accumulator space as the values of a tile. -/
def Engine.tile (e : Engine) (row rows : Nat) : List Int :=
  (upTo (rows * 64)).map (fun i => (SMap.get (0 : Word) e.acc (row * 64 + i)).toInt)

/-- A tile write that faults leaves an unspecified mix of the tile and the slot's former bytes (log entry 6). -/
def Arch.mixTile (a : Arch) (o : OpSet) (j fresh : Nat) (bs : List Byte) : Arch :=
  (upTo (o.tile / 512)).foldl (fun a i =>
    let q := a.feReach o.regs (o.slot j + 512 * i) 512 true
    match q.1 with
    | some ss =>
      let old := q.2.copyRead ss
      old.2.copyWrite ss ((((bs.drop (512 * i)).take 512).zip old.1).zipIdx.map (fun e =>
        if (Config.freeByte (fresh + 512 * i + e.2)).getLsbD 0 then e.1.1 else e.1.2))
    | none => q.2) a

/-- An operator that is overdue closes before anything else of it happens (R265). -/
def Arch.closeOverdue (a : Arch) (n : Nat) : Arch :=
  match a.op n with
  | some o => if o.overdue a.clock then a.opClose n else a
  | none => a

/-- The names of returns from other modules: 2^32 + 16n + 2j for outer task `j` of set `n` whose inner operator ended FAILED or
CANCELLED, and one more where it is DONE (log entry 40). -/
def farReturns : Nat := 2 ^ 32

/-- The return of an outer task from another module, over a port that is up (R271). What the other module computed, its tiles and
its CKSUM, are free values. -/
def Arch.farReturn (a : Arch) (u fresh : Nat) : Nat × Arch :=
  let n := (u - farReturns) / 16
  let j := (u - farReturns) / 2 % 8
  match a.op n with
  | none => (0, a)
  | some o =>
    let m := opModule o.desc.toNat j
    if u < farReturns ∨ !opOuter o.desc.toNat ∨ m = a.modnum.toNat ∨ (a.route m).isNone
        ∨ (o.tasks.getD j ⟨.absent, none, 0⟩).state ≠ .running then (0, a)
    else
      let a := a.closeOverdue n
      if u % 2 = 0 then (0, a.taskEnds n j .ended)
      else (o.tile, (a.outerReturn n j (some ((upTo o.tile).map (fun i => Config.freeByte (fresh + i)))) (Config.freeWord fresh)).opCheck n)

/-- The return of a task whose unit has halted and been performed (R264); with it go the free values drawn. A number that no
unit has may name a return from another module. -/
def Arch.returnTask (a : Arch) (u fresh : Nat) : Nat × Arch :=
  match a.unit u with
  | none => a.farReturn u fresh
  | some e =>
    match (a.launch e.launch).bind Launch.task with
    | none => (0, a)
    | some (n, j) =>
      if e.fate ≠ some .complete ∨ !a.unitQuiet u e then (0, a)
      else
        let a := a.closeOverdue n
        let c := e.cores.headD 0
        let done (a : Arch) : Arch := a.endUnit u e .complete
        match a.op n with
        | some o =>
          if !o.isOpen ∨ (a.brick (c / 32)).lost then (0, done a)
          else
            let xs := (a.core c).engine.tile (dw o.desc.toNat 0x08 11 0) (opRows o.desc.toNat)
            let q := a.slotReach o j true
            match q.1 with
            | none => (o.tile, (done (a.mixTile o j fresh (tileBytes xs))).taskEnds n j .ended)
            | some ss =>
              let a' := done (q.2.copyWrite ss (tileBytes xs))
              if (a.ctx c e.ctx).exact then (0, a'.taskEnds n j .inexact)
              else
                (0, (a'.mapOp n (fun o => { o with
                  tasks := setAt o.tasks j { (o.tasks.getD j ⟨.absent, none, 0⟩) with state := .usable, cs := tileSum xs }
                  tk := if o.usables + 1 = opK o.desc.toNat then some a.clock else o.tk })).opCheck n)
        | none => (0, done a)

/-- A time of expiry closes the operator once its dispatcher cycle is over, so that every report of that cycle counts before it
(R265; log entry 40). -/
def Arch.expires (a : Arch) (n : Nat) (t : Option Nat) : Arch :=
  match t with
  | some t => if fabricCycle t < fabricCycle a.clock then a.opClose n else a
  | none => a

def Arch.graceExpires (a : Arch) (n : Nat) : Arch := a.expires n ((a.op n).bind OpSet.graceAt)
def Arch.tmaxExpires (a : Arch) (n : Nat) : Arch := a.expires n ((a.op n).bind OpSet.tmaxAt)

/-- One operator ends CANCELLED; one that a repointing unit has, or waits for, keeps the masks of its close. -/
def Arch.opStop (a : Arch) (n : Nat) : Arch :=
  match a.op n with
  | some o =>
    (match o.state with
     | .opened | .decoding => (a.opDrop n).opFinish n (if o.isOpen then o.masked else o) .cancelled 5
     | _ => a)
  | none => a

/-- A cancel of an operator (R270), and with it of the inner operators that are its tasks (R271). -/
def Arch.opCancel (a : Arch) (n : Nat) : Arch := (n :: a.opInner n).foldl Arch.opStop a

/-- Tasks of outer operators on modules that have no route, or have one no more, count as lost (R271). -/
def Arch.routeless (a : Arch) : Arch :=
  (a.ops.map Prod.fst).foldl (fun a n =>
    match a.op n with
    | some o =>
      if opOuter o.desc.toNat && o.isOpen then
        ((opTasks o.desc.toNat).filter (fun j =>
          opModule o.desc.toNat j != a.modnum.toNat && (a.route (opModule o.desc.toNat j)).isNone)).foldl
            (fun a j => a.taskEnds n j .ended) a
      else a
    | none => a) a

/-- Tasks on modules without a route are lost; operators all of whose tasks are accounted for close; inner operators whose outer one is
closed are cancelled (R271). -/
def Arch.opSweep (a : Arch) : Arch :=
  let a := a.routeless
  let a := (a.ops.map Prod.fst).foldl (fun a n => a.opCheck n) a
  (a.ops.map Prod.fst).foldl (fun a n =>
    match ((a.op n).bind OpSet.outer).map (fun e => (a.op e.1).any OpSet.isOpen) with
    | some true | none => a
    | some false => a.opCancel n) a

-- ## Opening (R262, R263)

/-- Whether the accesses a request follows have been performed, and no port on its way holds it (R22). -/
def Arch.opReady (a : Arch) (r : OpReq) : Bool :=
  match r.src with
  | some (c, x, _) => (!a.routeSleeps (c / 32) 8 || (a.brick (c / 32)).lost) && a.reqs.all (fun q => !(q.core == c && q.ctx == x && q.seq < r.after && q.st != .withdrawn))
      && a.writeBacks.all (fun w => !(w.core == c && w.ctx == x && w.id < r.after))
  | none => true

/-- The record is usable: aligned, and in a stack of the module. -/
def Arch.recordAt (a : Arch) (r : XlRegs) (d : Nat) : Option Nat × Arch :=
  if opRecord d % 32 ≠ 0 then (none, a)
  else
    let q := a.feXlate r (opRecord d) false true
    (q.1.filter (fun pa => match a.place pa with | .stack _ _ => a.writable pa 32 | _ => false), q.2)

/-- A range of virtual addresses translates to stacks of the module. -/
def Arch.inStacks (a : Arch) (r : XlRegs) (va len : Nat) : Bool × Arch :=
  (cutPages va len).foldl (fun (q : Bool × Arch) e =>
    let x := q.2.feXlate r e.1 false false
    (q.1 && (match x.1 with
      | some pa => (match a.place pa, a.place (pa + e.2 - 1) with | .stack b _, .stack b' _ => b == b' | _, _ => false)
      | none => false), x.2)) (true, a)

/-- The same of a physical range, with the module's own number (R271). -/
def Arch.ownStack (a : Arch) (pa len : Nat) : Bool :=
  match a.place pa, a.place (pa + len - 1) with | .stack b _, .stack b' _ => b == b' | _, _ => false

/-- An inner descriptor lies in a stack of its module (R261, R263, R271). -/
def innerInStack (d j : Nat) : Bool :=
  match placeInModule (dw d 0x58 47 0 + 128 * j) with | .stack _ _ => true | _ => false

/-- Slots and image lie in stacks of the module, and the image can be read; an outer operator's inner descriptors lie in stacks (R261,
R263, R271). -/
def Arch.opSpace (a : Arch) (r : XlRegs) (d tile : Nat) : Bool × Arch :=
  let slots := (upTo (opK d)).map (fun i => dw d 0x20 63 0 + i * tile) ++ (upTo (opR d)).map (fun p => dw d 0x28 63 0 + p * tile)
  if opOuter d then
    (slots.all (fun pa => a.ownStack pa (max 1 tile)) && (upTo (opK d + opR d)).all (innerInStack d), a)
  else
    let x := a.inStacks r (dw d 0x10 63 0) (dw d 0x18 18 0)
    let y := x.2.feRead r (dw d 0x10 63 0) (dw d 0x18 18 0)
    slots.foldl (fun (q : Bool × Arch) va => let z := q.2.inStacks r va tile; (q.1 && z.1, z.2)) (x.1 && y.1.isSome, y.2)

/-- The launch descriptor of a task (R263): one unit, its context, DET, BANKS, image at address 0 and entry. -/
def taskDesc (d : Nat) : Nat :=
  2 ^ 8 + 2 ^ 20 * dw d 0 22 21 + 2 ^ 22 * dw d 0 23 23 + 2 ^ 25 * dw d 0x08 47 36 + 2 ^ 128 * dw d 0x18 18 0
    + 2 ^ 165 * dw d 0x18 36 19

/-- The argument a task finds (R263). -/
def taskArg (d s j : Nat) : Word := BitVec.ofNat 64 (j + 2 ^ 4 * opK d + 2 ^ 8 * opR d + 2 ^ 10 * s)

/-- The CODED level in whose name an operator's tasks run: its own, or that of the outer operator it is a task of (R31, R271). -/
def Arch.opLevel (a : Arch) (o : OpSet) : Option Nat := o.level.or (o.outer.bind (fun e => (a.op e.1).bind OpSet.level))

/-- Task `j` is dispatched: a launch on its Brick, or an inner operator on its module, whose request enters the queue when there is
room for it (R262). -/
def Arch.dispatch (a : Arch) (n : Nat) (o : OpSet) (image : List Byte) (j : Nat) : Arch :=
  let d := o.desc.toNat
  if opOuter d then
    (if opModule d j = a.modnum.toNat then
       { a with opq := a.opq ++ [⟨innerDesc d j, innerDesc d j, o.regs, none, none, o.queue, some (n, j), 0, false⟩] }
     else if (a.route (opModule d j)).isSome then a
     else a.taskEnds n j .ended)
  else
    let l := a.nextId
    let a := { a with nextId := l + 1 }.addLaunch l (a.opLevel o) o.queue o.regs (taskDesc d)
      (32 * opBrick d j + dw d 0 20 16) image [(8 * dw d 0x18 52 37, taskArg d n j, true)] (some (n, j))
    if (a.brick (opBrick d j)).lost then ({ a with launches := SMap.set none a.launches l none }).taskEnds n j .ended else a

/-- The request at the head of the queue fails before it has a set. -/
def Arch.opReject (a : Arch) (r : OpReq) : Arch :=
  let a := match r.src with
    | some (c, x, bt) => (a.feTell [c]).post c ⟨0x0A, x, bt % 2 ^ 32, BitVec.ofNat 64 r.va⟩
    | none => a
  let a := match r.outer with | some (s, j) => a.taskEnds s j .ended | none => a
  match r.level.bind (fun l => (a.level l).map (fun v => (l, v))) with
  | some (l, v) =>
    ((a.mapLevel l (fun v => { v with abort := true })).codedEnds (some l) .failed).jobEvent v.queue evBadPacket v.index a.now
  | none => a

/-- A set as an operator takes it. -/
def newOp (r : OpReq) (d tile now clock : Nat) (st : OpState) : OpSet :=
  { desc := BitVec.ofNat 1024 (d % 2 ^ 768), regs := r.regs, src := r.src, level := r.level, queue := r.queue, outer := r.outer
    tile := tile, state := st
    tasks := (upTo 8).map (fun j => ⟨if (opTasks d).contains j then .running else .absent, none, 0⟩)
    usable := 0, inex := 0, rebuilt := 0, faulty := 0, brick := 0, cause := 0, cksum := 0, topen := now, tclose := 0
    opened := clock, tk := none, closed := none }

/-- OPERATOR_OPEN: the oldest request takes the lowest free set. After a firmware fault only what a coded operator already started asks
for goes on (R297). -/
def Arch.openOp (a : Arch) : Arch :=
  match a.opq, (upTo 64).find? (fun n => (a.op n).isNone) with
  | r :: rs, some n =>
    if !(a.firmware || (r.outer.isSome && !a.power.tripped)) || !a.opReady r then a
    else
      let x := a.fePhys r.pa 128
      let a := { x.2 with opq := rs }
      match x.1 with
      | none => a.opReject r
      | some bs =>
        let d := ofBytes bs
        let tl := a.opTile d
        let tile := tl.1
        let a := tl.2
        let rec_ := a.recordAt r.regs d
        let a := rec_.2
        match rec_.1 with
        | none => a.opReject r
        | some _ =>
          let bar := if opBar d = 0 then (some 0, a) else a.opBarAt r.regs d
          let space := bar.2.opSpace r.regs d tile
          let a := space.2
          if opBad d || bar.1.isNone || !space.1 then
            let o := { newOp r d tile 0 a.clock .failed with cause := 4 }
            (((a.opWrite o).codedEnds r.level .failed).innerEnds o).opArrive r.regs d
          else
            let o := newOp r d tile a.now a.clock .opened
            let im := if opOuter d then ([], a) else
              let q := a.feRead r.regs (dw d 0x10 63 0) (dw d 0x18 18 0); (q.1.getD [], q.2)
            let a := (im.2.setOp n (some o)).opWrite o
            ((opTasks d).foldl (fun a j => a.dispatch n o im.1 j) a).opCheck n
  | _, _ => a

-- ## Checking, rebuilding and locating (R266, R267)

/-- The coefficient (i + 1)^p of R256. -/
def coeff (i p : Nat) : Int := Int.ofNat ((i + 1) ^ p)

/-- Determinant by expansion along the first row. -/
def detZ : Nat → List (List Int) → Int
  | _, [] => 1
  | 0, _ => 1
  | f + 1, r :: rs =>
    (r.zipIdx.map (fun e => (if e.2 % 2 = 0 then 1 else -1) * e.1 * detZ f (rs.map (fun q => q.eraseIdx e.2)))).sum

/-- Replace column `h` of a matrix. -/
def withColumn (v : List (List Int)) (h : Nat) (y : List Int) : List (List Int) :=
  (v.zip y).map (fun e => setAt e.1 h e.2)

/-- The missing values of one element: solvers' values less what the present data give, solved exactly (R266 step 1). -/
def solveElem (ms ps : List Nat) (y : List Int) : Option (List Int) :=
  let v := ps.map (fun p => ms.map (fun m => coeff m p))
  let dv := detZ 4 v
  (ms.zipIdx.map (fun e =>
    let num := detZ 4 (withColumn v e.2 y)
    if num % dv ≠ 0 ∨ num / dv < -pow2 63 ∨ pow2 63 - 1 < num / dv then none else some (num / dv))).foldr
      (fun x q => match x, q with | some x, some xs => some (x :: xs) | _, _ => none) (some [])

/-- A tile read for decoding: the values of task `j`. -/
abbrev Tiles := List (Nat × Array Int)

def Tiles.at (t : Tiles) (j e : Nat) : Int := ((t.find? (fun x => x.1 == j)).map (fun x => x.2.getD e 0)).getD 0

/-- What the unit decides. -/
structure Verdict where
  state : OpState
  cause : Nat
  usable : List Nat
  rebuilt : List (Nat × List Int)
  faulty : Option Nat
  cksum : Word
deriving DecidableEq, Repr

/-- Read and verify tiles; the first that fails is named (R267). -/
def Arch.readTiles (a : Arch) (o : OpSet) : List Nat → Except Nat Tiles × Arch
  | [] => (.ok [], a)
  | j :: js =>
    let q := a.slotReach o j false
    match q.1 with
    | none => (.error j, q.2)
    | some ss =>
      let x := q.2.copyRead ss
      let xs := tileValues x.1
      if tileSum xs ≠ (o.tasks.getD j ⟨.absent, none, 0⟩).cs then (.error j, x.2)
      else
        let r := Arch.readTiles x.2 o js
        match r.1 with
        | .ok ts => (.ok ((j, xs.toArray) :: ts), r.2)
        | .error e => (.error e, r.2)

/-- What parity `p` says beyond the data tiles listed. -/
def residue (t : Tiles) (k p e : Nat) (ds : List Nat) : Int :=
  t.at (k + p) e - (ds.map (fun i => coeff i p * t.at i e)).sum

/-- Rebuild data tiles `ms` from parities `ps`, element by element. -/
def rebuildTiles (t : Tiles) (k n : Nat) (ds ms ps : List Nat) : Option (List (Nat × List Int)) :=
  let es := (upTo n).map (fun e => solveElem ms ps (ps.map (fun p => residue t k p e ds)))
  if es.any Option.isNone then none
  else some (ms.zipIdx.map (fun m => (m.1, es.map (fun x => (x.getD []).getD m.2 0))))

/-- The faulty task that the element syndromes name (R266 step 3). -/
def locate (t : Tiles) (k r n : Nat) : Option Nat :=
  let ds := upTo k
  let syn := ((upTo n).map (fun e => (upTo r).map (fun p => residue t k p e ds))).filter (fun s => s.any (fun x => x != 0))
  if syn.isEmpty then none
  else
    match (upTo r).find? (fun p => syn.all (fun s => s.zipIdx.all (fun e => (e.1 != 0) == (e.2 == p)))) with
    | some p => some (k + p)
    | none => ds.find? (fun m => syn.all (fun s =>
        s.getD 0 0 != 0 && s.getD 1 0 == coeff m 1 * s.getD 0 0 && (r < 3 || s.getD 2 0 == coeff m 2 * s.getD 0 0)))

/-- Checksum of data task `i`, rebuilt or reported. -/
def checksumOf (o : OpSet) (rb : List (Nat × List Int)) (i : Nat) : Word :=
  match rb.find? (fun e => e.1 == i) with
  | some e => tileSum e.2
  | none => (o.tasks.getD i ⟨.absent, none, 0⟩).cs

/-- Σ CS of the data tiles. -/
def totalSum (o : OpSet) (rb : List (Nat × List Int)) (k : Nat) : Word :=
  (upTo k).foldl (fun x i => x + checksumOf o rb i) 0

/-- σ of parity `p`, modulo 2^64. -/
def sigma (o : OpSet) (rb : List (Nat × List Int)) (k p : Nat) : Word :=
  (upTo k).foldl (fun x i => x - BitVec.ofInt 64 (coeff i p) * checksumOf o rb i) (o.tasks.getD (k + p) ⟨.absent, none, 0⟩).cs

/-- The steps of R266 on the tasks listed as usable; a tile that fails its verification is dropped and they restart. -/
def Arch.verdict (a : Arch) (o : OpSet) : List Nat → Nat → Verdict × Arch
  | us, 0 => (⟨.failed, 1, us, [], none, 0⟩, a)
  | us, f + 1 =>
    let d := o.desc.toNat
    let k := opK d
    let r := opR d
    let n := o.tile / 8
    let fail (c : Nat) (a : Arch) : Verdict × Arch := (⟨.failed, c, us, [], none, 0⟩, a)
    if us.length < k then fail 1 a
    else
      let ms := (upTo k).filter (fun i => !us.contains i)
      let ds := (upTo k).filter (fun i => us.contains i)
      let qs := (upTo r).filter (fun p => us.contains (k + p))
      let ps := qs.take ms.length
      let rd := if ms.isEmpty then (Except.ok [], a) else a.readTiles o (ds ++ ps.map (fun p => k + p))
      match rd.1 with
      | .error j => Arch.verdict rd.2 o (us.filter (fun i => i != j)) f
      | .ok t =>
        match (if ms.isEmpty then some [] else rebuildTiles t k n ds ms ps) with
        | none => fail 2 rd.2
        | some rb =>
          if ((qs.filter (fun p => !ps.contains p)).all (fun p => sigma o rb k p == 0)) then
            (⟨.done, 0, us, rb, none, totalSum o rb k⟩, rd.2)
          else if us.length ≠ k + r ∨ r < 2 then fail 3 rd.2
          else
            let rd := rd.2.readTiles o (upTo (k + r))
            match rd.1 with
            | .error j => Arch.verdict rd.2 o (us.filter (fun i => i != j)) f
            | .ok t =>
              match locate t k r n with
              | none => fail 3 rd.2
              | some j =>
                if k ≤ j then (⟨.done, 0, us, [], some j, totalSum o [] k⟩, rd.2)
                else
                  match rebuildTiles t k n (ds.filter (fun i => i != j)) [j] [0] with
                  | none => fail 2 rd.2
                  | some rb => (⟨.done, 0, us, rb, some j, totalSum o rb k⟩, rd.2)

/-- Write the rebuilt tiles, once the outcome is DONE (R267): which of them were written. -/
def Arch.writeTiles (a : Arch) (o : OpSet) (rb : List (Nat × List Int)) : List Nat × Arch :=
  rb.foldl (fun (r : List Nat × Arch) e =>
    let q := r.2.slotReach o e.1 true
    match q.1 with
    | some ss => (r.1 ++ [e.1], q.2.copyWrite ss (tileBytes e.2))
    | none => (r.1, q.2)) ([], a)

/-- A closed operator is next for a repointing unit: one of the four is free, and no other closed before it waits (R266). -/
def Arch.unitFree (a : Arch) (o : OpSet) : Bool :=
  (a.ops.filter (fun e => (e.2.map OpSet.state) == some .decoding)).length < 4
    && !a.ops.any (fun e => match e.2 with
      | some p => p.state == .opened && p.closed.isSome && decide (p.closed.getD 0 < o.closed.getD 0)
      | none => false)

/-- REPOINTING_DECODE: one of the four units takes an operator in the order they closed, which makes STATE 2; then it decides. -/
def Arch.decode (a : Arch) (n : Nat) : Arch :=
  match a.op n with
  | none => a
  | some o =>
    if o.state = .opened then
      (if o.closed.isSome ∧ a.unitFree o = true then
        let o := { o with state := .decoding }
        (a.setOp n (some o)).opWrite o
       else a)
    else if o.state ≠ .decoding then a
    else
      let q := a.verdict o ((upTo 8).filter (fun j => o.usable.getLsbD j)) 9
      let v := q.1
      let b := (v.faulty.map (fun j => if opOuter o.desc.toNat then 0 else opBrick o.desc.toNat j)).getD 0
      let o := { o with
        usable := BitVec.ofNat 8 (v.usable.map (fun j => 2 ^ j)).sum
        faulty := BitVec.ofNat 4 ((v.faulty.map (fun j => j + 1)).getD 0)
        brick := BitVec.ofNat 3 b
        cksum := v.cksum }
      let w := q.2.writeTiles o v.rebuilt
      w.2.opFinish n { o with rebuilt := BitVec.ofNat 8 (w.1.map (fun j => 2 ^ j)).sum } v.state v.cause

end Sys2Proof.Machine
end

