-- ==== Sys2Proof/Machine/Queues.lean ====
section
/-! DEFINITION. Queues and their packets (13 R272 to R297), graphs, cancels (02 R47 to R49; 13 R290), and the end of units
(02 R34). -/

namespace Sys2Proof.Machine

-- ## Registration (R273, R274)

/-- A descriptor that breaks R273. -/
def Arch.queueBad (a : Arch) (d : Nat) : Bool :=
  let ring := dw d 0 63 0
  ring % 64 != 0 || (match a.place ring with | .stack _ _ | .host _ => false | _ => true) || 2 ^ 56 ≤ ring
    || dw d 0x08 4 0 < 4 || 16 < dw d 0x08 4 0 || dw d 0x08 63 20 != 0
    || dw d 0x10 11 0 != 0 || dw d 0x10 63 56 != 0 || dw d 0x18 6 0 != 0 || dw d 0x18 63 56 != 0
    || 4096 < dw d 0x20 12 0 || dw d 0x20 63 13 != 0
    || dw d 0x28 4 0 != 0 || dw d 0x30 4 0 != 0 || dw d 0x38 3 0 != 0
    || dw d 0x40 4 0 < 4 || 16 < dw d 0x40 4 0
    || dw d 0x40 15 5 != 0 || dw d 0x40 63 48 != 0 || bits d 1023 704 != 0

/-- The mirrors of READ and WRITE in the descriptor. -/
def Arch.mirror (a : Arch) (q : Nat) : Arch :=
  let k := a.queue q
  (a.homeWrite (k.descPa + 0x48) 4 k.read.toNat).homeWrite (k.descPa + 0x50) 4 k.write.toNat

/-- Parsing stops; started packets run on. -/
def Arch.deregister (a : Arch) (q : Nat) : Arch := a.mapQueue q (fun k => { k with armed := false, mapped := false })

/-- A new phase, or a new job. -/
def openLevel (kind : LevelKind) (parent : Option Nat) (q index : Nat) (desc : BitVec 1024) (pending record : Nat) : Level :=
  { levelOf kind parent none 0 q index desc pending record 0 none with isOpen := true }

/-- Register from a descriptor: READ = WRITE = 0 and a new job (R274). Children of units among the packets that will now never be
processed have ended for their units, not COMPLETE (log entry 71). -/
def Arch.register (a : Arch) (q pa : Nat) (d : BitVec 1024) : Arch :=
  let a := (a.queue q).pubs.foldl (fun a e => a.unitChildEnd e.2 false) a
  let a := match (a.queue q).job with | some j => a.mapLevel j (fun v => { v with frozen := true }) | none => a
  let j := a.newLevel (openLevel .job none q 0 d 1 (dw d.toNat 0x28 63 0))
  let p := j.2.newLevel (openLevel .phase (some j.1) q 0 d 0 (dw d.toNat 0x30 63 0))
  (p.2.mapQueue q (fun k => { Queue.reset with
    desc := d, descPa := pa, armed := true, job := some j.1, phase := some p.1
    packets := (k.packets.filter (fun e => !e.progress.ended)).map (fun e => { e with stale := true }) })).mirror q

/-- QSETUP with ARM = 1. -/
def Arch.arm (a : Arch) (q : Nat) : Arch :=
  if !a.firmware || 4096 ≤ q then a
  else
    let a := if (a.queue q).armed then a.deregister q else a
    let pa := a.qdesc.toNat
    let bad (a : Arch) : Arch := a.mapQueue q (fun k => { k with err := 1 })
    match a.place pa with
    | .stack _ _ =>
      if pa % 128 ≠ 0 then bad a
      else
        let x := a.fePhys pa 128
        match x.1 with
        | none => bad x.2
        | some bs =>
          if x.2.queueBad (ofBytes bs) then bad x.2 else x.2.register q pa (BitVec.ofNat 1024 (ofBytes bs))
    | _ => bad a

def execQueueArm (q : Nat) (s : State) : Out := s.frontEvent (fun a => a.arm q)
def execQueueDeregister (q : Nat) (s : State) : Out := s.frontEvent (fun a => a.deregister q)

-- ## Doorbells (R275, R291, R292)

/-- What became of a doorbell. -/
inductive Bell where
  | behind
  | overflow
  | applied (a : Arch)
deriving DecidableEq, Repr

/-- Propose a WRITE value. -/
def Arch.ring (a : Arch) (q w : Nat) : Bell :=
  let k := a.queue q
  let d := (BitVec.ofNat 32 w - k.write).toNat
  if d = 0 ∨ 2 ^ 31 ≤ d then .behind
  else if 2 ^ dw k.desc.toNat 0x08 4 0 < (BitVec.ofNat 32 w - k.read).toNat then .overflow
  else .applied ((a.mapQueue q (fun k => { k with write := BitVec.ofNat 32 w })).mirror q)

/-- QDB (R275). -/
def Arch.hostBell (a : Arch) (q w : Nat) : Arch :=
  if !a.firmware || !(a.queue q).armed then a
  else
    match a.ring q w with
    | .behind => a
    | .overflow => a.mapQueue q (fun k => { k with err := 2 })
    | .applied a => a

def execQdb (q w : Nat) (s : State) : Out := s.frontEvent (fun a => a.hostBell q w)

/-- The packets from `i` on that are children of a unit: LAUNCH, GRAPH and CODED with DETACH = 0 (R292); a read of them that has to wait
holds the doorbell. -/
def Arch.childPackets (a : Arch) (q : Nat) : BitVec 32 → Nat → List Nat × Arch
  | _, 0 => ([], a)
  | i, n + 1 =>
    let d := (a.queue q).desc.toNat
    let r := a.fePhys (dw d 0 63 0 + 64 * (i.toNat % 2 ^ dw d 0x08 4 0)) 64
    let x := (r.1.map ofBytes).getD 0
    let t := dw x 0 7 0
    let y := Arch.childPackets r.2 q (i + 1) n
    ((if 2 ≤ t ∧ t ≤ 4 ∧ dw x 0 10 10 = 0 then [i.toNat] else []) ++ y.1, y.2)

/-- QPUBERR to the issuing context. -/
def Arch.bellRefused (a : Arch) (b : Doorbell) (reason : Nat) : Arch :=
  (a.feTell [b.core]).post b.core ⟨0x0B, b.ctx, b.bt % 2 ^ 32, BitVec.ofNat 64 (b.queue + 2 ^ 12 * reason + 2 ^ 32 * b.w)⟩

/-- A device doorbell at the front end (R291). -/
def Arch.deviceBell (a : Arch) (b : Doorbell) : Arch :=
  let k := a.queue b.queue
  if !k.armed then a.bellRefused b 1
  else if dw k.desc.toNat 0x08 7 7 = 0 then a.bellRefused b 2
  else if dw k.desc.toNat 0x08 19 8 ≠ b.asid.toNat then a.bellRefused b 3
  else
    match a.ring b.queue b.w with
    | .behind => a
    | .overflow => a.bellRefused b 4
    | .applied a =>
      match b.unit with
      | none => a
      | some u =>
        let is := a.childPackets b.queue k.write (BitVec.ofNat 32 b.w - k.write).toNat
        (is.2.mapQueue b.queue (fun k => { k with pubs := k.pubs ++ is.1.map (fun i => (i, u)) })).mapUnit u (fun e =>
          { e with children := e.children + is.1.length })

/-- QPUB_DOORBELL: the doorbell is sent once every access before it has been performed; a sleeping port on its way holds it (R22). -/
def Arch.bellArrives (a : Arch) (i : Nat) : Arch :=
  match a.doorbells[i]? with
  | none => a
  | some b =>
    if !a.firmware || a.routeSleeps (b.core / 32) 8 || a.reqs.any (fun r => r.core == b.core && r.ctx == b.ctx && r.seq < b.after && r.st != .withdrawn)
        || a.writeBacks.any (fun w => w.core == b.core && w.ctx == b.ctx && w.id < b.after)
        || (a.doorbells.take i).any (fun e => e.core == b.core && e.ctx == b.ctx) then a
    else { a with doorbells := a.doorbells.eraseIdx i }.deviceBell b

-- ## Packets (R276 to R278)

def pktSignal (r : Nat) : Nat := dw r 8 63 0
def pktRecord (r : Nat) : Nat := dw r 16 63 0
def pktBody (r i : Nat) : Nat := dw r (24 + 8 * i) 63 0
/-- The interrupt it raises. -/
def pktVector (r : Nat) : Option Nat := if dw r 0 11 11 = 1 ∧ 8 ≤ dw r 0 23 16 then some (dw r 0 23 16) else none
def pktCounted (r : Nat) : Bool := 2 ≤ dw r 0 7 0 && dw r 0 7 0 ≤ 4

/-- Body words `i` to 4 are zero. -/
def bodyZero (r i : Nat) : Bool := (upTo 5).all (fun j => j < i || pktBody r j == 0)

/-- The checks of one type's own fields. -/
def bodyBad (r : Nat) : Bool :=
  match dw r 0 7 0 with
  | 1 => !bodyZero r 0
  | 2 => !bodyZero r 1 || pktBody r 0 % 256 != 0
  | 3 => !bodyZero r 1 || pktBody r 0 % 128 != 0
  | 4 => !bodyZero r 2 || pktBody r 0 % 32 != 0 || pktBody r 1 == 0 || 8192 < pktBody r 1
  | 5 => (upTo 5).any (fun i => pktBody r i % 8 != 0)
  | 6 => !bodyZero r 3 || pktBody r 0 % 8 != 0 || 3 ≤ pktBody r 2
  | 7 => !bodyZero r 2 || pktBody r 0 % 32 != 0 || 2 ≤ pktBody r 1 || pktSignal r != 0 || pktRecord r != 0
  | _ => true

/-- A packet that is bad without looking further (R278). -/
def packetBad (r : Nat) : Bool :=
  dw r 0 15 12 != 0 || dw r 0 63 24 != 0 || pktSignal r % 8 != 0 || pktRecord r % 32 != 0
    || ((dw r 0 7 0 == 1 || dw r 0 7 0 == 5 || dw r 0 7 0 == 6) && pktRecord r != 0)
    || (dw r 0 11 11 == 1 && dw r 0 23 16 < 8) || bodyBad r

def Arch.phaseOf (a : Arch) (q : Nat) : Option (Nat × Level) := (a.queue q).phase.bind (fun p => (a.level p).map (fun v => (p, v)))

/-- One worker of eight serves each mapped ready queue, higher PRIO and then lower number first (R294). -/
def Arch.served (a : Arch) (q : Nat) : Bool :=
  (a.queues.filter (fun e => e.2.mapped && a.ready_ e.1
    && (queuePrio (a.queue q).desc < queuePrio e.2.desc || (queuePrio (a.queue q).desc == queuePrio e.2.desc && e.1 < q)))).length < 8

def Arch.mayParse (a : Arch) (q : Nat) : Bool := a.firmware && (a.queue q).mapped && a.ready_ q && a.served q

/-- A processed packet is remembered until a later one has been. -/
def Arch.keepPacket (a : Arch) (q : Nat) (p : Packet) : Arch :=
  a.mapQueue q (fun k => { k with packets := k.packets ++ [p] })

/-- A counted packet joins its phase, as one child (R285). -/
def Arch.joinPhase (a : Arch) (q : Nat) : Arch :=
  match a.phaseOf q with
  | some (p, _) => a.updLevel p (fun v => { v with pending := v.pending + 1 })
  | none => a

/-- A packet that is not started ends: record, abort action, interrupt, and its unit's count (R278, R289, R290). -/
def Arch.deadEnd (a : Arch) (q : Nat) (p : Packet) (st : LevelState) : Arch :=
  let r := p.raw.toNat
  let a := (a.deadRecord p.desc (pktRecord r) st).completeSignal p.desc q p.index (pktSignal r) (pktVector r) true
  match p.unit with | some u => a.unitChildEnd u false | none => a

/-- Such a packet is passed over: its phase counts it, and its event is posted. -/
def Arch.deadPassed (a : Arch) (q : Nat) (p : Packet) (prog : Progress) (event : Option Nat) : Arch :=
  let a := if pktCounted p.raw.toNat then
      (match a.phaseOf q with | some (l, _) => (a.joinPhase q).countEnd l false | none => a)
    else a
  let a := match event with | some e => a.jobEvent q e p.index a.now | none => a
  a.keepPacket q { p with progress := prog }

def Arch.deadPacket (a : Arch) (q : Nat) (p : Packet) (st : LevelState) (prog : Progress) (event : Option Nat) : Arch :=
  (a.deadEnd q p st).deadPassed q p prog event

/-- The packet at index `i` of a queue, from its bytes. -/
def Queue.packetOf (k : Queue) (i r : Nat) : Packet :=
  { index := i, raw := BitVec.ofNat 512 r, progress := .waiting, level := none
    unit := (k.pubs.find? (fun e => e.1 == i)).map Prod.snd, phase := k.phase, desc := k.desc, stale := false, named := []
    evals := [] }

/-- The queue as READ passes a packet. -/
def Queue.pass (k : Queue) : Queue :=
  let i := k.read.toNat
  { k with read := k.read + 1, pubs := k.pubs.filter (fun e => e.1 != i), dead := k.dead.filter (fun j => j != i) }

/-- The packets of a cancelled unit that are its children and have not been processed end CANCELLED at once (R48, R50). -/
def Arch.cancelPubs (a : Arch) (u : Nat) : Arch :=
  a.queues.foldl (fun a e =>
    (e.2.pubs.filter (fun p => p.2 == u)).foldl (fun a p =>
      let x := a.fePhys (dw e.2.desc.toNat 0 63 0 + 64 * (p.1 % 2 ^ dw e.2.desc.toNat 0x08 4 0)) 64
      (x.2.deadEnd e.1 (e.2.packetOf p.1 ((x.1.map ofBytes).getD 0)) .cancelled).mapQueue e.1 (fun k => { k with
        pubs := k.pubs.filter (fun v => v != p), dead := k.dead ++ [p.1] })) a) a

/-- The last packet before this one ended other than COMPLETE (R276). -/
def Arch.chainBroken (a : Arch) (q : Nat) : Bool :=
  match (a.queue q).current.getLast? with
  | some p => p.progress != .complete
  | none => false

/-- Process the packet at READ, where its type is one of `types`. -/
def Arch.takePacket (a : Arch) (q : Nat) (types : Nat → Bool) (body : Arch → Packet → Arch) : Arch :=
  if !a.mayParse q then a
  else
    let x := a.nextPacket q
    let r := x.1.getD 0
    let t := dw r 0 7 0
    if !types t || (t == 3 && 256 ≤ a.opq.length) then a
    else
      let k := a.queue q
      let p := k.packetOf k.read.toNat r
      let a := (x.2.mapQueue q Queue.pass).mirror q
      if k.dead.contains p.index then a.deadPassed q p .cancelled none
      else if t ≠ 7 ∧ (match a.phaseOf q with | some (_, v) => v.cancelled | none => true) = true then
        a.deadPacket q p .cancelled .cancelled none
      else if pktAchain p.raw && a.chainBroken q then a.deadPacket q p .cancelled .aborted (some evAbort)
      else if packetBad r then a.deadPacket q p .failed .failed (some evBadPacket)
      else body a p

/-- A packet without a level of its own ends after it has started. -/
def Arch.plainEnd (a : Arch) (q : Nat) (p : Packet) (ok : Bool) : Arch :=
  let r := p.raw.toNat
  (a.completeSignal p.desc q p.index (pktSignal r) (pktVector r) false).keepPacket q
    { p with progress := if ok then .complete else .failed }

def execPacketNop (q : Nat) (s : State) : Out :=
  s.frontEvent (fun a => a.takePacket q (fun t => t < 2 || 7 < t) (fun a p => a.plainEnd q p true))

-- ## LAUNCH and CODED (R279 to R281)

/-- How deep a packet's units stand (R45). -/
def Arch.packetDepth (a : Arch) (p : Packet) : Nat := ((p.unit.bind a.unit).map (fun e => e.depth + 1)).getD 0

/-- The level of a packet. -/
def Arch.packetLevel (a : Arch) (q : Nat) (p : Packet) (kind : LevelKind) (pending : Nat) : Nat × Arch :=
  let r := p.raw.toNat
  let a := a.joinPhase q
  let x := a.newLevel (levelOf kind (a.queue q).phase p.unit (a.packetDepth p) q p.index p.desc pending (pktRecord r) (pktSignal r)
    (pktVector r))
  (x.1, x.2.keepPacket q { p with progress := .started, level := some x.1 })

/-- Where a launch's first core is, after placement (R284). -/
def Arch.launchBase (a : Arch) (r : XlRegs) (d slice : Nat) : Nat × Arch :=
  if ldFloat d then let q := a.placement r d slice; (32 * q.1 + dw d 0 7 0, q.2) else (dw d 0 7 0, a)

def Arch.launchBody (a : Arch) (q : Nat) (p : Packet) : Arch :=
  let r := queueRegs p.desc
  if 16 ≤ a.packetDepth p then a.deadPacket q p .failed .failed none
  else
    let x := a.readLaunch r (pktBody p.raw.toNat 0)
    match x.1 with
    | none => x.2.deadPacket q p .failed .failed (some evBadPacket)
    | some (d, image, presets) =>
      let l := x.2.packetLevel q p .launch (ldNunits d)
      let b := l.2.launchBase r d 0
      b.2.addLaunch l.1 (some l.1) (some q) (launchRegs r d) d b.1 image presets none

def execPacketLaunch (q : Nat) (s : State) : Out :=
  s.frontEvent (fun a => a.takePacket q (fun t => t == 2) (fun a p => a.launchBody q p))

/-- Enter the dispatcher queue on behalf of a level. -/
def Arch.askOperator (a : Arch) (q l pa va : Nat) (r : XlRegs) : Arch :=
  { a with opq := a.opq ++ [⟨pa, va, r, none, some l, some q, none, 0, false⟩] }

def Arch.codedBody (a : Arch) (q : Nat) (p : Packet) : Arch :=
  let r := queueRegs p.desc
  let va := pktBody p.raw.toNat 0
  if 16 ≤ a.packetDepth p then a.deadPacket q p .failed .failed none
  else
    let x := a.feXlate r va true false
    match x.1 with
    | none => x.2.deadPacket q p .failed .failed (some evBadPacket)
    | some pa =>
      let l := x.2.packetLevel q p .coded 1
      l.2.askOperator q l.1 pa va r

-- ## Graphs (R282, R283)

/-- The nodes of an array, with their successors; none where one cannot be read or breaks a rule. -/
def Arch.readNodes (a : Arch) (r : XlRegs) (va n : Nat) : Nat → Option (List Node) × Arch
  | 0 => (some [], a)
  | f + 1 =>
    let i := n - (f + 1)
    let x := a.feRead r (va + 32 * i) 32
    match x.1.map ofBytes with
    | none => (none, x.2)
    | some e =>
      let ns := dw e 8 29 14
      if dw e 8 63 30 ≠ 0 ∨ 8191 < dw e 8 13 0 ∨ 8191 < ns ∨ dw e 16 0 0 ≠ 0 ∨ dw e 24 4 0 ≠ 0 then (none, x.2)
      else
        let y := x.2.feRead r (dw e 16 63 0) (2 * ns)
        let z := Arch.readNodes y.2 r va n f
        match y.1, z.1 with
        | some ss, some rest =>
          (some ({ coded := dw e 0 0 0 == 1, desc := dw e 0 63 1 * 2, preds := dw e 8 13 0
                   succs := toLanes 16 ns (ofBytes ss), record := dw e 24 63 0, progress := .waiting, level := none
                   slice := i % 8 } :: rest), z.2)
        | _, _ => (none, z.2)

/-- Nodes of a list that some node of the list names as a successor. -/
def stillBlocked (ns : List Node) (live : List Nat) : List Nat :=
  let named := live.flatMap (fun i => (ns[i]?.map Node.succs).getD [])
  live.filter (fun i => named.contains i)

/-- Remove nodes without predecessors until none is left to remove. -/
def cycleOf (ns : List Node) (live : List Nat) : Nat → List Nat
  | 0 => live
  | f + 1 => let l := stillBlocked ns live; if l.length = live.length then l else cycleOf ns l f

/-- Successors exist, predecessor counts agree, and the edges form no cycle. -/
def graphOk (ns : List Node) : Bool :=
  let named := ns.flatMap Node.succs
  named.all (fun i => i < ns.length)
    && ns.zipIdx.all (fun e => e.1.preds == (named.filter (fun i => i == e.2)).length)
    && (cycleOf ns (upTo ns.length) (ns.length + 1)).isEmpty

def Arch.graphBody (a : Arch) (q : Nat) (p : Packet) : Arch :=
  let n := pktBody p.raw.toNat 1
  if 16 ≤ a.packetDepth p then a.deadPacket q p .failed .failed none
  else
    let x := a.readNodes (queueRegs p.desc) (pktBody p.raw.toNat 0) n n
    match x.1.filter graphOk with
    | none => x.2.deadPacket q p .failed .failed (some evBadPacket)
    | some ns =>
      let l := x.2.packetLevel q p .graph n
      l.2.setGraph l.1 ⟨l.1, q, ns, false⟩

def execPacketGraph (q : Nat) (s : State) : Out :=
  s.frontEvent (fun a => a.takePacket q (fun t => t == 4) (fun a p => a.graphBody q p))

/-- A waiting graph is admitted, in order, once every slice has room. -/
def Arch.admitGraph (a : Arch) (g : Nat) : Arch :=
  match a.graph g with
  | none => a
  | some v =>
    let need (b : Nat) : Nat := (v.nodes.filter (fun k => k.slice == b && !k.progress.ended)).length
    if !a.firmware || v.admitted || a.graphs.any (fun e => e.1 < g && (e.2.map Graph.admitted) == some false)
        || (upTo 8).any (fun b => 1024 < (a.brick b).nodes + need b) then a
    else
      (upTo 8).foldl (fun a b => a.mapBrick b (fun k => { k with nodes := k.nodes + need b }))
        (a.setGraph g { v with admitted := true })

def execGraphAdmit (g : Nat) (s : State) : Out := s.frontEvent (fun a => a.admitGraph g)

/-- A node fires: its launch waits for release, or its operator for a set (R283). -/
def Arch.fireNode (a : Arch) (g n : Nat) : Arch :=
  match a.graph g, (a.graph g).bind (fun v => v.nodes[n]?), (a.graph g).bind (fun v => a.level v.level) with
  | some v, some k, some w =>
    if !a.firmware || !v.admitted || k.progress != .waiting || k.preds != 0 || w.cancelled then a
    else
      let r := queueRegs w.desc
      let started (a : Arch) (l : Nat) : Arch :=
        a.mapGraph g (fun v => v.mapNode n (fun k => { k with progress := .started, level := some l }))
      let lev (kind : LevelKind) (pending : Nat) : Level :=
        levelOf kind (some v.level) none w.depth w.queue w.index w.desc pending k.record 0 none
      let bad (a : Arch) : Arch :=
        (a.failNodes g .failed [n] (v.edges + 1)).jobEvent w.queue evBadPacket w.index a.now
      if k.coded then
        let x := if k.desc % 128 = 0 then a.feXlate r k.desc true false else (none, a)
        match x.1 with
        | none => bad x.2
        | some pa =>
          if 256 ≤ a.opq.length then a
          else let l := x.2.newLevel (lev .coded 1); (started l.2 l.1).askOperator w.queue l.1 pa k.desc r
      else
        let x := a.readLaunch r k.desc
        match x.1 with
        | none => bad x.2
        | some (d, image, presets) =>
          let b := x.2.launchBase r d k.slice
          let l := b.2.newLevel (lev .launch (ldNunits d))
          (started l.2 l.1).addLaunch l.1 (some l.1) (some w.queue) (launchRegs r d) d b.1 image presets none
  | _, _, _ => a

def execNodeFire (g n : Nat) (s : State) : Out := s.frontEvent (fun a => a.fireNode g n)

-- ## BARRIER_AND and SIGNAL (R287, R288)

/-- The addresses of named signals; none where one fails under R286. -/
def Arch.namedSignals (a : Arch) (r : XlRegs) : List Nat → Option (List Nat) × Arch
  | [] => (some [], a)
  | va :: vs =>
    let x := a.signalAt r va
    let y := Arch.namedSignals x.2 r vs
    (match x.1, y.1 with | some pa, some ps => some (pa :: ps) | _, _ => none, y.2)

/-- What an evaluation decides. -/
def evaluate (vs : List Word) : Option Bool :=
  if vs.any (fun v => v.msb) then some false else if vs.all (fun v => v == 0) then some true else none

/-- A BARRIER_AND ends: decremented, or aborted (R288, R289). -/
def Arch.barrierEnds (a : Arch) (q : Nat) (p : Packet) (prog : Progress) : Arch :=
  let r := p.raw.toNat
  let ok := prog = .complete
  let a := a.mapQueue q (fun k => { k with packets := k.packets.map (fun e =>
    if e.index = p.index ∧ e.stale = p.stale ∧ e.named = p.named ∧ e.progress = .started then
      { e with progress := prog, named := [], evals := [] } else e) })
  let a := a.completeSignal p.desc q p.index (pktSignal r) (pktVector r) (!ok)
  if prog = .aborted then a.jobEvent q evAbort p.index a.now else a

/-- The value of each signal now. -/
def Arch.signalValues (a : Arch) (ps : List Nat) : List Word × Arch :=
  ps.foldl (fun (q : List Word × Arch) pa =>
    let x := q.2.homeRead pa 8
    (q.1 ++ [BitVec.ofNat 64 x.1], x.2)) ([], a)

/-- The reads of signals that an evaluation has made, with the values noted at the write it follows, leave in the slices what reads
leave (R179, R185, R211, R288). -/
def Arch.signalTraces (a : Arch) (ps : List Nat) : Arch :=
  ps.foldl (fun a pa => (a.snoopLine (lineOf pa) false).touchLine false (lineOf pa)) a

/-- One evaluation of a waiting packet, in place of which the queue holds `p`: its addresses are looked at afresh, and its values are
those after the oldest write noted, or now. -/
def Arch.evalPacket (a : Arch) (q : Nat) (p : Packet) : Arch :=
  let x := a.namedSignals (queueRegs p.desc) (((upTo 5).map (pktBody p.raw.toNat)).filter (fun v => v != 0))
  match x.1 with
  | none => x.2.barrierEnds q p .aborted
  | some ps =>
    let n := { p with named := ps, evals := p.evals.drop 1 }
    let a := x.2.mapQueue q (fun k => { k with packets := k.packets.map (fun e => if e = p then n else e) })
    let y := match p.evals with
      | v :: _ => (v, a.signalTraces ps)
      | [] => a.signalValues ps
    match evaluate y.1 with
    | some true => y.2.barrierEnds q n .complete
    | some false => y.2.barrierEnds q n .aborted
    | none => y.2

def Arch.barrierBody (a : Arch) (q : Nat) (p : Packet) : Arch :=
  let p := { p with progress := .started }
  (a.keepPacket q p).evalPacket q p

def execPacketBarrierAnd (q : Nat) (s : State) : Out :=
  s.frontEvent (fun a => a.takePacket q (fun t => t == 5) (fun a p => a.barrierBody q p))

/-- BARRIER_AND_EVALUATE: each waiting packet of the queue makes its next evaluation, if a write calls for one. -/
def Arch.evalQueue (a : Arch) (q : Nat) : Arch :=
  if !a.firmware then a
  else ((a.queue q).packets.filter (fun p => p.progress == .started && p.level.isNone && !p.evals.isEmpty)).foldl
    (fun a p => a.evalPacket q p) a

def execBarrierAndEvaluate (q : Nat) (s : State) : Out := s.frontEvent (fun a => a.evalQueue q)

def Arch.signalBody (a : Arch) (q : Nat) (p : Packet) : Arch :=
  let r := p.raw.toNat
  let x := a.signalOp p.desc q p.index (pktBody r 0) (pktBody r 2) (pktBody r 1)
  x.2.plainEnd q p x.1

def execPacketSignal (q : Nat) (s : State) : Out :=
  s.frontEvent (fun a => a.takePacket q (fun t => t == 6) (fun a p => a.signalBody q p))

-- ## PHASE_END (R285)

/-- The phase closes; the job closes with LAST, else a phase with record NEXTREC follows. -/
def Arch.phaseBody (a : Arch) (q : Nat) (p : Packet) : Arch :=
  let r := p.raw.toNat
  let k := a.queue q
  let last := pktBody r 1 == 1
  let a := match k.phase with | some l => a.mapLevel l (fun v => { v with isOpen := false }) | none => a
  let a := if last then
      (match k.job with | some j => (a.mapLevel j (fun v => { v with isOpen := false })).mapQueue q (fun k => { k with phase := none }) | none => a)
    else
      let a := match k.job with | some j => a.updLevel j (fun v => { v with pending := v.pending + 1 }) | none => a
      let x := a.newLevel (openLevel .phase k.job q p.index k.desc 0 (pktBody r 0))
      x.2.mapQueue q (fun k => { k with phase := some x.1 })
  a.plainEnd q p true

def execPacketPhaseEnd (q : Nat) (s : State) : Out :=
  s.frontEvent (fun a => a.takePacket q (fun t => t == 7) (fun a p => a.phaseBody q p))

-- ## Cancels (R47 to R49, R290)

/-- Level `x` is level `l` or stands below it, through levels and through units' children. -/
def Arch.below (a : Arch) (l x : Nat) : Nat → Bool
  | 0 => false
  | f + 1 =>
    x == l || (match a.level x with
      | none => false
      | some v =>
        (match v.parent with | some p => Arch.below a l p f | none => false)
          || (match v.unit.bind a.unitLevel with | some p => Arch.below a l p f | none => false))

/-- Published packets not yet processed are discarded, up to a PHASE_END that belongs to the job (R290). -/
def Arch.discard (a : Arch) (q : Nat) (all : Bool) : Nat → Arch
  | 0 => a
  | f + 1 =>
    let k := a.queue q
    if k.read = k.write then a
    else
      let x := a.nextPacket q
      let r := x.1.getD 0
      if !all && dw r 0 7 0 == 7 then a
      else
        let p := k.packetOf k.read.toNat r
        let a := x.2.mapQueue q Queue.pass
        let a := if k.dead.contains p.index then a.deadPassed q p .cancelled none else a.deadPacket q p .cancelled .cancelled none
        Arch.discard (a.mirror q) q all f

/-- What a cancel does to the queue of a job or phase: packets are discarded. -/
def Arch.cancelQueue (a : Arch) (q : Nat) (job : Bool) : Arch :=
  if (a.queue q).armed then a.discard q job 65536 else a

/-- A BARRIER_AND of the phases `ls` that waits. -/
def Packet.waits (p : Packet) (ls : List Nat) : Bool :=
  p.progress == .started && p.level.isNone && ls.any (fun l => p.phase == some l)

/-- The evaluations that writes performed so far call for, of the waiting BARRIER_ANDs of phases. -/
def Arch.evalBarriers (a : Arch) (q : Nat) (ls : List Nat) : Nat → Arch
  | 0 => a
  | f + 1 =>
    match (a.queue q).packets.find? (fun p => p.waits ls && !p.evals.isEmpty) with
    | none => a
    | some p => Arch.evalBarriers (a.evalPacket q p) q ls f

/-- The waiting BARRIER_ANDs of phases stop, all of them before the first of their abort actions, which no evaluation of one of them
follows (R290). -/
def Arch.endBarriers (a : Arch) (q : Nat) (ls : List Nat) : Arch :=
  let ps := (a.queue q).packets.filter (fun p => p.waits ls)
  let a := a.mapQueue q (fun k => { k with packets := k.packets.map (fun p =>
    if p.waits ls then { p with progress := .cancelled, named := [], evals := [] } else p) })
  ps.foldl (fun a p => a.barrierEnds q p .cancelled) a

/-- Steps enough to stop the BARRIER_ANDs of a queue. -/
def Queue.barrierSteps (k : Queue) : Nat := (k.packets.map (fun p => p.evals.length + 1)).sum

/-- The evaluations that writes performed before a cancel call for come before it; then the waiting BARRIER_ANDs of the phases stop
(R290). -/
def Arch.stopBarriers (a : Arch) (q : Nat) (ls : List Nat) : Arch :=
  (a.evalBarriers q ls (a.queue q).barrierSteps).endBarriers q ls

/-- The phases of a job. -/
def Arch.phasesOf (a : Arch) (j : Nat) : List Nat :=
  (a.levels.filter (fun e => match e.2 with | some v => v.kind == .phase && v.parent == some j | none => false)).map Prod.fst

/-- What a cancel does to one level. The waiting barriers of a job stop before its packets are discarded, whose abort actions are no
writes performed before the cancel (R290). -/
def Arch.cancelLevel (a : Arch) (l : Nat) : Arch :=
  match a.level l with
  | none => a
  | some v =>
    let a := a.updLevel l (fun v => { v with cancelled := true })
    match v.kind with
    | .job =>
      let a := a.stopBarriers v.queue (a.phasesOf l)
      if (a.queue v.queue).job = some l then a.cancelQueue v.queue true else a
    | .phase =>
      let a := a.stopBarriers v.queue [l]
      if (a.queue v.queue).phase = some l then a.cancelQueue v.queue false else a
    | .graph =>
      (match a.graph l with
       | some g =>
         let a := if g.admitted then a else a.mapLevel l (fun v => { v with abort := true })
         (g.nodes.zipIdx.filter (fun e => e.1.progress == .waiting)).foldl (fun a e =>
           match (a.graph l).bind (fun g => g.nodes[e.2]?) with
           | some k =>
             if k.progress = .waiting then
               ((a.nodeOver l e.2 .cancelled).deadRecord v.desc k.record .cancelled).countEnd l false
             else a
           | none => a) a
       | none => a)
    | .launch =>
      (match a.launch l with
       | some w =>
         if w.released then
           let a := a.setLaunch l { w with drained := true }
           let a := { a with bricks := SMap.mapv Brick.reset a.bricks (fun k => { k with batches := SMap.set [] k.batches l [] }) }
           ((a.units.filter (fun e => (e.2.map ExecUnit.launch) == some l)).map Prod.fst).foldl
             (fun a u => (a.stopUnit u .cancelled).cancelPubs u) a
         else
           -- no unit of it has been released: each ends CANCELLED (R423)
           ({ a with launches := SMap.set none a.launches l none }.mapLevel l (fun v =>
             { v with abandoned := v.abandoned + v.pending, pending := 0 })).markLoss l nestMax
       | none => a)
    | .coded =>
      let a := if a.opq.any (fun r => r.level == some l) then
          ({ a with opq := a.opq.filter (fun r => r.level != some l) }).codedEnds (some l) .cancelled
        else a
      ((a.ops.filter (fun e => (e.2.bind OpSet.level) == some l)).map Prod.fst).foldl (fun a n => a.opCancel n) a

/-- A level that is live and not yet cancelled is cancelled, with everything below it (R48). -/
def Arch.cancelBelow (a : Arch) (l : Nat) : Arch :=
  ((a.levels.map Prod.fst).filter (fun x => a.below l x nestMax)).foldl (fun a x => a.cancelLevel x) a

/-- The children of a cancelled unit are cancelled (R48): those of a unit of a launch have been with the launch, those of an operator's
task have not. -/
def Arch.cancelChildren (a : Arch) (u : Nat) : Arch :=
  ((a.levels.filter (fun e => match e.2 with
    | some v => v.unit == some u && v.state.live && !v.cancelled
    | none => false)).map Prod.fst).foldl Arch.cancelBelow (a.cancelPubs u)

/-- The first of the records listed, each with the registers it is translated through, that lies at a physical address: its number. A
walk that has to wait holds the step (log entry 68). -/
def Arch.recordAmong (a : Arch) (record : Nat) : List (Nat × XlRegs × Nat) → Option Nat × Arch
  | [] => (none, a)
  | e :: es =>
    let x := a.feXlate e.2.1 e.2.2 false true
    if x.1 = some record then (some e.1, x.2) else Arch.recordAmong x.2 record es

/-- The records of live levels that have one, and of operators. -/
def Arch.levelRecords (a : Arch) : List (Nat × XlRegs × Nat) :=
  a.levels.filterMap (fun e => e.2.bind (fun v =>
    if v.state.live && !v.cancelled && v.record != 0 then some (e.1, queueRegs v.desc, v.record) else none))
def Arch.opRecords (a : Arch) : List (Nat × XlRegs × Nat) :=
  a.ops.filterMap (fun e => e.2.map (fun o => (e.1, o.regs, opRecord o.desc.toNat)))

/-- The live level or operator whose record lies at a physical address is cancelled. -/
def Arch.cancelAt (a : Arch) (record : Nat) : Arch :=
  let x := a.recordAmong record a.levelRecords
  match x.1 with
  | some l => x.2.cancelBelow l
  | none =>
    let y := x.2.recordAmong record x.2.opRecords
    match y.1 with
    | some n => y.2.opCancel n
    | none => y.2

/-- CANCEL: a write that has reached the Quoin die is performed; one that sets a reserved bit is ignored. -/
def Arch.cancelWrite (a : Arch) (record : Nat) : Arch :=
  if !a.cancels.contains record then a
  else
    let a := { a with cancels := a.cancels.erase record }
    if 2 ^ 56 ≤ record then a else a.cancelAt record

-- ## The end of a unit (R34)

/-- UNIT_END; a task that has halted returns first (R264). -/
def Arch.unitEnds (a : Arch) (u : Nat) : Arch :=
  match a.unit u with
  | none => a
  | some e =>
    let a := a.finishFailing u e
    match a.unit u with
    | none => a
    | some e =>
      match e.fate with
      | none => a
      | some f =>
        let a := if f = .cancelled ∧ e.children ≠ 0 then a.cancelChildren u else a
        if !a.unitQuiet u e then a
        else
          match (a.launch e.launch).bind Launch.task with
          | some (n, j) =>
            if n = 64 then a.endUnit u e f
            else if f = .complete then a
            else (a.endUnit u e f).taskEnds n j .ended
          | none => a.endUnit u e f

-- ## Steps of operators and cancels

/-- A unit whose own cancel, or that of its launch or operator, has been performed: its children are cancelled with it (R48). -/
def Arch.bereft (a : Arch) (e : ExecUnit) : Bool :=
  e.fate == some .cancelled || (match a.launch e.launch with
    | some v => (v.task.map Prod.fst) == some 64 || ((v.level.bind a.level).map Level.cancelled) == some true
    | none => false)

/-- Children of cancelled units are cancelled, those too that are published only now (R48). -/
def Arch.orphans (a : Arch) : Arch :=
  (a.units.map Prod.fst).foldl (fun a u =>
    match a.unit u with
    | some e => if e.children ≠ 0 ∧ a.bereft e = true then a.cancelChildren u else a
    | none => a) a

/-- What follows an action in which operators, levels or units may have ended or been cancelled. -/
def Arch.opDone (a : Arch) : Arch := a.opSweep.orphans

/-- A step in which coded operators may end or be cancelled. -/
def State.opEvent (s : State) (f : Arch → Arch) : Out := s.frontEvent (fun a => (f a).opDone)

def execPacketCoded (q : Nat) (s : State) : Out :=
  s.opEvent (fun a => a.takePacket q (fun t => t == 3) (fun a p => a.codedBody q p))

def execQpubDoorbell (i : Nat) (s : State) : Out := s.opEvent (fun a => a.bellArrives i)

def execCancel (record : Nat) (s : State) : Out := s.opEvent (fun a => a.cancelWrite record)

def execUnitEnd (u : Nat) (s : State) : Out := s.opEvent (fun a => a.unitEnds u)

def execTaskReturn (u : Nat) (s : State) : Out :=
  let q := s.arch.returnTask u s.fresh
  .next { s with arch := s.arch.unlessHeld (fun _ => q.2.opDone.frontDone), fresh := s.fresh + q.1 }

def execGraceExpiry (n : Nat) (s : State) : Out := s.opEvent (fun a => a.graceExpires n)

def execTmaxExpiry (n : Nat) (s : State) : Out := s.opEvent (fun a => a.tmaxExpires n)

def execOperatorOpen (s : State) : Out := s.opEvent Arch.openOp

def execRepointingDecode (n : Nat) (s : State) : Out := s.opEvent (fun a => a.decode n)

-- ## Slots, workers and firmware (R293, R297)

/-- 100 µs in thirds of a nanosecond. -/
def sliceTime : Nat := 300000

/-- A queue that has held its slot for 100 µs gives it to the head of the list, and joins the tail if it is still ready. -/
def Arch.timeslice (a : Arch) (q : Nat) : Arch :=
  let k := a.queue q
  match a.readyList with
  | [] => a
  | h :: t =>
    if !a.firmware || !k.mapped || a.clock < k.mappedAt + sliceTime then a
    else
      let a := (a.mapQueue q (fun k => { k with mapped := false })).mapQueue h (fun k => { k with mapped := true, mappedAt := a.clock })
      { a with readyList := t ++ (if a.ready_ q then [q] else []) }

def execSlotTimeslice (q : Nat) (s : State) : Out := s.frontEvent (fun a => a.timeslice q)

/-- A worker is restarted, and its packet will be parsed again; nothing else shows. -/
def execWorkerTimeout (q : Nat) (s : State) : Out :=
  s.frontEvent (fun a => if a.mayParse q then { a with workerRestarts := a.workerRestarts + 1 } else a)

/-- The lock-step pair stops: firmware fault, and a machine-check interrupt. -/
def execLockstepMismatch (s : State) : Out :=
  s.frontEvent (fun a => if a.firmware then { a with boot := { a.boot with state := .fwfault } }.interrupt 0 else a)

-- ## Energy (R295)

/-- The units a queue runs. -/
def Arch.queueUnits (a : Arch) (q : Nat) : List Nat :=
  (a.units.filter (fun e => match e.2 with
    | some u => ((a.launch u.launch).bind Launch.queue) == some q && u.fate.isNone && !u.swapped
    | none => false)).map Prod.fst

/-- The running units of a throttled queue begin to be swapped out. -/
def Arch.swapQueue (a : Arch) (q : Nat) : Arch :=
  (a.queueUnits q).foldl (fun a u => match a.unit u with | some e => a.swapBegin e | none => a) a

/-- A charge of `uj` µJ; at the budget the queue is throttled, and its units begin to be swapped out, those too that could not be
frozen when it was throttled. -/
def Arch.charge (a : Arch) (q uj : Nat) : Arch :=
  let k := a.queue q
  let budget := dw k.desc.toNat 0x40 47 16
  if budget = 0 ∨ k.armed = false ∨ a.firmware = false then a
  else
    let a := a.mapQueue q (fun k => { k with charge := k.charge + uj })
    if k.charge + uj < budget then a
    else if k.throttled then a.swapQueue q
    else
      let a := a.mapQueue q (fun k => { k with throttled := true, mapped := false, throttleEvent := true })
      let a := if k.throttleEvent then a else a.jobEvent q evThrottle 0 a.now
      a.swapQueue q

def execEnergyCharge (q uj : Nat) (s : State) : Out := s.frontEvent (fun a => a.charge q uj)

/-- A period of 1 ms of 1588 time starts: charges return to 0 and throttling clears; swapped units may be restored. -/
def Arch.period (a : Arch) : Arch :=
  let n := a.now / 1000000
  if n ≤ a.periodStart ∨ a.firmware = false then a
  else
    { a with periodStart := n
             queues := a.queues.map (fun (e : Nat × Queue) =>
               (e.1, { e.2 with charge := 0, throttled := false, throttleEvent := false })) }

def execAccountingPeriod (s : State) : Out := s.frontEvent Arch.period

end Sys2Proof.Machine
end

