-- ==== Sys2Proof/Machine/Special.lean ====
section
/-! DEFINITION. The special functions of R397 to R399 and R414: the exact value rounded once to nearest. Reciprocals and
reciprocal roots are exact quotients with a remainder; the transcendental functions are enclosed between two bounds of
growing precision until both round alike (log entry 12). -/

namespace Sys2Proof.Machine

/-- Integer square root, bit by bit: the greatest r below 2^n with r * r ≤ x, starting from `r`. -/
def sqrtFrom (x r : Nat) : Nat → Nat
  | 0 => r
  | n + 1 => let t := r + 2 ^ n; sqrtFrom x (if t * t ≤ x then t else r) n

def isqrt (x : Nat) : Nat := sqrtFrom x 0 (bitLen x / 2 + 1)

-- ## Enclosures: bounds in units of 2^-P

/-- The rounding of every value between two bounds, where they agree. -/
def Fmt.agree (f : Fmt) (neg : Bool) (lo hi : Nat) (e : Int) : Option Nat :=
  let a := f.roundFin 0 neg lo e false
  if a = f.roundFin 0 neg hi e false then some a else none

/-- Try precisions 64, 128, 256 … until the bounds agree; `enc P` gives lower and upper bounds and their unit's exponent. -/
def Fmt.enclose (f : Fmt) (neg : Bool) (enc : Nat → Nat × Nat × Int) (P : Nat) : Nat → Nat
  | 0 => let r := enc P; f.roundFin 0 neg r.1 r.2.2 false
  | n + 1 =>
    let r := enc P
    match f.agree neg r.1 r.2.1 r.2.2 with
    | some x => x
    | none => Fmt.enclose f neg enc (2 * P) n

-- ## VEXP2

/-- Bounds of 2^(n / 2^k) in units of 2^-P, from the bits of `n` below bit `k` down: `r` bounds the factor 2^(2^-j). -/
def exp2From (P n k : Nat) (acc r : Nat × Nat) (j : Nat) : Nat → Nat × Nat
  | 0 => acc
  | fuel + 1 =>
    let r := (isqrt (r.1 * 2 ^ P), isqrt (r.2 * 2 ^ P) + 1)
    let acc := if n.testBit (k - j) then (acc.1 * r.1 / 2 ^ P, acc.2 * r.2 / 2 ^ P + 1) else acc
    exp2From P n k acc r (j + 1) fuel

/-- Bounds of 2^(n / 2^k) for n below 2^k. -/
def exp2Frac (P n k : Nat) : Nat × Nat := exp2From P n k (2 ^ P, 2 ^ P) (2 ^ (P + 1), 2 ^ (P + 1)) 1 k

/-- 2^x for finite x = (-1)^neg * m * 2^e, rounded (R398). -/
def Fmt.exp2 (f : Fmt) (neg : Bool) (m : Nat) (e : Int) : Nat :=
  if m = 0 then f.roundFin 0 false 1 0 false
  else if 11 < e + Int.ofNat (log2 m) then (if neg then 0 else f.infBits false)
  else if e + Int.ofNat (log2 m) < -40 then f.roundFin 0 false 1 0 false
  else
    let x := signed neg (m * 2 ^ e.toNat)
    let k := (-e).toNat
    let i := x / pow2 k
    let n := (x % pow2 k).toNat
    if n = 0 then f.roundFin 0 false 1 i false
    else f.enclose false (fun P => let r := exp2Frac P n k; (r.1, r.2, i - Int.ofNat P)) 64 6

-- ## VLOG2

/-- Bits of log2 y for y in [1, 2), by repeated squaring: `v` is the result so far in units of 2^-j, until the bounds no
longer tell the next bit. -/
def log2From (P : Nat) (v j : Nat) (y : Nat × Nat) : Nat → Nat × Nat
  | 0 => (v, j)
  | fuel + 1 =>
    let z := (y.1 * y.1 / 2 ^ P, y.2 * y.2 / 2 ^ P + 1)
    if 2 ^ (P + 1) ≤ z.1 then log2From P (2 * v + 1) (j + 1) (z.1 / 2, z.2 / 2 + 1) fuel
    else if z.2 < 2 ^ (P + 1) then log2From P (2 * v) (j + 1) z fuel
    else (v, j)

/-- Bounds of |i + log2 y| for y = m / 2^b in (1, 2): sign, magnitudes, unit. -/
def log2Enc (i : Int) (m b P : Nat) : Nat × Nat × Int :=
  let y := m * 2 ^ (P - b)
  let r := log2From P 0 0 (y, y) P
  let lo := i * pow2 r.2 + Int.ofNat r.1
  let hi := lo + 1
  if i < 0 then ((-hi).toNat, (-lo).toNat, -Int.ofNat r.2) else (lo.toNat, hi.toNat, -Int.ofNat r.2)

/-- log2 of the finite positive m * 2^e, rounded (R399). -/
def Fmt.log2 (f : Fmt) (m : Nat) (e : Int) : Nat :=
  let b := Nat.log2 m
  let i := e + Int.ofNat b
  if m = 2 ^ b then f.round 0 (FVal.ofInt i 0 false)
  else f.enclose (i < 0) (log2Enc i m b) 64 6

-- ## VTANH

/-- Taylor terms of exp r for r = n / 2^P below 1: bounds of the sum of the terms from `k` on, given bounds of the last. -/
def expTaylor (P n : Nat) (acc t : Nat × Nat) (k : Nat) : Nat → Nat × Nat
  | 0 => (acc.1, acc.2 + 2 * t.2 + 2)
  | fuel + 1 =>
    let t := (t.1 * n / 2 ^ P / k, (t.2 * n / 2 ^ P + 1) / k + 1)
    expTaylor P n (acc.1 + t.1, acc.2 + t.2) t (k + 1) fuel

/-- Square `n` times. -/
def squares (P : Nat) (r : Nat × Nat) : Nat → Nat × Nat
  | 0 => r
  | n + 1 => squares P (r.1 * r.1 / 2 ^ P, r.2 * r.2 / 2 ^ P + 1) n

/-- Bounds of exp (m * 2^e) for an argument below 2^6, e + P at least 8, in units of 2^-P: exp of a 256th, squared. -/
def expEnc (m : Nat) (e : Int) (P : Nat) : Nat × Nat :=
  squares P (expTaylor P (m * 2 ^ (e + Int.ofNat P - 8).toNat) (2 ^ P, 2 ^ P) (2 ^ P, 2 ^ P) 1 P) 8

/-- Bounds of tanh of m * 2^e, as (E - 1) / (E + 1) with E = exp of twice the argument. -/
def tanhEnc (m : Nat) (e : Int) (P : Nat) : Nat × Nat × Int :=
  let r := expEnc m (e + 1) P
  ((r.1 - 2 ^ P) * 2 ^ P / (r.1 + 2 ^ P), (r.2 - 2 ^ P) * 2 ^ P / (r.2 + 2 ^ P) + 1, -Int.ofNat P)

/-- Bounds of tanh of a small argument: x - x^3 / 2 and x. -/
def tanhSmall (m : Nat) (e : Int) : Nat × Nat × Int :=
  let d := (-2 * e + 1).toNat
  (m * 2 ^ d - m * m * m, m * 2 ^ d, e - Int.ofNat d)

/-- tanh of a finite value, rounded (R414). -/
def Fmt.tanh (f : Fmt) (neg : Bool) (m : Nat) (e : Int) : Nat :=
  let k := e + Int.ofNat (Nat.log2 m)
  if m = 0 then f.signBit neg
  else if 4 ≤ k then f.roundFin 0 neg 1 0 false
  else if k < -13 then f.enclose neg (fun _ => tanhSmall m e) 64 0
  else f.enclose neg (tanhEnc m e) 64 6

-- ## VRCP and VRSQ

/-- 1 / (m * 2^e), rounded (R414). -/
def Fmt.rcp (f : Fmt) (neg : Bool) (m : Nat) (e : Int) : Nat :=
  if m = 0 then f.infBits neg
  else
    let s := 64 + bitLen m
    f.roundFin 0 neg (2 ^ s / m) (-e - Int.ofNat s) (2 ^ s % m != 0)

/-- 1 / sqrt (m * 2^e), rounded (R414). -/
def Fmt.rsq (f : Fmt) (m : Nat) (e : Int) : Nat :=
  let n := if e % 2 = 0 then m else 2 * m
  let h := e / 2
  let s := 64 + bitLen n
  let q := isqrt (2 ^ (2 * s) / n)
  f.roundFin 0 false q (-h - Int.ofNat s) (q * q * n != 2 ^ (2 * s))

-- ## The functions on values (R397)

def Fmt.exp2V (f : Fmt) : FVal → Nat
  | .nan => f.qnan
  | .inf neg => if neg then 0 else f.infBits false
  | .fin neg m e => f.exp2 neg m e

def Fmt.log2V (f : Fmt) : FVal → Nat
  | .nan => f.qnan
  | .inf neg => if neg then f.qnan else f.infBits false
  | .fin neg m e => if m = 0 then f.infBits true else if neg then f.qnan else f.log2 m e

def Fmt.rcpV (f : Fmt) : FVal → Nat
  | .nan => f.qnan
  | .inf neg => f.signBit neg
  | .fin neg m e => f.rcp neg m e

def Fmt.rsqV (f : Fmt) : FVal → Nat
  | .nan => f.qnan
  | .inf neg => if neg then f.qnan else 0
  | .fin neg m e => if m = 0 then f.infBits neg else if neg then f.qnan else f.rsq m e

def Fmt.tanhV (f : Fmt) : FVal → Nat
  | .nan => f.qnan
  | .inf neg => f.roundFin 0 neg 1 0 false
  | .fin neg m e => f.tanh neg m e

end Sys2Proof.Machine
end

