-- ==== Sys2Proof/Machine/Vector.lean ====
section
/-! DEFINITION. The V slot (18 R386 to R403; 19 R404 to R414; 16 R349): lane-wise arithmetic, moves, permutations,
conversions, widening and narrowing, dot products, reductions, the lane hash, and lane-mask logic. -/

namespace Sys2Proof.Machine

-- ## Lanes as values (R386)

/-- The format of an F type. -/
def fmtOf (t : VType) : Fmt :=
  match t with
  | .f16 => f16
  | .bf16 => bf16
  | _ => f32

/-- A lane as an integer. -/
def laneInt (t : VType) (x : Nat) : Int := value t.isSigned x t.width

/-- Narrowing of an exact integer: saturating, or wrapping; A64 always saturates (R386, R130). -/
def narrow (t : VType) (s : Bool) (x : Int) : Nat :=
  wrap (if s || t == .a64 then sat x (minOf t.isSigned t.width) (maxOf t.isSigned t.width) else x) t.width

/-- A lane operation given on exact integers and on values of the format (R386). -/
def laneOp (t : VType) (s : Bool) (rm : Nat) (fi : Int → Int → Int) (ff : FVal → FVal → FVal) (a b : Nat) : Nat :=
  if t.isF then (fmtOf t).round rm (ff ((fmtOf t).unpack a) ((fmtOf t).unpack b))
  else narrow t s (fi (laneInt t a) (laneInt t b))

/-- A two-source instruction of the mould of R388. -/
def State.lanes2 (s : State) (x : VArgs) (lat : Nat) (f : Nat → Nat → Nat) : SlotR :=
  s.whenOn x.p (.ok (s.landLanes x.ty x.vd x.k (List.zipWith f (s.lanesA x.ty x.va) (s.lanesB x.ty x.b)) lat))

/-- A one-source instruction. -/
def State.lanes1 (s : State) (x : VArgs) (lat : Nat) (f : Nat → Nat) : SlotR :=
  s.whenOn x.p (.ok (s.landLanes x.ty x.vd x.k ((s.lanesA x.ty x.va).map f) lat))

/-- Latency of add and subtract (R388, R404). -/
def addLat (t : VType) : Nat := if t.isF then 4 else 2

-- ## Element-wise arithmetic (R388, R404, R405)

def fsub (rm : Nat) (a b : FVal) : FVal := FVal.add rm a b.neg

def execVadd (x : VArgs) (s : State) : Out :=
  .next (s.finish (s.lanes2 x (addLat x.ty) (laneOp x.ty x.s2 x.rm (· + ·) (FVal.add x.rm))))
def execVsub (x : VArgs) (s : State) : Out :=
  .next (s.finish (s.lanes2 x (addLat x.ty) (laneOp x.ty x.s2 x.rm (· - ·) (fsub x.rm))))
def execVmul (x : VArgs) (s : State) : Out :=
  .next (s.finish (s.lanes2 x 4 (laneOp x.ty x.s2 x.rm (· * ·) FVal.mul)))
def execVmulh (x : VArgs) (s : State) : Out :=
  .next (s.finish (s.lanes2 x 4 (fun a b => wrap (laneInt x.ty a * laneInt x.ty b / pow2 x.ty.width) x.ty.width)))

/-- Minimum or maximum of two lanes (R405): `up` for the maximum; a NaN gives the canonical NaN, -0 orders below +0. -/
def pick (t : VType) (up : Bool) (a b : Nat) : Nat :=
  if t.isF then
    match FVal.cmp ((fmtOf t).unpack a) ((fmtOf t).unpack b) with
    | none => (fmtOf t).qnan
    | some .lt => if up then b else a
    | some .gt => if up then a else b
    | some .eq => if up then a.land b else a.lor b
  else if up then (if laneInt t a < laneInt t b then b else a)
  else (if laneInt t b < laneInt t a then b else a)

def execVmin (x : VArgs) (s : State) : Out := .next (s.finish (s.lanes2 x 2 (pick x.ty false)))
def execVmax (x : VArgs) (s : State) : Out := .next (s.finish (s.lanes2 x 2 (pick x.ty true)))

/-- A sign operation on an F lane: a NaN gives the canonical NaN, no rounding (R387, R406). -/
def signOp (t : VType) (f : Nat → Nat) (a : Nat) : Nat :=
  if (fmtOf t).unpack a = .nan then (fmtOf t).qnan else f a

def execVabs (x : VArgs) (s : State) : Out :=
  .next (s.finish (s.lanes1 x 2 (fun a =>
    if x.ty.isF then signOp x.ty (fun a => a % 2 ^ (x.ty.width - 1)) a
    else narrow x.ty x.s2 (Int.ofNat (laneInt x.ty a).natAbs))))
def execVneg (x : VArgs) (s : State) : Out :=
  .next (s.finish (s.lanes1 x 2 (fun a =>
    if x.ty.isF then signOp x.ty (fun a => a.xor (2 ^ (x.ty.width - 1))) a else narrow x.ty x.s2 (-laneInt x.ty a))))

def execVand (x : VArgs) (s : State) : Out := .next (s.finish (s.lanes2 x 2 (fun a b => a.land b)))
def execVor (x : VArgs) (s : State) : Out := .next (s.finish (s.lanes2 x 2 (fun a b => a.lor b)))
def execVxor (x : VArgs) (s : State) : Out := .next (s.finish (s.lanes2 x 2 (fun a b => a.xor b)))
def execVshl (x : VArgs) (s : State) : Out :=
  .next (s.finish (s.lanes2 x 2 (fun a b => a * 2 ^ (b % x.ty.width) % 2 ^ x.ty.width)))
def execVshr (x : VArgs) (s : State) : Out := .next (s.finish (s.lanes2 x 2 (fun a b => a / 2 ^ (b % x.ty.width))))
def execVsar (x : VArgs) (s : State) : Out :=
  .next (s.finish (s.lanes2 x 2 (fun a b => wrap (sext a x.ty.width / pow2 (b % x.ty.width)) x.ty.width)))

def execVclz (x : VArgs) (s : State) : Out := .next (s.finish (s.lanes1 x 2 (fun a => leadZeros a x.ty.width)))
def execVpopc (x : VArgs) (s : State) : Out := .next (s.finish (s.lanes1 x 2 (fun a => popCount a x.ty.width)))

/-- VIOTA (R403). -/
def execViota (x : VArgs) (s : State) : Out :=
  .next (s.finish (s.whenOn x.p (.ok (s.landLanes x.ty x.vd x.k (upTo x.ty.lanes) 2))))

-- ## Fused multiply-add (R401)

def zip3 (f : Nat → Nat → Nat → Nat) (xs ys zs : List Nat) : List Nat :=
  List.zipWith (fun g z => g z) (List.zipWith f xs ys) zs

/-- `f` is the exact combination of a, b and c. -/
def State.fused (s : State) (x : VArgs) (f : FVal → FVal → FVal → FVal) : SlotR :=
  let m := fmtOf x.ty
  s.whenOn x.p (.ok (s.landLanes x.ty x.vd x.k
    (zip3 (fun a b c => m.round x.rm (f (m.unpack a) (m.unpack b) (m.unpack c)))
      (s.lanesA x.ty x.va) (s.lanesB x.ty x.b) (s.lanesA x.ty x.vd)) 4))

def execVfma (x : VArgs) (s : State) : Out :=
  .next (s.finish (s.fused x (fun a b c => FVal.add x.rm (FVal.mul a b) c)))
/-- c less the exact product p. An exact zero takes its sign from the two addends R401 names: the product and -c. -/
def FVal.lessProduct (mode : Nat) (c p : FVal) : FVal :=
  match FVal.add mode c p.neg with
  | .fin _ 0 _ => FVal.add mode p c.neg
  | r => r

def execVfms (x : VArgs) (s : State) : Out :=
  .next (s.finish (s.fused x (fun a b c => FVal.lessProduct x.rm c (FVal.mul a b))))

-- ## Compare (R391)

/-- The order of two lanes. -/
def laneCmp (t : VType) (a b : Nat) : Option Ordering :=
  if t.isF then FVal.cmp ((fmtOf t).unpack a) ((fmtOf t).unpack b) else some (compare (laneInt t a) (laneInt t b))

/-- Bits of a lane mask. -/
def ofBools (xs : List Bool) : Nat := ofLanes 1 (xs.map (fun b => if b then 1 else 0))

/-- Bits of a lane-mask destination that VCMP writes: enabled lanes, and every bit from `n` up. -/
def cmpBits (n k : Nat) : Nat := k % 2 ^ n + (2 ^ 1024 - 2 ^ n)

def State.landMask (s : State) (d mask x lat : Nat) : State :=
  if d = 0 then s else s.result .k d (BitVec.ofNat 4096 mask) (BitVec.ofNat 4096 x) lat

def execVcmp (x : VArgs) (s : State) : Out :=
  .next (s.finish (s.whenOn x.p (.ok (s.landMask x.vd (cmpBits x.ty.lanes (s.rd.readK x.k).toNat)
    (ofBools (List.zipWith (fun a b => condV x.cc (laneCmp x.ty a b)) (s.lanesA x.ty x.va) (s.lanesB x.ty x.b))) 2))))

-- ## Moves, selects and permutations (R389, R392, R400, R402, R407, R408)

/-- Whether a lane is selected. -/
def State.selected (s : State) (k i : Nat) : Bool := (s.rd.readK k).getLsbD i

/-- Every lane of a destination, whatever the mask. -/
def State.landAllLanes (s : State) (t : VType) (vd : Nat) (xs : List Nat) (lat : Nat) : State :=
  s.landFull vd (packLanes t xs) lat

def execVmov (x : VArgs) (s : State) : Out := .next (s.finish (s.lanes1 x 1 (fun a => a)))

/-- The value VSPLAT writes: a literal under R86, or the low bits of gb. -/
def State.splat (s : State) (t : VType) : Src → Nat
  | .lit y => litLane t y
  | .reg n => (s.rd.readG n).toNat % 2 ^ t.width

def execVsplat (x : VArgs) (s : State) : Out :=
  .next (s.finish (s.whenOn x.p (.ok (s.landLanes x.ty x.vd x.k (List.replicate x.ty.lanes (s.splat x.ty x.b)) 1))))

def execVsel (x : VArgs) (s : State) : Out :=
  .next (s.finish (s.whenOn x.p (.ok (s.landAllLanes x.ty x.vd
    (zip3 (fun i a b => if s.selected x.k i then a else b) (upTo x.ty.lanes) (s.lanesA x.ty x.va) (s.lanesB x.ty x.b)) 4))))

/-- Bits(g, 9, 0) mod n. -/
def laneIndex (t : VType) (g : Word) : Nat := g.toNat % 1024 % t.lanes

def execVbcast (x : VArgs) (s : State) : Out :=
  .next (s.finish (s.whenOn x.p (.ok (s.landLanes x.ty x.vd x.k
    (List.replicate x.ty.lanes ((s.lanesA x.ty x.va).getD (laneIndex x.ty (s.src x.b)) 0)) 3))))

def execVperm (x : VArgs) (s : State) : Out :=
  .next (s.finish (s.whenOn x.p (.ok
    (let xs := s.lanesA x.ty x.va
     s.landLanes x.ty x.vd x.k ((s.lanesB x.ty x.b).map (fun i => xs.getD (i % x.ty.lanes) 0)) 3))))

/-- Lanes moved `n` places up or down, zeros entering. -/
def slide (down : Bool) (n : Nat) (xs : List Nat) : List Nat :=
  let n := min n xs.length
  if down then xs.drop n ++ List.replicate n 0 else List.replicate n 0 ++ xs.take (xs.length - n)

def execVslide (x : VArgs) (s : State) : Out :=
  .next (s.finish (s.whenOn x.p (.ok (s.landLanes x.ty x.vd x.k
    (slide (x.rm == 1) (s.src x.b).toNat (s.lanesA x.ty x.va)) 3))))

def execVext (x : VArgs) (s : State) : Out :=
  .next (s.finish (s.whenOn x.p (.ok (s.landG x.vd
    (extend x.ty.width x.ty.isSigned ((s.lanesA x.ty x.va).getD (laneIndex x.ty (s.src x.b)) 0)) 3))))

def execVins (x : VArgs) (s : State) : Out :=
  .next (s.finish (s.whenOn x.p (.ok (s.landAllLanes x.ty x.vd
    (setAt (s.lanesA x.ty x.vd) (laneIndex x.ty (s.rd.readG x.va)) ((s.src x.b).toNat % 2 ^ x.ty.width)) 3))))

/-- Packed lanes, filled up with zeros. -/
def padTo (n : Nat) (xs : List Nat) : List Nat := xs ++ List.replicate (n - xs.length) 0

def execVcomp (x : VArgs) (s : State) : Out :=
  .next (s.finish (s.whenOn x.p (.ok (s.landAllLanes x.ty x.vd
    (padTo x.ty.lanes (((upTo x.ty.lanes).zip (s.lanesA x.ty x.va)).filter (fun e => s.selected x.k e.1) |>.map Prod.snd)) 4))))

-- ## Conversions (R393)

/-- One lane from type `st` to type `dt`. -/
def convert (st dt : VType) (sa : Bool) (rm a : Nat) : Nat :=
  if st.isF then
    let v := (fmtOf st).unpack a
    if dt.isF then (fmtOf dt).round rm v
    else
      match v with
      | .nan => 0
      | .inf neg => wrap (if neg then minOf dt.isSigned dt.width else maxOf dt.isSigned dt.width) dt.width
      | .fin neg m e => narrow dt sa (roundInt rm neg m e)
  else if dt.isF then (fmtOf dt).round rm (FVal.ofInt (laneInt st a) 0 false)
  else narrow dt sa (laneInt st a)

/-- The mode of R95 in the vb field. -/
def cvtMode : Src → Nat
  | .reg m => m
  | .lit _ => 0

def execVcvt (x : VArgs) (s : State) : Out :=
  let m := cvtMode x.b
  let st := VType.ofCode (m % 16)
  .next (s.finish (s.whenOn x.p (.ok (s.landLanes x.ty x.vd x.k
    (padTo x.ty.lanes (((s.lanesA st x.va).take x.ty.lanes).map (convert st x.ty (m / 64 % 2 == 1) (m / 16 % 4)))) 4))))

-- ## Widening and narrowing (R69, R409 to R411)

/-- The wide type of a pair or quad; a well-formed instruction has one. -/
def wideOf (x : VArgs) : VType := (x.ty.widen x.s2).getD x.ty

/-- Registers of a pair or quad. -/
def groupSize (x : VArgs) : Nat := if x.s2 then 4 else 2

/-- Every `g`-th entry of a list from entry `j` on. -/
def stride (g j : Nat) (xs : List Nat) : List Nat :=
  (((upTo xs.length).zip xs).filter (fun e => e.1 % g == j)).map Prod.snd

/-- Join `g` lists in turn: entry i comes from list i mod g. -/
def interleave (xss : List (List Nat)) (n : Nat) : List Nat :=
  (upTo n).flatMap (fun i => xss.map (fun xs => xs.getD i 0))

/-- The wide lanes of the group at register name `r`, in the order of the narrow lanes. -/
def State.groupLanes (s : State) (x : VArgs) (r : Nat) : List Nat :=
  interleave ((upTo (groupSize x)).map (fun j => s.lanesA (wideOf x) (r + j))) (wideOf x).lanes

/-- Land wide results, in the order of the narrow lanes, under the mask of the narrow lanes. -/
def State.landGroup (s : State) (x : VArgs) (rs : List Nat) (lat : Nat) : State :=
  let w := wideOf x
  let k := toLanes 1 x.ty.lanes (s.rd.readK x.k).toNat
  (upTo (groupSize x)).foldl (fun s j =>
    s.landV (x.vd + j) (BitVec.ofNat 4096 (laneBits w.width w.lanes (ofLanes 1 (stride (groupSize x) j k))))
      (packLanes w (stride (groupSize x) j rs)) lat) s

/-- A widening instruction on narrow a, b and wide c. -/
def State.widening (s : State) (x : VArgs) (fi : Int → Int → Int → Int) (ff : FVal → FVal → FVal → FVal) : SlotR :=
  let n := fmtOf x.ty
  let one (a b c : Nat) : Nat :=
    if x.ty.isF then f32.round x.rm (ff (n.unpack a) (n.unpack b) (f32.unpack c))
    else wrap (fi (laneInt x.ty a) (laneInt x.ty b) (laneInt (wideOf x) c)) (wideOf x).width
  s.whenOn x.p (.ok (s.landGroup x
    (zip3 one (s.lanesA x.ty x.va) (s.lanesB x.ty x.b) (s.groupLanes x x.vd)) 4))

def execVwadd (x : VArgs) (s : State) : Out :=
  .next (s.finish (s.widening x (fun a b _ => a + b) (fun a b _ => FVal.add x.rm a b)))
def execVwmul (x : VArgs) (s : State) : Out :=
  .next (s.finish (s.widening x (fun a b _ => a * b) (fun a b _ => FVal.mul a b)))
def execVwfma (x : VArgs) (s : State) : Out :=
  .next (s.finish (s.widening x (fun a b c => c + a * b) (fun a b c => FVal.add x.rm (FVal.mul a b) c)))

/-- One wide lane narrowed (R411). -/
def narrowLane (x : VArgs) (a : Nat) : Nat :=
  if x.ty.isF then (fmtOf x.ty).round x.rm (f32.unpack a) else narrow x.ty true (laneInt (wideOf x) a)

def execVnarr (x : VArgs) (s : State) : Out :=
  .next (s.finish (s.whenOn x.p (.ok (s.landLanes x.ty x.vd x.k ((s.groupLanes x x.va).map (narrowLane x)) 4))))

-- ## Dot products (R394, R131, R132)

/-- Sums of groups of `g` consecutive products. -/
def groupsOfLanes (g : Nat) (xs : List Nat) : Nat → List (List Nat)
  | 0 => []
  | n + 1 => xs.take g :: groupsOfLanes g (xs.drop g) n

/-- One destination lane. -/
def dotLane (t : VType) (rm : Nat) (as bs : List Nat) : Nat :=
  if t.isF then
    let m := fmtOf t
    match List.zipWith (fun a b => f32.round rm (FVal.mul (m.unpack a) (m.unpack b))) as bs with
    | p :: q :: _ => addF32 rm p q
    | _ => 0
  else
    wrap (sat (List.zipWith (fun a b => laneInt t a * laneInt t b) as bs).sum (-pow2 31) (pow2 31 - 1)) 32

def execVdot (x : VArgs) (s : State) : Out :=
  let g := x.ty.lanes / 128
  .next (s.finish (s.whenOn x.p (.ok (s.landLanes .i32 x.vd x.k
    (List.zipWith (dotLane x.ty x.rm) (groupsOfLanes g (s.lanesA x.ty x.va) 128)
      (groupsOfLanes g (s.lanesB x.ty x.b) 128)) 8))))

-- ## Reductions and scans (R412, R132)

/-- The contributing lanes. -/
def State.contrib (s : State) (x : VArgs) : List Nat :=
  (((upTo x.ty.lanes).zip (s.lanesA x.ty x.va)).filter (fun e => s.selected x.k e.1)).map Prod.snd

/-- Sum of two lanes: one rounding for F types, wrapping for integers. -/
def sumStep (t : VType) (rm a b : Nat) : Nat := laneOp t false rm (· + ·) (FVal.add rm) a b

/-- A single contributing lane; a NaN gives the canonical NaN. -/
def lone (t : VType) (a : Nat) : Nat := if t.isF then (fmtOf t).round 0 ((fmtOf t).unpack a) else a

/-- Fold the contributing lanes in increasing order, from the lowest taken exactly. -/
def foldLanes (t : VType) (f : Nat → Nat → Nat) (empty : Nat) : List Nat → Nat
  | [] => empty
  | a :: as => as.foldl f (lone t a)

/-- The result of an empty VREDMAX or VREDMIN. -/
def extreme (t : VType) (up : Bool) : Nat :=
  if t.isF then (fmtOf t).infBits up
  else wrap (if up then minOf t.isSigned t.width else maxOf t.isSigned t.width) t.width

def State.reduce (s : State) (x : VArgs) (f : Nat → Nat → Nat) (empty : Nat) : SlotR :=
  s.whenOn x.p (.ok (s.landFull x.vd (foldLanes x.ty f empty (s.contrib x)) 6))

def execVredadd (x : VArgs) (s : State) : Out := .next (s.finish (s.reduce x (sumStep x.ty x.rm) 0))
def execVredmax (x : VArgs) (s : State) : Out := .next (s.finish (s.reduce x (pick x.ty true) (extreme x.ty true)))
def execVredmin (x : VArgs) (s : State) : Out := .next (s.finish (s.reduce x (pick x.ty false) (extreme x.ty false)))

/-- Running sums: `acc` is none before the first contributing lane. -/
def scanLanes (t : VType) (rm : Nat) (acc : Option Nat) : List (Bool × Nat) → List Nat
  | [] => []
  | (on, a) :: as =>
    let acc := if on then (match acc with | none => some (lone t a) | some x => some (sumStep t rm x a)) else acc
    acc.getD 0 :: scanLanes t rm acc as

def execVscan (x : VArgs) (s : State) : Out :=
  .next (s.finish (s.whenOn x.p (.ok (s.landAllLanes x.ty x.vd
    (scanLanes x.ty x.rm none (((upTo x.ty.lanes).map (s.selected x.k)).zip (s.lanesA x.ty x.va))) 8))))

-- ## Special functions (R397 to R399, R414)

def State.special (s : State) (x : VArgs) (f : Fmt → FVal → Nat) : SlotR :=
  s.lanes1 x 10 (fun a => f (fmtOf x.ty) ((fmtOf x.ty).unpack a))

def execVexp2 (x : VArgs) (s : State) : Out := .next (s.finish (s.special x Fmt.exp2V))
def execVlog2 (x : VArgs) (s : State) : Out := .next (s.finish (s.special x Fmt.log2V))
def execVrcp (x : VArgs) (s : State) : Out := .next (s.finish (s.special x Fmt.rcpV))
def execVrsq (x : VArgs) (s : State) : Out := .next (s.finish (s.special x Fmt.rsqV))
def execVtanh (x : VArgs) (s : State) : Out := .next (s.finish (s.special x Fmt.tanhV))

-- ## The lane hash (R395, R396, R413)

def rotl32 (x n : Nat) : Nat := x * 2 ^ n % 2 ^ 32 + x % 2 ^ 32 / 2 ^ (32 - n)

/-- The rounds of Hash64 on (a, b, c, d). -/
def hashRounds (a b c d : Nat) : Nat → Nat
  | 0 => a.xor c + 2 ^ 32 * (b.xor d)
  | r + 1 =>
    let a := (a + b) % 2 ^ 32
    let d := rotl32 (d.xor a) 16
    let c := (c + d) % 2 ^ 32
    let b := rotl32 (b.xor c) 12
    let a := (a + b + 0x2D94B061) % 2 ^ 32
    let d := rotl32 (d.xor a) 8
    let c := (c + d) % 2 ^ 32
    let b := rotl32 (b.xor c) 7
    hashRounds a b c d r

def hash64 (key ctr : Word) (i : Nat) : Nat :=
  hashRounds (bits key.toNat 31 0) (bits key.toNat 63 32) (bits ctr.toNat 31 0)
    (((bits ctr.toNat 63 32).xor (i * 2 ^ 22)).xor 0x5A17C3E9) 6

def execVdrop (x : VArgs) (y : BitVec 32) (s : State) : Out :=
  .next (s.finish (s.whenOn x.p (.ok (s.landK x.vd
    (ofBools ((upTo x.ty.lanes).map (fun i =>
      hash64 (s.rd.readG x.va) (s.src x.b) i % 2 ^ 16 < y.toNat % 2 ^ 16))) 4))))

def execVrand (x : VArgs) (s : State) : Out :=
  .next (s.finish (s.whenOn x.p (.ok (s.landLanes x.ty x.vd x.k
    ((upTo x.ty.lanes).map (fun i => hash64 (s.rd.readG x.va) (s.src x.b) i % 2 ^ x.ty.width)) 6))))

-- ## Lane masks (R349)

/-- The number of a register operand. -/
def srcReg : Src → Nat
  | .reg n => n
  | .lit _ => 0

def State.maskOp (s : State) (x : VArgs) (f : BitVec 1024 → BitVec 1024 → BitVec 1024) : SlotR :=
  s.whenOn x.p (.ok (s.landK x.vd (f (s.rd.readK x.va) (s.rd.readK (srcReg x.b))).toNat 1))

def execKand (x : VArgs) (s : State) : Out := .next (s.finish (s.maskOp x (fun a b => a &&& b)))
def execKor (x : VArgs) (s : State) : Out := .next (s.finish (s.maskOp x (fun a b => a ||| b)))
def execKxor (x : VArgs) (s : State) : Out := .next (s.finish (s.maskOp x (fun a b => a ^^^ b)))
def execKnot (x : VArgs) (s : State) : Out := .next (s.finish (s.maskOp x (fun a _ => ~~~a)))
def execKcnt (x : VArgs) (s : State) : Out :=
  .next (s.finish (s.whenOn x.p (.ok (s.landG x.vd
    (BitVec.ofNat 64 (popCount (s.rd.readK x.va).toNat x.ty.lanes)) 1))))

end Sys2Proof.Machine
end

