-- ==== Sys2Proof/Machine/Reduce.lean ====
section
/-! DEFINITION. The collective reduction engine (15 R322 to R324): its queue, the streams it holds, the fold in rank order,
and the ends of a reduction. -/

namespace Sys2Proof.Machine

-- ## The descriptor (R322)

def redSrc (d : Nat) : Nat := dw d 0 55 0
def redDst (d : Nat) : Nat := dw d 8 55 0
def redLen (d : Nat) : Nat := dw d 16 31 0
def redType (d : Nat) : Nat := dw d 16 35 32
def redOp (d : Nat) : Nat := dw d 16 37 36
def redRx (d : Nat) : Nat := dw d 16 49 38
def redTx (d : Nat) : Nat := dw d 24 11 0
def redTag (d : Nat) : Nat := dw d 24 27 12
def redSignal (d : Nat) : Nat := dw d 32 55 0

/-- The ports of a mask, lowest first. -/
def portsOf (mask : Nat) : List Nat := (upTo 12).filter (fun p => mask.testBit p)

/-- A field out of range or a reserved field that is not zero: reason 1. -/
def redBad (d : Nat) : Bool :=
  dw d 0 63 56 != 0 || dw d 8 63 56 != 0 || dw d 16 63 50 != 0 || dw d 24 63 28 != 0 || dw d 32 63 56 != 0
    || bits d 511 320 != 0
    || redSrc d % 8 != 0 || redDst d % 8 != 0 || redSignal d % 8 != 0
    || redLen d % 8 != 0 || redLen d < 8 || 2 ^ 31 < redLen d
    || !(redType d == 2 || redType d == 3 || redType d == 10 || redType d == 14) || redOp d == 3

/-- The element type of a type code (R91). -/
def redVType (code : Nat) : VType :=
  match code with
  | 2 => .i32
  | 3 => .i64
  | 10 => .f32
  | _ => .a64

-- ## The fold (R323)

/-- One step of the fold. -/
def redStep (t : VType) (op acc x : Nat) : Nat :=
  match op with
  | 0 => if t = .f32 then addF32 0 acc x else narrow t false (laneInt t acc + laneInt t x)
  | 1 => pick t true acc x
  | _ => pick t false acc x

/-- Fold contributions in rank order, the local one first; each is a list of elements. -/
def redFold (t : VType) (op : Nat) (local_ : List Nat) (streams : List (List Nat)) : List Nat :=
  streams.foldl (fun acc s => List.zipWith (redStep t op) acc s) local_

/-- The elements of a run of bytes. -/
def redElems (t : VType) (bs : List Byte) : List Nat := toLanes t.width (8 * bs.length / t.width) (ofBytes bs)

def redBytes (t : VType) (xs : List Nat) : List Byte := toBytes (xs.length * t.width / 8) (ofLanes t.width xs)

-- ## The ends of a reduction (R324)

/-- TMO in thirds of a nanosecond (R320, R321). -/
def Arch.linkTmo (a : Arch) : Nat := a.links.tmo.toNat * 3000000

/-- The head of the queue leaves it; the next descriptor is first from now on. -/
def Arch.redPop (a : Arch) : Arch :=
  { a with red := { a.red with queue := (match a.red.queue.drop 1 with
      | [] => []
      | r :: rs => { r with since := a.clock } :: rs) } }

/-- Act on the completion signal of a reduction: decrement it, or abort it. -/
def Arch.redSignalOp (a : Arch) (pa : Nat) (abort : Bool) : Arch :=
  if pa = 0 then a
  else
    match a.place pa with
    | .stack _ _ => if a.readable pa 8 then a.signalAtomic pa (if abort then 2 else 0) minusOne else a
    | _ => a

/-- What a reduction writes or reads has to wait for a port or the window rule (R22, R253). -/
def Arch.redHolds (a : Arch) (d : Nat) (reads : Bool) : Option Arch :=
  let stacked (pa : Nat) : Bool := match a.place pa with | .stack _ _ => true | _ => false
  ((if reads then a.reachHeld 8 (redSrc d) (redLen d) false else none).or
    (if (a.copyKey (redDst d) (redLen d) true).isSome then a.reachHeld 8 (redDst d) (redLen d) true else none)).or
    (if redSignal d ≠ 0 ∧ stacked (redSignal d) = true then a.rmwHeld 8 (redSignal d) 8 else none)

/-- The head fails: DST is left unspecified (log entry 6), the signal is aborted and the reason recorded. With the module
goes the number of free values drawn. -/
def Arch.redFail (a : Arch) (d reason fresh : Nat) : Nat × Arch :=
  let n := redLen d
  let q := match a.copyKey (redDst d) n true with
    | some k => (n, a.copyWrite [(redDst d, k, n)] ((upTo n).map (fun i => Config.freeByte (fresh + i))))
    | none => (0, a)
  let a := q.2.redSignalOp (redSignal d) true
  (q.1, { a with red := { a.red with reason := BitVec.ofNat 8 reason } }.redPop)

/-- The oldest held stream of a port and tag. -/
def RedState.stream (r : RedState) (p tag : Nat) : Option Stream := r.held.find? (fun s => s.port == p && s.tag == tag)

/-- What the head waits for: a failure, a stream of some port, or nothing. -/
inductive RedNext where
  | idle
  | fail (d reason : Nat)
  | wait (d p : Nat)
  | go (d src dst : Nat) (streams : List Stream)
deriving DecidableEq, Repr

/-- Where the head descriptor stands. -/
def Arch.redNext (a : Arch) : RedNext :=
  match a.red.queue with
  | [] => .idle
  | r :: _ =>
    let d := r.raw.toNat
    if redBad d then .fail d 1
    else
      match a.copyKey (redSrc d) (redLen d) false, a.copyKey (redDst d) (redLen d) true with
      | some src, some dst =>
        if (portsOf (redTx d)).any (fun p => (a.link p).state != .up) then .fail d 2
        else
          let ss := (portsOf (redRx d)).map (fun p => (p, a.red.stream p (redTag d)))
          if ss.any (fun e => match e.2 with | some s => s.data.length != redLen d | none => false) then .fail d 4
          else
            match ss.find? (fun e => e.2.isNone) with
            | some e => .wait d e.1
            | none => .go d src dst (ss.filterMap Prod.snd)
      | _, _ => .fail d 2

/-- The ports over which a reduction reaches its operands in other modules (R321, R324). -/
def Arch.redFar (a : Arch) (d : Nat) : List Nat :=
  [redSrc d, redDst d].filterMap (fun pa => match a.place pa with | .other m _ => a.route m | _ => none)

/-- When the head's request to another module was sent. -/
def RedState.askedAt (r : RedState) : Option Nat := (r.queue.head?).bind Reduction.asked

/-- The head sends its request to another module, whose answer a later step is (R321, R324). -/
def Arch.redAsk (a : Arch) : Arch :=
  { a with red := { a.red with queue := (match a.red.queue with
      | [] => []
      | r :: rs => { r with asked := some a.clock } :: rs) } }

/-- REDUCTION_COMPLETE: the head descriptor, when nothing it waits for is missing, is folded, written and sent; where an operand lies in
another module, it is first asked for. A port, or the window rule, may hold its accesses (R22, R253). -/
def Arch.redRun (a : Arch) (fresh : Nat) : Nat × Arch :=
  match a.redNext with
  | .fail d reason => (match a.redHolds d false with | some a => (0, a) | none => a.redFail d reason fresh)
  | .go d src dst ss =>
    if !(a.redFar d).isEmpty && a.red.askedAt.isNone then (0, a.redAsk)
    else
    match a.redHolds d true with
    | some a => (0, a)
    | none =>
    let t := redVType (redType d)
    let q := a.copyRead [(redSrc d, src, redLen d)]
    let bs := redBytes t (redFold t (redOp d) (redElems t q.1) (ss.map (fun s => redElems t s.data)))
    let a := q.2.copyWrite [(redDst d, dst, redLen d)] bs
    let a := { a with red := { a.red with
      held := ss.foldl (fun h s => h.erase s) a.red.held
      sent := a.red.sent ++ (portsOf (redTx d)).map (fun p => Stream.mk p (redTag d) bs a.clock) } }
    (0, (a.redSignalOp (redSignal d) false).redPop)
  | _ => (0, a)

/-- A step that may draw free values. -/
def State.drawEvent (s : State) (f : Arch → Nat → Nat × Arch) : Out :=
  let q := f s.arch s.fresh
  .next { s with arch := q.2, fresh := s.fresh + q.1 }

def execReductionComplete (s : State) : Out := s.drawEvent Arch.redRun

-- ## Admission and streams

/-- REDGO from the host or firmware, when the queue has room. -/
def execRedgo (pa : Nat) (s : State) : Out :=
  s.event (fun a => if a.red.queue.length < redRoom then a.redTake pa else a)

/-- The oldest REDGO store of a core that waits at the Quoin die. -/
def Arch.redWaiter (a : Arch) : Option Req :=
  a.reqs.find? (fun r => r.op == .st && r.st == .flight && (match a.place r.pa with | .quoin o => o == 0x4000 | _ => false)
    && !a.blocked r)

def execRedgoAdmit (s : State) : Out :=
  s.event (fun a =>
    match a.redWaiter with
    | some r => if a.red.queue.length < redRoom then a.performReq r else a
    | none => a)

/-- A stream arrives over a port that is UP, and is held (R323). -/
def execReductionStreamArrive (p tag : Nat) (data : List Byte) (s : State) : Out :=
  s.event (fun a =>
    if (a.link p).state = .up then { a with red := { a.red with held := a.red.held ++ [⟨p, tag, data, a.clock⟩] } } else a)

/-- A descriptor in the queue names a stream. -/
def RedState.names (r : RedState) (p tag : Nat) : Bool :=
  r.queue.any (fun e => redTag e.raw.toNat == tag && (redRx e.raw.toNat).testBit p)

/-- A stream held longer than TMO without a descriptor that names it is dropped. -/
def execReductionStreamTimeout (p tag : Nat) (s : State) : Out :=
  s.event (fun a =>
    match a.red.stream p tag with
    | some st =>
      if st.since + a.linkTmo < a.clock && !a.red.names p tag then { a with red := { a.red with held := a.red.held.erase st } }
      else a
    | none => a)

/-- The head waits for a port since a time: for a stream, or for the answer to its request to another module (R321, R324). -/
def Arch.redAwaits (a : Arch) (p : Nat) : Option (Nat × Nat) :=
  match a.redNext, a.red.queue with
  | .wait d _, r :: _ =>
    if (redRx d).testBit p && (a.red.stream p (redTag d)).isNone then some (d, r.since) else none
  | .go d _ _ _, r :: _ => if (a.redFar d).contains p then r.asked.map (fun t => (d, t)) else none
  | _, _ => none

end Sys2Proof.Machine
end

