-- ==== Sys2Proof/Machine/Links.lean ====
section
/-! DEFINITION. Lintel ports (15 R319 to R321), mortar ports in a low-power state (09 R213), heartbeats and the loss of a
die (09 R214 to R216, R425). -/

namespace Sys2Proof.Machine

-- ## Requests on a lintel port (R321)

/-- The active copy channels: core, context and number. -/
def Arch.activeChans (a : Arch) : List (Nat × Nat × Nat) :=
  a.cores.flatMap (fun e => e.2.ctxs.flatMap (fun x =>
    (x.2.chans.filter (fun h => h.2.state == .active)).map (fun h => (e.1, x.1, h.1))))

/-- The module with a port not UP. -/
def Arch.without (a : Arch) (p : Nat) : Arch := a.mapLink p (fun l => { l with state := .down })

/-- The fault a channel takes when its request over port `p` has no response: source or destination. -/
def Arch.linkFault (a : Arch) (p c x n : Nat) : Option (Nat × Nat) :=
  match a.copyStep c x n, (a.without p).copyStep c x n with
  | .fault _ _ _, _ => none
  | _, .fault _ code va => some (code, va)
  | _, _ => none

/-- A copy has a request outstanding for `tmo` or longer. -/
def Chan.unanswered (h : Chan) (now tmo : Nat) : Bool := h.asked.any (fun t => decide (t + tmo ≤ now))

/-- The channels with a start not yet armed: core, context and number. -/
def Arch.startChans (a : Arch) : List (Nat × Nat × Nat) :=
  a.cores.flatMap (fun e => e.2.ctxs.flatMap (fun x =>
    (x.2.chans.filter (fun h => h.2.start.isSome && h.2.state != .active)).map (fun h => (e.1, x.1, h.1))))

/-- A start whose template lies behind port `p` and has been asked for `tmo` ago or longer cannot read it (R228, R321). -/
def Arch.linkStart (a : Arch) (p tmo : Nat) (e : Nat × Nat × Nat) : Arch :=
  let t := a.ctx e.1 e.2.1
  let h := t.chan e.2.2
  match h.start with
  | some w =>
    if !h.unanswered a.clock tmo then a
    else
      match (a.readTemplate e.1 e.2.1 e.2.2 (t.templateVa w)).1, ((a.without p).readTemplate e.1 e.2.1 e.2.2 (t.templateVa w)).1 with
      | .fault _, _ => a
      | _, .fault _ => a.startFails e.1 e.2.1 e.2.2 w
      | _, _ => a
  | none => a

/-- Every copy with a request outstanding on a port for `tmo` or longer takes its fault, and so does a start. -/
def Arch.linkCopies (a : Arch) (p tmo : Nat) : Arch :=
  let a := a.startChans.foldl (fun a e => a.linkStart p tmo e) a
  (a.activeChans.filter (fun e => ((a.ctx e.1 e.2.1).chan e.2.2).unanswered a.clock tmo)).foldl (fun a e =>
    match a.linkFault p e.1 e.2.1 e.2.2 with
    | some (code, va) => a.copyFaults e.1 e.2.1 e.2.2 code va
    | none => a) a

/-- Tasks of outer operators on modules behind a port, asked for `tmo` ago or longer, do not return (R271, R321). -/
def Arch.linkTasks (a : Arch) (p tmo : Nat) : Arch :=
  (a.ops.map Prod.fst).foldl (fun a n =>
    match a.op n with
    | some o =>
      if opOuter o.desc.toNat && o.isOpen && decide (o.opened + tmo ≤ a.clock) then
        ((opTasks o.desc.toNat).filter (fun j =>
          opModule o.desc.toNat j != a.modnum.toNat && a.route (opModule o.desc.toNat j) == some p)).foldl
            (fun a j => a.taskEnds n j .ended) a
      else a
    | none => a) a

/-- The reduction at the head of the queue, where it waits for the port since `tmo` or longer, fails. -/
def Arch.linkReduction (a : Arch) (p tmo fresh : Nat) : Nat × Arch :=
  match a.redAwaits p with
  | some (d, since) => if since + tmo ≤ a.clock && (a.redHolds d false).isNone then a.redFail d 3 fresh else (0, a)
  | none => (0, a)

/-- Requests outstanding on a port for `tmo` or longer complete with a fault. -/
def Arch.linkFaults (a : Arch) (p tmo fresh : Nat) : Nat × Arch :=
  let q := (a.linkTasks p tmo).linkReduction p tmo fresh
  (q.1, q.2.linkCopies p tmo)

-- ## Ports (R319 to R321)

/-- PORT_DOWN: outstanding requests fault, the port goes DOWN, and vector 1 is raised. -/
def Arch.portDown (a : Arch) (p fresh : Nat) : Nat × Arch :=
  let q := a.linkFaults p 0 fresh
  (q.1, (q.2.mapLink p (fun l => { l with state := .down, failsInRow := 0 })).interrupt 1)

def Link.replayed (l : Link) (ok : Bool) : Link :=
  { l with retry := if l.retry = 0xFFFFFFFF then l.retry else l.retry + 1
           failsInRow := if ok then 0 else l.failsInRow + 1 }

/-- LINK_REPLAY: a replay of a flit, which the receiver accepts or not. -/
def Arch.replay (a : Arch) (p : Nat) (ok : Bool) (fresh : Nat) : Nat × Arch :=
  if (a.link p).state ≠ .up then (0, a)
  else
    let a := (a.mapLink p (fun l => l.replayed ok)).sets (.retry p)
    if 64 ≤ (a.link p).failsInRow then a.portDown p fresh else (0, a)

/-- A step that may draw free values and in which operators and levels may end. -/
def State.drawFront (s : State) (f : Arch → Nat → Nat × Arch) : Out :=
  let q := f s.arch s.fresh
  .next { s with arch := q.2.opDone.frontDone.anyway, fresh := s.fresh + q.1 }

def execLinkReplay (p : Nat) (ok : Bool) (s : State) : Out := s.drawFront (fun a n => a.replay p ok n)

/-- PORT_TRAINED: an enabled port goes UP and learns its partner's module number. -/
def execPortTrained (p peer : Nat) (s : State) : Out :=
  s.event (fun a =>
    if a.links.enable.getLsbD p && (a.link p).state != .up then
      a.mapLink p (fun l => { l with state := .up, peer := BitVec.ofNat 8 peer, failsInRow := 0 })
    else a)

/-- LINK_TIMEOUT: requests on a port have had no response within TMO ms. -/
def execLinkTimeout (p : Nat) (s : State) : Out := s.drawFront (fun a n => a.linkFaults p a.linkTmo n)

-- ## Mortar ports (R213)

def Arch.setPort (a : Arch) (d p v : Nat) : Arch := { a with lowPort := SMap.set 0 a.lowPort (d * 8 + p) v }

/-- A port has woken, and what it held goes on. -/
def execPortWake (d p : Nat) (s : State) : Out := s.event (fun a => (a.setPort d p 0).syncArrive)

/-- A port enters its low-power state, while no context has DETM.EN = 1. -/
def execMortarPortLowPower (d p : Nat) (s : State) : Out :=
  s.event (fun a =>
    if a.cores.any (fun e => e.2.ctxs.any (fun x => x.2.detm)) || SMap.get 0 a.lowPort (d * 8 + p) != 0 then a
    else a.setPort d p 1)

/-- 10 µs in thirds of a nanosecond. -/
def wakeTime : Nat := 30000

/-- A hop between neighbours uses this port, at either end. -/
def hopUses (s e d p : Nat) : Bool := (s == d && portTo s e == p) || (e == d && portTo e s == p)

/-- The route of a snoop crosses a port. -/
def SnoopMsg.crosses (m : SnoopMsg) (d p : Nat) : Bool :=
  m.home != m.die && (let n := nextDie m.home m.die; hopUses m.home n d p || (n != m.die && hopUses n m.die d p))

/-- A snoop has waited 10 µs for a port to wake: one link-wake event is logged for this sleep of the port. -/
def Arch.wakeLate (a : Arch) (d p : Nat) : Arch :=
  if SMap.get 0 a.lowPort (d * 8 + p) = 1 ∧ a.snoops.any (fun m => m.crosses d p && decide (m.since + wakeTime ≤ a.clock)) then
    { a with wakeEvents := a.wakeEvents ++ [(d, p)] }.setPort d p 2
  else a

def execPortWakeTimeout (d p : Nat) (s : State) : Out := s.event (fun a => a.wakeLate d p)

-- ## Heartbeats and lost dies (R214 to R216, R425)

/-- A heartbeat arrives; a sleeping port holds it, and the timer of R214 runs on (R22). -/
def execHeartbeat (b : Nat) (s : State) : Out :=
  s.event (fun a => if a.routeSleeps b 8 then a else a.mapBrick b (fun k => if k.lost then k else { k with lastBeat := a.clock }))

/-- A millisecond in thirds of a nanosecond. -/
def beatTime : Nat := 3000000

/-- Every line of a region is poisoned, rewritten ones too. -/
def Brick.poisonAll (k : Brick) (r : Nat) : Brick :=
  { k with poisonRegion := SMap.set false k.poisonRegion r true
           cured := k.cured.filter (fun e => regionOf e.1 != r) }

/-- A FINE entry when die `d` is lost: an owned line is poisoned and freed; a sharer leaves. -/
def Brick.fineLoses (k : Brick) (d : Nat) (e : Nat × FineLine) : Brick :=
  match e.2 with
  | .owner x => if x = d then { k with poison := SMap.set false k.poison e.1 true }.setFine e.1 .none else k
  | .sharers v =>
    let w := v &&& ~~~dieBit d
    k.setFine e.1 (if w = 0 then .none else .sharers w)
  | .none => k

/-- A directory record when die `d` is lost (R215). -/
def Brick.regionLoses (k : Brick) (d : Nat) (e : Nat × Region) : Brick :=
  match e.2 with
  | .absent => k
  | .priv x => if x = d then (k.poisonAll e.1).setRegion e.1 .absent else k
  | .shared v =>
    let w := v &&& ~~~dieBit d
    k.setRegion e.1 (if w = 0 then .absent else .shared w)
  | .fine =>
    let k := (k.fine.filter (fun f => regionOf f.1 == e.1)).foldl (fun k f => k.fineLoses d f) k
    if k.fine.any (fun f => regionOf f.1 == e.1) then k
    else { (k.setRegion e.1 .absent) with promoted := k.promoted.filter (fun r => r != e.1) }

/-- Lines that die `d` owned when a snoop still unanswered was sent to it are poisoned (R215). -/
def Brick.snoopLoses (k : Brick) (ms : List SnoopMsg) : Brick :=
  ms.foldl (fun k m => { k with poison := SMap.set false k.poison m.line true }) k

/-- The directory of a surviving Brick acts on the loss of die `d`. -/
def Brick.dieLoses (k : Brick) (d : Nat) : Brick :=
  if k.lost then k else k.regions.foldl (fun k e => k.regionLoses d e) k

/-- What the cores of a lost die held and had under way is gone. -/
def Core.dark (k : Core) : Core := { k with stash := [], stashLine := [], misses := [], parked := [] }

/-- Accesses homed on a lost die complete as machine checks (R425), in the order they were issued. -/
def Arch.lostAccesses (a : Arch) (b : Nat) : Arch :=
  ((a.reqs.filter (fun r => !r.near && r.st != .withdrawn && !(r.named && r.leaf.isNone) && (a.place r.pa).home == b)).map Req.id).foldl (fun a i =>
    match a.reqs.find? (fun r => r.id == i) with
    | some r => a.performReq r
    | none => a) a

/-- Coded tasks on a lost die do not return (R265). -/
def Arch.lostTasks (a : Arch) (b : Nat) : Arch :=
  let ts := a.launches.filterMap (fun e => e.2.bind (fun v =>
    if v.base / 32 = b then v.task.map (fun t => (e.1, v.released, t)) else none))
  ts.foldl (fun a t =>
    let a := if t.2.1 then a else { a with launches := SMap.set none a.launches t.1 none }
    a.taskEnds t.2.2.1 t.2.2.2 .ended) a

/-- DIE_LOST: a Brick without a heartbeat for 1 ms is declared lost. -/
def Arch.dieLost (a : Arch) (b : Nat) : Arch :=
  let k := a.brick b
  if k.lost || a.clock < k.lastBeat + beatTime then a
  else
    let a := a.mapBrick b (fun k => { k with lost := true, dets := [], detq := [], walkq := [], encq := [] })
    let ms := a.snoops.filter (fun m => m.die == b && m.own)
    let a := { a with bricks := SMap.mapv Brick.reset a.bricks (fun k => k.dieLoses b) }
    let a := ms.foldl (fun a m => a.mapBrick m.home (fun k => if k.lost then k else k.snoopLoses [m])) a
    let a := Arch.dropReqs { a with
      snoops := a.snoops.filter (fun m => m.die != b && m.home != b)
      fills := a.fills.filter (fun f => f.core / 32 != b)
      writeBacks := a.writeBacks.filter (fun w => w.core / 32 != b)
      doorbells := a.doorbells.filter (fun d => d.core / 32 != b)
      syncq := a.syncq.filter (fun e => e.1 != b) } (fun r => r.core / 32 == b)
    let a := (a.writeBacks.filter (fun w => (a.place w.pa).home == b)).foldl Arch.backFails a
    let a := ((upTo 32).map (fun i => 32 * b + i)).foldl (fun a c => a.mapCore c Core.dark) a
    let a := a.lostAccesses b
    let us := (a.units.filter (fun e => match e.2 with | some u => u.cores.any (fun c => c / 32 == b) | none => false)).map Prod.fst
    let a := us.foldl (fun a u => (a.stopUnit u .failed).mapUnit u (fun e => { e with fate := some .failed })) a
    a.lostTasks b

def execDieLost (b : Nat) (s : State) : Out := s.event (fun a => (a.dieLost b).opDone.frontDone.anyway)

end Sys2Proof.Machine
end

