-- ==== Sys2Proof/Machine/Windows.lean ====
section
/-! DEFINITION. The window markers of 11_memory_model (R252 to R255), the time base (15 R325), power, heat and droop
responses (15 R326 to R328). -/

namespace Sys2Proof.Machine

-- ## Windows (R253, R255)

/-- Die `d` sends home `h` its markers for the windows that are over. -/
def Arch.sendMarker (a : Arch) (d h : Nat) : Arch :=
  if a.routeSleeps d h || (d < 8 && (a.brick d).lost) then a
  else { a with windows := { a.windows with marked := SMap.set 0 a.windows.marked (h * 9 + d) a.window } }

def execWindowMarker (d h : Nat) (s : State) : Out := s.event (fun a => a.sendMarker d h)

/-- The windows home `h` can close for source `d`: those marked, before the oldest write that was sent and has not been performed. The
number of writes that a marker carries is reached exactly when none of its window is left, so the model counts those left. -/
def Arch.closable (a : Arch) (h d : Nat) : Nat :=
  ((a.reqs.filter (fun (q : Req) => q.op.writes && (a.place q.hpa).home == h && q.core / 32 == d)).filterMap
    (fun (q : Req) => q.win.map (fun w => w - 1))
    ++ (a.writeBacks.filter (fun (w : WriteBack) => (a.place w.pa).home == h && w.core / 32 == d)).filterMap
      (fun (w : WriteBack) => w.win.map (fun n => n - 1))).foldl
    min (SMap.get 0 a.windows.marked (h * 9 + d))

def Arch.closeWindow (a : Arch) (h d : Nat) : Arch :=
  let n := max (SMap.get 0 a.windows.closed (h * 9 + d)) (a.closable h d)
  { a with windows := { a.windows with closed := SMap.set 0 a.windows.closed (h * 9 + d) n } }

def execWindowClose (h d : Nat) (s : State) : Out := s.event (fun a => a.closeWindow h d)

/-- Home `h` announces to die `d` the windows it has closed for every source. -/
def Arch.announce (a : Arch) (h d : Nat) : Arch :=
  if a.routeSleeps h d || (h < 8 && (a.brick h).lost) then a
  else
    let n := (a.sources.map (fun e => SMap.get 0 a.windows.closed (h * 9 + e))).foldl min (SMap.get 0 a.windows.closed (h * 9 + 8))
    let n := max n (SMap.get 0 a.windows.announced (h * 9 + d))
    { a with windows := { a.windows with announced := SMap.set 0 a.windows.announced (h * 9 + d) n } }

def execWindowAnnounce (h d : Nat) (s : State) : Out := s.event (fun a => a.announce h d)

/-- WINCTL.CLR. -/
def Arch.clearStretch (a : Arch) (d : Nat) : Arch :=
  { a with windows := { a.windows with stretch := SMap.set 0 a.windows.stretch d 0 } }

def execStretchClr (d : Nat) (s : State) : Out := s.event (fun a => a.clearStretch d)

-- ## Time (R325)

def Arch.anyArmed (a : Arch) : Bool := a.queues.any (fun e => e.2.armed)

/-- An offset: a step with no queue armed, but never backward; else it is slewed, after `owed`. -/
def Arch.adjust (a : Arch) (off owed : Int) : Arch :=
  if !a.anyArmed && 0 ≤ off then { a with time := { a.time with offset := a.time.offset + off, slew := owed } }
  else { a with time := { a.time with slew := owed + off } }

def execTadj (off : BitVec 64) (s : State) : Out := s.event (fun a => a.adjust off.toInt a.time.slew)

/-- A PTP message gives the offset from the grandmaster, which replaces what is still owed, and whether time is within
100 ns of it; the grandmaster itself follows none. -/
def execPtpSync (off : BitVec 64) (locked : Bool) (s : State) : Out :=
  s.event (fun a => if a.time.gm then a else let a := a.adjust off.toInt 0; { a with time := { a.time with locked := locked } })

-- ## Power and heat (R327, R328)

/-- CLAMP after a measurement. -/
def Power.sampled (p : Power) (watts : Nat) : Power :=
  { p with power := BitVec.ofNat 11 (min watts 2047)
           clamp := if p.limit.toNat < watts then (if p.clamp = 15 then 15 else p.clamp + 1)
                    else if watts * 100 < p.limit.toNat * 95 ∧ p.clamp ≠ 0 then p.clamp - 1
                    else p.clamp }

def execPowerSample (watts : Nat) (s : State) : Out := s.event (fun a => { a with power := a.power.sampled watts })

/-- THERMAL_TRIP: every Brick clock stops, so that nothing under way arrives, and every unit ends FAILED. -/
def Arch.thermalTrip (a : Arch) : Arch :=
  if a.power.tripped then a
  else
    let a := { a with
      power := { a.power with tripped := true }, reqs := [], fills := [], snoops := [], writeBacks := [], doorbells := [] }
    let us := (a.units.filter (fun e => e.2.isSome)).map Prod.fst
    let a := us.foldl (fun a u => a.stopUnit u .failed) a
    let a := us.foldl (fun a u => match a.unit u with | some e => a.endUnit u { e with children := 0 } .failed | none => a) a
    a.interrupt 2

def execThermalTrip (s : State) : Out := s.event (fun a => a.thermalTrip.opDone.frontDone.anyway)

/-- The fused trip temperature, in degrees (R327). -/
def tripDegrees : Nat := 110

/-- The hottest sensor of a Brick reads `deg`; a crossing of THWARN is reported once, by a message that a sleeping port holds, and the
trip temperature trips (R22, R327; log entry 68). -/
def Arch.heat (a : Arch) (b deg : Nat) : Arch :=
  let hot := decide (a.power.thwarn.toNat ≤ deg)
  let first := hot && !(a.brick b).health.warned
  let a := a.mapBrick b (fun k => { k with health := { k.health with tmax := BitVec.ofNat 8 (min deg 255), warned := hot } })
  let a := if first then a.interruptFrom b 2 else a
  if tripDegrees ≤ deg then a.thermalTrip.opDone.frontDone.anyway else a

def execThermalWarning (b deg : Nat) (s : State) : Out := s.event (fun a => a.heat b deg)

-- ## Droop (R328)

/-- An alarm on a core's detectors: a response starts or starts again, unless edges are being omitted. -/
def Arch.droop (a : Arch) (c : Nat) : Arch :=
  let h := (a.brick (c / 32)).health
  if !h.en || 1 < (a.core c).stretchLeft then a
  else
    (((a.pushBanks c).sets (.droop (c / 32))).mapCore c (fun k => { k with stretchLeft := h.dstretch.toNat + 1, halfLeft := 0, phase := 0 })).mapBrick (c / 32)
      (fun k => { k with health := { k.health with
        droopcnt := if k.health.droopcnt = 0xFFFFFFFF then k.health.droopcnt else k.health.droopcnt + 1 } })

def execDroopAlarm (c : Nat) (s : State) : Out := s.event (fun a => a.droop c)
def execDroopStretchEnd (c : Nat) (s : State) : Out :=
  s.event (fun a => a.mapCore c (fun k => k.stretchEnds (a.brick (c / 32)).health))
def execDroopWindowEnd (c : Nat) (s : State) : Out := s.event (fun a => a.mapCore c Core.windowEnds)

end Sys2Proof.Machine
end

