-- ==== Sys2Proof/Machine/HostPort.lean ====
section
/-! DEFINITION. The host port (15 R313 to R318), register writes (00 R5 to R8), boot and attestation (15 R329, R330), and
cold reset (00 R7). -/

namespace Sys2Proof.Machine

-- ## Registers without a behaviour of their own (R5)

def Debug.writeCtl (d : Debug) (v : Nat) (ha hb sa sb : Bool) : Debug :=
  let a := v.testBit 0
  let b := v.testBit 1
  let step := v.testBit 3
  { d with hreqa := a, hreqb := b, stopch := v.testBit 2
           cleara := if !a && ha then true else if a then false else d.cleara
           clearb := if !b && hb then true else if b then false else d.clearb
           stepa := step && a && sa
           stepb := step && b && sb }

/-- Whether a context is halting or halted for the debugger, and whether it is halted. -/
def Status.stopping (s : Status) : Bool := s == .halting || s == .debugHalted

/-- A write of the debug block of a core (R6, R311). -/
def Arch.debugWrite (a : Arch) (c r v : Nat) : Arch :=
  let sa := (a.ctx c 0).status
  let sb := (a.ctx c 1).status
  let area (x : Nat) (old : Word) : Word :=
    BitVec.ofNat 64 (((v / 2 ^ 21 % 2 ^ 35 * 2 ^ 21).xor (a.saveArea c x)).xor old.toNat)
  Arch.setsWin (a.mapCore c (fun k =>
    let d := k.dbg
    { k with dbg :=
        (match r with
         | 0 => d.writeCtl v sa.stopping sb.stopping (sa == .debugHalted) (sb == .debugHalted)
         | 1 => { d with bpa := BitVec.ofNat 64 (v % 2 ^ 18) }
         | 2 => { d with bpb := BitVec.ofNat 64 (v % 2 ^ 18) }
         | 3 => { d with savea := area 0 d.savea }
         | 4 => { d with saveb := area 1 d.saveb }
         | 5 => { d with fvalida := d.fvalida && !v.testBit 16, fvalidb := d.fvalidb && !v.testBit 17 }
         | _ => d) }))

/-- A write of +0x10 of a health block (R328). -/
def Arch.healthWrite (a : Arch) (b v : Nat) : Arch :=
  a.mapBrick b (fun k => { k with health := { k.health with
    thresh := BitVec.ofNat 8 v
    dstretch := BitVec.ofNat 6 (if bits v 13 8 = 0 then 1 else bits v 13 8)
    dwin := BitVec.ofNat 12 (bits v 25 14)
    en := v.testBit 26 } })

/-- HWIN (R317). -/
def Arch.hwinWrite (a : Arch) (w hi v : Nat) : Arch :=
  let h := a.hwinOf w
  let h' : HWin := if hi = 0 then { h with en := v.testBit 0, hbase := BitVec.ofNat 52 (bits v 63 12) }
    else { h with size := BitVec.ofNat 27 (min (bits v 26 0) (2 ^ 26)) }
  { a with hwin := SMap.set ⟨false, 0, 0⟩ a.hwin w h' }

/-- TIMECTL (R325): windows are counted afresh under a new size. -/
def Arch.timeWrite (a : Arch) (v : Nat) : Arch :=
  let w := bits v 4 0
  let a := { a with time := { a.time with gm := v.testBit 5 } }
  if w < 12 || 20 < w || a.anyArmed || a.time.wlog2.toNat == w then a
  else
    { a with time := { a.time with wlog2 := BitVec.ofNat 5 w }
             windows := { a.windows with marked := [], closed := [], announced := [], stalled := [] } }

/-- A port that may train begins to; one that may not stops training (R320). -/
def Link.enabled (l : Link) (en : Bool) : Link :=
  match l.state with
  | .down => if en then { l with state := .training } else l
  | .training => if en then l else { l with state := .down }
  | .up => l

/-- LCTL (R320). -/
def Arch.lctlWrite (a : Arch) (v : Nat) : Arch :=
  let a := { a with links := { a.links with
    tmo := BitVec.ofNat 6 (if bits v 5 0 = 0 then 1 else bits v 5 0), enable := BitVec.ofNat 12 (bits v 17 6) } }
  (upTo 12).foldl (fun a p => a.mapLink p (fun l => l.enabled (a.links.enable.getLsbD p))) a

/-- A doubleword of the MSI-X table (R318): its reserved bits stay 0; unmasking sends a pending message. -/
def Arch.msixWrite (a : Arch) (o v : Nat) : Arch :=
  let x := if o % 16 = 8 then (v % 2 ^ 33).xor (2 ^ 32) else v / 4 * 4
  let a := { a with msix := Memory.write a.msix o 8 x }
  if o % 16 = 8 ∧ a.masked (o / 16) = false then a.setPending (o / 16) false else a

/-- Boot and attestation registers that only hold a value (R330). -/
def Arch.bootWrite (a : Arch) (o v : Nat) : Arch :=
  let b := a.boot
  if o = 0 then { a with boot := { b with img := BitVec.ofNat 56 v } }
  else if 0x80 ≤ o ∧ o < 0xC0 then
    (if b.busy then a
     else
       let i := 8 * (o - 0x80)
       let m := b.nonce.toNat
       { a with boot := { b with nonce := BitVec.ofNat 512 (m - bits m (i + 63) i * 2 ^ i + v % 2 ^ 64 * 2 ^ i) } })
  else if o = 0xC8 then Arch.setsWin { a with boot := { b with done := b.done && !v.testBit 1 } }
  else a

/-- A write, by an agent to which the block grants it, to a register that has no behaviour of its own: each field changes
as its access code says (R5, R8). -/
def Arch.registerSet (a : Arch) (o v : Nat) : Arch :=
  if o = 0x208 then (if a.xlinv.busy then a else { a with xlinv := { a.xlinv with asid := BitVec.ofNat 12 v } })
  else if o = 0x308 then { a with qdesc := BitVec.ofNat 56 v }
  else if 0x1000 ≤ o ∧ o < 0x1100 then a.hwinWrite ((o - 0x1000) / 16) (o % 16) v
  else if o = 0x2010 then a.timeWrite v
  else if o = 0x3300 then a.lctlWrite v
  else if 0x3400 ≤ o ∧ o < 0x3C00 then
    { a with links := { a.links with route := SMap.set 0 a.links.route ((o - 0x3400) / 8) (BitVec.ofNat 5 v) } }
  else if o = 0x5000 then
    { a with power := { a.power with limit := BitVec.ofNat 11 (min (bits v 10 0) 1800), thwarn := BitVec.ofNat 8 (bits v 18 11) } }
  else if 0x5100 ≤ o ∧ o < 0x5300 ∧ o % 0x40 = 0x10 then a.healthWrite ((o - 0x5100) / 0x40) v
  else if 0x6000 ≤ o ∧ o < 0x6200 then a.bootWrite (o - 0x6000) v
  else if 0x8000 ≤ o ∧ o < 0x9000 then a.msixWrite (o - 0x8000) v
  else if 0x60000 ≤ o ∧ o < 0x64000 then a.debugWrite ((o - 0x60000) / 0x40) ((o - 0x60000) % 0x40 / 8) v
  else a

def execRegisterWrite (off : Nat) (value : BitVec 64) (s : State) : Out :=
  s.opEvent (fun a => if off % 8 = 0 then a.registerSet off value.toNat else a)

-- ## Boot and attestation (R329, R330)

/-- START: the boot ROM begins to verify the image at IMG. -/
def Arch.bootStart (a : Arch) : Arch := { a with boot := { a.boot with state := .verifying, cause := 0 } }

def execBootStart (s : State) : Out := s.event Arch.bootStart

def Arch.bootFails (a : Arch) (cause : Nat) : Arch :=
  { a with boot := { a.boot with state := .failed, cause := BitVec.ofNat 8 cause } }

/-- The image at IMG (log entry 8): read by its length, which its first 128 bytes give; in a stack of the module. -/
def Arch.bootImage (a : Arch) : Option (List Byte) × Arch :=
  let pa := a.boot.img.toNat
  match a.place pa with
  | .stack _ _ =>
    let h := a.fePhys pa 128
    (match h.1 with
     | none => (none, h.2)
     | some hd => h.2.fePhys pa (Config.imageLength hd))
  | _ => (none, a)

/-- The bytes of MEAS or NONCE. -/
def bytes64 (x : BitVec 512) : List Byte := toBytes 64 x.toNat

/-- A verified image runs: its body is in the firmware SRAM, with SVN and MEAS, and the shadow service in every core. -/
def Arch.bootRuns (a : Arch) (svn : BitVec 32) (body : List Byte) : Arch :=
  let store := Memory.writeBytes [] 0 ((Config.shadowImage body).take 0x2000)
  (upTo 256).foldl (fun a c => a.mapCore c (fun k => { k with shadowStore := store }))
    { a with boot := { a.boot with
        state := .running, svn := svn, sram := body, meas := sha512 (bytes64 a.boot.meas ++ sha512Bytes body) } }

/-- BOOT_VERIFY_DONE. -/
def Arch.bootVerified (a : Arch) : Arch :=
  if a.boot.state ≠ .verifying then a
  else
    let q := a.bootImage
    match q.1.bind Config.imageFields with
    | none => q.2.bootFails 4
    | some (key, svn, body, sig) =>
      if sha512 key ≠ Config.pkhash then q.2.bootFails 1
      else if svn < Config.minsvn then q.2.bootFails 3
      else if !Config.ecdsaVerify key (sha512 body) sig then q.2.bootFails 2
      else q.2.bootRuns svn body

def execBootVerifyDone (s : State) : Out := s.frontEvent Arch.bootVerified

/-- ATTGO. -/
def Arch.attgo (a : Arch) : Arch := if a.boot.busy then a else { a with boot := { a.boot with busy := true } }

def execAttgo (s : State) : Out := s.event Arch.attgo

/-- What an attestation signs. -/
def Boot.attested (b : Boot) : BitVec 512 :=
  sha512 (bytes64 b.meas ++ bytes64 b.nonce ++ toBytes 16 Config.identity.toNat ++ toBytes 4 b.svn.toNat)

/-- ATTESTATION_DONE. -/
def execAttestationDone (s : State) : Out :=
  s.drawEvent (fun a n =>
    if !a.boot.busy then (0, a)
    else
      (1, { a with boot := { a.boot with
        busy := false, done := true, sig := Config.ecdsaSign n a.boot.attested } }.sets .done |>.interrupt 3))

-- ## The host port (R314 to R317)

/-- Memory of the module that the host reaches through BAR2 or BAR4, where it can be read or written. -/
def Arch.hostReach (a : Arch) (o n : Nat) (w : Bool) : Option Nat :=
  let pa := a.modnum.toNat * 2 ^ 48 + o
  match placeInModule o, placeInModule (o + n - 1) with
  | .stack b _, .stack b' _ => if b = b' ∧ (if w then a.writable pa n else a.readable pa n) then some pa else none
  | .spad c i, .spad c' i' =>
    if c = c' ∧ !(a.brick (c / 32)).lost ∧ (groupsOf i (i' + 1 - i)).all (fun g =>
      ((SMap.get none (a.core c).window g) : Option Nat).isNone) then some pa else none
  | _, _ => none

/-- An access of the host that the port cannot perform yet (R22, R253). -/
def Arch.hostHeld (a : Arch) (o n : Nat) (w : Bool) : Option Arch :=
  match placeInModule o with
  | .stack _ _ | .spad _ _ => a.reachHeld 8 (a.modnum.toNat * 2 ^ 48 + o) n w
  | _ => none

def Arch.logUnsupported (a : Arch) : Arch := { a with unsupported := a.unsupported + 1 }

/-- HOST_READ: the answer, or none for an unsupported request. -/
def Arch.hostReads (a : Arch) (o n : Nat) : Arch :=
  match placeInModule o with
  | .quoin q =>
    if n = 8 ∧ q % 8 = 0 then
      (match a.quoinRead q with
       | some (v, a) => { a with reply := some (toBytes 8 v) }
       | none => { a with reply := none })
    else { a with reply := none }
  | _ =>
    if n = 0 then { a with reply := some [] }
    else
      match a.hostHeld o n false with
      | some a => a
      | none =>
        match a.hostReach o n false with
        | some pa => let r := a.copyRead [(pa, pa, n)]; { r.2 with reply := some r.1 }
        | none => { a with reply := none }

def execHostRead (pa n : Nat) (s : State) : Out := s.event (fun a => a.hostReads pa n)

/-- A write of XLINVA (R205). -/
def Arch.xlinvWrite (a : Arch) (v : Nat) : Arch :=
  match v % 4 with
  | 0 => a.xlinvVa (v / 2 ^ 21 % 2 ^ 35 * 2 ^ 21)
  | 1 => a.xlinvAsid
  | 2 => a.xlinvAll
  | _ => a

/-- A write of a cache slice's control register (R189). The spec does not order CLR and RETIRE in one write: DESIGN CHOICE, CLR comes
first, so that EXPEVICT counts the evictions that RETIRE causes (log entry 84). -/
def Arch.llcWrite (a : Arch) (b v : Nat) : Arch :=
  let a := if v.testBit 0 then a.mapBrick b (fun k => { k with expevict := 0, detwait := 0 }) else a
  if v.testBit 1 then a.retire b else a

/-- A host write of a Quoin register: those that act, and those that hold a value. -/
def Arch.quoinWrite (a : Arch) (o v : Nat) : Arch :=
  if o = 0x100 then { a with cancels := a.cancels ++ [v] }
  else if o = 0x200 then a.xlinvWrite v
  else if o = 0x300 then (if v.testBit 12 then a.arm (v % 4096) else a.deregister (v % 4096))
  else if o = 0x400 then a.hostBell (v % 4096) (v / 2 ^ 32)
  else if o = 0x2008 then a.adjust (BitVec.ofNat 64 v).toInt a.time.slew
  else if o = 0x4000 then (if a.red.queue.length < redRoom then a.redTake v else a)
  else if o = 0x6010 then (if v.testBit 0 then a.bootStart else a)
  else if o = 0x60C0 then (if v.testBit 0 then a.attgo else a)
  else if 0x10000 ≤ o ∧ o < 0x10200 ∧ o % 0x40 = 0x28 then a.llcWrite ((o - 0x10000) / 0x40) v
  else if 0x20000 ≤ o ∧ o < 0x20120 ∧ o % 0x20 = 0x10 then
    (if v.testBit 0 then a.clearStretch ((o - 0x20000) / 0x20) else a)
  else a.registerSet o v

/-- HOST_WRITE: a posted write of the host, performed at device scope. -/
def Arch.hostWrites (a : Arch) (o : Nat) (data : List Byte) : Arch :=
  match placeInModule o with
  | .quoin q =>
    if data.length ≠ 8 ∨ q % 8 ≠ 0 then
      -- no state changes, but a write to a reserved address is logged (R27, R314)
      (if (upTo ((q % 8 + data.length + 7) / 8)).any (fun i => (a.quoinPeek (q / 8 * 8 + 8 * i)).isNone) then a.logUnsupported else a)
    else if (a.quoinPeek q).isSome then a.quoinWrite q (ofBytes data)
    else a.logUnsupported
  | _ =>
    if data.length = 0 then a
    else
      match a.hostHeld o data.length true with
      | some a => a
      | none =>
        match a.hostReach o data.length true with
        | some pa => a.copyWrite [(pa, pa, data.length)] data
        | none => a.logUnsupported

def execHostWrite (pa : Nat) (data : List Byte) (s : State) : Out := s.opEvent (fun a => a.hostWrites pa data)

-- ## Cold reset (R7)

/-- Every register at its reset value; what memory holds is not a register, and stays (log entry 15). -/
def Arch.coldReset (a : Arch) : Arch := { Arch.reset with mem := a.mem, modnum := a.modnum }

def execColdReset (s : State) : Out := .next { s with arch := s.arch.coldReset, iss := Issue.reset }

end Sys2Proof.Machine
end

