-- ==== Sys2Proof/Machine/Transform.lean ====
section
/-! DEFINITION. The X slot (19 R416 to R420): accumulator reads, conversions, quantization, packing and transposition. -/

namespace Sys2Proof.Machine

/-- The type of a floating-point code of R98. -/
def fpType (n : Nat) : VType :=
  match n with
  | 0 => .f32
  | 1 => .bf16
  | _ => .f16

def fpFmt (n : Nat) : Fmt :=
  match n with
  | 0 => f32
  | 1 => bf16
  | _ => f16

/-- Post an event of the issuing slot (R133, R134). -/
def State.postEvent (s : State) (code info : Nat) : State :=
  s.setArch (s.arch.post s.iss.core ⟨code, s.iss.ctx, s.rd.bt % 2 ^ 32, BitVec.ofNat 64 info⟩)

/-- An X slot that writes all of vd (R417). -/
def State.xform (s : State) (p d lat : Nat) (x : Nat) : SlotR := s.whenOn p (.ok (s.landFull d x lat))

-- ## Packing and transposition (R419, R420)

def execXexp (p d a : Nat) (s : State) : Out :=
  .next (s.finish (s.xform p d 12 (expandBlock (s.rd.readV a).toNat)))
def execXpak (p d a : Nat) (s : State) : Out :=
  .next (s.finish (s.xform p d 16 (packBlock (s.rd.readV a).toNat)))

/-- Element width of XTRN's code. -/
def xtrnWidth (e : Nat) : Nat :=
  match e with
  | 0 => 8
  | 1 => 16
  | 2 => 32
  | _ => 4

/-- The transpose of 8 rows of c elements. -/
def transpose8 (w : Nat) (x : Nat) : Nat :=
  let c := 4096 / w / 8
  ofLanes w ((upTo (8 * c)).map (fun i => x / 2 ^ (w * (i % 8 * c + i / 8)) % 2 ^ w))

def execXtrn (p d a e : Nat) (s : State) : Out :=
  .next (s.finish (s.xform p d 8 (transpose8 (xtrnWidth e) (s.rd.readV a).toNat)))

-- ## Conversions (R418)

def xcvtLanes (src dst rm : Nat) (xs : List Nat) : List Nat :=
  (xs.take (fpType dst).lanes).map (fun x => (fpFmt dst).round rm ((fpFmt src).unpack x))

def execXcvt (p d a src dst rm : Nat) (s : State) : Out :=
  .next (s.finish (s.xform p d 4 (packLanes (fpType dst) (xcvtLanes src dst rm (s.lanesA (fpType src) a)))))

/-- A BX value in the register form (R122): the blocks, each with its exponent and mantissas. -/
def regForm (w : Nat) (bs : List (Nat × List Int)) : Nat :=
  ofLanes (32 * w) (bs.map (fun b => ofLanes w (b.2.map (fun m => wrap m w)))) +
    2 ^ 4032 * ofLanes 8 (bs.map Prod.fst)

/-- Blocks of 32 lanes. -/
def blocksOf (xs : List Nat) : Nat → List (List Nat)
  | 0 => []
  | n + 1 => xs.take 32 :: blocksOf (xs.drop 32) n

/-- The events of a quantized register, in block order: QSAT, then QNAN (R123, R134). -/
def quantEvents (a : Nat) (qs : List (Nat × List Int × Bool × Bool)) : List (Nat × Nat) :=
  (List.zip (upTo qs.length) qs).flatMap (fun e =>
    (if e.2.2.2.1 then [(0x04, e.1 + 2 ^ 8 * a)] else []) ++ (if e.2.2.2.2 then [(0x05, e.1 + 2 ^ 8 * a)] else []))

def State.xqnt (s : State) (d a w src : Nat) : State :=
  let xs := s.lanesA (fpType src) a
  let qs := (blocksOf xs (xs.length / 32)).map (fun b => quantizeBX (w + 2) (b.map (fpFmt src).unpack))
  ((quantEvents a qs).foldl (fun s e => s.postEvent e.1 e.2) s).landFull d
    (regForm (w + 2) (qs.map (fun q => (q.1, q.2.1)))) 8

def execXqnt (p d a w src : Nat) (s : State) : Out := .next (s.finish (s.whenOn p (.ok (s.xqnt d a w src))))

/-- Mantissa `e` and exponent of block `b` of a register form. -/
def regMant (w x b e : Nat) : Int := sext (x / 2 ^ (32 * w * b + w * e)) w
def regExp (x b : Nat) : Nat := bits x (4039 + 8 * b) (4032 + 8 * b)

def xdqn (w dst rm x : Nat) : Nat :=
  packLanes (fpType dst) ((upTo (fpType dst).lanes).map (fun i =>
    (fpFmt dst).round rm (bxValue w (regExp x (i / 32)) (regMant w x (i / 32) (i % 32)))))

def execXdqn (p d a w dst rm : Nat) (s : State) : Out :=
  .next (s.finish (s.xform p d 4 (xdqn (w + 2) dst (if dst = 0 then 0 else rm) (s.rd.readV a).toNat)))

-- ## XACC (R416, R129)

/-- One lane: its value, and whether it saturated. -/
def xaccLane (t : VType) (rm : Nat) (i X : Int) : Nat × Bool :=
  match t with
  | .f16 => accToFloat f16 rm i X
  | .bf16 => accToFloat bf16 rm i X
  | .f32 => accToFloat f32 rm i X
  | _ => accToInt t.width rm i X

/-- Accumulator `j` of a row. -/
def Engine.accAt (e : Engine) (row j : Nat) : Int := sext (SMap.get 0 e.acc (row * 64 + j)).toNat 64

/-- Lanes of an XACC with the row and accumulator each comes from. -/
def State.xaccLanes (s : State) (t : VType) (rm row : Nat) (X : Int) : List (Nat × Nat × Nat × Bool) :=
  let e := (s.view.core s.iss.core).engine
  (upTo t.lanes).map (fun i =>
    if 2559 < row + i / 64 then (0, 0, 0, false)
    else
      let r := xaccLane t rm (e.accAt (row + i / 64) (i % 64)) X
      (row + i / 64, i % 64, r.1, r.2))

def State.xacc (s : State) (d i ty rm : Nat) : State :=
  let m := (s.rd.readM i).toNat
  let t := VType.ofCode ty
  let ls := s.xaccLanes t rm (bits m 11 0) (sext (bits m 42 32) 11)
  ((ls.filter (fun l => l.2.2.2)).foldl (fun s l => s.postEvent 0x03 (l.1 + 2 ^ 12 * l.2.1)) s).landFull d
    (packLanes t (ls.map (fun l => l.2.2.1))) 6

def execXacc (p d i ty rm : Nat) (s : State) : Out := .next (s.finish (s.whenOn p (.ok (s.xacc d i ty rm))))

end Sys2Proof.Machine
end

