-- ==== Sys2Proof/Machine/Dispatch.lean ====
section
/-! DEFINITION. One arm for each constructor of Instr: what executing it does to the machine. -/

namespace Sys2Proof.Machine

def exec (i : Instr) (s : State) : Host.Outcome State Fault Refusal :=
  match i with
  | .nop rep => Sys2Proof.Machine.execNop rep s
  | .add x => Sys2Proof.Machine.execAdd x s
  | .sub x => Sys2Proof.Machine.execSub x s
  | .mul x => Sys2Proof.Machine.execMul x s
  | .mulh x => Sys2Proof.Machine.execMulh x s
  | .mulhn x => Sys2Proof.Machine.execMulhn x s
  | .div x => Sys2Proof.Machine.execDiv x s
  | .divn x => Sys2Proof.Machine.execDivn x s
  | .mod x => Sys2Proof.Machine.execMod x s
  | .modn x => Sys2Proof.Machine.execModn x s
  | .and x => Sys2Proof.Machine.execAnd x s
  | .or x => Sys2Proof.Machine.execOr x s
  | .xor x => Sys2Proof.Machine.execXor x s
  | .andn x => Sys2Proof.Machine.execAndn x s
  | .shl x => Sys2Proof.Machine.execShl x s
  | .shr x => Sys2Proof.Machine.execShr x s
  | .sar x => Sys2Proof.Machine.execSar x s
  | .min x => Sys2Proof.Machine.execMin x s
  | .max x => Sys2Proof.Machine.execMax x s
  | .minn x => Sys2Proof.Machine.execMinn x s
  | .maxn x => Sys2Proof.Machine.execMaxn x s
  | .clz p d a w => Sys2Proof.Machine.execClz p d a w s
  | .ctz p d a w => Sys2Proof.Machine.execCtz p d a w s
  | .popc p d a w => Sys2Proof.Machine.execPopc p d a w s
  | .bfx p d a b => Sys2Proof.Machine.execBfx p d a b s
  | .bfi p d a b => Sys2Proof.Machine.execBfi p d a b s
  | .sext p d a w => Sys2Proof.Machine.execSext p d a w s
  | .zext p d a w => Sys2Proof.Machine.execZext p d a w s
  | .cmp p pd cc a b w => Sys2Proof.Machine.execCmp p pd cc a b w s
  | .pand p pd pa na pb nb => Sys2Proof.Machine.execPand p pd pa na pb nb s
  | .por p pd pa na pb nb => Sys2Proof.Machine.execPor p pd pa na pb nb s
  | .pxor p pd pa na pb nb => Sys2Proof.Machine.execPxor p pd pa na pb nb s
  | .addi p d a imm => Sys2Proof.Machine.execAddi p d a imm s
  | .andi p d a imm => Sys2Proof.Machine.execAndi p d a imm s
  | .ori p d a imm => Sys2Proof.Machine.execOri p d a imm s
  | .xori p d a imm => Sys2Proof.Machine.execXori p d a imm s
  | .shli p d a n w => Sys2Proof.Machine.execShli p d a n w s
  | .shri p d a n w => Sys2Proof.Machine.execShri p d a n w s
  | .sari p d a n w => Sys2Proof.Machine.execSari p d a n w s
  | .cmpi p pd cc a imm => Sys2Proof.Machine.execCmpi p pd cc a imm s
  | .movi p d imm => Sys2Proof.Machine.execMovi p d imm s
  | .movhi p d a x => Sys2Proof.Machine.execMovhi p d a x s
  | .lit p d x => Sys2Proof.Machine.execLit p d x s
  | .pnot p pd pa => Sys2Proof.Machine.execPnot p pd pa s
  | .pget p d => Sys2Proof.Machine.execPget p d s
  | .pset p pd v => Sys2Proof.Machine.execPset p pd v s
  | .br p off => Sys2Proof.Machine.execBr p off s
  | .jmpi p a => Sys2Proof.Machine.execJmpi p a s
  | .call p off => Sys2Proof.Machine.execCall p off s
  | .calli p a => Sys2Proof.Machine.execCalli p a s
  | .ret p => Sys2Proof.Machine.execRet p s
  | .loop p off => Sys2Proof.Machine.execLoop p off s
  | .loopR p off => Sys2Proof.Machine.execLoopR p off s
  | .rotb p => Sys2Proof.Machine.execRotb p s
  | .halt p => Sys2Proof.Machine.execHalt p s
  | .trap p n => Sys2Proof.Machine.execTrap p n s
  | .xret p => Sys2Proof.Machine.execXret p s
  | .waitev p d a => Sys2Proof.Machine.execWaitev p d a s
  | .evack p a => Sys2Proof.Machine.execEvack p a s
  | .ld x => Sys2Proof.Machine.execLd x s
  | .st x => Sys2Proof.Machine.execSt x s
  | .ldf p d a off => Sys2Proof.Machine.execLdf p d a off s
  | .ste p d a off => Sys2Proof.Machine.execSte p d a off s
  | .feget p d a off => Sys2Proof.Machine.execFeget p d a off s
  | .feset p a off => Sys2Proof.Machine.execFeset p a off s
  | .feclr p a off => Sys2Proof.Machine.execFeclr p a off s
  | .lda x => Sys2Proof.Machine.execLda x s
  | .stl x => Sys2Proof.Machine.execStl x s
  | .amoadd x => Sys2Proof.Machine.execAmoadd x s
  | .amoand x => Sys2Proof.Machine.execAmoand x s
  | .amoor x => Sys2Proof.Machine.execAmoor x s
  | .amoxor x => Sys2Proof.Machine.execAmoxor x s
  | .amomin x => Sys2Proof.Machine.execAmomin x s
  | .amomax x => Sys2Proof.Machine.execAmomax x s
  | .amoswp x => Sys2Proof.Machine.execAmoswp x s
  | .amocas x => Sys2Proof.Machine.execAmocas x s
  | .amofadd x => Sys2Proof.Machine.execAmofadd x s
  | .amoaddC p a b => Sys2Proof.Machine.execAmoaddC p a b s
  | .amoandC p a b => Sys2Proof.Machine.execAmoandC p a b s
  | .amoorC p a b => Sys2Proof.Machine.execAmoorC p a b s
  | .amoxorC p a b => Sys2Proof.Machine.execAmoxorC p a b s
  | .amominC p a b => Sys2Proof.Machine.execAmominC p a b s
  | .amomaxC p a b => Sys2Proof.Machine.execAmomaxC p a b s
  | .amofaddC p a b => Sys2Proof.Machine.execAmofaddC p a b s
  | .mfs p d n => Sys2Proof.Machine.execMfs p d n s
  | .mts p d n => Sys2Proof.Machine.execMts p d n s
  | .drain p scope => Sys2Proof.Machine.execDrain p scope s
  | .tstamp p d => Sys2Proof.Machine.execTstamp p d s
  | .cycles p d => Sys2Proof.Machine.execCycles p d s
  | .nxtile p d => Sys2Proof.Machine.execNxtile p d s
  | .bankrel p mask => Sys2Proof.Machine.execBankrel p mask s
  | .bankacq p mask => Sys2Proof.Machine.execBankacq p mask s
  | .tlwait p n a => Sys2Proof.Machine.execTlwait p n a s
  | .tlread p d n => Sys2Proof.Machine.execTlread p d n s
  | .tladv p n a => Sys2Proof.Machine.execTladv p n a s
  | .barinit p a b => Sys2Proof.Machine.execBarinit p a b s
  | .bararr p a => Sys2Proof.Machine.execBararr p a s
  | .barwait p a b => Sys2Proof.Machine.execBarwait p a b s
  | .opgo p a => Sys2Proof.Machine.execOpgo p a s
  | .qpub p a b => Sys2Proof.Machine.execQpub p a b s
  | .vadd x => Sys2Proof.Machine.execVadd x s
  | .vsub x => Sys2Proof.Machine.execVsub x s
  | .vmul x => Sys2Proof.Machine.execVmul x s
  | .vmulh x => Sys2Proof.Machine.execVmulh x s
  | .vfma x => Sys2Proof.Machine.execVfma x s
  | .vfms x => Sys2Proof.Machine.execVfms x s
  | .vmin x => Sys2Proof.Machine.execVmin x s
  | .vmax x => Sys2Proof.Machine.execVmax x s
  | .vabs x => Sys2Proof.Machine.execVabs x s
  | .vneg x => Sys2Proof.Machine.execVneg x s
  | .vand x => Sys2Proof.Machine.execVand x s
  | .vor x => Sys2Proof.Machine.execVor x s
  | .vxor x => Sys2Proof.Machine.execVxor x s
  | .vshl x => Sys2Proof.Machine.execVshl x s
  | .vshr x => Sys2Proof.Machine.execVshr x s
  | .vsar x => Sys2Proof.Machine.execVsar x s
  | .vcmp x => Sys2Proof.Machine.execVcmp x s
  | .vsel x => Sys2Proof.Machine.execVsel x s
  | .vmov x => Sys2Proof.Machine.execVmov x s
  | .vsplat x => Sys2Proof.Machine.execVsplat x s
  | .vbcast x => Sys2Proof.Machine.execVbcast x s
  | .vperm x => Sys2Proof.Machine.execVperm x s
  | .vslide x => Sys2Proof.Machine.execVslide x s
  | .vext x => Sys2Proof.Machine.execVext x s
  | .vins x => Sys2Proof.Machine.execVins x s
  | .vcvt x => Sys2Proof.Machine.execVcvt x s
  | .vwadd x => Sys2Proof.Machine.execVwadd x s
  | .vwmul x => Sys2Proof.Machine.execVwmul x s
  | .vwfma x => Sys2Proof.Machine.execVwfma x s
  | .vnarr x => Sys2Proof.Machine.execVnarr x s
  | .vdot x => Sys2Proof.Machine.execVdot x s
  | .vredadd x => Sys2Proof.Machine.execVredadd x s
  | .vredmax x => Sys2Proof.Machine.execVredmax x s
  | .vredmin x => Sys2Proof.Machine.execVredmin x s
  | .vscan x => Sys2Proof.Machine.execVscan x s
  | .vexp2 x => Sys2Proof.Machine.execVexp2 x s
  | .vlog2 x => Sys2Proof.Machine.execVlog2 x s
  | .vrcp x => Sys2Proof.Machine.execVrcp x s
  | .vrsq x => Sys2Proof.Machine.execVrsq x s
  | .vtanh x => Sys2Proof.Machine.execVtanh x s
  | .vclz x => Sys2Proof.Machine.execVclz x s
  | .vpopc x => Sys2Proof.Machine.execVpopc x s
  | .viota x => Sys2Proof.Machine.execViota x s
  | .vcomp x => Sys2Proof.Machine.execVcomp x s
  | .vdrop x y => Sys2Proof.Machine.execVdrop x y s
  | .vrand x => Sys2Proof.Machine.execVrand x s
  | .kand x => Sys2Proof.Machine.execKand x s
  | .kor x => Sys2Proof.Machine.execKor x s
  | .kxor x => Sys2Proof.Machine.execKxor x s
  | .knot x => Sys2Proof.Machine.execKnot x s
  | .kcnt x => Sys2Proof.Machine.execKcnt x s
  | .ldv p v g imm => Sys2Proof.Machine.execLdv p v g imm s
  | .ldvZ p v g imm => Sys2Proof.Machine.execLdvZ p v g imm s
  | .stv p v g imm => Sys2Proof.Machine.execStv p v g imm s
  | .scfg p a g imm => Sys2Proof.Machine.execScfg p a g imm s
  | .sld p v a => Sys2Proof.Machine.execSld p v a s
  | .sst p v a => Sys2Proof.Machine.execSst p v a s
  | .sgath p v a => Sys2Proof.Machine.execSgath p v a s
  | .sscat p v a => Sys2Proof.Machine.execSscat p v a s
  | .samo p v a op => Sys2Proof.Machine.execSamo p v a op s
  | .sadv p a g => Sys2Proof.Machine.execSadv p a g s
  | .stasht p g imm op => Sys2Proof.Machine.execStasht p g imm op s
  | .mcall p n g => Sys2Proof.Machine.execMcall p n g s
  | .mpar p ix g => Sys2Proof.Machine.execMpar p ix g s
  | .mpload p n g => Sys2Proof.Machine.execMpload p n g s
  | .mdrain p g => Sys2Proof.Machine.execMdrain p g s
  | .mstat p g => Sys2Proof.Machine.execMstat p g s
  | .xexp p d a => Sys2Proof.Machine.execXexp p d a s
  | .xpak p d a => Sys2Proof.Machine.execXpak p d a s
  | .xtrn p d a e => Sys2Proof.Machine.execXtrn p d a e s
  | .xcvt p d a src dst rm => Sys2Proof.Machine.execXcvt p d a src dst rm s
  | .xqnt p d a w src => Sys2Proof.Machine.execXqnt p d a w src s
  | .xdqn p d a w dst rm => Sys2Proof.Machine.execXdqn p d a w dst rm s
  | .xacc p d ix ty rm => Sys2Proof.Machine.execXacc p d ix ty rm s
  | .mxldb ix first count plane => Sys2Proof.Machine.execMxldb ix first count plane s
  | .mxstream ix w blocks => Sys2Proof.Machine.execMxstream ix w blocks s
  | .mxstreamS j w blocks => Sys2Proof.Machine.execMxstreamS j w blocks s
  | .mxacc ix first count => Sys2Proof.Machine.execMxacc ix first count s
  | .mxclr ix rows => Sys2Proof.Machine.execMxclr ix rows s
  | .mxloopImm n => Sys2Proof.Machine.execMxloopImm n s
  | .mxloopReg ix => Sys2Proof.Machine.execMxloopReg ix s
  | .mxend => Sys2Proof.Machine.execMxend s
  | .mxwaitb => Sys2Proof.Machine.execMxwaitb s
  | .mxarr => Sys2Proof.Machine.execMxarr s
  | .mxskip => Sys2Proof.Machine.execMxskip s
  | .mxpar ix j => Sys2Proof.Machine.execMxpar ix j s
  | .mxaddp ix imm => Sys2Proof.Machine.execMxaddp ix imm s
  | .mxsync => Sys2Proof.Machine.execMxsync s
  | .mcallRun c => Sys2Proof.Machine.execMcallRun c s
  | .mploadInstall c => Sys2Proof.Machine.execMploadInstall c s
  | .mdrainArrive c => Sys2Proof.Machine.execMdrainArrive c s
  | .engineStallRelease c => Sys2Proof.Machine.execEngineStallRelease c s
  | .engineFetchFault c => Sys2Proof.Machine.execEngineFetchFault c s
  | .lateDataArrive id => Sys2Proof.Machine.execLateDataArrive id s
  | .landingBufferRelease c x => Sys2Proof.Machine.execLandingBufferRelease c x s
  | .watermarkRelease c x => Sys2Proof.Machine.execWatermarkRelease c x s
  | .acquireHoldRelease c x => Sys2Proof.Machine.execAcquireHoldRelease c x s
  | .drainComplete c x => Sys2Proof.Machine.execDrainComplete c x s
  | .feWaiterServed c => Sys2Proof.Machine.execFeWaiterServed c s
  | .feWaiterRefuse c ix => Sys2Proof.Machine.execFeWaiterRefuse c ix s
  | .feWaiterRetry id => Sys2Proof.Machine.execFeWaiterRetry id s
  | .barwaitRelease c x => Sys2Proof.Machine.execBarwaitRelease c x s
  | .bankacqGrant c x => Sys2Proof.Machine.execBankacqGrant c x s
  | .tlwaitRelease c x => Sys2Proof.Machine.execTlwaitRelease c x s
  | .waitevRelease c x => Sys2Proof.Machine.execWaitevRelease c x s
  | .mQueueRoom c x => Sys2Proof.Machine.execMQueueRoom c x s
  | .opgoQueueRoom c x => Sys2Proof.Machine.execOpgoQueueRoom c x s
  | .eventDrain c => Sys2Proof.Machine.execEventDrain c s
  | .machineCheck c x => Sys2Proof.Machine.execMachineCheck c x s
  | .translationMiss c => Sys2Proof.Machine.execTranslationMiss c s
  | .pageWalk b => Sys2Proof.Machine.execPageWalk b s
  | .shadowService c => Sys2Proof.Machine.execShadowService c s
  | .shadowServiceTimeout c => Sys2Proof.Machine.execShadowServiceTimeout c s
  | .xlinvVa va => Sys2Proof.Machine.execXlinvVa va s
  | .xlinvAsid => Sys2Proof.Machine.execXlinvAsid s
  | .xlinvAll => Sys2Proof.Machine.execXlinvAll s
  | .xlinvComplete => Sys2Proof.Machine.execXlinvComplete s
  | .stashFillComplete ix => Sys2Proof.Machine.execStashFillComplete ix s
  | .directoryRequest b => Sys2Proof.Machine.execDirectoryRequest b s
  | .snoop b d line inval => Sys2Proof.Machine.execSnoop b d line inval s
  | .writeBack ix => Sys2Proof.Machine.execWriteBack ix s
  | .releaseNotice b d region => Sys2Proof.Machine.execReleaseNotice b d region s
  | .remoteAccess id => Sys2Proof.Machine.execRemoteAccess id s
  | .detAddPerform b => Sys2Proof.Machine.execDetAddPerform b s
  | .llcCounterClr b => Sys2Proof.Machine.execLlcCounterClr b s
  | .llcRetire b => Sys2Proof.Machine.execLlcRetire b s
  | .copyStart c x n word => Sys2Proof.Machine.execCopyStart c x n word s
  | .copyArm c x n => Sys2Proof.Machine.execCopyArm c x n s
  | .courseEncoderGrant b => Sys2Proof.Machine.execCourseEncoderGrant b s
  | .copyLand c x n => Sys2Proof.Machine.execCopyLand c x n s
  | .copyFault c x n => Sys2Proof.Machine.execCopyFault c x n s
  | .launchRelease l => Sys2Proof.Machine.execLaunchRelease l s
  | .unitEnd u => Sys2Proof.Machine.execUnitEnd u s
  | .tileBatchClaim b l => Sys2Proof.Machine.execTileBatchClaim b l s
  | .launchStarvation l => Sys2Proof.Machine.execLaunchStarvation l s
  | .cancel record => Sys2Proof.Machine.execCancel record s
  | .swapOut u => Sys2Proof.Machine.execSwapOut u s
  | .swapRestore u => Sys2Proof.Machine.execSwapRestore u s
  | .haltRequest c x => Sys2Proof.Machine.execHaltRequest c x s
  | .haltRelease c x => Sys2Proof.Machine.execHaltRelease c x s
  | .debugStep c x => Sys2Proof.Machine.execDebugStep c x s
  | .breakpoint c x => Sys2Proof.Machine.execBreakpoint c x s
  | .queueArm q => Sys2Proof.Machine.execQueueArm q s
  | .queueDeregister q => Sys2Proof.Machine.execQueueDeregister q s
  | .qdb q w => Sys2Proof.Machine.execQdb q w s
  | .qpubDoorbell ix => Sys2Proof.Machine.execQpubDoorbell ix s
  | .packetNop q => Sys2Proof.Machine.execPacketNop q s
  | .packetLaunch q => Sys2Proof.Machine.execPacketLaunch q s
  | .packetCoded q => Sys2Proof.Machine.execPacketCoded q s
  | .packetGraph q => Sys2Proof.Machine.execPacketGraph q s
  | .packetBarrierAnd q => Sys2Proof.Machine.execPacketBarrierAnd q s
  | .packetSignal q => Sys2Proof.Machine.execPacketSignal q s
  | .packetPhaseEnd q => Sys2Proof.Machine.execPacketPhaseEnd q s
  | .barrierAndEvaluate q => Sys2Proof.Machine.execBarrierAndEvaluate q s
  | .graphAdmit g => Sys2Proof.Machine.execGraphAdmit g s
  | .nodeFire g n => Sys2Proof.Machine.execNodeFire g n s
  | .slotTimeslice q => Sys2Proof.Machine.execSlotTimeslice q s
  | .workerTimeout q => Sys2Proof.Machine.execWorkerTimeout q s
  | .lockstepMismatch => Sys2Proof.Machine.execLockstepMismatch s
  | .energyCharge q uj => Sys2Proof.Machine.execEnergyCharge q uj s
  | .accountingPeriod => Sys2Proof.Machine.execAccountingPeriod s
  | .operatorOpen => Sys2Proof.Machine.execOperatorOpen s
  | .taskReturn u => Sys2Proof.Machine.execTaskReturn u s
  | .graceExpiry n => Sys2Proof.Machine.execGraceExpiry n s
  | .tmaxExpiry n => Sys2Proof.Machine.execTmaxExpiry n s
  | .repointingDecode n => Sys2Proof.Machine.execRepointingDecode n s
  | .redgo pa => Sys2Proof.Machine.execRedgo pa s
  | .redgoAdmit => Sys2Proof.Machine.execRedgoAdmit s
  | .reductionStreamArrive p tag data => Sys2Proof.Machine.execReductionStreamArrive p tag data s
  | .reductionComplete => Sys2Proof.Machine.execReductionComplete s
  | .reductionStreamTimeout p tag => Sys2Proof.Machine.execReductionStreamTimeout p tag s
  | .linkReplay p ok => Sys2Proof.Machine.execLinkReplay p ok s
  | .portTrained p peer => Sys2Proof.Machine.execPortTrained p peer s
  | .linkTimeout p => Sys2Proof.Machine.execLinkTimeout p s
  | .portWake d p => Sys2Proof.Machine.execPortWake d p s
  | .portWakeTimeout d p => Sys2Proof.Machine.execPortWakeTimeout d p s
  | .heartbeat b => Sys2Proof.Machine.execHeartbeat b s
  | .dieLost b => Sys2Proof.Machine.execDieLost b s
  | .windowMarker d h => Sys2Proof.Machine.execWindowMarker d h s
  | .windowClose h d => Sys2Proof.Machine.execWindowClose h d s
  | .windowAnnounce h d => Sys2Proof.Machine.execWindowAnnounce h d s
  | .stretchClr d => Sys2Proof.Machine.execStretchClr d s
  | .tadj off => Sys2Proof.Machine.execTadj off s
  | .ptpSync off locked => Sys2Proof.Machine.execPtpSync off locked s
  | .powerSample watts => Sys2Proof.Machine.execPowerSample watts s
  | .thermalTrip => Sys2Proof.Machine.execThermalTrip s
  | .thermalWarning b deg => Sys2Proof.Machine.execThermalWarning b deg s
  | .droopAlarm c => Sys2Proof.Machine.execDroopAlarm c s
  | .droopStretchEnd c => Sys2Proof.Machine.execDroopStretchEnd c s
  | .droopWindowEnd c => Sys2Proof.Machine.execDroopWindowEnd c s
  | .hostRead pa n => Sys2Proof.Machine.execHostRead pa n s
  | .hostWrite pa data => Sys2Proof.Machine.execHostWrite pa data s
  | .bootStart => Sys2Proof.Machine.execBootStart s
  | .bootVerifyDone => Sys2Proof.Machine.execBootVerifyDone s
  | .attgo => Sys2Proof.Machine.execAttgo s
  | .attestationDone => Sys2Proof.Machine.execAttestationDone s
  | .coldReset => Sys2Proof.Machine.execColdReset s
  | .registerWrite off value => Sys2Proof.Machine.execRegisterWrite off value s
  | .mortarPortLowPower d p => Sys2Proof.Machine.execMortarPortLowPower d p s

end Sys2Proof.Machine
end

