-- ==== Sys2Proof/Machine/Issue.lean ====
section
/-! DEFINITION. One arithmetic cycle of a core (03 R54 to R57, R62, R72 to R74; 04 R80, R104; 02 R40, R41): the clock edge,
what each context offers, the merge stage, gangs, the shadow context; and one action of a core's matrix engine. -/

namespace Sys2Proof.Machine

-- ## The clock edge (R36, R55, R327, R328)

/-- The state of a droop response at an edge (R328). -/
def Core.edged (k : Core) (h : Health) : Core := (k.stretchEnds h).windowEnds

/-- The time of core `c`'s next edge. Edges of one time go by core number (R43). -/
def Arch.edgeAt (a : Arch) (c : Nat) : Nat :=
  let t := max (roundUp a.clock 2) ((a.core c).lastEdge + 2)
  if t = a.clock ∧ a.cores.any (fun e => decide (c < e.1) && e.2.lastEdge == t) = true then t + 2 else t

/-- One arithmetic edge of core `c`: time moves to it, it is counted, and a droop response moves on. -/
def Arch.edge (a : Arch) (c : Nat) : Arch :=
  let t := a.edgeAt c
  (a.elapse (t - a.clock)).mapCore c (fun k => { (k.edged (a.brick (c / 32)).health) with lastEdge := t })

/-- An omitted edge of a droop response: the core does nothing (R328). -/
def Core.omit (k : Core) : Core := { k with stretchLeft := k.stretchLeft - 1, omitted := k.omitted + 1, drainable := false }

/-- Issue permission on this edge (R55): halved issue, and the sixteenths that the power clamp withholds. -/
def Core.permits (k : Core) (clamp : Nat) : Bool :=
  k.bankStall == 0 && (k.halfLeft ≤ 1 || k.phase == 0) && clamp ≤ k.cycles % 16

/-- What an edge that occurs uses up, once it is over. -/
def Core.afterEdge (k : Core) : Core :=
  { k with halfLeft := if 1 < k.halfLeft then k.halfLeft - 1 else k.halfLeft
           phase := if 1 < k.halfLeft then 1 - k.phase else k.phase
           bankStall := k.bankStall - 1 + bankExcess k.cycleRows
           cycleRows := []
           gang := []
           drainable := !k.sBusy
           sBusy := false }

/-- An edge of the context's core, or of its gang's lead, does something for it: it may issue, its hold is counted, or its wait ends at
an edge. -/
def Context.needsEdges (t : Context) : Bool :=
  t.status == .running && (match t.wait with
    | none => true
    | some w => w.kind == .detm || w.kind == .xret || w.kind == .trap)

/-- A member of the context's gang, or the context, has a trap of the matrix engine to take (R156, R302). -/
def Arch.trapWaits (a : Arch) (c x : Nat) : Bool := (a.members c x).any (fun m => (a.ctx m x).engineTrap.isSome)

/-- The core's clock runs: not on a lost Brick, and not after a thermal trip (R214, R327). -/
def Arch.clocked (a : Arch) (c : Nat) : Bool := !(a.brick (c / 32)).lost && !a.power.tripped

/-- The next edge of core `c` is not to be passed over: something comes of it. -/
def Arch.awake (a : Arch) (c : Nat) : Bool :=
  let k := a.core c
  a.clocked c && (k.ctxs.any (fun e => (a.members c e.1).any (fun m => (a.ctx m e.1).needsEdges) || a.trapWaits c e.1)
    || k.stretchLeft != 0 || k.halfLeft != 0 || k.bankStall != 0 || !k.gang.isEmpty || !k.cycleRows.isEmpty || k.sBusy
    || (!k.drainable && k.evq.any (fun e => a.ringRoom c e.ctx)))

/-- The cores whose edges come to something, and `c`: the one whose edge is first, and of one time the lowest. -/
def Arch.dueCore (a : Arch) (c : Nat) : Nat :=
  ((a.cores.filter (fun e => decide (e.1 < 256) && a.awake e.1)).map Prod.fst).foldl (fun d e =>
    if a.edgeAt e < a.edgeAt d || (a.edgeAt e == a.edgeAt d && decide (e < d)) then e else d) c

-- ## Fetch and the checks before execution (R80, R104)

/-- The bundle at a context's pc, from its gang's lead; the shadow context fetches from its store (R203). -/
def Arch.fetch (a : Arch) (c x : Nat) : Decoded :=
  let pc := (a.ctx (a.leadOf c x) x).pc
  if x = 2 then decodeBundle pc (Memory.readBytes (a.core c).shadowStore pc 42)
  else decodeBundle pc (Memory.readBytes (a.core (a.leadOf c x)).imem pc 42)

/-- The kind of a slot position. -/
def posKind (pos : Nat) : SlotKind :=
  if pos = 0 then .s else if pos ≤ 2 then .v else if pos = 3 then .m else if pos ≤ 5 then .c else .x

/-- Whether a guarded-on slot fails step 7 of R104: no instruction, or XRET outside a handler, which the shadow context needs none for
(R203). -/
def Context.slotFails (t : Context) (x : Nat) (q : Slot) : Bool :=
  let p := bits q.word 4 0
  let on := if 16 ≤ p then !t.readP (p % 16) else t.readP (p % 16)
  on && (match q.instr with
    | none => true
    | some (.xret _) => !t.trap.tmode && x != 2
    | some _ => false)

/-- The register that a b operand names. -/
def srcRegs : Src → List Nat
  | .reg n => [n]
  | .lit _ => []

/-- The general registers that the fields of an S slot's instruction name (R84 to R90). -/
def slotRegs : Instr → List Nat
  | .add x | .sub x | .mul x | .mulh x | .mulhn x | .div x | .divn x | .mod x | .modn x | .and x | .or x | .xor x | .andn x
  | .shl x | .shr x | .sar x | .min x | .max x | .minn x | .maxn x => x.d :: x.a :: srcRegs x.b
  | .clz _ d a _ | .ctz _ d a _ | .popc _ d a _ | .sext _ d a _ | .zext _ d a _ | .movhi _ d a _ => [d, a]
  | .addi _ d a _ | .andi _ d a _ | .ori _ d a _ | .xori _ d a _ => [d, a]
  | .shli _ d a _ _ | .shri _ d a _ _ | .sari _ d a _ _ => [d, a]
  | .bfx _ d a b | .bfi _ d a b => d :: a :: srcRegs b
  | .cmp _ _ _ a b _ => a :: srcRegs b
  | .cmpi _ _ _ a _ => [a]
  | .movi _ d _ | .lit _ d _ | .pget _ d | .tstamp _ d | .cycles _ d | .nxtile _ d | .mfs _ d _ | .mts _ d _ | .tlread _ d _ => [d]
  | .jmpi _ a | .calli _ a | .evack _ a | .tlwait _ _ a | .tladv _ _ a | .bararr _ a | .opgo _ a | .feset _ a _ | .feclr _ a _ => [a]
  | .waitev _ d a | .ldf _ d a _ | .ste _ d a _ | .feget _ d a _ | .amoaddC _ d a | .amoandC _ d a | .amoorC _ d a | .amoxorC _ d a
  | .amominC _ d a | .amomaxC _ d a | .amofaddC _ d a => [d, a]
  | .ld x | .st x => [x.d, x.a]
  | .lda x | .stl x => [x.d, x.a]
  | .amoadd x | .amoand x | .amoor x | .amoxor x | .amomin x | .amomax x | .amoswp x | .amocas x | .amofadd x => [x.d, x.a, x.b]
  | .barinit _ a b | .barwait _ a b | .qpub _ a b => a :: srcRegs b
  | _ => []

/-- A slot of the shadow context: an S slot whose register fields all name h0 to h15 (R204). A word without an instruction names none:
guarded on it traps, and guarded off it does nothing (R102). CALL, CALLI and RET use g62, which no field names: the shadow context has
one of its own (log entry 82). -/
def shadowOk (q : Slot) : Bool := q.pos == 0 && q.instr.all (fun i => (slotRegs i).all (fun r => r < 16))

/-- A bundle the shadow context may issue (R204): only an S slot, with its registers. A bundle with no slot, which R204 does not name,
declines the service (log entry 82). -/
def shadowBundle (b : Bundle) : Bool := b.slots.all shadowOk && b.slots.length == 1 && b.len ≤ 0x2000

-- ## Executing a bundle

/-- A guarded-off slot without an instruction still takes its place (R72). -/
def State.emptySlot (s : State) (pos : Nat) : State :=
  if s.iss.trapped then s else if pos = 3 then s.mpcNext.slotDone else s.slotDone

/-- The next state of an outcome; a refusal or a fault leaves the state alone here and is reported by `runSlots`. -/
def runSlots (s : State) : List Slot → Out
  | [] => .next s
  | q :: qs =>
    let s := s.setIss { s.iss with pos := q.pos }
    match q.instr with
    | none => runSlots (s.emptySlot q.pos) qs
    | some i =>
      match exec i s with
      | .next s' => runSlots s' qs
      | o => o

/-- The bundle cursor as a bundle begins. -/
def State.begin (s : State) (c x : Nat) (left len rep : Nat) (follow : Option Branch) : State :=
  s.setIss { Issue.reset with core := c, ctx := x, pre := some s.arch, left := left, len := len, rep := rep
                              follow := follow, branch := follow.getD .none }

/-- Issue a decoded bundle for one context: steps 1 to 9 of R104 in order. -/
def State.issue (s : State) (c x : Nat) (d : Decoded) (follow : Option Branch) : Out :=
  match d with
  | .reject r h => .next ((s.begin c x 0 2 (bits h 11 8) follow).trapNow 1 7 r.step 0 (bits h 15 0))
  | .bundle b =>
    let s0 := s.begin c x (max 1 b.slots.length) b.len b.rep follow
    if x = 2 && !shadowBundle b then .next (s0.trapNow 1 7 1 0 0)
    else
      match b.slots.find? (s0.rd.slotFails x) with
      | some q => .next (s0.trapNow 2 q.pos 7 0 q.word)
      | none => if b.slots.isEmpty then exec (.nop b.rep) s0 else runSlots s0 b.slots

-- ## What a context offers (R54, R56, R57, R62, R312)

/-- What a cycle does to a context that issues no bundle of its own: a wait or bubble moves on. -/
inductive Ready where
  /-- Nothing to issue. -/
  | no
  /-- A branch bubble. -/
  | bubble
  /-- A result due is absent (R62). -/
  | late
  /-- XRET waits for the handler's results. -/
  | leaving
  /-- The trap of a TRAP waits for what was due with its bundle (R299). -/
  | soft (pc n : Nat)
  /-- A trap of the matrix engine is pending (R156). -/
  | engine (p : PendingTrap)
  | issue
deriving DecidableEq, Repr

/-- A result of the context that is due by now and absent is what this access gives. -/
def Context.lacks (t : Context) (r : Req) : Bool :=
  t.inflight.any (fun p => some p.tag == r.tag && p.parts != 0 && decide (p.due ≤ t.time))

/-- In deterministic mode a context's class G and D results arrive by their due BT (R65): what gives them, and what the context issued
before that, is performed by then, unless a window stretch, an empty word or a silent die holds it (R62, R214). -/
def Arch.detArrive (a : Arch) (c x : Nat) : Arch :=
  let t := a.ctx c x
  if !t.detm then a else a.pushUpTo c x (fun q => t.lacks q)

/-- A fill is taken by its home, its snoops are answered, and it lands. Another in its way whose own time has not come makes way, and
asks again. -/
def Arch.pushOnce (a : Arch) (f : Fill) : Arch :=
  match a.homeBrick f.pa with
  | none => a
  | some b =>
    if a.silent b (f.core / 32) then a
    else
    let a : Arch := if a.tripSleeps (f.core / 32) b then a.wakeAll else a
    let a : Arch := a.fills.foldl (fun a _ => if (a.brick b).lost then a else a.directoryStep b) a
    let a : Arch := match a.fills.find? (fun g => g.id == f.id) with
      | some g => if g.stage = .sent ∧ (a.brick b).lost = false then a.grant b g else a
      | none => a
    let a : Arch := (a.snoops.filter (fun m => m.fill == f.id && !a.silent m.die b)).foldl
      (fun a m => a.snoopArrives m.home m.die m.line m.inval) a
    a.fillStep f.id

/-- The same, again where it has been overtaken. -/
def Arch.pushFill (a : Arch) (f : Fill) : Arch :=
  match (a.pushOnce f).fills.find? (fun g => g.id == f.id) with
  | some g => (a.pushOnce f).pushOnce g
  | none => a.pushOnce f

/-- In deterministic mode a fill lands exactly when its hold of 640 or 896 arithmetic cycles is over (R175). -/
def Arch.detFill (a : Arch) (c x : Nat) : Arch :=
  if !(a.ctx c x).detm then a
  else (a.fills.filter (fun f => f.core == c && a.fillCtx f == x && decide (a.fillTime f ≤ a.clock))).foldl (fun a f =>
    (a.fills.filter (fun g => g.pa == f.pa)).foldl (fun a g => a.pushFill g) a) a

/-- A read that the window rule stalls holds this access up: itself, or one that it waits behind, through `n` others at most. -/
def Arch.stretches (a : Arch) : Nat → Req → Bool
  | 0, r => a.readStalls r
  | n + 1, r => a.readStalls r || a.reqs.any (fun q => a.ordersBehind q r && Arch.stretches a n q)

/-- A result due by now is late because a stretched window stalls its read, or one that it stands behind (R65, R253, R254). -/
def Arch.stretchLate (a : Arch) (c x : Nat) : Bool :=
  a.reqs.any (fun r => r.core == c && r.ctx == x && (a.ctx c x).lacks r && a.stretches 2 r)

/-- A context is held for a result that is late (R62). -/
def Arch.holdLate (a : Arch) (c x : Nat) : Arch := a.mapCtx c x (fun t => t.held .lateData (a.stretchLate c x))

/-- Whether and what a context can issue in this cycle. A trap of the engine ends a wait (R156, R248). A due result that is absent holds
a branch bubble as it holds a bundle, and, while a wait of R64 holds the
context, it holds it no further and the cycle counts in no HOLDS: the spec leaves this open (R62, R76; log entry 76). -/
def Arch.ready (a : Arch) (c x : Nat) : Ready :=
  let t := a.ctx c x
  if t.status ≠ .running then .no
  else
    match t.wait, t.engineTrap with
    | some w, p =>
      if w.kind = .xret then .leaving
      else if w.kind = .trap then (if t.allPresent then .soft w.addr w.operand else .late)
      else (match p with | some p => if t.allPresent then .engine p else .no | none => .no)
    | none, p =>
      if !t.allPresent then .late
      else if t.bubbles ≠ 0 then .bubble
      else match p with
        | some p => .engine p
        | none => if decide (x < 2) && (a.core c).atBreak x then .no else .issue

/-- What a context offers the merge stage: a state to go to, and the occupancy of the bundle that led there; `fixed`, where the cycle
of its gang's lead has decided already whether it issues (R41). -/
structure Offer where
  out : Out
  occ : Option Nat
  fixed : Option Bool

/-- The effect of a state-only change, offering no bundle. -/
def State.idle (s : State) : Offer := ⟨.next s, none, none⟩

/-- A branch bubble (R57): bundle time advances by one. -/
def Context.bubble (t : Context) : Context :=
  let t := if t.trap.tmode then { t with trap := { t.trap with hbt := t.trap.hbt + 1 } } else { t with bt := t.bt + 1 }
  { t with bubbles := t.bubbles - 1, ord := t.ord + 1 }.settle

/-- A context after a debug step has issued once: it halts again, where an HREQ of its unit is still set (R312). -/
def State.stepped (s : State) (c x : Nat) : State :=
  if (s.arch.ctx c x).stepOnce then
    let again := (s.arch.members c x).any (fun m => (s.arch.core m).dbg.hreq x)
    s.setArch (s.arch.mapCtx c x (fun t =>
      { t with stepOnce := false, status := if t.status = .running ∧ again = true then .halting else t.status }))
  else s

/-- REP, length and occupancy of a decoded bundle. -/
def decRep : Decoded → Nat
  | .reject _ h => bits h 11 8
  | .bundle b => b.rep
def decLen : Decoded → Nat
  | .reject _ _ => 2
  | .bundle b => b.len
def decOcc : Decoded → Nat
  | .reject _ h => bits h 6 0
  | .bundle b => bits b.header 6 0

/-- An S slot issues on each of these cores in this cycle (R135). -/
def Arch.noteS (a : Arch) (occ : Nat) (cores : List Nat) : Arch :=
  if occ % 2 = 1 then cores.foldl (fun a c => a.mapCore c (fun k => { k with sBusy := true })) a else a

/-- The bundle of one context that is no gang. -/
def State.offerOne (s : State) (c x : Nat) : Offer :=
  let d := s.arch.fetch c x
  match s.issue c x d none with
  | .next s' =>
    if s'.iss.held.isSome then ⟨.next s', none, none⟩
    else if s'.iss.trap.isSome then ⟨.next (s'.stepped c x), some (decOcc d), none⟩
    else ⟨.next (s'.setArch (s'.arch.noteS (if x = 2 then 0 else decOcc d) [c]) |>.stepped c x), some (decOcc d), none⟩
  | o => ⟨o, some 0, none⟩

-- ## Gangs (R40, R41, R302)

/-- How far a gang's bundle has come: the state, the first member held, the members that trapped, and those whose TRAP
slot was guarded on. -/
structure Gang where
  s : State
  held : Option Nat
  traps : List (Nat × TrapNote)
  soft : List Nat
deriving DecidableEq, Repr

/-- One member issues the lead's bundle; the first is the lead. -/
def gangMember (x : Nat) (d : Decoded) (g : Gang) (c : Nat) (follow : Option Branch) : Gang × Branch :=
  match g.s.issue c x d follow with
  | .next s' =>
    ({ s := s', held := if g.held.isNone && s'.iss.held.isSome then some c else g.held
       traps := match s'.iss.trap with | some n => g.traps ++ [(c, n)] | none => g.traps
       soft := if s'.iss.trapAfter.isSome && s'.iss.trap.isNone then g.soft ++ [c] else g.soft }, s'.iss.branch)
  | _ => (g, .none)

/-- Every member in turn. -/
def gangIssue (s : State) (x : Nat) (d : Decoded) : List Nat → Gang
  | [] => ⟨s, none, [], []⟩
  | lead :: rest =>
    let q := gangMember x d ⟨s, none, [], []⟩ lead none
    rest.foldl (fun g c => (gangMember x d g c (some q.2)).1) q.1

/-- After a bundle with a TRAP at `pc`, the members whose slot was guarded off record GANG (R384), once what was due with it has
arrived. -/
def Arch.gangSoft (a : Arch) (x pc : Nat) (cores soft : List Nat) : Arch :=
  cores.foldl (fun a c =>
    if soft.contains c then a
    else a.softTrap c x pc (256 + cores.findIdx (fun k => k == soft.headD 0))) a

/-- A gang's bundle, issued by its lead: a hold or trap of any member voids it for all (R41, R302). A held member's
miss or fill request stays noted. -/
def State.offerGang (s : State) (x : Nat) (cores : List Nat) : Offer :=
  let d := s.arch.fetch (cores.headD 0) x
  let g := gangIssue s x d cores
  let done (a : Arch) : Offer :=
    ⟨.next (cores.foldl (fun t m => t.stepped m x) ((s.setArch a).setIss s.iss.rest)), some (decOcc d), none⟩
  match g.traps, g.held with
  | [], some m => ⟨s.issue m x d (some .none), none, none⟩
  | [], none =>
    let a := (g.s.arch.noteS (decOcc d) cores).gangLeave x cores
    if g.soft.isEmpty then done a else done (a.gangSoft x (s.arch.ctx (cores.headD 0) x).pc cores g.soft)
  | ts, _ => done (s.arch.gangTrap x (decRep d) cores ts)

-- ## One context in one cycle

/-- The ENGINE trap of a context (R156): it is taken before the next bundle issues. -/
def Arch.engineTrapNow (a : Arch) (c x : Nat) (p : PendingTrap) : Arch :=
  a.raise c x p.cause 7 0 0 p.info ((a.ctx c x).owes (decRep (a.fetch c x)))

/-- As a cycle begins, results that must have come by now come, results due land, and a waiting change of DETM takes effect. -/
def Arch.begin (a : Arch) (c x : Nat) : Arch :=
  ((((a.detArrive c x).detFill c x).detmApply c x).mapCtx c x Context.settle)

/-- XRET is tried again. -/
def Arch.tryLeave (a : Arch) (c x : Nat) : Arch := (a.mapCtx c x (fun t => { t with wait := none })).xretLeave c x

/-- A context outside a gang. -/
def State.offerAlone (s : State) (c x : Nat) : Offer :=
  let s := s.setArch (s.arch.begin c x)
  match s.arch.ready c x with
  | .no => s.idle
  | .bubble => (s.setArch (s.arch.mapCtx c x Context.bubble)).idle
  | .late => (s.setArch (s.arch.holdLate c x)).idle
  | .leaving => (s.setArch (s.arch.tryLeave c x)).idle
  | .soft pc n => (s.setArch (s.arch.softTrap c x pc n)).idle
  | .engine p => (s.setArch (s.arch.engineTrapNow c x p)).idle
  | .issue => s.offerOne c x

/-- What one member does of its own while its gang cannot issue: a late result is counted, a TRAP moves on. -/
def Arch.memberMoves (a : Arch) (x : Nat) (m : Nat × Ready) : Arch :=
  match m.2 with
  | .late => a.holdLate m.1 x
  | .soft pc n => a.softTrap m.1 x pc n
  | _ => a

/-- What the members of a gang do that cannot issue; they leave a handler together (R422). -/
def Arch.gangMoves (a : Arch) (x : Nat) (ms : List (Nat × Ready)) : Arch :=
  (ms.foldl (fun a m => a.memberMoves x m) a).gangLeave x (ms.map Prod.fst)

/-- The traps of the matrix engine that members of a gang have to take, each its own (R156, R302). -/
def Arch.engineTraps (a : Arch) (x : Nat) (cores : List Nat) : List (Nat × TrapNote) :=
  cores.filterMap (fun m => (a.ctx m x).engineTrap.map (fun p => (m, ⟨p.cause, 7, 0, 0, p.info⟩)))

/-- What a gang offers on its own account, in the cycle of its lead: every member must be able to issue (R41). -/
def State.gangOffer (s : State) (x : Nat) (cores : List Nat) : Offer :=
  let s := s.setArch (cores.foldl (fun a m => a.begin m x) s.arch)
  let rs := cores.map (fun m => (m, s.arch.ready m x))
  if rs.all (fun r => r.2 == .issue) then s.offerGang x cores
  else if rs.all (fun r => r.2 == .bubble) then
    (s.setArch (cores.foldl (fun a m => a.mapCtx m x Context.bubble) s.arch)).idle
  else
    if rs.any (fun e => match e.2 with | .engine _ => true | _ => false) && cores.all (fun k => (s.arch.ctx k x).allPresent)
        && rs.all (fun e => match e.2 with | .leaving | .soft _ _ => false | _ => true) then
      (s.setArch (s.arch.gangTrap x (decRep (s.arch.fetch (cores.headD 0) x)) cores (s.arch.engineTraps x cores))).idle
    else (s.setArch (s.arch.gangMoves x rs)).idle

/-- Whether core `m`, at this edge, lets a gang that it does not lead issue (R41, R55, R160, R201, R328). -/
def Arch.grants (a : Arch) (m : Nat) : Bool :=
  let k := { (a.core m).edged (a.brick (m / 32)).health with lastEdge := a.clock }
  k.stretchLeft == 0 && k.permits a.power.clamp.toNat && !k.clockHeld

/-- What the cycle of a gang's lead has decided for context `x` of core `m`. -/
def Core.decided (k : Core) (x : Nat) : Option (Nat × Bool) := (k.gang.find? (fun e => e.1 == x)).map Prod.snd

/-- The occupancy context `y` of core `m` offers, as the cycle of core `lead` finds it (R41; log entry 74): a gang of a lower core has
had its turn, and so has context A of the same lead. -/
def State.peek (s : State) (lead m y : Nat) : Option Nat :=
  let cores := s.arch.members m y
  if cores.length ≤ 1 then (s.offerAlone m y).occ
  else if cores.headD m < lead ∨ (cores.headD m = lead ∧ y = 0) then none
  else (s.gangOffer y cores).occ

/-- The merge stage of core `m` denies the bundle a gang offers there (R41, R54). -/
def State.deniedAt (s : State) (lead m x occ : Nat) : Bool :=
  match (s.arch.core m).decided (1 - x) with
  | some (o, issued) => issued && o.land occ != 0
  | none =>
    match s.peek lead m (1 - x) with
    | some o => o.land occ != 0 && ((s.arch.core m).deny == 64) == (x == 0)
    | none => false

/-- The cores listed learn what the cycle of the lead has decided. -/
def Arch.noteGang (a : Arch) (x occ : Nat) (issued : Bool) (cores : List Nat) : Arch :=
  cores.foldl (fun a m => a.mapCore m (fun k => { k with gang := k.gang ++ [(x, occ, issued)] })) a

/-- Continue after an outcome. -/
def outBind (o : Out) (f : State → Out) : Out :=
  match o with
  | .next s => f s
  | o => o

def Core.withDeny (k : Core) (n : Nat) : Core := { k with deny := n }
def State.deny (s : State) (c n : Nat) : State := s.setArch (s.arch.mapCore c (fun k => k.withDeny n))

/-- Core `c` counts a denial of the bundle of its context `x`, if that is B (R54). -/
def State.countDenial (s : State) (c x : Nat) : State := if x = 1 then s.deny c (min 64 ((s.arch.core c).deny + 1)) else s

/-- The merge stage of a gang's lead denies its bundle: the other members' cores learn of it (R41). -/
def State.tellDenial (s : State) (c occ : Nat) : State :=
  let cores := s.arch.members c 1
  if 1 < cores.length ∧ cores.headD c = c then s.setArch (s.arch.noteGang 1 occ false (cores.drop 1)) else s

/-- A gang's bundle: it issues if no member's core withholds permission and no member's merge stage denies it (R41). A denial by one
of them counts at all, so that every core applies the bound of 64 in the same window (R41, R51). -/
def State.offerMembers (s : State) (x : Nat) (cores : List Nat) : Offer :=
  let others := cores.drop 1
  if !others.all s.arch.grants then s.idle
  else
    let o := s.gangOffer x cores
    match o.occ with
    | none => o
    | some occ =>
      if others.all (fun m => !s.deniedAt (cores.headD 0) m x occ) then
        ⟨outBind o.out (fun t => .next (t.setArch (t.arch.noteGang x occ true others))), some occ, none⟩
      else ((s.setArch (s.arch.noteGang x occ false others)).countDenial (cores.headD 0) x).idle

/-- What context `x` of core `c` offers in this cycle; a gang issues in its lead's cycle, and its other members' merge stages count
that (R41). -/
def State.offer (s : State) (c x : Nat) : Offer :=
  let cores := s.arch.members c x
  if cores.length ≤ 1 then s.offerAlone c x
  else if cores.headD c = c then s.offerMembers x cores
  else
    match (s.arch.core c).decided x with
    | some (occ, issued) => ⟨.next s, some occ, some issued⟩
    | none => s.idle

-- ## The merge stage (R54)

/-- B has been found held in this cycle before A's bundle freed what it waits for: the cycle counts as its offer `b` of then has it
(R63, R76). -/
def State.keepHold (s : State) (b : Offer) (c : Nat) : State :=
  match b.out with
  | .next t => (s.arch.members c 1).foldl (fun (s : State) m => s.setArch (s.arch.mapCtx m 1 (fun k =>
      { k with hold := (t.arch.ctx m 1).hold, holds := (t.arch.ctx m 1).holds }))) s
  | _ => s

/-- A, and B beside it: a bundle of B that issues ends its denials; one of a gang that another core has denied counts as denied. -/
def issueBoth (c : Nat) (a : Offer) : Out :=
  outBind a.out (fun s' =>
    let b := s'.offer c 1
    outBind b.out (fun t => .next (if b.fixed = some false then t.countDenial c 1 else if b.occ.isSome then t.deny c 0 else t)))

/-- Contexts A and B of a core in one permitted cycle. Where the landing buffer has room for the accesses of only one of them, A takes
the room and B, which is held, is not denied (R63; log entry 75). -/
def State.mergeCycle (s : State) (c : Nat) : Out :=
  let a := s.offer c 0
  let b := s.offer c 1
  let k := s.arch.core c
  match a.occ, b.occ with
  | _, none =>
    outBind a.out (fun s' => let b' := s'.offer c 1; if b'.occ.isNone then b'.out else .next (s'.keepHold b c))
  | none, some _ => issueBoth c a
  | some oa, some ob =>
    if oa.land ob = 0 ∨ (a.fixed = some false ∧ b.fixed = some false) then issueBoth c a
    else if b.fixed = some true ∨ a.fixed = some false then outBind b.out (fun s' => .next (s'.deny c 0))
    else if a.fixed = none ∧ b.fixed = none ∧ k.deny = 64 then outBind b.out (fun s' => .next (s'.deny c 0))
    else outBind a.out (fun s' => .next ((s'.deny c (min 64 (k.deny + 1))).tellDenial c ob))

/-- What context B did to the banks of core `c` in the cycle of its gang's lead takes its turn once A has had its own (R161, R172). -/
def Arch.deferredActs (a : Arch) (c : Nat) : Arch :=
  match (a.core c).decided 1 with
  | some (_, true) =>
    let ids := (a.reqs.filter (fun r => r.core == c && r.near && r.st == .flight && r.time == a.clock && a.sideOf r == 1)).map Req.id
    (a.runNear ids).bankGrant c 1
  | _ => a

/-- The shadow context issues beside them (R203, R204). -/
def State.shadowCycle (s : State) (c : Nat) : Out :=
  if (s.arch.ctx c 2).status = .running then (s.offer c 2).out else .next s

/-- One arithmetic cycle of core `c`. A cycle without issue permission, or lost to a clock hold or a bank conflict, counts in no
HOLDS, though a due result be absent (R76; log entry 76). -/
def State.coreCycle (s : State) (c : Nat) : Out :=
  let s := s.setArch (((s.arch.drainCycle c).edge c).serveTiles (c / 32))
  let k := s.arch.core c
  if !s.arch.clocked c then .next s
  else if 1 < k.stretchLeft then .next (s.setArch (s.arch.mapCore c Core.omit))
  else
    let o := if !k.permits s.arch.power.clamp.toNat then .next s
             else if k.clockHeld then s.shadowCycle c
             else outBind (s.mergeCycle c) (fun s => s.shadowCycle c)
    outBind o (fun s => .next ((s.setArch ((s.arch.deferredActs c).mapCore c Core.afterEdge)).setIss s.iss.rest))

-- ## The matrix engine

/-- One action of a core's engine: the next micro-op of the running call (R147). -/
def State.engineCycle (s : State) (c : Nat) : Out :=
  if !s.arch.clocked c || (s.arch.core c).stopped then .next s
  else
  match (s.arch.core c).engine.run with
  | some r =>
    (match decodeMicro (r.code.getD r.pos 0) with
     | some i => exec i (s.setIss { Issue.reset with core := c })
     | none => .next s)
  | none =>
    match (s.arch.core c).engine.head with
    | some cmd => exec (match cmd.kind with | .call => .mcallRun c | .load => .mploadInstall c | .drain => .mdrainArrive c) s
    | none => .next s

-- ## Events

/-- Rows of what a Brick's clocks drive: nothing comes of them after a thermal trip (R327). -/
def Instr.onBrick : Instr → Bool
  | .mcallRun _ | .mploadInstall _ | .mdrainArrive _ | .engineStallRelease _ | .engineFetchFault _ | .lateDataArrive _
  | .landingBufferRelease _ _ | .watermarkRelease _ _ | .acquireHoldRelease _ _ | .drainComplete _ _ | .feWaiterServed _
  | .feWaiterRefuse _ _ | .feWaiterRetry _ | .barwaitRelease _ _ | .bankacqGrant _ _ | .tlwaitRelease _ _ | .waitevRelease _ _
  | .mQueueRoom _ _ | .opgoQueueRoom _ _ | .eventDrain _ | .translationMiss _ | .pageWalk _ | .shadowService _
  | .shadowServiceTimeout _ | .stashFillComplete _ | .directoryRequest _ | .snoop _ _ _ _ | .writeBack _ | .releaseNotice _ _ _
  | .remoteAccess _ | .detAddPerform _ | .copyStart _ _ _ _ | .copyArm _ _ _ | .courseEncoderGrant _ | .copyLand _ _ _
  | .copyFault _ _ _ | .tileBatchClaim _ _ => true
  | _ => false

/-- A row of the event table, well formed, acts; any other instruction here does nothing. -/
def State.actOn (s : State) (i : Instr) : Out :=
  if i.wf && i.enc.isNone && (match i with | .nop _ => false | _ => true) && !(s.arch.power.tripped && Instr.onBrick i) then exec i s
  else .next s

end Sys2Proof.Machine
end

