-- ==== Sys2Proof/Machine/Policy.lean ====
section
/-! DEFINITION. What moves next where the tape does not say (log entry 5), the performing of one move, and how a bare word
of the opcode table is put where a step fetches it (log entry 16). -/

namespace Sys2Proof.Machine

-- ## Time (R36, R43; log entry 69)

/-- The first release whose time T is fixed, at or before `t`: T and the launch. -/
def Arch.releaseBy (a : Arch) (t : Nat) : Option (Nat × Nat) :=
  a.launches.foldl (fun r e =>
    match e.2.bind (fun v => if v.released then none else v.due) with
    | some T => if T ≤ t ∧ r.all (fun q => decide (T < q.1)) = true then some (T, e.1) else r
    | none => r) none

/-- Time comes to the release of a launch, which takes place; one that cannot is given a new time. -/
def State.releaseAt (s : State) (T l : Nat) : Out :=
  match execLaunchRelease l (s.setArch (s.arch.elapse (T - s.arch.clock))) with
  | .next s' => .next (s'.setArch (s'.arch.mapLaunch l (fun v => if v.due = some T ∧ v.released = false then { v with due := none } else v)))
  | o => o

/-- The next edge in the module, for which a release before it does not wait: of core `c`, or of one whose edge comes first. -/
def State.coreMove (s : State) (c : Nat) : Out :=
  let d := s.arch.dueCore c
  match s.arch.releaseBy (s.arch.edgeAt d) with
  | some (T, l) => s.releaseAt T l
  | none => s.coreCycle d

/-- The first edge that may not be passed over. -/
def Arch.nextEdge (a : Arch) : Option Nat :=
  let ts := (a.cores.filter (fun e => decide (e.1 < 256) && a.awake e.1)).map (fun e => a.edgeAt e.1)
  ts.foldl (fun r t => some (min t (r.getD t))) none

/-- Time passes by `n` thirds of a nanosecond, but past no release and no edge of a core that something comes of. -/
def State.timeMove (s : State) (n : Nat) : Out :=
  let t := min (s.arch.clock + n) (s.arch.nextEdge.getD (s.arch.clock + n))
  match s.arch.releaseBy t with
  | some (T, l) => s.releaseAt T l
  | none => .next (s.setArch (s.arch.elapse (t - s.arch.clock)))

-- ## Moves

/-- Perform one move. -/
def State.move (s : State) (m : Move) : Out :=
  match m with
  | .core c => if c < 256 then s.coreMove c else .fault .noSuchCore
  | .engine c => if c < 256 then s.engineCycle c else .fault .noSuchCore
  | .act i => s.actOn i
  | .elapse n => s.timeMove n

-- ## The default policy

/-- A step of the event table, as the default policy tries it. -/
abbrev Row := State → Out

/-- Rows about accesses in flight. -/
def Arch.accessRows (a : Arch) : List Row :=
  a.reqs.flatMap (fun r => match r.st with
    | .flight => [execRemoteAccess r.id]
    | .refused => [execFeWaiterRetry r.id]
    | _ => [])

/-- Rows about one context. -/
def contextRows (c x : Nat) (t : Context) : List Row :=
  (match t.wait with
   | some w => (match w.kind with
     | .barwait => [execBarwaitRelease c x]
     | .tlwait => [execTlwaitRelease c x]
     | .waitev => [execWaitevRelease c x]
     | .bankacq => [execBankacqGrant c x]
     | .drain => [execDrainComplete c x]
     | .opgo => [execOpgoQueueRoom c x]
     | _ => [])
   | none => [])
  ++ (if x < 2 then [execHaltRequest c x, execBreakpoint c x, execHaltRelease c x, execDebugStep c x] else [])
  ++ t.chans.flatMap (fun h =>
    (if h.2.start.isSome then [execCopyArm c x h.1] else [])
      ++ (if h.2.state == .active then [execCopyLand c x h.1, execCopyFault c x h.1] else []))

/-- Rows about one core: its contexts, the shadow context, and what programs that have ended left under way. -/
def coreRows (c : Nat) (k : Core) : List Row :=
  [execFeWaiterServed c, execTranslationMiss c, execShadowService c, execShadowServiceTimeout c, execEventDrain c]
    ++ k.ctxs.flatMap (fun e => contextRows c e.1 e.2)

/-- Rows about one Brick. -/
def brickRows (b : Nat) (k : Brick) : List Row :=
  [execPageWalk b, execDirectoryRequest b, execDetAddPerform b, execCourseEncoderGrant b] ++ k.tileq.map (fun r => execTileBatchClaim b r.launch)

/-- Rows about coherence traffic and sleeping ports. -/
def Arch.fabricRows (a : Arch) : List Row :=
  a.fills.map (fun f => execStashFillComplete f.id) ++ a.snoops.map (fun m => execSnoop m.home m.die m.line m.inval)
    ++ a.writeBacks.map (fun w => execWriteBack w.id)
    ++ a.bricks.flatMap (fun e => e.2.regions.flatMap (fun r => (upTo 8).map (fun d => execReleaseNotice e.1 d r.1))) ++ a.lowPort.map (fun e => execPortWake (e.1 / 8) (e.1 % 8))

/-- Rows about one queue. -/
def queueRows (q : Nat) : List Row :=
  [execPacketNop q, execPacketLaunch q, execPacketCoded q, execPacketGraph q, execPacketBarrierAnd q, execPacketSignal q,
   execPacketPhaseEnd q, execBarrierAndEvaluate q]

/-- Rows about one unit. -/
def Arch.unitRows (a : Arch) (u : Nat) (e : Option ExecUnit) : List Row :=
  [execTaskReturn u, execUnitEnd u] ++ (match e with
    | some e => if e.swapped then [execSwapRestore u]
                else if e.cores.any (fun c => (a.ctx c e.ctx).status == .swapping) then [execSwapOut u] else []
    | none => [])

/-- Rows of the Quoin die. -/
def Arch.frontRows (a : Arch) : List Row :=
  a.cancels.map execCancel ++ (upTo a.doorbells.length).map execQpubDoorbell
    ++ a.queues.flatMap (fun e => queueRows e.1)
    ++ a.graphs.flatMap (fun e => execGraphAdmit e.1 :: (match e.2 with
        | some g => (upTo g.nodes.length).map (fun n => execNodeFire e.1 n)
        | none => []))
    ++ a.units.flatMap (fun e => a.unitRows e.1 e.2)
    ++ a.launches.flatMap (fun e => [execLaunchRelease e.1, execLaunchStarvation e.1])
    ++ [execOperatorOpen] ++ a.ops.flatMap (fun e => [execRepointingDecode e.1, execGraceExpiry e.1, execTmaxExpiry e.1])
    ++ [execRedgoAdmit, execReductionComplete, execXlinvComplete, execBootVerifyDone, execAttestationDone]

/-- One action of each engine with something to do. -/
def Arch.engineRows (a : Arch) : List Row :=
  (a.cores.filter (fun e => e.2.engine.run.isSome || !e.2.engine.queue.isEmpty)).map (fun e => fun s => s.engineCycle e.1)

/-- Every row the default policy tries, in order; after a thermal trip the module waits for a cold reset (R327). -/
def Arch.rows (a : Arch) : List Row :=
  if a.power.tripped then []
  else a.accessRows ++ a.cores.flatMap (fun e => coreRows e.1 e.2) ++ a.fabricRows ++ a.bricks.flatMap (fun e => brickRows e.1 e.2)
    ++ a.frontRows ++ a.engineRows

/-- What the first row that changes the module does. -/
def State.firstRow (s : State) : List Row → Option Out
  | [] => none
  | r :: rs =>
    match r s with
    | .next s' => if s'.arch = s.arch then s.firstRow rs else some (.next s')
    | o => some o

/-- The move made where the tape is empty: the first row that changes the module, else the next edge. -/
def State.defaultMove (s : State) : Out :=
  match s.firstRow s.arch.rows with
  | some o => o
  | none => s.move (.core (s.iss.core % 256))

/-- The next move of the tape, or of the default policy. -/
def State.advance (s : State) : Out :=
  match s.tape with
  | m :: ms => { s with tape := ms }.move m
  | [] => s.defaultMove

-- ## A bare word where a step fetches it

/-- The bytes of the bundle that `decodeTableWord` reads from a word; none where it is a micro-op or nothing. -/
def tableBytes (nbits w : Nat) : Option (List Byte) :=
  if nbits = 16 then some (leBytes 2 w) else (firstKind w (tableKinds nbits)).map (fun q => slotBytes q.1 w)

/-- Context A of core 0 is about to fetch a bundle at address 0. -/
def Arch.placeBundle (a : Arch) (bs : List Byte) : Arch :=
  (a.mapCore 0 (fun k => { k with imem := Memory.writeBytes k.imem 0 bs })).mapCtx 0 0 (fun t =>
    { t with status := .running, unit := none, pc := 0, owed := none, bubbles := 0, wait := none, hold := none, engineTrap := none })

/-- The engine of core 0 is about to fetch a micro-op of a call of context A. -/
def Arch.placeMicro (a : Arch) (w : Nat) : Arch :=
  a.mapEngine 0 (fun e => { e with run := some (newCall ⟨.call, 0, 0, 0, none, 0, 0, [], [], [], 0, 0⟩ [w]) })

/-- The state whose next step fetches the word. -/
def State.placeWord (s : State) (nbits w : Nat) : State :=
  match tableBytes nbits w with
  | some bs => { s with arch := s.arch.placeBundle bs, tape := [.core 0] }
  | none => { s with arch := s.arch.placeMicro w, tape := [.engine 0] }

end Sys2Proof.Machine
end

