-- ==== Sys2Proof/Safety.lean ====
section
/-! DEFINITION. What counts as a safe run: the model never stops, and memory stays canonical. -/

namespace Sys2Proof

open Machine

/-- The canonical form of every memory of the module (R9, log entry 1): device memory, instruction memories and shadow
stores, and the MSI-X table and pending bits. -/
def MemoriesOk (a : Arch) : Prop :=
  Memory.wf a.mem = true ∧ Memory.wf a.msix = true ∧ Memory.wf a.pba = true ∧
    ∀ c, Memory.wf (a.core c).imem = true ∧ Memory.wf (a.core c).shadowStore = true

/-- A step that is safe: it answers a next state. -/
def StepSafe (s : State) : Prop := ∃ s', step s = .next s'

end Sys2Proof
end

