-- ==== Sys2Proof/Certificates/Slice0/Obligations.lean ====
section
/-! DEFINITION. The statements for the provers. Each docstring names the rules of spec/ that a statement formalises; where
a clause is the model's own choice, it names the log entry. -/

open Sys2Proof Sys2Proof.Machine

-- ## Scalar arithmetic (16 R333, R334, R340; 17 R352 to R355; 19 R421)

namespace Sys2Proof.Machine

/-- A slot's turn: the bundle in issue has not trapped or stalled, and the slot's guard is on (R72). -/
def Runs (s : State) (p : Nat) : Prop := s.iss.trapped = false ∧ s.guard p = true

/-- An instruction of the register form completes for every operand and both widths, with this latency and these
32-bit and 64-bit results (R85, R333). -/
def Computes (i : RArgs → Instr) (lat : Nat) (narrow : BitVec 32 → BitVec 32 → Word) (wide : Word → Word → Word) : Prop :=
  ∀ (x : RArgs) (s : State), Runs s x.p →
    exec (i x) s = .next ((s.landG x.d
      (if x.w then narrow ((s.rd.readG x.a).setWidth 32) ((s.src x.b).setWidth 32) else wide (s.rd.readG x.a) (s.src x.b))
      lat).slotDone)

/-- A 32-bit result that R85 sign-extends, and one that it zero-extends. -/
def sx32 (x : BitVec 32) : Word := x.signExtend 64

def zx32 (x : BitVec 32) : Word := x.setWidth 64

/-- The high half of a double-width product. -/
def highS {w : Nat} (a b : BitVec w) : BitVec w := ((a.signExtend (2 * w) * b.signExtend (2 * w)) >>> w).setWidth w

def highU {w : Nat} (a b : BitVec w) : BitVec w := ((a.setWidth (2 * w) * b.setWidth (2 * w)) >>> w).setWidth w

/-- Division and remainder of R333 and R352, with their zero divisors. -/
def quotS {w : Nat} (a b : BitVec w) : BitVec w := if b = 0 then BitVec.allOnes w else a.sdiv b

def quotU {w : Nat} (a b : BitVec w) : BitVec w := if b = 0 then BitVec.allOnes w else a / b

def remS {w : Nat} (a b : BitVec w) : BitVec w := if b = 0 then a else a.srem b

def remU {w : Nat} (a b : BitVec w) : BitVec w := if b = 0 then a else a % b

/-- ADD, SUB, MUL, MULH and MULHN complete with the sum, the difference and the two halves of the product (R333, R352). -/
def AddSubtractMultiply : Prop :=
  Computes .add 1 (fun a b => sx32 (a + b)) (fun a b => a + b) ∧
  Computes .sub 1 (fun a b => sx32 (a - b)) (fun a b => a - b) ∧
  Computes .mul 3 (fun a b => sx32 (a * b)) (fun a b => a * b) ∧
  Computes .mulh 3 (fun a b => sx32 (highS a b)) highS ∧
  Computes .mulhn 3 (fun a b => zx32 (highU a b)) highU

/-- DIV, DIVN, MOD and MODN complete with a quotient toward zero and a remainder of the dividend's sign, zero divisors
included (R333, R352). -/
def DivideAndRemainder : Prop :=
  Computes .div 20 (fun a b => sx32 (quotS a b)) quotS ∧
  Computes .divn 20 (fun a b => zx32 (quotU a b)) quotU ∧
  Computes .mod 20 (fun a b => sx32 (remS a b)) remS ∧
  Computes .modn 20 (fun a b => zx32 (remU a b)) remU

/-- The logic, shift and comparison instructions of the register form complete with their results (R333, R352, R421);
shift amounts are taken modulo the width. -/
def LogicShiftAndOrder : Prop :=
  Computes .and 1 (fun a b => sx32 (a &&& b)) (fun a b => a &&& b) ∧
  Computes .or 1 (fun a b => sx32 (a ||| b)) (fun a b => a ||| b) ∧
  Computes .xor 1 (fun a b => sx32 (a ^^^ b)) (fun a b => a ^^^ b) ∧
  Computes .andn 1 (fun a b => sx32 (a &&& ~~~b)) (fun a b => a &&& ~~~b) ∧
  Computes .shl 1 (fun a b => sx32 (a <<< (b.toNat % 32))) (fun a b => a <<< (b.toNat % 64)) ∧
  Computes .shr 1 (fun a b => zx32 (a >>> (b.toNat % 32))) (fun a b => a >>> (b.toNat % 64)) ∧
  Computes .sar 1 (fun a b => sx32 (a.sshiftRight (b.toNat % 32))) (fun a b => a.sshiftRight (b.toNat % 64)) ∧
  Computes .min 1 (fun a b => sx32 (if b.slt a then b else a)) (fun a b => if b.slt a then b else a) ∧
  Computes .max 1 (fun a b => sx32 (if a.slt b then b else a)) (fun a b => if a.slt b then b else a) ∧
  Computes .minn 1 (fun a b => zx32 (if b.ult a then b else a)) (fun a b => if b.ult a then b else a) ∧
  Computes .maxn 1 (fun a b => zx32 (if a.ult b then b else a)) (fun a b => if a.ult b then b else a)

/-- The W bits that a one-operand instruction counts (R333). -/
def counted (s : State) (a : Nat) (w : Bool) : Nat := (s.rd.readG a).toNat % 2 ^ (if w then 32 else 64)

def widthOf (w : Bool) : Nat := if w then 32 else 64

/-- CLZ, CTZ and POPC complete with the zeros above the highest 1 bit, the zeros below the lowest, and the number of 1
bits of the operand; W for a zero operand (R333, R352). -/
def CountBits : Prop :=
  ∀ (p d a : Nat) (w : Bool) (s : State), Runs s p →
    (∃ n, exec (.clz p d a w) s = .next ((s.landG d (BitVec.ofNat 64 n) 1).slotDone) ∧ n ≤ widthOf w ∧
      (∀ i, widthOf w - n ≤ i → i < widthOf w → (counted s a w).testBit i = false) ∧
      (n < widthOf w → (counted s a w).testBit (widthOf w - 1 - n) = true)) ∧
    (∃ n, exec (.ctz p d a w) s = .next ((s.landG d (BitVec.ofNat 64 n) 1).slotDone) ∧ n ≤ widthOf w ∧
      (∀ i, i < n → (counted s a w).testBit i = false) ∧ (n < widthOf w → (counted s a w).testBit n = true)) ∧
    exec (.popc p d a w) s = .next ((s.landG d
      (BitVec.ofNat 64 ((List.range (widthOf w)).countP (fun i => (counted s a w).testBit i))) 1).slotDone)

end Sys2Proof.Machine

/-- The register-form scalar instructions complete with their results and latencies for every operand (R85, R333, R352, R421).
-/
def Obligations.ScalarArithmetic : Prop := AddSubtractMultiply ∧ DivideAndRemainder ∧ LogicShiftAndOrder ∧ CountBits

/-- BFX and BFI complete with the field's bits in place: position and length come from b, and bits above 63 read as 0
(R340). -/
def Obligations.BitFields : Prop :=
  ∀ (p d a : Nat) (b : Src) (s : State), Runs s p →
    let pos := (s.src b).toNat % 64
    let len := (s.src b).toNat / 256 % 64 + 1
    (∃ v : Word, exec (.bfx p d a b) s = .next ((s.landG d v 1).slotDone) ∧
      ∀ i, v.getLsbD i = (decide (i < len) && (s.rd.readG a).getLsbD (pos + i))) ∧
    (∃ v : Word, exec (.bfi p d a b) s = .next ((s.landG d v 1).slotDone) ∧
      ∀ i, i < 64 → v.getLsbD i =
        if pos ≤ i ∧ i < pos + len then (s.rd.readG a).getLsbD (i - pos) else (s.rd.readG d).getLsbD i)

namespace Sys2Proof.Machine

/-- An immediate form completes with this 64-bit result of ga and the immediate. -/
def ComputesImm (i : Nat → Nat → Nat → BitVec 8 → Instr) (f : Word → Word → Word) : Prop :=
  ∀ (p d a : Nat) (imm : BitVec 8) (s : State), Runs s p →
    exec (i p d a imm) s = .next ((s.landG d (f (s.rd.readG a) (imm.signExtend 64)) 1).slotDone)

/-- An immediate shift completes with its 32-bit or 64-bit result. -/
def ShiftsImm (i : Nat → Nat → Nat → Nat → Bool → Instr) (narrow : BitVec 32 → Nat → Word) (wide : Word → Nat → Word) : Prop :=
  ∀ (p d a n : Nat) (w : Bool) (s : State), Runs s p →
    exec (i p d a n w) s = .next ((s.landG d
      (if w then narrow ((s.rd.readG a).setWidth 32) (n % 32) else wide (s.rd.readG a) (n % 64)) 1).slotDone)

end Sys2Proof.Machine

/-- The immediate and constant instructions complete with their results: ADDI, ANDI, ORI, XORI, the immediate shifts,
MOVI, MOVHI, LIT, SEXT and ZEXT (R334, R353 to R355, R421). -/
def Obligations.ImmediatesAndConstants : Prop :=
  ComputesImm .addi (fun a b => a + b) ∧ ComputesImm .andi (fun a b => a &&& b) ∧
  ComputesImm .ori (fun a b => a ||| b) ∧ ComputesImm .xori (fun a b => a ^^^ b) ∧
  ShiftsImm .shli (fun a n => sx32 (a <<< n)) (fun a n => a <<< n) ∧
  ShiftsImm .shri (fun a n => zx32 (a >>> n)) (fun a n => a >>> n) ∧
  ShiftsImm .sari (fun a n => sx32 (a.sshiftRight n)) (fun a n => a.sshiftRight n) ∧
  (∀ (p d : Nat) (imm : BitVec 14) (s : State), Runs s p →
    exec (.movi p d imm) s = .next ((s.landG d (imm.signExtend 64) 1).slotDone)) ∧
  (∀ (p d a : Nat) (x : BitVec 32) (s : State), Runs s p →
    exec (.movhi p d a x) s = .next ((s.landG d (x ++ (s.rd.readG a).setWidth 32) 1).slotDone)) ∧
  (∀ (p d : Nat) (x : BitVec 32) (s : State), Runs s p →
    exec (.lit p d x) s = .next ((s.landG d (x.signExtend 64) 1).slotDone)) ∧
  (∀ (p d a w : Nat) (s : State), Runs s p → w < 64 →
    exec (.sext p d a w) s = .next ((s.landG d (((s.rd.readG a).setWidth (w + 1)).signExtend 64) 1).slotDone) ∧
    exec (.zext p d a w) s = .next ((s.landG d (((s.rd.readG a).setWidth (w + 1)).setWidth 64) 1).slotDone))

-- ## Compares and predicates (16 R343; 17 R356, R357)

namespace Sys2Proof.Machine

/-- The condition of CMP and CMPI on two patterns (R343). -/
def holds {w : Nat} (cc : Nat) (a b : BitVec w) : Bool :=
  if cc = 0 then a == b else if cc = 1 then a != b else if cc = 2 then a.slt b else a.ult b

end Sys2Proof.Machine

/-- The compares and predicate instructions complete with the condition or the logic of their sources in pd, with a
latency of 1; PGET gathers the sixteen predicates (R343, R356, R357). -/
def Obligations.ComparesAndPredicates : Prop :=
  ∀ (p pd cc pa pb : Nat) (na nb : Bool) (s : State), Runs s p →
    (∀ (a : Nat) (b : Src), exec (.cmp p pd cc a b false) s =
      .next ((s.landP pd (holds cc (s.rd.readG a) (s.src b)) 1).slotDone)) ∧
    (∀ (a : Nat) (b : Src), exec (.cmp p pd cc a b true) s =
      .next ((s.landP pd (holds cc ((s.rd.readG a).setWidth 32) ((s.src b).setWidth 32)) 1).slotDone)) ∧
    (∀ (a : Nat) (imm : BitVec 8), exec (.cmpi p pd cc a imm) s =
      .next ((s.landP pd (holds cc (s.rd.readG a) (imm.signExtend 64)) 1).slotDone)) ∧
    exec (.pand p pd pa na pb nb) s = .next ((s.landP pd ((s.rd.readP pa ^^ na) && (s.rd.readP pb ^^ nb)) 1).slotDone) ∧
    exec (.por p pd pa na pb nb) s = .next ((s.landP pd ((s.rd.readP pa ^^ na) || (s.rd.readP pb ^^ nb)) 1).slotDone) ∧
    exec (.pxor p pd pa na pb nb) s = .next ((s.landP pd ((s.rd.readP pa ^^ na) ^^ (s.rd.readP pb ^^ nb)) 1).slotDone) ∧
    exec (.pnot p pd pa) s = .next ((s.landP pd (!s.rd.readP pa) 1).slotDone) ∧
    exec (.pset p pd na) s = .next ((s.landP pd na 1).slotDone) ∧
    (∃ v : Word, exec (.pget p pd) s = .next ((s.landG pd v 1).slotDone) ∧
      ∀ i, v.getLsbD i = (decide (i < 16) && s.rd.readP i))

-- ## Transfers, loops and the end of a program (03 R57, R70, R71; 04 R79, R88; 16 R341, R342, R348; 18 R384; 19 R422)

namespace Sys2Proof.Machine

/-- The branch that a bundle's transfer asks for. -/
def State.branchTo (s : State) (b : Branch) : State := s.setIss { s.iss with branch := b }

/-- The target of a PC-relative transfer (R88). -/
def relTarget (pc : Nat) (off : Int) : Nat := ((pc + 2 * off) % 0x40000).toNat

/-- BR, CALL, JMPI, CALLI and RET of a context that leads its own bundle complete with a branch to the target of R88 and
two bubbles; CALL and CALLI also write the address of the next bundle to g62 with latency 1 (R57, R88, R341). -/
def TransfersTaken : Prop :=
  ∀ (p a : Nat) (off : BitVec 20) (s : State), Runs s p → s.iss.follow = none →
    let link := s.landG 62 (BitVec.ofNat 64 (s.rd.pc + s.iss.len)) 1
    let reg (x : Word) : Nat := (x &&& 0x3FFFE).toNat
    exec (.br p off) s = .next (s.branchTo (.to (relTarget s.rd.pc off.toInt) 2)).slotDone ∧
    exec (.call p off) s = .next (link.branchTo (.to (relTarget s.rd.pc off.toInt) 2)).slotDone ∧
    exec (.jmpi p a) s = .next (s.branchTo (.to (reg (s.rd.readG a)) 2)).slotDone ∧
    exec (.calli p a) s = .next (link.branchTo (.to (reg (s.rd.readG a)) 2)).slotDone ∧
    exec (.ret p) s = .next (s.branchTo (.to (reg (s.rd.readG 62)) 2)).slotDone

/-- A gang member other than the lead takes no transfer of its own: BR, JMPI, RET and HALT leave the branch to the lead,
and CALL writes its link exactly when the lead's transfer is taken (R40, R341, R348). -/
def GangMembersFollow : Prop :=
  ∀ (p a : Nat) (off : BitVec 20) (s : State) (b : Branch), s.iss.trapped = false → s.iss.follow = some b →
    exec (.br p off) s = .next s.slotDone ∧ exec (.jmpi p a) s = .next s.slotDone ∧ exec (.ret p) s = .next s.slotDone ∧
    exec (.halt p) s = .next s.slotDone ∧
    exec (.call p off) s = .next (match b with
      | .to _ _ => (s.landG 62 (BitVec.ofNat 64 (s.rd.pc + s.iss.len)) 1).slotDone
      | _ => s.slotDone)

end Sys2Proof.Machine

/-- Transfers branch to the targets of R88, and gang members follow their lead (R40, R57, R88, R341, R348). -/
def Obligations.TransfersBranch : Prop := TransfersTaken ∧ GangMembersFollow

namespace Sys2Proof.Machine

/-- What one rotation does to the three rotation offsets (R70). -/
def turned (t : Context) : Context :=
  { t with rg := t.rg - 1, rp := t.rp - 1, rv := if t.rv = 0 then 191 else t.rv - 1 }

/-- LOOP branches without bubbles and counts LC down while it is not 0; LOOP.R rotates, counts LC and then EC down, and
gives p8 the value of its stage, and falls through changing nothing when both are 0; ROTB rotates (R71, R342). -/
def LoopsCountAndRotate : Prop :=
  ∀ (p : Nat) (off : BitVec 19) (s : State), Runs s p → s.iss.follow = none →
    let tgt := Branch.to (relTarget s.rd.pc off.toInt) 0
    let p8 := 8 + (s.cur.rp - 1).toNat
    (s.rd.lc ≠ 0 → exec (.loop p off) s = .next ((s.upd (fun t => { t with lc := s.rd.lc - 1 })).branchTo tgt).slotDone) ∧
    (s.rd.lc = 0 → exec (.loop p off) s = .next s.slotDone) ∧
    (s.rd.lc ≠ 0 → exec (.loopR p off) s = .next
      (((s.upd (fun t => { turned t with lc := s.rd.lc - 1 })).result .p p8 full4096 1 1).branchTo tgt).slotDone) ∧
    (s.rd.lc = 0 → s.rd.ec ≠ 0 → exec (.loopR p off) s = .next
      (((s.upd (fun t => { turned t with ec := s.rd.ec - 1 })).result .p p8 full4096 0 1).branchTo tgt).slotDone) ∧
    (s.rd.lc = 0 → s.rd.ec = 0 → exec (.loopR p off) s = .next s.slotDone) ∧
    exec (.rotb p) s = .next (s.upd turned).slotDone

/-- HALT and TRAP ask for their effect at the commit of their bundle, XRET too in a handler, and a NOP bundle does nothing
(R79, R302, R348, R384, R422). -/
def ProgramEndsAtCommit : Prop :=
  ∀ (p n : Nat) (s : State), Runs s p → s.iss.follow = none →
    exec (.halt p) s = .next (s.branchTo .halt).slotDone ∧
    exec (.trap p n) s = .next (s.setIss { s.iss with trapAfter := some n }).slotDone ∧
    (s.rd.trap.tmode = true → exec (.xret p) s = .next (s.branchTo .xret).slotDone) ∧
    exec (.nop n) s = .next s.slotDone

end Sys2Proof.Machine

/-- LOOP, LOOP.R and ROTB count and rotate; HALT, TRAP, XRET and NOP complete; that XRET takes effect at its bundle's commit is the
model's (R71, R79, R302, R342, R348, R384, R422; log entry 21). -/
def Obligations.LoopsRotateAndProgramsEnd : Prop := LoopsCountAndRotate ∧ ProgramEndsAtCommit

-- ## System registers, clocks, tiles and the front end (03 R75, R76; 05 R137; 14 R304; 16 R344; 17 R358, R359, R367)

namespace Sys2Proof.Machine

/-- MFS completes with the register's value as the bundle reads it, with a latency of 2, and clears its RC field (R5, R76,
R358); MTS writes a register that is not privileged (R359). What hardware has set in EVLOST at the same time stays set (R6). -/
def SystemRegisterMoves : Prop :=
  ∀ (p d n : Nat) (s : State), Runs s p →
    let raced := s.arch.raced
    (n ≠ 0x064 ∨ raced = [] → exec (.mfs p d n) s = .next (((s.upd (fun t => t.sysClear n)).landG d
      (BitVec.ofNat 64 (s.view.sysReg s.iss.core s.iss.ctx n)) 2).slotDone)) ∧
    (n < 0x200 → n ≠ 3 → n ≠ 0x064 ∨ raced = [] →
      exec (.mts p d n) s = .next (s.upd (fun t => t.sysWrite n (s.rd.readG d))).slotDone) ∧
    (raced.length < 2 ^ 32 → ∃ t : State, exec (.mfs p d 0x064) s = .next ((t.landG d
      (BitVec.ofNat 64 (s.view.sysReg s.iss.core s.iss.ctx 0x064)) 2).slotDone) ∧ t.iss = s.iss ∧ t.arch.mem = s.arch.mem ∧
      t.cur.ring.count.toNat = raced.count (.count s.iss.core s.iss.ctx)) ∧
    (∃ t : State, exec (.mts p d 0x064) s = .next t.slotDone ∧ t.iss = s.iss ∧ t.arch.mem = s.arch.mem ∧
      t.cur.ring.lost = (raced.contains (.lost s.iss.core s.iss.ctx) || (s.cur.ring.lost && !(s.rd.readG d).getLsbD 0)) ∧
      t.cur.ring.dfault = (raced.contains (.dfault s.iss.core s.iss.ctx) || (s.cur.ring.dfault && !(s.rd.readG d).getLsbD 1))) ∧
    exec (.mts p d 3) s = .next ((s.upd (fun t => t.sysWrite 3 (s.rd.readG d))).setIss { s.iss with mpcSet := true }).slotDone

/-- The values of the system registers (R75, R137, R199, R222, R231, R304): each number of the table reads its field. -/
def SystemRegisterValues : Prop :=
  ∀ (a : Arch) (c x : Nat),
    let t := a.ctx c x
    a.sysReg c x 0x001 = t.lc.toNat ∧ a.sysReg c x 0x007 = t.ec.toNat ∧
    a.sysReg c x 0x002 = t.rg.toNat + 256 * t.rp.toNat + 65536 * t.rv.toNat ∧
    a.sysReg c x 0x003 = 4 * t.mpc.toNat ∧ a.sysReg c x 0x004 = t.bt % 2 ^ 64 ∧
    a.sysReg c x 0x006 = c + 256 * (c / 32) + 65536 * a.modnum.toNat ∧
    a.sysReg c x 0x040 = t.trap.tvec.toNat ∧ a.sysReg c x 0x041 = t.trap.tcause.toNat ∧
    a.sysReg c x 0x042 = t.trap.tbundle.toNat ∧ a.sysReg c x 0x043 = t.trap.tinfo.toNat ∧
    a.sysReg c x 0x060 = t.ring.evbase.toNat ∧ a.sysReg c x 0x062 = t.ring.evhead.toNat ∧
    a.sysReg c x 0x063 = t.ring.evtail.toNat ∧ a.sysReg c x 0x201 = t.asid.toNat ∧
    (x < 2 → a.sysReg c x 0x005 = x + 16 * t.gpos.toNat + 256 * t.gsize.toNat) ∧
    a.sysReg c x 0x044 = (if t.trap.tmode then 1 else 0) + 2 * t.trap.repleft + 65536 * t.trap.swapcnt.toNat + 2 ^ 32 * (t.trap.hbt % 2 ^ 32) ∧
    a.sysReg c x 0x061 = t.ring.evsize.toNat ∧
    a.sysReg c x 0x064 = (if t.ring.lost then 1 else 0) + (if t.ring.dfault then 2 else 0) + 65536 * t.ring.count.toNat ∧
    a.sysReg c x 0x180 = (if t.detm then 1 else 0) + 2 ^ 32 * t.holds.toNat ∧ a.sysReg c x 0x203 = t.tmplcnt.toNat ∧
    a.sysReg c x 0x200 = 4096 * t.ptroot.toNat ∧ a.sysReg c x 0x202 = 128 * t.tmplbase.toNat ∧
    (∀ n, n < 16 → a.sysReg c x (0x140 + n) = (t.readTl n).toNat ∧ a.sysReg c x (0x102 + 4 * n) = (t.chan n).wm.toNat ∧
      a.sysReg c x (0x100 + 4 * n) = (t.chan n).wmbase.toNat ∧ a.sysReg c x (0x101 + 4 * n) = (t.chan n).wmlim.toNat ∧
      (let h := t.chan n
       let state := match h.state with | .idle => 0 | .active => 1 | .done => 2 | .fault => 3 | .reject => 4 | .cancel => 5
       a.sysReg c x (0x103 + 4 * n) = state + 256 * h.code.toNat + (if h.bad then 65536 else 0) + 2 ^ 32 * h.ticket.toNat)) ∧
    -- what a read clears: COUNT of EVLOST and HOLDS of DETM
    (t.sysClear 0x064).ring.count = 0 ∧ (t.sysClear 0x180).holds = 0 ∧ ∀ n, n ≠ 0x064 → n ≠ 0x180 → t.sysClear n = t

/-- A register that has been written reads what was written, in its fields: REPLEFT at most 16, LOST and DFAULT cleared by a 1, DISMISS
of WMSTAT making a channel whose copy has ended IDLE, and EN of DETM asked for, to be taken over once the context's global accesses
have landed (R66); read-only registers are not changed (R5, R137, R231, R304, R359). -/
def SystemRegisterWrites : Prop :=
  ∀ (t : Context) (x : Word),
    (t.sysWrite 0x001 x).lc = x ∧ (t.sysWrite 0x007 x).ec = x ∧
    (t.sysWrite 0x002 x).rv.toNat = x.toNat / 65536 % 256 % 192 ∧ (t.sysWrite 0x002 x).rg.toNat = x.toNat % 16 ∧
    (t.sysWrite 0x002 x).rp.toNat = x.toNat / 256 % 8 ∧ (t.sysWrite 0x003 x).mpc.toNat = x.toNat / 4 % 65536 ∧
    (t.sysWrite 0x040 x).trap.tvec.toNat = x.toNat % 2 ^ 18 ∧
    (t.sysWrite 0x042 x).trap.tbundle.toNat = x.toNat % 2 ^ 18 / 2 * 2 ∧
    (t.sysWrite 0x060 x).ring.evbase.toNat = x.toNat / 16 * 16 ∧ (t.sysWrite 0x063 x).ring.evtail.toNat = x.toNat % 2 ^ 32 ∧
    t.sysWrite 0x004 x = t ∧ t.sysWrite 0x005 x = t ∧ t.sysWrite 0x006 x = t ∧ t.sysWrite 0x041 x = t ∧
    t.sysWrite 0x043 x = t ∧ t.sysWrite 0x062 x = t ∧
    t.sysWrite 0x044 x = { t with trap := { t.trap with repleft := min (x.toNat / 2 % 32) 16 } } ∧
    (t.sysWrite 0x061 x).ring.evsize.toNat = x.toNat % 32 ∧
    (t.sysWrite 0x064 x).ring.lost = (t.ring.lost && !x.getLsbD 0) ∧ (t.sysWrite 0x064 x).ring.dfault = (t.ring.dfault && !x.getLsbD 1) ∧
    (t.sysWrite 0x064 x).ring.count = t.ring.count ∧
    t.sysWrite 0x180 x = { t with wait := some ⟨.detm, 0, x.toNat % 2, false, 0⟩ } ∧
    (∀ n, n < 16 → t.sysWrite (0x100 + 4 * n) x = t ∧ t.sysWrite (0x101 + 4 * n) x = t ∧ t.sysWrite (0x102 + 4 * n) x = t ∧
      ((t.sysWrite (0x103 + 4 * n) x).chan n =
        if x.getLsbD 31 = true ∧ (t.chan n).state ≠ .idle ∧ (t.chan n).state ≠ .active then { t.chan n with state := .idle } else t.chan n) ∧
      ∀ m, m ≠ n → (t.sysWrite (0x103 + 4 * n) x).chan m = t.chan m)

end Sys2Proof.Machine

/-- MFS and MTS move the system registers, each of which reads its field and takes its writable bits (R5, R75, R76, R304, R358,
R359). -/
def Obligations.SystemRegisters : Prop := SystemRegisterMoves ∧ SystemRegisterValues ∧ SystemRegisterWrites

namespace Sys2Proof.Machine

/-- TSTAMP, CYCLES, TLREAD and TLADV complete: the two clocks and a counter are read with a latency of 2, and a counter is
advanced, stopping at its greatest value; member j of a gang reads the clocks of its own issue, j arithmetic cycles after its
lead's, and no TSTAMP of a core reads less than one before it (R40, R344, R382, R385); that the latest of them is kept is the model's
(log entry 74). -/
def ClocksAndCounters : Prop :=
  ∀ (p d n a : Nat) (s : State), Runs s p →
    let j := s.rd.gpos.toNat
    let lead := s.view.core (s.view.leadOf s.iss.core s.iss.ctx)
    let now := max (s.view.elapse (2 * j)).now (s.view.core s.iss.core).stamp
    exec (.tstamp p d) s = .next ((s.setArch (s.arch.mapCore s.iss.core (fun k => { k with stamp := now }))).landG d
      (BitVec.ofNat 64 now) 2).slotDone ∧
    exec (.cycles p d) s = .next (s.landG d (BitVec.ofNat 64
      (lead.lastEdge / 2 + j - (s.view.core s.iss.core).omitted)) 2).slotDone ∧
    exec (.tlread p d n) s = .next (s.landG d (s.rd.readTl n) 2).slotDone ∧
    (∃ f : SMap Word, exec (.tladv p n a) s = .next (s.upd (fun t => { t with tl := f })).slotDone ∧
      (SMap.get 0 f n).toNat = min ((s.cur.readTl n).toNat + (s.rd.readG a).toNat) (2 ^ 64 - 1) ∧
      ∀ m, m ≠ n → SMap.get 0 f m = s.cur.readTl m)

/-- Context `x` may touch group `g` now: it is its own, or free, and no other context has freed it in this very cycle (R171, R173). -/
def Arch.touchable (a : Arch) (c x g : Nat) : Prop :=
  SMap.get Owner.free (a.core c).owner g = ownerOf x ∨
  (SMap.get Owner.free (a.core c).owner g = .free ∧ ∀ y t, SMap.get none (a.core c).prev g = some (y, t) → y = x ∨ t ≠ a.clock)

/-- Context `x` may take group `g`: it is its own, or it is free for it, and nothing that another context, its last owner, did to it
before it freed the group is still under way (R172, R173; log entry 78). -/
def Arch.acquirable (a : Arch) (c x g : Nat) : Prop :=
  SMap.get Owner.free (a.core c).owner g = ownerOf x ∨
  (a.touchable c x g ∧
    ∀ (y t o : Nat), SMap.get none (a.core c).prev g = some (y, t) → y ≠ x → ∀ q ∈ a.reqs, q.core = c → q.ctx = y → q.time ≤ t →
      q.st ≠ .withdrawn → a.place q.pa = .spad c o → g ∉ groupsOf o q.len)

/-- Context A waits for a group of the mask and may take all that it waits for: B leaves the groups to it (R172). -/
def Arch.leavesToA (a : Arch) (c x mask : Nat) : Prop :=
  x = 1 ∧ (a.ctx c 0).status = .running ∧ ∃ w, (a.ctx c 0).wait = some w ∧ w.kind = .bankacq ∧ w.operand &&& mask ≠ 0 ∧
    ∀ g, g < 12 → w.operand.testBit g = true → a.acquirable c 0 g

/-- TLWAIT, WAITEV and BANKACQ complete at once when their condition holds, and else leave the context waiting with the
wait record of their kind; B leaves groups to an A that waits for one of them and can take them, and a group whose last owner's
accesses to it are not all performed is not taken yet; EVACK moves EVTAIL by at most the
entries present, whose room is free once the loads issued before it are performed; BANKREL frees the groups it names (R172, R173, R346,
R383, R415; log entry 78). Context B of a gang member other than its lead waits for the end of its core's own cycle, in which A comes
first (R40, R172; log entry 74). -/
def WaitsStartOrPass : Prop :=
  ∀ (p n d a : Nat) (mask : BitVec 12) (s : State), Runs s p →
    let k := s.arch.core s.iss.core
    let take := (∀ g, mask.getLsbD g = true → s.arch.acquirable s.iss.core s.iss.ctx g) ∧
      ¬ s.arch.leavesToA s.iss.core s.iss.ctx mask.toNat ∧ (s.iss.ctx = 1 → s.arch.leadOf s.iss.core 1 = s.iss.core)
    let need := if s.rd.ring.evsize.toNat < 8 ∨ 20 < s.rd.ring.evsize.toNat ∨ s.rd.ring.stopped = true then 0
      else min ((s.rd.readG a).toNat % 2 ^ 32) (2 ^ s.rd.ring.evsize.toNat / 16)
    let avail := (s.rd.ring.evhead - s.rd.ring.evtail).toNat
    ((s.rd.readG a).toNat ≤ (s.rd.readTl n).toNat → exec (.tlwait p n a) s = .next s.slotDone) ∧
    ((s.rd.readTl n).toNat < (s.rd.readG a).toNat → exec (.tlwait p n a) s =
      .next (s.upd (fun t => { t with wait := some ⟨.tlwait, n, (s.rd.readG a).toNat, false, 0⟩ })).slotDone) ∧
    (need ≤ avail → exec (.waitev p d a) s = .next (s.landG d (BitVec.ofNat 64 avail) 2).slotDone) ∧
    (avail < need → ∃ t : State, exec (.waitev p d a) s = .next t.slotDone ∧ t.iss = s.iss ∧
      t.cur.wait = some ⟨.waitev, 0, (s.rd.readG a).toNat % 2 ^ 32, false, s.arch.nextId⟩) ∧
    exec (.evack p a) s = .next (s.upd (fun t =>
      let n := min ((s.rd.readG a).toNat % 2 ^ 32) (t.ring.evhead - t.ring.evtail).toNat
      { t with ring := { t.ring with
          evtail := t.ring.evtail + BitVec.ofNat 32 n
          acks := if n = 0 then t.ring.acks else t.ring.acks ++ [(n, s.view.nextId)] } })).slotDone ∧
    (take → ∃ o, exec (.bankacq p mask) s = .next (s.setArch (s.arch.mapCore s.iss.core (fun k => { k with owner := o }))).slotDone ∧
      ∀ g, SMap.get Owner.free o g = if mask.getLsbD g then ownerOf s.iss.ctx else SMap.get Owner.free k.owner g) ∧
    (¬ take → exec (.bankacq p mask) s =
      .next (s.upd (fun t => { t with wait := some ⟨.bankacq, 0, mask.toNat, false, 0⟩ })).slotDone) ∧
    (∃ o m, exec (.bankrel p mask) s =
        .next (s.setArch (s.arch.mapCore s.iss.core (fun k => { k with owner := o, prev := m }))).slotDone ∧
      ∀ g, let mine := mask.getLsbD g = true ∧ SMap.get Owner.free k.owner g = ownerOf s.iss.ctx
        SMap.get Owner.free o g = (if mine then .free else SMap.get Owner.free k.owner g) ∧
        SMap.get none m g = if mine then some (s.iss.ctx, s.arch.clock) else SMap.get none k.prev g)

/-- DRAIN at a scope of core to pod completes at once when the context has no access and no write-back under way, and else
leaves it waiting for those issued before it, withdrawn ones apart (R345, R248; log entry 55). DRAIN at window scope, with nothing
under way, completes once the window after the last in which a write of the context was sent has ended, and else leaves it waiting for
that (R248, R252). -/
def DrainWaitsForAccesses : Prop :=
  ∀ (p scope : Nat) (s : State), Runs s p → scope < 4 →
    let mine (r : Req) : Bool := r.core == s.iss.core && r.ctx == s.iss.ctx
    (s.view.reqs.all (fun r => !mine r) = true →
      s.view.writeBacks.all (fun w => !(w.core == s.iss.core && w.ctx == s.iss.ctx)) = true →
      exec (.drain p scope) s = .next s.slotDone) ∧
    (s.view.reqs.any (fun r => mine r && decide (r.id < s.view.nextId) && r.st != .withdrawn) = true →
      exec (.drain p scope) s =
        .next (s.upd (fun t => { t with wait := some ⟨.drain, s.rd.sent, scope, false, s.view.nextId⟩ })).slotDone)

/-- DRAIN at window scope (R248, R252): `sent` counts, plus 1, the last window in which a write of the context was sent. -/
def DrainWaitsForItsWindow : Prop :=
  ∀ (p : Nat) (s : State), Runs s p →
    (∀ r ∈ s.view.reqs, r.core ≠ s.iss.core ∨ r.ctx ≠ s.iss.ctx) → (∀ w ∈ s.view.writeBacks, w.core ≠ s.iss.core ∨ w.ctx ≠ s.iss.ctx) →
    (s.rd.sent = 0 ∨ (s.rd.sent + 1) * 2 ^ s.view.time.wlog2.toNat ≤ s.view.now → exec (.drain p 4) s = .next s.slotDone) ∧
    (s.rd.sent ≠ 0 → s.view.now < (s.rd.sent + 1) * 2 ^ s.view.time.wlog2.toNat → exec (.drain p 4) s =
      .next (s.upd (fun t => { t with wait := some ⟨.drain, s.rd.sent, 4, false, s.view.nextId⟩ })).slotDone)

end Sys2Proof.Machine

/-- Clocks, timeline counters, waits, bank ownership and DRAIN (R172, R173, R248, R344 to R346, R382, R383, R385, R415). -/
def Obligations.ClocksWaitsAndDrain : Prop :=
  ClocksAndCounters ∧ WaitsStartOrPass ∧ DrainWaitsForAccesses ∧ DrainWaitsForItsWindow

namespace Sys2Proof.Machine

/-- NXTILE completes with a latency of 24: the null record in a unit of no persistent launch, and else the next index of the
Brick's batch, taken from it, as a record of its coordinates; where the batch is empty, the first of up to 32 indices that the Brick
claims from the launch's counter; and the null record where the counter is exhausted too, or a cancel has drained the launch (R42,
R43, R48, R367). Where a sleeping port keeps the Brick from the counter, or an earlier NXTILE of the launch waits there, the record
comes later (R22, R44). A follower of a gang gets the record that the first member to ask in the bundle got (R44). That a Brick whose
batch is empty claims within the step of its NXTILE is the model's (log entry 28). -/
def NextTileHandsOutIndices : Prop :=
  ∀ (p d : Nat) (s : State), Runs s p →
    (∀ k q, s.gangTile = some (k, q) → q.parts = 0 → exec (.nxtile p d) s = .next (s.landG d (q.val.setWidth 64) 24).slotDone) ∧
    (s.gangTile = none → s.rd.tile = none → exec (.nxtile p d) s = .next (s.landG d 0x8000000000000000 24).slotDone) ∧
    (∀ (l i : Nat) (rest : List Nat) (v : Launch), s.gangTile = none → s.rd.tile = some l → s.arch.launch l = some v → v.drained = false →
      (∀ r ∈ (s.arch.brick (s.iss.core / 32)).tileq, r.launch ≠ l) → SMap.get [] (s.arch.brick (s.iss.core / 32)).batches l = i :: rest →
      let X := v.desc.toNat / 2 ^ 448 % 2 ^ 20 + 1
      let Y := v.desc.toNat / 2 ^ 468 % 2 ^ 20 + 1
      exec (.nxtile p d) s = .next ((s.setArch (s.arch.mapBrick (s.iss.core / 32) (fun k =>
        { k with batches := SMap.set [] k.batches l rest }))).landG d
          (BitVec.ofNat 64 (i % X + 2 ^ 20 * (i / X % Y) + 2 ^ 40 * (i / (X * Y)))) 24).slotDone) ∧
    (∀ (l : Nat) (v : Launch), s.gangTile = none → s.rd.tile = some l → s.arch.launch l = some v →
      (∀ r ∈ (s.arch.brick (s.iss.core / 32)).tileq, r.launch ≠ l) → SMap.get [] (s.arch.brick (s.iss.core / 32)).batches l = [] →
      let b := s.iss.core / 32
      let X := v.desc.toNat / 2 ^ 448 % 2 ^ 20 + 1
      let Y := v.desc.toNat / 2 ^ 468 % 2 ^ 20 + 1
      let Z := v.desc.toNat / 2 ^ 488 % 2 ^ 20 + 1
      let i := v.tiles
      let n := min 32 (X * Y * Z - i)
      let near : Prop := s.arch.routeSleeps b (v.base / 32) = false ∧ s.arch.routeSleeps (v.base / 32) b = false
      let q := s.pending .g (s.destG d) 24 1 0 false
      (near → v.drained = false → i < X * Y * Z → ∃ a : Arch, exec (.nxtile p d) s = .next ((s.setArch a).landG d
          (BitVec.ofNat 64 (i % X + 2 ^ 20 * (i / X % Y) + 2 ^ 40 * (i / (X * Y)))) 24).slotDone ∧
        a.launch l = some { v with tiles := i + n } ∧
        SMap.get [] (a.brick b).batches l = (upTo (n - 1)).map (fun j => i + 1 + j)) ∧
      (v.drained = true ∨ (near ∧ X * Y * Z ≤ i) → exec (.nxtile p d) s = .next (s.landG d 0x8000000000000000 24).slotDone) ∧
      (¬ near → v.drained = false → (s.arch.brick (v.base / 32)).lost = false → exec (.nxtile p d) s =
        .next (q.1.setArch (q.1.arch.mapBrick b (fun k =>
          { k with tileq := k.tileq ++ [⟨l, [(s.iss.core, s.iss.ctx, q.2)]⟩] }))).slotDone))

/-- OPGO on an aligned, readable descriptor adds a request to the dispatcher queue, and holds its context when that makes
more than 256; QPUB adds a doorbell of the named queue and WRITE value (R262, R291). -/
def FrontEndRequests : Prop :=
  ∀ (p a : Nat) (b : Src) (s : State), Runs s p →
    exec (.qpub p a b) s = .next (s.setArch { s.arch with doorbells := s.arch.doorbells ++
      [⟨(s.rd.readG a).toNat % 4096, (s.src b).toNat % 2 ^ 32, s.iss.core, s.iss.ctx, s.rd.unit, s.rd.asid, s.rd.bt,
        s.view.nextId⟩] }).slotDone ∧
    (∀ r : Range, s.iss.ctx ≠ 2 → (s.rd.readG a).toNat % 128 = 0 → (s.rd.readG a).toNat < 2 ^ 56 →
      s.globalRange (s.rd.readG a).toNat 128 true false false = .ok r →
      let q := s.setArch { s.arch with opq := s.arch.opq ++ [⟨r.pa, (s.rd.readG a).toNat, s.rd.xlRegs,
        some (s.iss.core, s.iss.ctx, s.rd.bt), none, none, none, s.view.nextId, false⟩] }
      exec (.opgo p a) s = .next (if 256 ≤ s.arch.opq.length then
        q.upd (fun t => { t with wait := some ⟨.opgo, (s.rd.readG a).toNat, 0, false, 0⟩ }) else q).slotDone)

end Sys2Proof.Machine

/-- NXTILE hands out tiles, and OPGO and QPUB send requests to the front end (R42 to R44, R262, R291, R367; log entry 28). -/
def Obligations.TilesAndRequests : Prop := NextTileHandsOutIndices ∧ FrontEndRequests

-- ## Scalar memory and atomics (03 R61; 04 R89; 07 R159, R162, R163, R167 to R171; 10 R218, R220; 11 R242 to R247; 16 R335 to R339, R347, R350; 17 R377 to R379)

namespace Sys2Proof.Machine

/-- ga plus the sign-extended offset times the scale, modulo 2^64 (R89). -/
def addrOf {n : Nat} (g : Word) (off : BitVec n) (scale : Nat) : Nat := (g + off.signExtend 64 * BitVec.ofNat 64 scale).toNat

/-- The latency class of an access: `near` cycles through the core-local space, and 640 or 896 through the global one,
for a home on the core's own die or elsewhere (R61). -/
def State.latencyOf (s : State) (near : Nat) (r : Range) : Nat :=
  if r.near then near else if r.segs.all (fun e => (s.view.place e.1).home == s.iss.core / 32) then 640 else 896

/-- A load asks for its range: a result of the destination waits for it (R61 to R63, R350). -/
def State.loads (s : State) (d : Nat) (r : Range) (acq : Option Nat) : State :=
  s.loadRange r .g (s.destG d) (s.latencyOf 4 r) 1 false acq

/-- LD and LDA complete on a range that passes every check of the model's `State.range`: the destination waits for the
bytes; LD.D of a word of the block-transfer aperture reads the channel's word instead (R61, R218, R350, R378). -/
def LoadsComplete : Prop :=
  (∀ (x : MemArgs) (s : State) (r : Range), Runs s x.p →
    let ea := addrOf (s.rd.readG x.a) x.off (2 ^ x.sz)
    apertureOf ea = none → s.range ea (2 ^ x.sz) (2 ^ x.sz) true false (x.sz == 3) = .ok r →
    exec (.ld x) s = .next (s.loads x.d r none).slotDone) ∧
  (∀ (x : ScopeArgs) (s : State) (r : Range), Runs s x.p →
    let ea := addrOf (s.rd.readG x.a) x.off (2 ^ x.sz)
    apertureOf ea = none → s.range ea (2 ^ x.sz) (2 ^ x.sz) true false (x.sz == 3) = .ok r →
    exec (.lda x) s = .next (s.loads x.d r (some x.scope)).slotDone) ∧
  (∀ (x : MemArgs) (s : State) (n i : Nat), Runs s x.p → s.iss.ctx < 2 → x.sz = 3 → n < 16 → i < 8 →
    addrOf (s.rd.readG x.a) x.off 8 = 0xFE00000000100000 + 64 * n + 8 * i →
    exec (.ld x) s = .next (s.landG x.d ((s.rd.chan n).word i) 4).slotDone)

/-- ST and STL complete on a range that passes every check: the low bytes of the source are to be written there; ST.D to
a word of the aperture sets the channel's word, and to word 0 starts the copy and leaves the context waiting until it
is armed (R218, R220, R377, R379). -/
def StoresComplete : Prop :=
  (∀ (x : MemArgs) (s : State) (r : Range), Runs s x.p →
    let ea := addrOf (s.rd.readG x.a) x.off (2 ^ x.sz)
    apertureOf ea = none → s.range ea (2 ^ x.sz) (2 ^ x.sz) false true (x.sz == 3) = .ok r →
    exec (.st x) s = .next (s.storeRange r ((s.rd.readG x.d).toNat % 2 ^ (8 * 2 ^ x.sz)) none).slotDone) ∧
  (∀ (x : ScopeArgs) (s : State) (r : Range), Runs s x.p →
    let ea := addrOf (s.rd.readG x.a) x.off (2 ^ x.sz)
    apertureOf ea = none → s.range ea (2 ^ x.sz) (2 ^ x.sz) false true (x.sz == 3) = .ok r →
    exec (.stl x) s = .next (s.storeRange r ((s.rd.readG x.d).toNat % 2 ^ (8 * 2 ^ x.sz)) (some x.scope)).slotDone) ∧
  (∀ (x : MemArgs) (s : State) (n i : Nat), Runs s x.p → s.iss.ctx < 2 → x.sz = 3 → n < 16 → i < 8 →
    addrOf (s.rd.readG x.a) x.off 8 = 0xFE00000000100000 + 64 * n + 8 * i →
    ∃ t : State, exec (.st x) s = .next t.slotDone ∧ t.iss = s.iss ∧ t.arch.mem = s.arch.mem ∧
      (i = 0 → (t.cur.chan n).start = some (s.rd.readG x.d) ∧ t.cur.wait = some ⟨.start, 0, n, false, n⟩) ∧
      (i = 1 → (t.cur.chan n).src = s.rd.readG x.d) ∧ (i = 2 → (t.cur.chan n).dst = s.rd.readG x.d) ∧
      (i = 3 → (t.cur.chan n).ctl = s.rd.readG x.d &&& 0xFFFFFFFF00FFFFF8) ∧
      (i = 4 → (t.cur.chan n).bar = s.rd.readG x.d &&& 0xFFFFFFFFFFFFFFF8) ∧
      ∀ m, m ≠ n → t.cur.chan m = s.cur.chan m)

end Sys2Proof.Machine

/-- LD, LDA, ST and STL complete, through memory and through the copy aperture (R61, R89, R218, R220, R350, R377 to R379). -/
def Obligations.LoadsAndStores : Prop := LoadsComplete ∧ StoresComplete

namespace Sys2Proof.Machine

/-- A request for one doubleword of a scratchpad, and the result that waits for its value; `va` is the address it names. -/
def State.wordAsk (s : State) (op : MemOp) (r : Range) (va d : Nat) (acq : Option Nat) : State :=
  (s.pending .g (s.destG d) (s.latencyOf 4 r) 1 (if r.near then 0 else 1) false).1.access
    { s.req op r.near r.pa 8 0 with va := va, tag := some s.arch.nextId, acq := acq }

/-- A request without a result. -/
def State.wordTell (s : State) (op : MemOp) (r : Range) (va data : Nat) (acq rel : Option Nat) : State :=
  s.access { s.req op r.near r.pa 8 data with va := va, acq := acq, rel := rel }

end Sys2Proof.Machine

/-- The full/empty and barrier instructions complete on a scratchpad doubleword that passes every check of the model's
`State.wordRange`; their scope is core through the core-local space and device through the global one (R163, R167, R170, R339, R347).
Which permissions that check asks of each is the model's choice (log entry 11). -/
def Obligations.ScratchpadWordsComplete : Prop :=
  ∀ (p d a : Nat) (off : BitVec 6) (b : Src) (s : State) (r : Range), Runs s p →
    let ea := addrOf (s.rd.readG a) off 8
    let ga := (s.rd.readG a).toNat
    let sc := some (if r.near then 0 else 2)
    (s.wordRange ea true false = .ok r →
      exec (.ldf p d a off) s = .next (s.wordAsk .ldf r ea d sc).slotDone ∧
      exec (.feget p d a off) s = .next (s.wordAsk .feget r ea d none).slotDone) ∧
    (s.wordRange ea false true = .ok r →
      exec (.ste p d a off) s = .next (s.wordTell .ste r ea (s.rd.readG d).toNat none sc).slotDone ∧
      exec (.feset p a off) s = .next (s.wordTell .feset r ea 0 none none).slotDone ∧
      exec (.feclr p a off) s = .next (s.wordTell .feclr r ea 0 none none).slotDone) ∧
    (s.wordRange ga false true = .ok r → 0 < (s.src b).toNat → (s.src b).toNat < 2 ^ 31 →
      exec (.barinit p a b) s = .next (s.wordTell .barInit r ga (s.src b).toNat none sc).slotDone) ∧
    (s.wordRange ga false true = .ok r → (s.src b).toNat = 0 ∨ 2 ^ 31 ≤ (s.src b).toNat →
      exec (.barinit p a b) s = .next (s.trapNow 0x0B s.iss.pos 9 0 (s.src b).toNat)) ∧
    (s.wordRange ga true true = .ok r → exec (.bararr p a) s = .next (s.wordTell .barArr r ga 0 none sc).slotDone) ∧
    (s.wordRange ga true false = .ok r →
      exec (.barwait p a b) s = .next (s.wordTell .barWait r ga ((s.src b).toNat % 2) sc none).slotDone)

namespace Sys2Proof.Machine

/-- An atomic asks for its operation on `n` bytes; the old value arrives in the destination (R246, R335). -/
def State.amoAsk (s : State) (k : Amo) (n : Nat) (x : AmoArgs) (r : Range) : State :=
  let sc := some (if r.near then 0 else 2)
  (s.pending .g (s.destG x.d) (s.latencyOf 6 r) 1 (if r.near then 0 else 1) false).1.access
    { s.req (.amo k) r.near r.pa n ((s.rd.readG x.b).toNat % 2 ^ (8 * n)) with
      tag := some s.arch.nextId, cmp := (s.rd.readG x.d).toNat
      acq := if x.ord = 1 ∨ x.ord = 3 then sc else none, rel := if x.ord = 2 ∨ x.ord = 3 then sc else none }

/-- The nine atomics complete on an aligned range they may read and write: eight on doublewords, AMOFADD on a word; an
acquire or release as the order field says. They need no more exact adds to wait at a slice than its REQ class has room for
(R195, R246, R335, R336; log entry 58). -/
def AtomicsComplete : Prop :=
  ∀ (x : AmoArgs) (s : State) (r : Range), Runs s x.p → x.ord < 4 → (∀ b, (s.view.brick b).detq.length ≤ Config.requestRoom) →
    let ga := (s.rd.readG x.a).toNat
    (s.range ga 8 8 true true false = .ok r →
      exec (.amoadd x) s = .next (s.amoAsk .add 8 x r).slotDone ∧ exec (.amoand x) s = .next (s.amoAsk .and 8 x r).slotDone ∧
      exec (.amoor x) s = .next (s.amoAsk .or 8 x r).slotDone ∧ exec (.amoxor x) s = .next (s.amoAsk .xor 8 x r).slotDone ∧
      exec (.amomin x) s = .next (s.amoAsk .min 8 x r).slotDone ∧ exec (.amomax x) s = .next (s.amoAsk .max 8 x r).slotDone ∧
      exec (.amoswp x) s = .next (s.amoAsk .swp 8 x r).slotDone ∧ exec (.amocas x) s = .next (s.amoAsk .cas 8 x r).slotDone) ∧
    (s.range ga 4 4 true true false = .ok r → exec (.amofadd x) s = .next (s.amoAsk .fadd 4 x r).slotDone)

/-- A commutative atomic asks for its operation and expects no value; in deterministic mode the add of F32 words in a
stack is an exact one (R193, R247, R337). -/
def State.amoTell (s : State) (k : Amo) (n b : Nat) (r : Range) : State :=
  s.access { s.req (.amo k) r.near r.pa n ((s.rd.readG b).toNat % 2 ^ (8 * n)) with
    comm := true
    det := decide (k = .fadd) && s.rd.detm && (match s.view.place r.pa with | .stack _ _ => true | _ => false) }

/-- The seven .C atomics complete on an aligned range they may read and write, while no more exact adds wait at a slice than its REQ
class has room for (R195, R247, R337; log entry 58). -/
def CommutativeAtomicsComplete : Prop :=
  ∀ (p a b : Nat) (s : State) (r : Range), Runs s p → (∀ b, (s.view.brick b).detq.length ≤ Config.requestRoom) →
    let ga := (s.rd.readG a).toNat
    (s.range ga 8 8 true true false = .ok r →
      exec (.amoaddC p a b) s = .next (s.amoTell .add 8 b r).slotDone ∧
      exec (.amoandC p a b) s = .next (s.amoTell .and 8 b r).slotDone ∧
      exec (.amoorC p a b) s = .next (s.amoTell .or 8 b r).slotDone ∧
      exec (.amoxorC p a b) s = .next (s.amoTell .xor 8 b r).slotDone ∧
      exec (.amominC p a b) s = .next (s.amoTell .min 8 b r).slotDone ∧
      exec (.amomaxC p a b) s = .next (s.amoTell .max 8 b r).slotDone) ∧
    (s.range ga 4 4 true true false = .ok r → exec (.amofaddC p a b) s = .next (s.amoTell .fadd 4 b r).slotDone)

/-- An atomic to a slice at which more exact adds wait than its REQ class has room for holds its bundle (R195; log entry 58). -/
def AtomicsWait : Prop :=
  ∀ (x : AmoArgs) (b o : Nat) (s : State) (r : Range), Runs s x.p → x.ord < 4 → s.view.place r.pa = .stack b o →
    Config.requestRoom < (s.view.brick b).detq.length →
    let ga := (s.rd.readG x.a).toNat
    let held (i : Instr) : Prop := exec i s = .next (s.setIss { s.iss with held := some (s.iss.held.getD .request) }).slotDone
    (s.range ga 8 8 true true false = .ok r →
      ∀ i ∈ [Instr.amoadd x, .amoand x, .amoor x, .amoxor x, .amomin x, .amomax x, .amoswp x, .amocas x, .amoaddC x.p x.a x.b,
        .amoandC x.p x.a x.b, .amoorC x.p x.a x.b, .amoxorC x.p x.a x.b, .amominC x.p x.a x.b, .amomaxC x.p x.a x.b], held i) ∧
    (s.range ga 4 4 true true false = .ok r → held (.amofadd x) ∧ held (.amofaddC x.p x.a x.b))

end Sys2Proof.Machine

/-- The nine atomics and the seven commutative ones complete, or wait for exact adds before them (R193, R195, R246, R247, R335 to
R337). -/
def Obligations.AtomicsAsk : Prop := AtomicsComplete ∧ CommutativeAtomicsComplete ∧ AtomicsWait

namespace Sys2Proof.Machine

/-- What the bytes of an access become, and what it answers: `old` is what stood there, `b` the operand (R335, R336). -/
def Amo.acts (k : Amo) (old b cmp : Word) : Word :=
  match k with
  | .add => old + b
  | .and => old &&& b
  | .or => old ||| b
  | .xor => old ^^^ b
  | .min => if b.slt old then b else old
  | .max => if old.slt b then b else old
  | .swp => b
  | .cas => if old = cmp then b else old
  | .fadd => BitVec.ofNat 64 (addF32 0 (old.toNat % 2 ^ 32) (b.toNat % 2 ^ 32))

/-- The module but for its memory, where nobody waits at a barrier: a write of a waited object may turn its phase, and
then marks its waiters, a matrix engine's call among them (log entry 54). -/
def Arch.keepsAllBut (a a' : Arch) : Prop :=
  let unmarked (k : Core) : Core := { k with engine := { k.engine with run := k.engine.run.map (fun r => { r with sat := false }) } }
  { a' with mem := a.mem, reqs := a.reqs, cores := a.cores } = a ∧
    a'.reqs.map (fun q => { q with cmp := 0 }) = a.reqs.map (fun q => { q with cmp := 0 }) ∧
    a'.cores.map (fun e => (e.1, unmarked e.2)) = a.cores.map (fun e => (e.1, unmarked e.2)) ∧
    ((∀ q ∈ a.reqs, q.op = .barWait → q.st ≠ .parked) → a'.reqs = a.reqs) ∧
    ((∀ e ∈ a.cores, e.2.engine.run = none) → a'.cores = a.cores)

/-- A doubleword atomic on a scratchpad bank answers the old value, writes the operation's result to its eight bytes and
changes nothing else, but that waiters of a barrier object it writes may be marked (log entry 54); loads and stores there
read and write their bytes (R178, R335, R336). -/
def BankAccessesAct : Prop :=
  ∀ (a : Arch) (r : Req) (c o : Nat), a.place r.pa = .spad c o → (r.near = true ∨ (a.brick (c / 32)).lost = false) →
    (r.near = true → SMap.get none (a.core c).window (o / 0x8000) = none) →
    let old := Memory.read a.mem r.pa r.len
    (r.op = .ld → a.performAt r = .done a old) ∧
    (r.op = .st → ∃ t, a.performAt r = .done t 0 ∧ a.keepsAllBut t ∧ Memory.read t.mem r.pa r.len = r.data % 2 ^ (8 * r.len) ∧
      ∀ b, b < r.pa ∨ r.pa + r.len ≤ b → Memory.byte t.mem b = Memory.byte a.mem b) ∧
    (∀ k, r.op = .amo k → k ≠ .fadd → r.len = 8 → r.data < 2 ^ 64 → ∃ t, a.performAt r = .done t old ∧ a.keepsAllBut t ∧
      Memory.read t.mem r.pa 8 = (k.acts (BitVec.ofNat 64 old) (BitVec.ofNat 64 r.data) (BitVec.ofNat 64 r.cmp)).toNat ∧
      ∀ b, b < r.pa ∨ r.pa + 8 ≤ b → Memory.byte t.mem b = Memory.byte a.mem b)

/-- The full/empty operations act on the bit of their doubleword: LDF empties a full one and answers its value and waits
at an empty one, STE fills an empty one and waits at a full one, FEGET answers the bit, FESET and FECLR set and clear it
and leave the data; the bits of other doublewords stay (R162, R163, R347). -/
def FullEmptyBitsAct : Prop :=
  ∀ (a : Arch) (r : Req) (c o : Nat), a.place r.pa = .spad c o → r.len = 8 → r.near = true →
    SMap.get none (a.core c).window (o / 0x8000) = none →
    let full := SMap.get false (a.core c).full (o / 8)
    let sets (b : Bool) (m : Memory) (v : Nat) := ∃ a', a.performAt r = .done a' v ∧ a'.mem = m ∧
      ∀ c' j, SMap.get false (a'.core c').full j = if c' = c ∧ j = o / 8 then b else SMap.get false (a.core c').full j
    (r.op = .ldf → full = true → sets false a.mem (Memory.read a.mem r.pa 8)) ∧
    (r.op = .ldf → full = false → a.performAt r = .wait a) ∧
    (r.op = .ste → full = false → sets true (Memory.write a.mem r.pa 8 r.data) 0) ∧
    (r.op = .ste → full = true → a.performAt r = .wait a) ∧
    (r.op = .feget → a.performAt r = .done a (if full then 1 else 0)) ∧
    (r.op = .feset → sets true a.mem 0) ∧ (r.op = .feclr → sets false a.mem 0)

/-- The fields of a barrier object (R168). -/
def barOf (pending expect phase : Nat) : Nat := pending + 2 ^ 32 * expect + 2 ^ 63 * phase

/-- A barrier object of count n starts with n pending and phase 0; an arrival before the last counts one down; the last
one restores the count and turns the phase, and releases the parked waiters of the old phase; BARWAIT passes when the
phase is not the one it names (R168, R169, R339). -/
def BarriersCountArrivals : Prop :=
  ∀ (a : Arch) (r : Req) (c o n k ph : Nat), a.place r.pa = .spad c o → r.near = true → r.len = 8 →
    SMap.get none (a.core c).window (o / 0x8000) = none → 0 < n → n < 2 ^ 31 → k ≤ n → ph < 2 →
    let act (v : Nat) := ∃ a', a.performAt r = .done a' 0 ∧ a'.mem = Memory.write a.mem r.pa 8 v ∧
      ∀ q ∈ a.reqs, q.op = .barWait → q.pa = r.pa → q.st = .parked → v / 2 ^ 63 ≠ q.data % 2 → { q with cmp := 1 } ∈ a'.reqs
    (r.op = .barInit → r.data = n → act (barOf n n 0)) ∧
    (r.op = .barArr → Memory.read a.mem r.pa 8 = barOf k n ph → 1 < k → act (barOf (k - 1) n ph)) ∧
    (r.op = .barArr → Memory.read a.mem r.pa 8 = barOf 1 n ph → act (barOf n n (1 - ph))) ∧
    (r.op = .barWait → r.cmp = 0 → Memory.read a.mem r.pa 8 = barOf k n ph →
      a.performAt r = if ph = r.data % 2 then .wait a else .done a 0)

end Sys2Proof.Machine

/-- What accesses do at a scratchpad bank: loads, stores, atomics, full/empty operations and barriers (R162, R163, R168, R169,
R178, R335, R336, R339, R347). -/
def Obligations.BanksAct : Prop := BankAccessesAct ∧ FullEmptyBitsAct ∧ BarriersCountArrivals

namespace Sys2Proof.Machine

/-- The checks of a range through the core-local space: an aligned range inside the 384 KiB scratchpad, in groups that are
free, not freed in this very cycle, or the context's own, clear of channels and acquires under way and of stash windows, passes; a misaligned one or one
beyond the scratchpad is an address fault, and another context's group a bank fault (R159, R171, R173, R232, R245). -/
def CoreLocalChecks : Prop :=
  ∀ (s : State) (off len align : Nat) (r w dword : Bool), 0 < align → 0 < len → off < 0x60000 → len ≤ 512 →
    let va := 0xFE00000000000000 + off
    let k := s.view.core s.iss.core
    let mine (g : Nat) := s.view.touchable s.iss.core s.iss.ctx g
    (va % align ≠ 0 → s.range va len align r w dword = .trap 4 va 0) ∧
    (va % align = 0 → 0x60000 < off + len → s.range va len align r w dword = .trap 4 va 0) ∧
    (va % align = 0 → off + len ≤ 0x60000 → s.iss.ctx ≠ 2 →
      (¬ mine (off / 0x8000) ∨ ¬ mine ((off + len - 1) / 0x8000)) → s.range va len align r w dword = .trap 9 va 0) ∧
    (va % align = 0 → off + len ≤ 0x60000 → mine (off / 0x8000) → mine ((off + len - 1) / 0x8000) →
      s.rd.chans = [] → k.window = [] → s.rd.acqs = [] →
      s.range va len align r w dword = .ok ⟨true, [(s.view.spadPa s.iss.core off, len)]⟩)

/-- The checks of a range of the global space: it traps where its translation is refused, waits for one that is missing,
traps where a core may not reach, and passes to its physical address where a translated stack address is clear of
channels and acquires (R24, R28, R198, R200, R201). -/
def GlobalChecks : Prop :=
  ∀ (s : State) (va len : Nat) (r w dword : Bool), s.iss.ctx < 2 → va + len ≤ 2 ^ 56 → 0 < len → len ≤ 512 → va % len = 0 →
    (∃ k, len = 2 ^ k) →
    let look := s.view.lookup s.iss.core (.ctx s.iss.ctx) s.rd.asid.toNat va r w
    (∀ k, look = .fault k → s.range va len len r w dword = .trap k va 0) ∧
    (look = .miss → ∃ a, s.range va len len r w dword = .stall .clock a) ∧
    (∀ pa b o, look = .phys pa → s.view.place pa = .stack b o → s.view.place (pa + len - 1) = .stack b (o + len - 1) →
      s.rd.chans = [] → s.rd.acqs = [] → s.range va len len r w dword = .ok ⟨false, [(pa, len)]⟩) ∧
    (∀ pa, look = .phys pa → s.view.place pa = .reserved → s.range va len len r w dword = .trap 5 va 0)

end Sys2Proof.Machine

/-- Ranges of both address spaces pass, trap or wait as their checks say (R24, R28, R159, R171, R198, R200, R201, R232, R245).
-/
def Obligations.RangesAreChecked : Prop := CoreLocalChecks ∧ GlobalChecks

namespace Sys2Proof.Machine

/-- How an instruction stops where the checks of its addresses trap, hold it or must wait for something that they have asked for: it
traps with that cause, the step of effective addresses and the address (R301); it is held, and the later slots of its bundle are still
checked (R74); or it waits at once with what was asked for, but for the entries of a stash, for which the later slots may ask as
well (R175). -/
def StopsAs (i : Instr) (s : State) (trap : Nat → Nat → Nat → Prop) (hold : Hold → Prop) (stall : Hold → Arch → Prop) : Prop :=
  let held (t : State) (h : Hold) : Out := .next (t.setIss { t.iss with held := some (t.iss.held.getD h) }).slotDone
  let asked (a : Arch) : State := (s.setArch a).setIss { s.iss with pre := some a }
  (∀ c n g, trap c n g → exec i s = .next (s.trapNow c s.iss.pos 9 g n)) ∧
  (∀ h, hold h → exec i s = held s h) ∧
  (∀ a, stall .stash a → exec i s = held (asked a) .stash) ∧
  (∀ h a, h ≠ .stash → stall h a → exec i s = .next ((asked a).holdNow h))

/-- It stops as the checks of one range say, or as those of the elements of a pattern do. -/
def Follows (i : Instr) (s : State) (q : RangeR) : Prop :=
  StopsAs i s (fun c n g => q = .trap c n g) (fun h => q = .hold h) (fun h a => q = .stall h a)

def FollowsAll (i : Instr) (s : State) (q : RangesR) : Prop :=
  StopsAs i s (fun c n g => q = .trap c n g) (fun h => q = .hold h) (fun h a => q = .stall h a)

/-- The scalar loads, stores and atomics stop as the checks of their range say; a word of the copy aperture takes none but an aligned
LD.D or ST.D, and traps as an address fault otherwise (R74, R218, R301, R335, R337, R350, R377 to R379). -/
def ScalarAccessesStop : Prop :=
  (∀ (x : MemArgs) (s : State), Runs s x.p →
    let ea := addrOf (s.rd.readG x.a) x.off (2 ^ x.sz)
    (apertureOf ea = none → Follows (.ld x) s (s.range ea (2 ^ x.sz) (2 ^ x.sz) true false (x.sz == 3)) ∧
      Follows (.st x) s (s.range ea (2 ^ x.sz) (2 ^ x.sz) false true (x.sz == 3))) ∧
    (apertureOf ea ≠ none → x.sz ≠ 3 ∨ ea % 8 ≠ 0 ∨ 2 ≤ s.iss.ctx → exec (.ld x) s = .next (s.trapNow 4 s.iss.pos 9 0 ea) ∧
      exec (.st x) s = .next (s.trapNow 4 s.iss.pos 9 0 ea))) ∧
  (∀ (x : ScopeArgs) (s : State), Runs s x.p →
    let ea := addrOf (s.rd.readG x.a) x.off (2 ^ x.sz)
    (apertureOf ea = none → Follows (.lda x) s (s.range ea (2 ^ x.sz) (2 ^ x.sz) true false (x.sz == 3)) ∧
      Follows (.stl x) s (s.range ea (2 ^ x.sz) (2 ^ x.sz) false true (x.sz == 3))) ∧
    (apertureOf ea ≠ none → exec (.lda x) s = .next (s.trapNow 4 s.iss.pos 9 0 ea) ∧
      exec (.stl x) s = .next (s.trapNow 4 s.iss.pos 9 0 ea))) ∧
  (∀ (x : AmoArgs) (s : State), Runs s x.p →
    let ga := (s.rd.readG x.a).toNat
    (∀ i ∈ [Instr.amoadd x, .amoand x, .amoor x, .amoxor x, .amomin x, .amomax x, .amoswp x, .amocas x, .amoaddC x.p x.a x.b,
      .amoandC x.p x.a x.b, .amoorC x.p x.a x.b, .amoxorC x.p x.a x.b, .amominC x.p x.a x.b, .amomaxC x.p x.a x.b],
      Follows i s (s.range ga 8 8 true true false)) ∧
    (∀ i ∈ [Instr.amofadd x, .amofaddC x.p x.a x.b], Follows i s (s.range ga 4 4 true true false)))

/-- The full/empty and barrier operations, the vector loads and stores, SCFG, the streams and OPGO stop as the checks of their
doubleword, of their range or of their pattern's elements say; that a full/empty or barrier operation needs the permissions of a load,
of a store or of both is the model's choice (R74, R170, R262, R301, R351, R370, R372 to R375, R380; log entry 11). -/
def OtherAccessesStop : Prop :=
  (∀ (p d a : Nat) (off : BitVec 6) (b : Src) (s : State), Runs s p →
    let ea := addrOf (s.rd.readG a) off 8
    let ga := (s.rd.readG a).toNat
    (∀ i ∈ [Instr.ldf p d a off, .feget p d a off], Follows i s (s.wordRange ea true false)) ∧
    (∀ i ∈ [Instr.ste p d a off, .feset p a off, .feclr p a off], Follows i s (s.wordRange ea false true)) ∧
    Follows (.barinit p a b) s (s.wordRange ga false true) ∧ Follows (.bararr p a) s (s.wordRange ga true true) ∧
    Follows (.barwait p a b) s (s.wordRange ga true false)) ∧
  (∀ (p v g : Nat) (imm : BitVec 14) (s : State), Runs s p →
    let ea := addrOf (s.rd.readG g) imm 64
    Follows (.ldv p v g imm) s (s.range ea 512 64 true false false) ∧
    (ea / 2 ^ 56 = 0xFE → Follows (.ldvZ p v g imm) s (s.range ea 512 64 true false false)) ∧
    Follows (.stv p v g imm) s (s.range ea 512 64 false true false) ∧
    Follows (.scfg p v g imm) s (s.range (addrOf (s.rd.readG g) imm 32) 32 32 true false false)) ∧
  (∀ (p v n : Nat) (s : State), Runs s p →
    let a := (s.rd.readA n).toNat
    let ind := a / 2 ^ 227 % 2 == 1
    let size := a / 2 ^ 224 % 8
    size ≠ 7 → a / 2 ^ 230 % 4 = 0 → a / 2 ^ 251 % 32 = 0 →
      FollowsAll (.sld p v n) s (s.elements a false true false (s.uses n) none []) ∧
      FollowsAll (.sgath p v n) s (s.elements a ind true false (s.uses n) none []) ∧
      FollowsAll (.sst p v n) s (s.elements a false false true (s.uses n) none []) ∧
      FollowsAll (.sscat p v n) s (s.elements a ind false true (s.uses n) none []) ∧
      ∀ op, size = 2 ∨ (size = 3 ∧ op ≠ 1) →
        FollowsAll (.samo p v n op) s (s.elements a ind true true (s.uses n) none [])) ∧
  (∀ (p a : Nat) (s : State), Runs s p → s.iss.ctx ≠ 2 →
    let ga := (s.rd.readG a).toNat
    (ga % 128 ≠ 0 ∨ 2 ^ 56 ≤ ga → exec (.opgo p a) s = .next (s.trapNow 4 s.iss.pos 9 0 ga)) ∧
    (ga % 128 = 0 → ga < 2 ^ 56 → Follows (.opgo p a) s (s.globalRange ga 128 true false false)))

end Sys2Proof.Machine

/-- A memory instruction whose addresses fail a check traps with that cause, the step of effective addresses and the address, and one
that must wait holds its bundle (R74, R175, R301; log entry 11). -/
def Obligations.MemoryTrapsAndHolds : Prop := ScalarAccessesStop ∧ OtherAccessesStop

-- ## The V slot (03 R68, R69; 04 R86, R93, R95; 05 R115 to R118; 16 R349; 18 R386 to R403; 19 R404 to R414)

namespace Sys2Proof.Machine

/-- Lane `i` of a register of type `t` (R68). -/
def laneAt (t : VType) (r : VReg) (i : Nat) : BitVec t.width := r.extractLsb' (t.width * i) t.width

/-- Lane `i` of the b operand: a register's, or the literal (R86). -/
def State.laneB (s : State) (t : VType) (b : Src) (i : Nat) : BitVec t.width :=
  match b with
  | .reg n => laneAt t (s.rd.readV n) i
  | .lit y => if t = .n64 then y.setWidth t.width else y.signExtend t.width

/-- Lane `i` of register `n`. -/
def State.laneV (s : State) (t : VType) (n i : Nat) : BitVec t.width := laneAt t (s.rd.readV n) i

/-- A well-formed instruction completes: lane `n` of its result is `f x s n`; the result writes the lanes that the
instruction's lane mask enables, or all of them (R68). -/
def Lanes (i : VArgs → Instr) (masked : Bool) (lat : VArgs → Nat) (f : (x : VArgs) → State → Nat → BitVec x.ty.width) :
    Prop :=
  ∀ (x : VArgs) (s : State), (i x).wf = true → Runs s x.p → ∃ m v : VReg,
    exec (i x) s = .next (s.result .v (s.rd.physV x.vd) m v (lat x)).slotDone ∧
    ∀ n, n < x.ty.lanes → laneAt x.ty v n = f x s n ∧
      laneAt x.ty m n = if masked && !(s.rd.readK x.k).getLsbD n then 0 else BitVec.allOnes x.ty.width

/-- Lane operations of two operands. -/
def Lanes2 (i : VArgs → Instr) (lat : VArgs → Nat) (f : (x : VArgs) → BitVec x.ty.width → BitVec x.ty.width → BitVec x.ty.width) :
    Prop := Lanes i true lat (fun x s n => f x (s.laneV x.ty x.va n) (s.laneB x.ty x.b n))

/-- Lane operations of one operand. -/
def Lanes1 (i : VArgs → Instr) (lat : VArgs → Nat) (f : (x : VArgs) → BitVec x.ty.width → BitVec x.ty.width) : Prop :=
  Lanes i true lat (fun x s n => f x (s.laneV x.ty x.va n))

end Sys2Proof.Machine

namespace Sys2Proof

/-- A lane as an integer, and an exact integer narrowed to a lane: wrapped, or saturated where asked and in A64 (R386). -/
def VType.int (t : VType) (a : BitVec t.width) : Int := if t.isSigned then a.toInt else Int.ofNat a.toNat

def VType.lo (t : VType) : Int := if t.isSigned then -2 ^ (t.width - 1) else 0

def VType.hi (t : VType) : Int := if t.isSigned then 2 ^ (t.width - 1) - 1 else 2 ^ t.width - 1

def VType.fit (t : VType) (sat : Bool) (z : Int) : BitVec t.width :=
  BitVec.ofInt t.width (if sat = true ∨ t = .a64 then max t.lo (min z t.hi) else z)

/-- A lane as a value of its format, and a value rounded to a lane (R116, R117). -/
def VType.flt (t : VType) (a : BitVec t.width) : FVal := (fmtOf t).unpack a.toNat

def VType.rounded (t : VType) (rm : Nat) (z : FVal) : BitVec t.width := BitVec.ofNat t.width ((fmtOf t).round rm z)

/-- The smaller or the greater of two lanes; a NaN gives the canonical NaN, and of two zeros the negative one is the
smaller (R405). -/
def VType.pick (t : VType) (up : Bool) (a b : BitVec t.width) : BitVec t.width :=
  if t.isF then
    match FVal.cmp (t.flt a) (t.flt b) with
    | none => BitVec.ofNat t.width (fmtOf t).qnan
    | some .lt => if up then b else a
    | some .gt => if up then a else b
    | some .eq => if up then a &&& b else a ||| b
  else if (if up then t.int a < t.int b else t.int b < t.int a) then b else a

end Sys2Proof

namespace Sys2Proof.Machine

/-- The element-wise arithmetic of the V slot completes lane by lane: sums, differences, products and their high halves,
fused multiply-adds, minima and maxima, absolute values and negations (R386, R388, R401, R404 to R406). -/
def VectorArithmetic : Prop :=
  let addLat (x : VArgs) : Nat := if x.ty.isF then 4 else 2
  -- an exact zero takes its sign from the two addends that R401 names, the product and -c
  let minus (rm : Nat) (c p : FVal) : FVal := match FVal.add rm c p.neg with | .fin _ 0 _ => FVal.add rm p c.neg | z => z
  Lanes2 .vadd addLat (fun x a b => if x.ty.isF then x.ty.rounded x.rm (FVal.add x.rm (x.ty.flt a) (x.ty.flt b))
    else x.ty.fit x.s2 (x.ty.int a + x.ty.int b)) ∧
  Lanes2 .vsub addLat (fun x a b => if x.ty.isF then x.ty.rounded x.rm (FVal.add x.rm (x.ty.flt a) (x.ty.flt b).neg)
    else x.ty.fit x.s2 (x.ty.int a - x.ty.int b)) ∧
  Lanes2 .vmul (fun _ => 4) (fun x a b => if x.ty.isF then x.ty.rounded x.rm (FVal.mul (x.ty.flt a) (x.ty.flt b))
    else x.ty.fit x.s2 (x.ty.int a * x.ty.int b)) ∧
  Lanes2 .vmulh (fun _ => 4) (fun x a b => if x.ty.isSigned then highS a b else highU a b) ∧
  Lanes .vfma true (fun _ => 4) (fun x s n => x.ty.rounded x.rm (FVal.add x.rm
    (FVal.mul (x.ty.flt (s.laneV x.ty x.va n)) (x.ty.flt (s.laneB x.ty x.b n))) (x.ty.flt (s.laneV x.ty x.vd n)))) ∧
  Lanes .vfms true (fun _ => 4) (fun x s n => x.ty.rounded x.rm (minus x.rm (x.ty.flt (s.laneV x.ty x.vd n))
    (FVal.mul (x.ty.flt (s.laneV x.ty x.va n)) (x.ty.flt (s.laneB x.ty x.b n))))) ∧
  Lanes2 .vmin (fun _ => 2) (fun x a b => x.ty.pick false a b) ∧ Lanes2 .vmax (fun _ => 2) (fun x a b => x.ty.pick true a b) ∧
  Lanes1 .vabs (fun _ => 2) (fun x a => if x.ty.isF then
      (if x.ty.flt a = .nan then BitVec.ofNat x.ty.width (fmtOf x.ty).qnan else a &&& BitVec.ofNat x.ty.width (2 ^ (x.ty.width - 1) - 1))
    else x.ty.fit x.s2 |x.ty.int a|) ∧
  Lanes1 .vneg (fun _ => 2) (fun x a => if x.ty.isF then
      (if x.ty.flt a = .nan then BitVec.ofNat x.ty.width (fmtOf x.ty).qnan else a ^^^ BitVec.ofNat x.ty.width (2 ^ (x.ty.width - 1)))
    else x.ty.fit x.s2 (-x.ty.int a))

/-- The logic, shift, count and index instructions of the V slot complete lane by lane; shift amounts are taken modulo
the lane width (R388, R403). -/
def VectorBitsAndCounts : Prop :=
  let two (_ : VArgs) : Nat := 2
  Lanes2 .vand two (fun _ a b => a &&& b) ∧ Lanes2 .vor two (fun _ a b => a ||| b) ∧ Lanes2 .vxor two (fun _ a b => a ^^^ b) ∧
  Lanes2 .vshl two (fun x a b => a <<< (b.toNat % x.ty.width)) ∧ Lanes2 .vshr two (fun x a b => a >>> (b.toNat % x.ty.width)) ∧
  Lanes2 .vsar two (fun x a b => a.sshiftRight (b.toNat % x.ty.width)) ∧
  Lanes1 .vclz two (fun x a => BitVec.ofNat x.ty.width
    ((List.range x.ty.width).takeWhile (fun i => !a.getLsbD (x.ty.width - 1 - i))).length) ∧
  Lanes1 .vpopc two (fun x a => BitVec.ofNat x.ty.width ((List.range x.ty.width).countP (fun i => a.getLsbD i))) ∧
  Lanes .viota true two (fun x _ n => BitVec.ofNat x.ty.width n)

end Sys2Proof.Machine

/-- The element-wise V instructions complete lane by lane (R386, R388, R401, R403 to R406). -/
def Obligations.VectorLanes : Prop := VectorArithmetic ∧ VectorBitsAndCounts

/-- The moves, selections and permutations of the V slot complete lane by lane; VEXT brings one lane to a g register
(R389, R392, R400, R402, R407, R408). -/
def Obligations.VectorMoves : Prop :=
  let idx (x : VArgs) (g : Word) : Nat := g.toNat % 1024 % x.ty.lanes
  let picked (x : VArgs) (s : State) : List Nat := (List.range x.ty.lanes).filter (fun n => (s.rd.readK x.k).getLsbD n)
  Lanes1 .vmov (fun _ => 1) (fun _ a => a) ∧
  Lanes .vsplat true (fun _ => 1) (fun x s n => match x.b with
    | .reg g => (s.rd.readG g).setWidth x.ty.width | .lit y => s.laneB x.ty (.lit y) n) ∧
  Lanes .vsel false (fun _ => 4) (fun x s n => if (s.rd.readK x.k).getLsbD n then s.laneV x.ty x.va n else s.laneB x.ty x.b n) ∧
  Lanes .vbcast true (fun _ => 3) (fun x s _ => s.laneV x.ty x.va (idx x (s.src x.b))) ∧
  Lanes .vperm true (fun _ => 3) (fun x s n => s.laneV x.ty x.va ((s.laneB x.ty x.b n).toNat % x.ty.lanes)) ∧
  Lanes .vslide true (fun _ => 3) (fun x s n =>
    let c := (s.src x.b).toNat
    if x.rm = 1 then (if n + c < x.ty.lanes then s.laneV x.ty x.va (n + c) else 0)
    else if c ≤ n then s.laneV x.ty x.va (n - c) else 0) ∧
  Lanes .vins false (fun _ => 3) (fun x s n =>
    if n = idx x (s.rd.readG x.va) then (s.src x.b).setWidth x.ty.width else s.laneV x.ty x.vd n) ∧
  Lanes .vcomp false (fun _ => 4) (fun x s n =>
    match (picked x s)[n]? with | some i => s.laneV x.ty x.va i | none => 0) ∧
  (∀ (x : VArgs) (s : State), (Instr.vext x).wf = true → Runs s x.p →
    let a := s.laneV x.ty x.va (idx x (s.src x.b))
    exec (.vext x) s = .next (s.landG x.vd (if x.ty.isSigned then a.signExtend 64 else a.setWidth 64) 3).slotDone)

namespace Sys2Proof.Machine

/-- One lane converted (R393). -/
def convertLane (st dt : VType) (sat : Bool) (rm : Nat) (a : BitVec st.width) : BitVec dt.width :=
  if st.isF then
    if dt.isF then dt.rounded rm (st.flt a)
    else
      match st.flt a with
      | .nan => 0
      | .inf neg => BitVec.ofInt dt.width (if neg then dt.lo else dt.hi)
      | .fin neg m e => dt.fit sat (roundInt rm neg m e)
  else if dt.isF then dt.rounded rm (FVal.ofInt (st.int a) 0 false) else dt.fit sat (st.int a)

end Sys2Proof.Machine

/-- VCVT completes with each lane of its source type converted, and zeros in lanes the source has not; the special
functions complete with the rounded function of each lane (R393, R397 to R399, R414; log entry 12 on their precision). -/
def Obligations.VectorConversions : Prop :=
  Lanes .vcvt true (fun _ => 4) (fun x s n =>
    let m := match x.b with | .reg m => m | .lit _ => 0
    let st := VType.ofCode (m % 16)
    if n < st.lanes then convertLane st x.ty (m / 64 % 2 == 1) (m / 16 % 4) (s.laneV st x.va n) else 0) ∧
  Lanes1 .vexp2 (fun _ => 10) (fun x a => BitVec.ofNat x.ty.width ((fmtOf x.ty).exp2V (x.ty.flt a))) ∧
  Lanes1 .vlog2 (fun _ => 10) (fun x a => BitVec.ofNat x.ty.width ((fmtOf x.ty).log2V (x.ty.flt a))) ∧
  Lanes1 .vrcp (fun _ => 10) (fun x a => BitVec.ofNat x.ty.width ((fmtOf x.ty).rcpV (x.ty.flt a))) ∧
  Lanes1 .vrsq (fun _ => 10) (fun x a => BitVec.ofNat x.ty.width ((fmtOf x.ty).rsqV (x.ty.flt a))) ∧
  Lanes1 .vtanh (fun _ => 10) (fun x a => BitVec.ofNat x.ty.width ((fmtOf x.ty).tanhV (x.ty.flt a)))

namespace Sys2Proof.Machine

/-- A widening instruction completes: narrow lane `n` gives lane `n / g` of register `n mod g` of the group at vd, under
the mask bit of the narrow lane (R69, R409). -/
def Widens (i : VArgs → Instr) (f : (x : VArgs) → (w : VType) → BitVec x.ty.width → BitVec x.ty.width → BitVec w.width → BitVec w.width) :
    Prop :=
  ∀ (x : VArgs) (s : State) (w : VType), (i x).wf = true → Runs s x.p → x.ty.widen x.s2 = some w →
    let g := if x.s2 then 4 else 2
    ∃ (m v : Nat → VReg) (t : State), exec (i x) s = .next t.slotDone ∧ t.iss = s.iss ∧ t.arch.mem = s.arch.mem ∧
      t.cur = { s.cur with inflight := s.cur.inflight ++ (List.range g).map (fun j =>
        ⟨.v, s.rd.physV (x.vd + j), m j, v j, 0, s.cur.time + 4, s.cur.ord, 0, 0, false⟩) } ∧
      ∀ n, n < x.ty.lanes →
        laneAt w (v (n % g)) (n / g) =
          f x w (s.laneV x.ty x.va n) (s.laneB x.ty x.b n) (s.laneV w (x.vd + n % g) (n / g)) ∧
        laneAt w (m (n % g)) (n / g) = if (s.rd.readK x.k).getLsbD n then BitVec.allOnes w.width else 0

/-- The widening, narrowing and dot-product instructions complete: exact integer results wrapped to the wide lane, F32
results rounded once; VNARR saturates; an integer VDOT saturates the exact sum of its products to 32 bits, and a float
one adds two rounded products (R69, R131, R132, R394, R409 to R411). -/
def VectorWidening : Prop :=
  Widens .vwadd (fun x w a b _ => if x.ty.isF then w.rounded x.rm (FVal.add x.rm (x.ty.flt a) (x.ty.flt b))
    else BitVec.ofInt w.width (x.ty.int a + x.ty.int b)) ∧
  Widens .vwmul (fun x w a b _ => if x.ty.isF then w.rounded x.rm (FVal.mul (x.ty.flt a) (x.ty.flt b))
    else BitVec.ofInt w.width (x.ty.int a * x.ty.int b)) ∧
  Widens .vwfma (fun x w a b c => if x.ty.isF then w.rounded x.rm (FVal.add x.rm (FVal.mul (x.ty.flt a) (x.ty.flt b)) (w.flt c))
    else BitVec.ofInt w.width (w.int c + x.ty.int a * x.ty.int b)) ∧
  Lanes .vnarr true (fun _ => 4) (fun x s n =>
    let g := if x.s2 then 4 else 2
    match x.ty.widen x.s2 with
    | some w =>
      let a := s.laneV w (x.va + n % g) (n / g)
      if x.ty.isF then x.ty.rounded x.rm (w.flt a) else x.ty.fit true (w.int a)
    | none => 0) ∧
  (∀ (x : VArgs) (s : State), (Instr.vdot x).wf = true → Runs s x.p →
    let g := x.ty.lanes / 128
    let a (n j : Nat) := s.laneV x.ty x.va (g * n + j)
    let b (n j : Nat) := s.laneB x.ty x.b (g * n + j)
    let prod (n j : Nat) : Nat := f32.round x.rm (FVal.mul (x.ty.flt (a n j)) (x.ty.flt (b n j)))
    ∃ m v : VReg, exec (.vdot x) s = .next (s.result .v (s.rd.physV x.vd) m v 8).slotDone ∧ ∀ n, n < 128 →
      laneAt .i32 v n = (if x.ty.isF then BitVec.ofNat 32 (addF32 x.rm (prod n 0) (prod n 1))
        else VType.fit .i32 true (((List.range g).map (fun j => x.ty.int (a n j) * x.ty.int (b n j))).sum)) ∧
      laneAt .i32 m n = if (s.rd.readK x.k).getLsbD n then BitVec.allOnes 32 else 0)

/-- A reduction of the lanes listed, in order: the first as it is (a NaN canonical), then each joined by `f`. -/
def reduced (t : VType) (f : BitVec t.width → BitVec t.width → BitVec t.width) (empty : BitVec t.width) :
    List (BitVec t.width) → BitVec t.width
  | [] => empty
  | a :: as => as.foldl f (if t.isF then t.rounded 0 (t.flt a) else a)

end Sys2Proof.Machine

namespace Sys2Proof

/-- The sum of two lanes: integers wrap, floats round once (R412). -/
def VType.sum2 (t : VType) (rm : Nat) (a b : BitVec t.width) : BitVec t.width :=
  if t.isF then t.rounded rm (FVal.add rm (t.flt a) (t.flt b)) else a + b

end Sys2Proof

namespace Sys2Proof.Machine

/-- The lanes of va that the mask selects, in order, below lane `n`. -/
def State.selectedLanes (s : State) (x : VArgs) (n : Nat) : List (BitVec x.ty.width) :=
  ((List.range n).filter (fun i => (s.rd.readK x.k).getLsbD i)).map (s.laneV x.ty x.va)

/-- VREDADD, VREDMAX and VREDMIN complete with the selected lanes folded in increasing order into lane 0 and zeros above;
VSCAN with the sum of the selected lanes up to each lane (R132, R412). -/
def VectorReductions : Prop :=
  let reduces (i : VArgs → Instr) (f : (x : VArgs) → BitVec x.ty.width → BitVec x.ty.width → BitVec x.ty.width)
      (empty : (x : VArgs) → BitVec x.ty.width) : Prop :=
    Lanes i false (fun _ => 6) (fun x s n => if n = 0 then reduced x.ty (f x) (empty x) (s.selectedLanes x x.ty.lanes) else 0)
  let least (x : VArgs) : BitVec x.ty.width := if x.ty.isF then BitVec.ofNat _ ((fmtOf x.ty).infBits true) else BitVec.ofInt _ x.ty.lo
  let most (x : VArgs) : BitVec x.ty.width := if x.ty.isF then BitVec.ofNat _ ((fmtOf x.ty).infBits false) else BitVec.ofInt _ x.ty.hi
  reduces .vredadd (fun x => x.ty.sum2 x.rm) (fun _ => 0) ∧ reduces .vredmax (fun x => x.ty.pick true) least ∧
  reduces .vredmin (fun x => x.ty.pick false) most ∧
  Lanes .vscan false (fun _ => 8) (fun x s n => reduced x.ty (x.ty.sum2 x.rm) 0 (s.selectedLanes x (n + 1)))

end Sys2Proof.Machine

/-- Widening, narrowing, dot products, reductions and scans complete (R69, R131, R132, R394, R409 to R412). -/
def Obligations.VectorWideAndReduced : Prop := VectorWidening ∧ VectorReductions

namespace Sys2Proof

/-- The condition of VCMP on two lanes (R93, R391). -/
def VType.holds (t : VType) (cc : Nat) (a b : BitVec t.width) : Bool :=
  let o := if t.isF then FVal.cmp (t.flt a) (t.flt b) else some (compare (t.int a) (t.int b))
  if cc = 0 then o == some .eq else if cc = 1 then o != some .eq else if cc = 2 then o == some .lt
  else if cc = 3 then o == some .lt || o == some .eq else if cc = 4 then o == some .gt
  else if cc = 5 then o == some .gt || o == some .eq else o == none

end Sys2Proof

/-- VCMP completes with a condition in each enabled bit and zeros above the lanes, and does nothing to k0; VDROP and VRAND
complete with bits of the lane hash; the lane-mask instructions with their logic and count (R67, R349, R391, R395, R396,
R413). -/
def Obligations.MasksAndHashes : Prop :=
  (∀ (x : VArgs) (s : State), (Instr.vcmp x).wf = true → Runs s x.p →
    (x.vd = 0 → exec (.vcmp x) s = .next s.slotDone) ∧
    (x.vd ≠ 0 → ∃ m v : BitVec 4096, exec (.vcmp x) s = .next (s.result .k x.vd m v 2).slotDone ∧ ∀ n, n < 1024 →
      m.getLsbD n = (decide (x.ty.lanes ≤ n) || (s.rd.readK x.k).getLsbD n) ∧
      v.getLsbD n = (decide (n < x.ty.lanes) && x.ty.holds x.cc (s.laneV x.ty x.va n) (s.laneB x.ty x.b n)))) ∧
  (∀ (x : VArgs) (y : BitVec 32) (s : State), (Instr.vdrop x y).wf = true → Runs s x.p →
    ∃ k : Nat, exec (.vdrop x y) s = .next (s.landK x.vd k 4).slotDone ∧ ∀ n, k.testBit n = (decide (n < x.ty.lanes) &&
      decide (hash64 (s.rd.readG x.va) (s.src x.b) n % 2 ^ 16 < y.toNat % 2 ^ 16))) ∧
  Lanes .vrand true (fun _ => 6) (fun x s n => BitVec.ofNat x.ty.width (hash64 (s.rd.readG x.va) (s.src x.b) n)) ∧
  (∀ (x : VArgs) (b : Nat) (s : State), x.b = .reg b → Runs s x.p →
    exec (.kand x) s = .next (s.landK x.vd (s.rd.readK x.va &&& s.rd.readK b).toNat 1).slotDone ∧
    exec (.kor x) s = .next (s.landK x.vd (s.rd.readK x.va ||| s.rd.readK b).toNat 1).slotDone ∧
    exec (.kxor x) s = .next (s.landK x.vd (s.rd.readK x.va ^^^ s.rd.readK b).toNat 1).slotDone ∧
    exec (.knot x) s = .next (s.landK x.vd (~~~s.rd.readK x.va).toNat 1).slotDone ∧
    exec (.kcnt x) s = .next (s.landG x.vd
      (BitVec.ofNat 64 ((List.range x.ty.lanes).countP (fun i => (s.rd.readK x.va).getLsbD i))) 1).slotDone)

-- ## The C slot (04 R97; 07 R174 to R176; 08 R192; 10 R223, R224; 16 R351; 17 R370 to R376, R380)

namespace Sys2Proof.Machine

/-- LDV, LDV.Z, STV, SCFG and SADV complete: 512 bytes or one 32-byte record at ga plus the scaled offset, on a range that
passes every check; LDV.Z only through the core-local space, else an address fault; SADV moves a walk position within 0
to the walk's length (R97, R192, R351, R370, R375, R380). -/
def VectorMemoryCompletes : Prop :=
  ∀ (p v g : Nat) (imm : BitVec 14) (s : State), Runs s p →
    let ea := addrOf (s.rd.readG g) imm 64
    let ra := addrOf (s.rd.readG g) imm 32
    (∀ r, s.range ea 512 64 true false false = .ok r →
      exec (.ldv p v g imm) s = .next (s.loadRange r .v (s.rd.physV v) (s.latencyOf 6 r) 8 false none).slotDone ∧
      (ea / 2 ^ 56 = 0xFE → exec (.ldvZ p v g imm) s = .next (s.loadRange r .v (s.rd.physV v) 10 0 true none).slotDone)) ∧
    (ea / 2 ^ 56 ≠ 0xFE → exec (.ldvZ p v g imm) s = .next (s.trapNow 4 s.iss.pos 9 0 ea)) ∧
    (∀ r, s.range ea 512 64 false true false = .ok r →
      exec (.stv p v g imm) s = .next (s.storeRange r (s.rd.readV v).toNat none).slotDone) ∧
    (∀ r, s.range ra 32 32 true false false = .ok r →
      exec (.scfg p v g imm) s = .next (s.loadRange r .a v (s.latencyOf 6 r) 1 false none).slotDone) ∧
    exec (.sadv p v g) s = .next (s.result .a v 0 (BitVec.ofInt 4096
      (max 0 (min (Int.ofNat (s.rd.readPos v) + (s.rd.readG g).toInt) (patTotal (s.rd.readA v).toNat)))) 1).slotDone

/-- Element size in bytes of a pattern, and whether it is out of range (R223, R375). -/
def elemBytes (a : Nat) : Nat := 2 ^ (a / 2 ^ 224 % 8)

def patRefused (a : Nat) : Prop := a / 2 ^ 224 % 8 = 7 ∨ a / 2 ^ 230 % 4 ≠ 0 ∨ a / 2 ^ 251 % 32 ≠ 0

/-- A use of a pattern moves its walk position on by the elements of 512 bytes, to the walk's length at most; `ind` where it reads
index words, whose rows count among those of the bundle (R160, R224). -/
def State.usePattern (s : State) (n : Nat) (ind : Bool) : State :=
  let a := (s.rd.readA n).toNat
  let s := s.setIss { s.iss with rows := s.iss.rows ++ (if ind then (s.uses n).map (fun e => patWord a e.2 / 64) else []) }
  s.upd (fun t => { t with apos := SMap.set 0 t.apos n (min (s.rd.readPos n + 512 / elemBytes a) (patTotal a)) })

/-- The elements of a use, checked, asked for as one vector value (R372): `rs` lists element and range. -/
def State.streamIn (s : State) (v n lat : Nat) (ind : Bool) (rs : List (Nat × Range)) : State :=
  let e := elemBytes (s.rd.readA n).toNat
  let far := rs.filter (fun q => !q.2.near)
  let lat := if far = [] then lat else s.latencyOf 0 ⟨false, far.flatMap (fun q => q.2.segs)⟩
  let w := ((s.usePattern n ind).pending .v (s.rd.physV v) lat (rs.map (fun q => (pieces q.2 false).length)).sum
    (if far = [] then 0 else 8) false).1
  w.accesses (rs.flatMap (fun q => (pieces q.2 false).map (fun x =>
    { s.req .ld q.2.near x.1 x.2.1 0 with tag := some s.arch.nextId, lo := 8 * (q.1 * e + x.2.2) })))

/-- Element `j` of a vector register, of `e` bytes. -/
def State.elem (s : State) (v e j : Nat) : Nat := (s.rd.readV v).toNat / 2 ^ (8 * e * j) % 2 ^ (8 * e)

/-- The elements of a use, checked, to be written; the elements of one use bear its number (R373). -/
def State.streamOut (s : State) (v n : Nat) (ind : Bool) (rs : List (Nat × Range)) : State :=
  let e := elemBytes (s.rd.readA n).toNat
  (s.usePattern n ind).accesses (rs.flatMap (fun q => (pieces q.2 true).map (fun x =>
    { s.req .st q.2.near x.1 x.2.1 (s.elem v e q.1 / 2 ^ (8 * x.2.2) % 2 ^ (8 * x.2.1)) with
      use := 8 * s.view.nextId + s.iss.pos + 1 })))

/-- The elements of a use, checked, to be updated by commutative atomics (R193, R374). -/
def State.streamAmo (s : State) (v n : Nat) (ind : Bool) (k : Amo) (rs : List (Nat × Range)) : State :=
  let e := elemBytes (s.rd.readA n).toNat
  (s.usePattern n ind).accesses (rs.map (fun q =>
    { s.req (.amo k) q.2.near q.2.pa e (s.elem v e q.1) with
      comm := true
      det := decide (k = .fadd) && s.rd.detm && (match s.view.place q.2.pa with | .stack _ _ => true | _ => false) }))

/-- SLD, SST, SGATH, SSCAT and SAMO complete: on a pattern whose elements in use pass their checks, with the loads, stores
or atomics of those elements, the walk moved on, SAMO while no more exact adds wait at a slice than its REQ class has room for, and else it
holds its bundle; SAMO on an element size its operation does not take only moves the walk; on a pattern out of range the loads give 0 and the others nothing (R195, R224, R372 to R375; log
entry 58). -/
def StreamsComplete : Prop :=
  ∀ (p v n : Nat) (s : State) (rs : List (Nat × Range)), Runs s p →
    let a := (s.rd.readA n).toNat
    let ind := a / 2 ^ 227 % 2 == 1
    let size := a / 2 ^ 224 % 8
    (patRefused a →
      exec (.sld p v n) s = .next (s.landV v full4096 0 6).slotDone ∧
      exec (.sgath p v n) s = .next (s.landV v full4096 0 12).slotDone ∧ exec (.sst p v n) s = .next s.slotDone ∧
      exec (.sscat p v n) s = .next s.slotDone ∧ ∀ op, exec (.samo p v n op) s = .next s.slotDone) ∧
    (¬ patRefused a →
      (s.elements a false true false (s.uses n) none [] = .ok rs →
        exec (.sld p v n) s = .next (s.streamIn v n 6 false rs).slotDone) ∧
      (s.elements a ind true false (s.uses n) none [] = .ok rs →
        exec (.sgath p v n) s = .next (s.streamIn v n 12 ind rs).slotDone) ∧
      (s.elements a false false true (s.uses n) none [] = .ok rs →
        exec (.sst p v n) s = .next (s.streamOut v n false rs).slotDone) ∧
      (s.elements a ind false true (s.uses n) none [] = .ok rs →
        exec (.sscat p v n) s = .next (s.streamOut v n ind rs).slotDone) ∧
      (∀ (op : Nat) (k : Amo), (op, k) ∈ [(0, Amo.add), (1, .fadd), (2, .max), (3, .min)] →
        (size ≠ 2 → (size ≠ 3 ∨ op = 1) → exec (.samo p v n op) s = .next (s.usePattern n false).slotDone) ∧
        (size = 2 ∨ (size = 3 ∧ op ≠ 1) → (∀ b, (s.view.brick b).detq.length ≤ Config.requestRoom) → s.elements a ind true true (s.uses n) none [] = .ok rs →
          exec (.samo p v n op) s = .next (s.streamAmo v n ind k rs).slotDone) ∧
        (size = 2 ∨ (size = 3 ∧ op ≠ 1) → s.elements a ind true true (s.uses n) none [] = .ok rs →
          (∃ q ∈ rs, ∃ b o, s.view.place q.2.pa = .stack b o ∧ Config.requestRoom < (s.view.brick b).detq.length) →
          exec (.samo p v n op) s = .next (s.setIss { s.iss with held := some (s.iss.held.getD .request) }).slotDone)))

/-- A walk visits its elements with dimension 0 fastest: position p is i0 + n0 (i1 + n1 (i2 + n2 i3)) with every index in
its count, and the element lies at the base plus the indices times the signed strides (R223, R371). -/
def PatternWalks : Prop :=
  ∀ (a p : Nat), p < patTotal a →
    let cnt (d : Nat) : Nat := a / 2 ^ (64 + 16 * d) % 2 ^ 16 + 1
    let str (d : Nat) : Int := (BitVec.ofNat 24 (a / 2 ^ (128 + 24 * d))).toInt
    patTotal a = cnt 0 * cnt 1 * cnt 2 * cnt 3 ∧ ∃ i : Nat → Nat, (∀ d, d < 4 → i d < cnt d) ∧
      p = i 0 + cnt 0 * (i 1 + cnt 1 * (i 2 + cnt 2 * i 3)) ∧
      ∀ base, patAddr a p base none = base + i 0 * str 0 + i 1 * str 1 + i 2 * str 2 + i 3 * str 3

end Sys2Proof.Machine

/-- Stream loads, stores and atomics complete on the elements that their patterns visit (R223, R224, R371 to R375). -/
def Obligations.StreamsAndPatterns : Prop := StreamsComplete ∧ PatternWalks

namespace Sys2Proof.Machine

/-- STASHT completes: TOUCH asks for a fill for ownership of an entry without one; WB and WBINV take their place among the
bundle's accesses; at an address of no stash window it does nothing (R176, R243, R376). -/
def StashTouchCompletes : Prop :=
  ∀ (p g op : Nat) (imm : BitVec 14) (s : State), Runs s p → op < 3 →
    let ea := addrOf (s.rd.readG g) imm 128
    let k := s.view.core s.iss.core
    (ea / 2 ^ 56 = 0 ∨ ea / 2 ^ 56 = 0xFE → k.entryAt ea = none → exec (.stasht p g imm op) s = .next s.slotDone) ∧
    (∀ key, ea / 2 ^ 56 = 0 → k.entryAt ea = some key →
      let st := SMap.get StashState.invalid (s.arch.core s.iss.core).stash key
      (op = 0 → st = .owned ∨ st = .dirty → exec (.stasht p g imm op) s = .next s.slotDone) ∧
      (op = 0 → st = .invalid ∨ st = .shared → ∀ pa b o, s.view.xlate s.iss.core s.iss.ctx (ea / 128 * 128) false true = .phys pa →
        s.view.place pa = .stack b o →
        exec (.stasht p g imm op) s = .next (s.setArch (s.arch.askFill s.iss.core key pa true true)).slotDone) ∧
      (op ≠ 0 → exec (.stasht p g imm op) s =
        .next (s.access (s.req (.stashBack (op == 2)) true (s.view.spadPa s.iss.core (key * 128)) 128 0)).slotDone))

/-- What STASHT.WB and STASHT.WBINV do at their entry, in its turn: WB writes a DIRTY entry back and leaves it OWNED, WBINV leaves
any entry INVALID, and a write-back carries the entry's line and its 128 bytes (R176, R376). -/
def StashWriteBacksAct : Prop :=
  ∀ (a : Arch) (r : Req) (c o b : Nat) (inv : Bool), a.place r.pa = .spad c o → r.near = true → r.op = .stashBack inv →
    SMap.get none (a.core c).window (o / 0x8000) = some b →
    let key := o / 128
    let st := SMap.get StashState.invalid (a.core c).stash key
    ∃ t, a.performAt r = .done t 0 ∧ t.mem = a.mem ∧
      (∀ c' j, SMap.get StashState.invalid (t.core c').stash j =
        if c' ≠ c ∨ j ≠ key then SMap.get .invalid (a.core c').stash j
        else if inv then .invalid else if st = .dirty then .owned else st) ∧
      (st ≠ .dirty → t.writeBacks = a.writeBacks) ∧
      (st = .dirty → ∃ w, t.writeBacks = a.writeBacks ++ [⟨r.id, c, r.ctx, SMap.get 0 (a.core c).stashLine key * 128,
        Memory.readBytes a.mem (a.spadPa c (key * 128)) 128, w⟩])

end Sys2Proof.Machine

/-- LDV, LDV.Z, STV, SCFG, SADV and STASHT complete (R97, R176, R192, R351, R370, R375, R376, R380). -/
def Obligations.VectorMemoryAndStash : Prop := VectorMemoryCompletes ∧ StashTouchCompletes ∧ StashWriteBacksAct

-- ## The X slot (05 R120 to R123, R129; 08 R187, R192; 19 R416 to R420)

namespace Sys2Proof.Machine

/-- Field `i` of `w` bits of a register. -/
def fieldAt (r : VReg) (w i : Nat) : BitVec w := r.extractLsb' (w * i) w

/-- XEXP, XPAK, XTRN and XCVT complete with a full register: a packed block expanded, a register packed (as R192 and R187
give it), eight rows transposed, and lanes converted with zeros above (R417 to R420). -/
def TransformsComplete : Prop :=
  ∀ (p d a : Nat) (s : State), Runs s p →
    let full (v : VReg) (lat : Nat) := (s.result .v (s.rd.physV d) full4096 v lat).slotDone
    exec (.xexp p d a) s = .next (full (BitVec.ofNat 4096 (expandBlock (s.rd.readV a).toNat)) 12) ∧
    exec (.xpak p d a) s = .next (full (BitVec.ofNat 4096 (packBlock (s.rd.readV a).toNat)) 16) ∧
    (∀ e, e < 4 → ∃ v, exec (.xtrn p d a e) s = .next (full v 8) ∧
      let w := [8, 16, 32, 4].getD e 8
      let c := 512 / w
      ∀ i j, i < c → j < 8 → fieldAt v w (i * 8 + j) = fieldAt (s.rd.readV a) w (j * c + i)) ∧
    (∀ src dst rm, src < 3 → dst < 3 → src ≠ dst → rm < 4 → ∃ v, exec (.xcvt p d a src dst rm) s = .next (full v 4) ∧
      let st := [VType.f32, .bf16, .f16].getD src .f16
      let dt := [VType.f32, .bf16, .f16].getD dst .f16
      ∀ i, i < dt.lanes → laneAt dt v i = if i < st.lanes then dt.rounded rm (st.flt (s.laneV st a i)) else 0)

/-- XQNT completes with the blocks of 32 lanes quantized to BX, each with its exponent in the register form; XDQN with
the values of a register form; XACC with a row of accumulators converted, rows past the last giving 0 (R122, R123, R129,
R416, R418). -/
def QuantizersComplete : Prop :=
  ∀ (p d a w : Nat) (s : State), Runs s p → w < 7 →
    let one (t : State) (v : VReg) (lat : Nat) : Prop := t.iss = s.iss ∧ t.arch.mem = s.arch.mem ∧
      t.cur.inflight = s.cur.inflight ++ [⟨.v, s.rd.physV d, full4096, v, 0, s.cur.time + lat, s.cur.ord, 0, 0, false⟩]
    let W := w + 2
    (∀ src, src < 3 → ∃ (t : State) (v : VReg), exec (.xqnt p d a w src) s = .next t.slotDone ∧ one t v 8 ∧
      let st := [VType.f32, .bf16, .f16].getD src .f16
      ∀ b, b < st.lanes / 32 →
        let q := quantizeBX W ((List.range 32).map (fun i => st.flt (s.laneV st a (32 * b + i))))
        (v.extractLsb' (4032 + 8 * b) 8).toNat = q.1 ∧
        ∀ i, i < 32 → fieldAt v W (32 * b + i) = BitVec.ofInt W (q.2.1.getD i 0)) ∧
    (∀ dst rm, dst < 3 → rm < 4 → (dst = 0 → rm = 0) → ∃ v : VReg,
      exec (.xdqn p d a w dst rm) s = .next (s.result .v (s.rd.physV d) full4096 v 4).slotDone ∧
      let dt := [VType.f32, .bf16, .f16].getD dst .f16
      ∀ i, i < dt.lanes → laneAt dt v i = dt.rounded rm (bxValue W
        ((s.rd.readV a).extractLsb' (4032 + 8 * (i / 32)) 8).toNat (fieldAt (s.rd.readV a) W i).toInt)) ∧
    (∀ i ty rm, (Instr.xacc p d i ty rm).wf = true → ∃ (t : State) (v : VReg),
      exec (.xacc p d i ty rm) s = .next t.slotDone ∧ one t v 6 ∧
      let m := s.rd.readM i
      let row := m.toNat % 2 ^ 12
      let X := (m.extractLsb' 32 11).toInt
      let ot := VType.ofCode ty
      ∀ n, n < ot.lanes → laneAt ot v n = if 2559 < row + n / 64 then 0 else
        let acc := (SMap.get (0 : Word) (s.view.core s.iss.core).engine.acc ((row + n / 64) * 64 + n % 64)).toInt
        if ot.isF then BitVec.ofNat ot.width (accToFloat (fmtOf ot) rm acc X).1
        else BitVec.ofInt ot.width (max ot.lo (min (roundInt rm (acc < 0) acc.natAbs (-X)) ot.hi)))

end Sys2Proof.Machine

/-- The X slot completes: XEXP, XPAK, XTRN, XCVT, XQNT, XDQN and XACC (R122, R123, R129, R187, R192, R416 to R420). -/
def Obligations.TransformsAndQuantizers : Prop := TransformsComplete ∧ QuantizersComplete

-- ## The M slot and the micro-ops (06 R139 to R154, R424; 17 R360 to R366)

namespace Sys2Proof.Machine

/-- An M slot has done its effect: MPC moves to the next word, unless an MTS of the bundle wrote it (R72, R153). -/
def State.mDone (s : State) : State :=
  if s.iss.mpcSet then s.slotDone else (s.upd (fun t => { t with mpc := t.mpc + 1 })).slotDone

end Sys2Proof.Machine

/-- MCALL, MPLOAD and MDRAIN complete with their command, its copies taken now, at the end of the core's queue while the
context has fewer than 8, and else hold their bundle; MPAR sets a parameter and MSTAT reads and clears the status, but for what the
engine has set at the same time; a guarded-off one only moves MPC (R6, R72, R141, R150 to R153, R360 to R364). -/
def Obligations.MSlotsComplete : Prop :=
  ∀ (p n g : Nat) (s : State), s.iss.trapped = false →
    let e := (s.view.core s.iss.core).engine
    let mine := (e.queue.filter (fun q => q.side == s.iss.ctx)).length +
      (if e.run.any (fun r => r.cmd.side == s.iss.ctx) then 1 else 0)
    let cmd (kind : CmdKind) (n : Nat) : Cmd := ⟨kind, s.iss.ctx, s.iss.ctx, n, if g = 0 then none else some (s.rd.readG g),
      BitVec.ofNat 32 (Memory.read (s.view.core s.iss.core).imem (4 * s.rd.mpc.toNat) 4), s.rd.bt, s.rd.m, s.rd.a, s.rd.apos,
      s.rd.asid, s.view.nextId⟩
    let sent (q : Cmd) : State := (s.setArch (s.arch.mapCore s.iss.core (fun k =>
      { k with engine := { k.engine with queue := k.engine.queue ++ [q] } }))).mDone
    let held : State := (s.setIss { s.iss with held := some (s.iss.held.getD .engineQueue) }).slotDone
    (s.guard p = true → mine < 8 → exec (.mcall p n g) s = .next (sent (cmd .call n)) ∧
      exec (.mpload p n g) s = .next (sent (cmd .load n)) ∧ exec (.mdrain p g) s = .next (sent (cmd .drain 0))) ∧
    (s.guard p = true → 8 ≤ mine → exec (.mcall p n g) s = .next held ∧ exec (.mpload p n g) s = .next held ∧
      exec (.mdrain p g) s = .next held) ∧
    (s.guard p = true → exec (.mpar p n g) s = .next (s.result .m n full4096 ((s.rd.readG g).setWidth 4096) 1).mDone) ∧
    (∀ v, s.guard p = true → (s.arch.raced = [] ∧ v = 0) ∨ s.arch.raced = [.load s.iss.core s.iss.ctx v] →
      ∃ t : State, exec (.mstat p g) s = .next ((t.landG g (BitVec.ofNat 64 (e.status s.iss.ctx)) 2).mDone) ∧
      t.iss = s.iss ∧ t.arch.mem = s.arch.mem ∧
      ∀ x, (t.arch.core s.iss.core).engine.statOf x = if x = s.iss.ctx
        then ⟨0, 0, v, ((s.arch.core s.iss.core).engine.statOf x).done⟩ else (s.arch.core s.iss.core).engine.statOf x) ∧
    (s.guard p = false → exec (.mcall p n g) s = .next s.mDone ∧ exec (.mpload p n g) s = .next s.mDone ∧
      exec (.mdrain p g) s = .next s.mDone ∧ exec (.mpar p n g) s = .next s.mDone ∧ exec (.mstat p g) s = .next s.mDone)

namespace Sys2Proof.Machine

/-- The call that runs on the engine of the core the cursor names. -/
def State.runs (s : State) (r : Call) : Prop := (s.arch.core s.iss.core).engine.run = some r

/-- The running call goes on as `r`, in the module `a`. -/
def State.goes (s : State) (a : Arch) (r : Call) : State :=
  s.setArch (a.mapCore s.iss.core (fun k => { k with engine := { k.engine with run := some r } }))

/-- Parameter `i` of the call's private copies. -/
def Call.parm (r : Call) (i : Nat) : Word := SMap.get 0 r.cmd.m i

def Call.setParm (r : Call) (i : Nat) (x : Word) : Call := { r with cmd := { r.cmd with m := SMap.set 0 r.cmd.m i x } }

/-- The control micro-ops complete on a running call: loops repeat their bodies, a count of 0 skips one, the last MXEND
ends the call and counts it in DONE, MXSKIP turns masking on, MXPAR copies and MXADDP adds to a parameter, and MXSYNC goes
on (R145 to R147, R153, R366). -/
def ControlMicroOps : Prop :=
  ∀ (s : State) (r : Call) (i j n : Nat) (imm : BitVec 24), s.runs r →
    let on (r : Call) : Call := { r with pos := r.pos + 1 }
    (0 < n → exec (.mxloopImm n) s = .next (s.goes s.arch { on r with loops := (r.pos + 1, n) :: r.loops })) ∧
    (0 < (r.parm i).toNat % 2 ^ 16 → exec (.mxloopReg i) s =
      .next (s.goes s.arch { on r with loops := (r.pos + 1, (r.parm i).toNat % 2 ^ 16) :: r.loops })) ∧
    ((r.parm i).toNat % 2 ^ 16 = 0 → exec (.mxloopReg i) s =
      .next (s.goes s.arch { r with pos := skipBody (r.pos + 1) 0 (r.code.drop (r.pos + 1)) })) ∧
    (∀ start k ls, r.loops = (start, k) :: ls → exec .mxend s =
      .next (s.goes s.arch (if 1 < k then { r with pos := start, loops := (start, k - 1) :: ls } else { on r with loops := ls }))) ∧
    (r.loops = [] → ∃ t : State, exec .mxend s = .next t ∧ (t.arch.core s.iss.core).engine.run = none ∧ t.arch.mem = s.arch.mem ∧
      ((t.arch.core s.iss.core).engine.statOf r.cmd.side).done = ((s.arch.core s.iss.core).engine.statOf r.cmd.side).done + 1) ∧
    exec .mxskip s = .next (s.goes s.arch { on r with skip := true }) ∧
    exec (.mxpar i j) s = .next (s.goes s.arch (on (r.setParm i (r.parm j)))) ∧
    exec (.mxaddp i imm) s = .next (s.goes s.arch (on (r.setParm i (r.parm i + imm.signExtend 64)))) ∧
    exec .mxsync s = .next (s.goes s.arch (on r))

/-- MXCLR, MXWAITB and MXARR complete: rows of accumulators cleared and counted on; a barrier object on which nobody is parked waited
for, unless its turn has been observed since, or arrived at; a call without one going on at once, and one that is no object of the
scratchpad stopping the call with BARRIER. A read that the window rule stalls waits and is counted (R145, R152, R168 to R170, R253,
R255). -/
def ClearAndBarrierMicroOps : Prop :=
  ∀ (s : State) (r : Call) (i rows o : Nat), s.runs r →
    let c := s.iss.core
    let on (r : Call) : Call := { r with pos := r.pos + 1 }
    let row := (r.parm i).toNat % 2 ^ 12
    let obj (ga : Word) : Prop := r.cmd.ga = some ga ∧ ga.toNat / 8 * 8 = 0xFE00000000000000 + o ∧ o + 8 ≤ 0x60000 ∧
      SMap.get none (s.arch.core c).window (o / 0x8000) = none ∧
      s.arch.touchable c r.cmd.ctx (o / 0x8000)
    (row + rows + 1 ≤ 2560 → ∃ t : State, exec (.mxclr i rows) s = .next t ∧ t.arch.mem = s.arch.mem ∧
      t.runs (on (r.setParm i (r.parm i + BitVec.ofNat 64 (rows + 1)))) ∧
      ∀ k, SMap.get 0 (t.arch.core c).engine.acc k =
        if row * 64 ≤ k ∧ k < (row + rows + 1) * 64 then 0 else SMap.get 0 (s.arch.core c).engine.acc k) ∧
    (2560 < row + rows + 1 → ∃ t : State, exec (.mxclr i rows) s = .next t ∧ (t.arch.core c).engine.run = none ∧
      (((s.arch.core c).engine.statOf r.cmd.side).err = 0 → ((t.arch.core c).engine.statOf r.cmd.side).err = 3)) ∧
    (r.cmd.ga = none → exec .mxwaitb s = .next (s.goes s.arch (on r)) ∧ exec .mxarr s = .next (s.goes s.arch (on r))) ∧
    (∀ ga, obj ga → (∀ q ∈ s.arch.reqs, q.st = .parked → q.pa / 8 ≠ s.arch.spadPa c o / 8) →
      let x := Memory.read s.arch.mem (s.arch.spadPa c o) 8
      let a := s.arch
      let late := a.nearStalls c o 8
      (late = false ∧ x / 2 ^ 63 % 2 ≠ ga.toNat % 2 ∨ r.sat = true → exec .mxwaitb s =
        .next (s.goes a { on r with got := [], part := (0, 0), sat := false })) ∧
      (late = false → x / 2 ^ 63 % 2 = ga.toNat % 2 → r.sat = false → exec .mxwaitb s = .next (s.setArch a)) ∧
      (late = true → r.sat = false → exec .mxwaitb s = .next (s.setArch (a.noteStretch (c / 32) (a.window + 1)))) ∧
      (late = true → exec .mxarr s = .next (s.setArch (a.noteStretch (c / 32) (a.window + 1)))) ∧
      (late = false → ∃ t : State, exec .mxarr s = .next t ∧ t.runs (on r) ∧
        t.arch.mem = Memory.write s.arch.mem (s.arch.spadPa c o) 8 (barArrive x))) ∧
    (∀ ga, r.cmd.ga = some ga → barOperand ga = none → ∃ t : State, exec .mxarr s = .next t ∧
      (t.arch.core c).engine.run = none ∧
      (((s.arch.core c).engine.statOf r.cmd.side).err = 0 → ((t.arch.core c).engine.statOf r.cmd.side).err = 10))

end Sys2Proof.Machine

/-- Loops, parameters, masking, clearing and barriers of a routine (R145 to R147, R152, R153, R168 to R170, R366). -/
def Obligations.ControlAndBarrierMicroOps : Prop := ControlMicroOps ∧ ClearAndBarrierMicroOps

namespace Sys2Proof.Machine

/-- MXLDB completes where its bytes can be fetched: consecutive macros take a plane image each, the first plane with its
exponents, and the descriptor moves past them (R140, R142). -/
def LoadPlanesMicroOp : Prop :=
  ∀ (s : State) (r : Call) (i first count plane x : Nat) (a : Arch), s.runs r →
    let d := (r.parm i).toNat
    let slot := d % 8 + plane
    let size := if plane = 0 then 4224 else 4096
    let q (n : Nat) : Nat := (first + n) * 8 + slot
    d / 8 % 8 = 0 → slot < 8 → s.arch.engineFetch s.iss.core r.cmd (d / 64 * 64) (size * (count + 1)) = .ok a x →
    ∃ t : State, exec (.mxldb i first count plane) s = .next t ∧
      t.runs { r.setParm i (r.parm i + BitVec.ofNat 64 (size * (count + 1))) with pos := r.pos + 1 } ∧
      (∀ n b, n ≤ count → b < 4096 → Memory.byte (t.arch.core s.iss.core).engine.planes (q n * 4096 + b) =
        BitVec.ofNat 8 (x / 2 ^ (8 * (size * n + b)))) ∧
      (∀ n b, n ≤ count → b < 128 → plane = 0 → Memory.byte (t.arch.core s.iss.core).engine.exps (q n * 128 + b) =
        BitVec.ofNat 8 (x / 2 ^ (8 * (4224 * n + 4096 + b)))) ∧
      (∀ k, (∀ n, n ≤ count → k / 4096 ≠ q n) → Memory.byte (t.arch.core s.iss.core).engine.planes k =
        Memory.byte (a.core s.iss.core).engine.planes k)

/-- MXSTREAM and MXSTREAM.S complete where the bytes of the blocks they have not fetched yet can be fetched: their blocks join the row
buffer, masked ones as blocks that place nothing and are not fetched, and the stream stands after the last block (R143, R153, R154).
What is added to a descriptor is added to the whole of it, also where masked blocks carry an offset past its field (log entry 63). -/
def StreamMicroOps : Prop :=
  ∀ (s : State) (r : Call) (i w blocks : Nat) (M E X : Nat → Nat), s.runs r → w < 7 → r.row.length + blocks + 1 ≤ 256 →
    r.got.length ≤ blocks + 1 →
    let g := r.got.length
    let c := s.iss.core
    let a := s.arch
    let d := (r.parm i).toNat
    let W := w + 2
    let L := 4 * W + 1
    let n := blocks + 1
    let mo := d % 2 ^ 19
    let eo := d / 2 ^ 32 % 2 ^ 19
    let masked (j : Nat) : Bool := r.skip && r.cmd.mask.getLsbD (j % 32)
    let pat := (SMap.get (0 : BitVec 256) r.cmd.a i).toNat
    let e := elemBytes pat
    let at_ := if r.got = [] then (SMap.get 0 r.cmd.apos i, SMap.get 0 r.offs i) else r.part
    let B (j : Nat) := at_.1 * e + at_.2 + (j - g) * L
    let parts (j : Nat) := (takeBytes e (B j / e) (B j % e) L (L + 1)).1
    (d / 2 ^ 19 % 2 ^ 13 = 0 → d / 2 ^ 51 = 0 →
      (∀ j, g ≤ j → j < n → masked j = false → mo + 4 * W * (j + 1) ≤ 0x60000 ∧ eo + j + 1 ≤ 0x60000 ∧ M j < 2 ^ (32 * W) ∧ E j < 256 ∧
        a.engineFetch c r.cmd (0xFE00000000000000 + (mo + 4 * W * j)) (4 * W) = .ok a (M j) ∧
        a.engineFetch c r.cmd (0xFE00000000000000 + (eo + j)) 1 = .ok a (E j)) →
      exec (.mxstream i w blocks) s = .next (s.goes a
        { r.setParm i (r.parm i + BitVec.ofNat 64 (4 * W * n + 2 ^ 32 * n)) with
          pos := r.pos + 1, got := [], part := (0, 0), sat := false
          row := r.row ++ r.got ++ ((List.range n).drop g).map (fun j => if masked j then ⟨0, 0, W, true⟩ else ⟨M j, E j, W, false⟩) })) ∧
    (¬ patRefused pat → at_.2 < e →
      (∀ j, g ≤ j → j < n → masked j = false → (∀ q ∈ parts j, q.1 < patTotal pat) ∧
        a.fetchParts c r.cmd pat (parts j) 0 0 = .ok a (X j)) →
      exec (.mxstreamS i w blocks) s = .next (s.goes a
        { r with
          pos := r.pos + 1, got := [], part := (0, 0), sat := false
          cmd := { r.cmd with apos := SMap.set 0 r.cmd.apos i (B n / e) }
          offs := SMap.set 0 r.offs i (B n % e)
          row := r.row ++ r.got ++ ((List.range n).drop g).map (fun j => if masked j then ⟨0, 0, W, true⟩
            else ⟨X j % 2 ^ (32 * W), X j / 2 ^ (32 * W) % 256, W, false⟩) }))

end Sys2Proof.Machine

/-- MXLDB, MXSTREAM and MXSTREAM.S complete where their bytes can be fetched (R140, R142, R143, R153, R154; log entry 63). -/
def Obligations.FetchMicroOps : Prop := LoadPlanesMicroOp ∧ StreamMicroOps

/-- MXACC completes on a valid descriptor and enough blocks: every output column gains its sum of placed products by the
accumulator rule, no other accumulator changes, the blocks are consumed and the descriptor moves on (R128, R139, R144,
R145, R424). -/
def Obligations.AccumulateMicroOp : Prop :=
  ∀ (s : State) (r : Call) (i first count : Nat), s.runs r →
    let c := s.iss.core
    let d := (r.parm i).toNat
    let row := d % 2 ^ 12
    let F := 2 ^ (d / 2 ^ 12 % 8)
    let planes := d / 2 ^ 15 % 4
    let slot := d / 2 ^ 17 % 8
    let wb := d / 2 ^ 20 % 8
    let X := ((r.parm i).extractLsb' 32 11).toInt
    let n := count + 1
    let rows := (32 * n + 64 * F - 1) / (64 * F)
    let e := (s.arch.core c).engine
    row < 2560 → d / 2 ^ 12 % 8 < 7 → planes < 3 → wb < 7 → d / 2 ^ 23 % 2 ^ 9 = 0 → d / 2 ^ 43 = 0 → n % F = 0 →
    slot + planes < 8 → (∀ y, r.anchor = some y → y.toInt = X) → 4 * F ≤ r.row.length → row + rows ≤ 2560 →
    r.rows + rows ≤ 2048 →
    ∃ (t : State) (r' : Call), exec (.mxacc i first count) s = .next t ∧ t.runs r' ∧ r'.pos = r.pos + 1 ∧
      r'.row = r.row.drop (4 * F) ∧ r'.rows = r.rows + rows ∧ r'.pass = r.pass + 1 ∧ r'.anchor = some (BitVec.ofInt 11 X) ∧
      r'.parm i = r.parm i + BitVec.ofNat 64 rows ∧ t.arch.mem = s.arch.mem ∧
      (∀ k, k < 32 * n / F → (SMap.get 0 (t.arch.core c).engine.acc (row * 64 + k)).toInt =
        (accAdd (SMap.get 0 e.acc (row * 64 + k)).toInt (e.term first F slot planes wb k X (r.row.take (4 * F))).1).1) ∧
      (∀ k, k < row * 64 ∨ row * 64 + 32 * n / F ≤ k →
        SMap.get 0 (t.arch.core c).engine.acc k = SMap.get 0 e.acc k)

-- ## Holds, waits and the engine's steps (02 R43; 03 R62 to R66; 05 R135, R136; 06 R149 to R151, R156; 07 R164 to R166, R169, R172; 08 R195; 10 R232; 11 R244 to R248; 18 R383; 19 R415)

namespace Sys2Proof.Machine

/-- A step of another agent that changes one context only. -/
def ChangesContext (i : Instr) (s : State) (c x : Nat) (f : Context → Context) : Prop :=
  exec i s = .next (s.setArch (s.arch.mapCtx c x f))

end Sys2Proof.Machine

/-- Each hold and each wait of a context ends by its own step once its condition holds: landing entries below 3,072, a
watermark passed, acquires performed, room in the engine queue; accesses drained, groups free and their last owner done with them, a
counter reached, events
present, room in the dispatcher queue, a barrier seen to turn (R63, R150, R172, R232, R245, R248, R262, R383, R415; log entry 78). -/
def Obligations.HoldsAndWaitsEnd : Prop :=
  ∀ (c x : Nat) (s : State) (w : Wait),
    let t := s.arch.ctx c x
    let k := s.arch.core c
    let unhold (t : Context) : Context := { t with hold := none }
    let unwait (t : Context) : Context := { t with wait := none }
    let older (r : Req) : Prop := r.core = c ∧ r.ctx = x ∧ r.id < w.req ∧ r.st ≠ .withdrawn
    let olderBack (b : WriteBack) : Prop := b.core = c ∧ b.ctx = x ∧ b.id < w.req
    let closed (n : Nat) : Prop := n = 0 ∨ (n + 1) * 2 ^ s.arch.time.wlog2.toNat ≤ s.arch.now
    let waits (kind : WaitKind) : Prop := t.status = .running ∧ t.wait = some w ∧ w.kind = kind
    (t.hold = some .landingBuffer → k.landing < 3072 → ChangesContext (.landingBufferRelease c x) s c x unhold) ∧
    (∀ va len, t.hold = some (.watermark va len) → watermark t.chans va len ≠ .hold →
      ChangesContext (.watermarkRelease c x) s c x unhold) ∧
    (t.hold = some .acquire → t.acqs = [] → ChangesContext (.acquireHoldRelease c x) s c x unhold) ∧
    (t.hold = some .engineQueue → k.engine.commands x < 8 → ChangesContext (.mQueueRoom c x) s c x unhold) ∧
    (waits .drain → w.operand < 4 → (∀ r ∈ s.arch.reqs, ¬ older r) →
      (∀ b ∈ s.arch.writeBacks, ¬ olderBack b) → ChangesContext (.drainComplete c x) s c x unwait) ∧
    (waits .drain → w.operand = 4 → (∀ r ∈ s.arch.reqs, older r → r.early = false → ∃ n, r.win = some n ∧ closed n) →
      (∀ b ∈ s.arch.writeBacks, olderBack b → ∃ n, b.win = some n ∧ closed n) → closed w.addr → ChangesContext (.drainComplete c x) s c x unwait) ∧
    (waits .tlwait → w.operand ≤ (t.readTl w.addr).toNat → ChangesContext (.tlwaitRelease c x) s c x unwait) ∧
    (waits .opgo → (∀ q ∈ s.arch.opq.drop 256, ∀ d y n, q.src = some (d, y, n) → ¬ (d = c ∧ y = x)) → ChangesContext (.opgoQueueRoom c x) s c x unwait) ∧
    (waits .barwait → w.sat = true → exec (.barwaitRelease c x) s = .next (s.setArch (Arch.mapCtx
      { s.arch with reqs := s.arch.reqs.filter (fun (r : Req) => r.id != w.req) } c x
      (fun t => { t with wait := none, acqs := t.acqs.filter (fun e => e.1 != w.req) })))) ∧
    (waits .waitev → 8 ≤ t.ring.evsize.toNat → t.ring.evsize.toNat ≤ 20 → w.operand ≤ (t.ring.evhead - t.ring.evtail).toNat →
      ChangesContext (.waitevRelease c x) s c x
        (fun t => { t.fill w.req 0 (t.ring.evhead - t.ring.evtail).toNat with wait := none })) ∧
    (let take := (∀ g, g < 12 → w.operand.testBit g = true → s.arch.acquirable c x g) ∧ ¬ s.arch.leavesToA c x w.operand
     (waits .bankacq → ¬ take → exec (.bankacqGrant c x) s = .next s) ∧
     (waits .bankacq → take → ∃ u : State, exec (.bankacqGrant c x) s = .next u ∧ (u.arch.ctx c x).wait = none ∧ ∀ g, g < 12 →
        SMap.get Owner.free (u.arch.core c).owner g = if w.operand.testBit g then ownerOf x else SMap.get Owner.free k.owner g))

namespace Sys2Proof.Machine

/-- An access in flight that nothing holds back is performed at its home, a write to another die once it has left its own in a
window (R252), and so are the oldest ready waiter of a core's
banks, an exact add for which an accumulator is free, and an access whose result is due; a parked waiter of another core that its
row refuses is sent again, its row and not a time saying when (R62, R164, R165, R178, R195, R244, R252; log entry 9). An access that has
joined again since its translation was named is translated first (R166, R205), and at a core whose clock is stopped nothing lands and no
waiter is served (R328). -/
def AccessesActAtHome : Prop :=
  ∀ (id c b i : Nat) (r : Req) (rest : List Nat) (s : State),
    let a := s.arch
    let performs (i : Instr) : Prop := exec i s = .next (s.setArch (a.performReq r))
    let found : Prop := a.reqs.find? (fun q => q.id == id) = some r
    let known : Prop := r.named = false ∨ r.leaf.isSome = true
    (found → r.st = .flight → ¬ known → exec (.remoteAccess id) s = .next (s.setArch (a.retranslate r))) ∧
    (found → r.st = .flight → known → a.leaves r = false → a.blocked r = false → performs (.remoteAccess id)) ∧
    (found → r.st = .flight → known → a.leaves r = false → a.blocked r = true →
      exec (.remoteAccess id) s = .next (s.setArch (a.noteBlocked r))) ∧
    (found → r.st = .flight → known → a.leaves r = true → exec (.remoteAccess id) s = .next (s.setArch { a with
      reqs := a.reqs.map (fun q => if q.id = id then { q with win := some (a.window + 1) } else q) })) ∧
    (found → r.st = .flight → known → a.leaves r = false → a.blocked r = false → (a.core r.core).stopped = false →
      (a.ctx r.core r.ctx).inflight.any (fun p => some p.tag == r.tag && p.parts != 0 &&
        decide (p.due ≤ (a.ctx r.core r.ctx).time)) = true →
      exec (.lateDataArrive id) s = .next (s.setArch ((a.performReq r).mapCtx r.core r.ctx Context.settle))) ∧
    (found → (a.core r.core).stopped = true → exec (.lateDataArrive id) s = .next s) ∧
    ((a.core c).stopped = true → exec (.feWaiterServed c) s = .next s ∧ exec (.feWaiterRefuse c i) s = .next s) ∧
    ((a.core c).parked = id :: rest → (a.core c).stopped = false →
      a.reqs.find? (fun q => q.id == id && q.st == .parked && a.waiterReady q) = some r → performs (.feWaiterServed c)) ∧
    ((a.brick b).detq = id :: rest → found → r.id = id → (a.brick b).dets.length < 4096 → performs (.detAddPerform b)) ∧
    ((a.core c).parked[i]? = some id → (a.core c).stopped = false → found → r.st = .parked → r.core ≠ c → ∃ t : State,
      exec (.feWaiterRefuse c i) s = .next t ∧ t.arch.mem = a.mem ∧ id ∉ (t.arch.core c).parked ∧
      t.arch.reqs = a.reqs.map (fun q => if q.id = id then { q with st := .refused } else q)) ∧
    exec (.feWaiterRetry id) s = .next (s.setArch { a with
      reqs := a.reqs.map (fun q => if q.id = id ∧ q.st = .refused then { q with st := .flight } else q) })

/-- An access performed leaves the list of accesses under way, and its value joins the result that waits for it, at the
bits its data starts at (R62, R242). -/
def PerformedAccessAnswers : Prop :=
  ∀ (id v g : Nat) (r : Req) (a : Arch) (s : State) (p : Pend), s.arch.reqs.find? (fun q => q.id == id) = some r →
    r.st = .flight → r.named = false ∨ r.leaf.isSome = true → s.arch.leaves r = false → s.arch.blocked r = false →
    s.arch.performAt r = .done a v → r.tag = some g →
    a.ctx r.core r.ctx = s.arch.ctx r.core r.ctx →
    p ∈ (s.arch.ctx r.core r.ctx).inflight → p.tag = g → p.parts ≠ 0 →
    ∃ t : State, exec (.remoteAccess id) s = .next t ∧ t.arch.mem = a.mem ∧ (∀ q ∈ t.arch.reqs, q.id ≠ id) ∧
      { p with val := p.val ||| BitVec.ofNat 4096 (v * 2 ^ r.lo), parts := p.parts - 1 } ∈ (t.arch.ctx r.core r.ctx).inflight

end Sys2Proof.Machine

/-- Accesses that nothing holds back are performed at their home and answer (R62, R164, R165, R178, R195, R242, R244). -/
def Obligations.AccessesArePerformed : Prop := AccessesActAtHome ∧ PerformedAccessAnswers

namespace Sys2Proof.Machine

/-- The head command of an idle engine acts in its place: a call starts its routine, or ends with NOROUTINE; MPLOAD installs
an image that passes the checks; MDRAIN arrives at its barrier, on which nobody is parked, once the window rule lets it read it; while
the core's clock is stopped none of them does anything; that MDRAIN asks for no ownership of the bank group is the model's choice
(R149, R151, R152, R253, R328; log entry 65). -/
def EngineCommandsAct : Prop :=
  ∀ (c n x : Nat) (cmd : Cmd) (rest : List Cmd) (s : State),
    let e := (s.arch.core c).engine
    let a := s.arch
    ((a.core c).stopped = true → exec (.mcallRun c) s = .next s ∧ exec (.mploadInstall c) s = .next s ∧
      exec (.mdrainArrive c) s = .next s) ∧
    ((a.core c).stopped = false → e.run = none → e.queue = cmd :: rest →
    (cmd.kind = .call → ∀ code, e.code cmd.routine = some code → ∃ t : State, exec (.mcallRun c) s = .next t ∧
      t.arch.mem = s.arch.mem ∧ (t.arch.core c).engine.queue = rest ∧ (t.arch.core c).engine.run =
        some ⟨cmd, code, 0, [], false, [], none, 0, 0, [], [], [], (0, 0), false⟩) ∧
    (cmd.kind = .call → e.code cmd.routine = none → ∃ t : State, exec (.mcallRun c) s = .next t ∧
      (t.arch.core c).engine.queue = rest ∧ (t.arch.core c).engine.run = none ∧
      ((t.arch.core c).engine.statOf cmd.side).done = (e.statOf cmd.side).done + 1 ∧
      ((e.statOf cmd.side).err = 0 → ((t.arch.core c).engine.statOf cmd.side).err = 1)) ∧
    (cmd.kind = .load → ∀ ga, cmd.ga = some ga → ga.toNat % 8 = 0 → ga.toNat / 2 ^ 56 = 0xFE → ga.toNat % 2 ^ 56 < 0x60000 →
      0 < n → n ≤ 4096 → a.engineFetch c cmd ga.toNat 8 = .ok a n →
      a.engineFetch c cmd (ga.toNat + 8) (4 * n) = .ok a x → imageOk 0 (toLanes 32 n x) = true →
      ((e.routines.filter (fun r => r.1 != cmd.routine)).map (fun r => r.2.length)).sum + n ≤ 4096 →
      ∃ t : State, exec (.mploadInstall c) s = .next t ∧ t.arch.mem = s.arch.mem ∧ (t.arch.core c).engine.queue = rest ∧
        SMap.get [] (t.arch.core c).engine.routines cmd.routine = toLanes 32 n x ∧
        ((t.arch.core c).engine.statOf cmd.side).load = 1) ∧
    (cmd.kind = .drain → ∀ o, (∀ ga, cmd.ga = some ga → barOperand ga = some o ∧ (s.arch.core c).stashKey o = none ∧
        a.nearStalls c o 8 = false ∧ ∀ q ∈ s.arch.reqs, q.st = .parked → q.pa / 8 ≠ s.arch.spadPa c o / 8) →
      ∃ t : State, exec (.mdrainArrive c) s = .next t ∧ (t.arch.core c).engine.queue = rest ∧
        t.arch.mem = if cmd.ga = none then s.arch.mem else
          Memory.write s.arch.mem (s.arch.spadPa c o) 8 (barArrive (Memory.read s.arch.mem (s.arch.spadPa c o) 8))))

/-- A micro-op that waited is tried again: the stall release completes, and acts as its instruction does, an MXLDB whose bytes can be
fetched by now loading them; one whose fetch failed ends its call with FAULT, discards the context's queued commands and leaves a
trap pending for the context (R143, R156). While the core's clock is stopped nothing happens (R328). -/
def EngineFetchesResume : Prop :=
  ∀ (c : Nat) (r : Call) (s : State), (s.arch.core c).engine.run = some r →
    ((s.arch.core c).stopped = true → exec (.engineStallRelease c) s = .next s ∧ exec (.engineFetchFault c) s = .next s) ∧
    ((s.arch.core c).stopped = false →
    (∀ (i : Instr), decodeMicro (r.code.getD r.pos 0) = some i →
      ∃ u : State, exec i (s.setIss { Issue.reset with core := c }) = .next u ∧
        exec (.engineStallRelease c) s = .next (s.setArch u.arch)) ∧
    (∀ (i first count plane x : Nat) (a : Arch), decodeMicro (r.code.getD r.pos 0) = some (.mxldb i first count plane) →
      let d := (r.parm i).toNat
      let size := if plane = 0 then 4224 else 4096
      d / 8 % 8 = 0 → d % 8 + plane < 8 → s.arch.engineFetch c r.cmd (d / 64 * 64) (size * (count + 1)) = .ok a x →
      ∃ t : State, exec (.engineStallRelease c) s = .next t ∧ (t.arch.core c).engine.run =
        some { r.setParm i (r.parm i + BitVec.ofNat 64 (size * (count + 1))) with pos := r.pos + 1 }) ∧
    (∀ (i first count plane va : Nat) (a : Arch), decodeMicro (r.code.getD r.pos 0) = some (.mxldb i first count plane) →
      let d := (r.parm i).toNat
      d / 8 % 8 = 0 → d % 8 + plane < 8 → r.cmd.ctx < 2 →
      (∃ m ∈ (s.arch.core c).misses, m.agent = .engine r.cmd.ctx ∧ ∃ e, m.stage = .ended e) →
      s.arch.engineFetch c r.cmd (d / 64 * 64) ((if plane = 0 then 4224 else 4096) * (count + 1)) = .fault a va →
      ∃ t : State, exec (.engineFetchFault c) s = .next t ∧ (t.arch.core c).engine.run = none ∧
        (∀ q ∈ (t.arch.core c).engine.queue, q.ctx ≠ r.cmd.ctx) ∧
        (t.arch.ctx c r.cmd.ctx).engineTrap = some ⟨0x0C, va⟩))

end Sys2Proof.Machine

/-- The engine takes its commands in order, and resumes or abandons a call whose fetch missed (R143, R149, R151, R152, R156). -/
def Obligations.EngineActs : Prop := EngineCommandsAct ∧ EngineFetchesResume

/-- A Brick that takes part claims up to 32 tile indices of a persistent launch at once from its counter, one that does not claims none,
and an NXTILE that waits there gets the first (R43, R44); the oldest event whose context's ring has room is written at the ring's head
in the scratchpad and the head moves on, that both are one step being the model's (R135; log entry 32); a machine check is fatal to a
unit, every member of a gang, running or not, and tells the host, once no port on the way sleeps; one of a unit whose program has ended,
or that is swapped out, fails it with the FATAL fields of its debug blocks (R22, R302, R309, R310). That the operand 16 + u names the
swapped-out unit u, and what is left of it goes by `ghostOf u`, is the model's (log entry 14). -/
def Obligations.TilesEventsAndChecks : Prop :=
  (∀ (b l : Nat) (v : Launch) (s : State), s.arch.launch l = some v → v.drained = false →
    let have_ := SMap.get [] (s.arch.brick b).batches l
    let dim (d : Nat) : Nat := v.desc.toNat / 2 ^ (448 + 20 * d) % 2 ^ 20 + 1
    let n := min 32 (dim 0 * dim 1 * dim 2 - v.tiles)
    let takesPart : Prop := ∃ e ∈ s.arch.units, ∃ u, e.2 = some u ∧ u.launch = l ∧ u.fate = none ∧ ∃ c ∈ u.cores, c / 32 = b
    s.arch.routeSleeps b (v.base / 32) = false → s.arch.routeSleeps (v.base / 32) b = false → 0 < n → have_.length ≤ 8 →
    (takesPart → (s.arch.brick b).tileq = [] → ∃ t : State, exec (.tileBatchClaim b l) s = .next t ∧
      t.arch.launch l = some { v with tiles := v.tiles + n } ∧
      SMap.get [] (t.arch.brick b).batches l = have_ ++ (List.range n).map (fun i => v.tiles + i)) ∧
    (¬ takesPart → (s.arch.brick b).tileq = [] → exec (.tileBatchClaim b l) s = .next s) ∧
    (∀ c x g, takesPart → (s.arch.brick b).tileq = [⟨l, [(c, x, g)]⟩] → have_ = [] →
      ∃ t : State, exec (.tileBatchClaim b l) s = .next t ∧ (t.arch.brick b).tileq = [] ∧
        SMap.get [] (t.arch.brick b).batches l = (List.range (n - 1)).map (fun i => v.tiles + 1 + i) ∧
        t.arch.ctx c x = (s.arch.ctx c x).fill g 0 (v.tiles % dim 0 + 2 ^ 20 * (v.tiles / dim 0 % dim 1)
          + 2 ^ 40 * (v.tiles / (dim 0 * dim 1))))) ∧
  (∀ (c off : Nat) (e : Event) (rest : List Event) (s : State), (s.arch.core c).drainable = true →
    (s.arch.core c).evq = e :: rest →
    let r := (s.arch.ctx c e.ctx).ring
    let size := 2 ^ r.evsize.toNat / 16
    (∀ q ∈ s.arch.reqs, q.st = .parked → q.pa + 8 ≤ s.arch.spadPa c off ∨ s.arch.spadPa c off + 16 ≤ q.pa) →
    8 ≤ r.evsize.toNat → r.evsize.toNat ≤ 20 → r.stopped = false → e.ctx < 2 → r.acks = [] → (r.evhead - r.evtail).toNat ≠ size →
    r.evbase.toNat + 16 * (r.evhead.toNat % size) = 0xFE00000000000000 + off → off + 16 ≤ 0x60000 →
    s.arch.touchable c e.ctx (off / 0x8000) → (s.arch.core c).window = [] →
    ∃ t : State, exec (.eventDrain c) s = .next t ∧ (t.arch.core c).evq = rest ∧
      (t.arch.ctx c e.ctx).ring = { r with evhead := r.evhead + 1, moved := true } ∧
      t.arch.mem = Memory.write s.arch.mem (s.arch.spadPa c off) 16
        (e.code + 2 ^ 8 * e.ctx + 2 ^ 32 * (e.bt % 2 ^ 32) + 2 ^ 64 * e.info.toNat)) ∧
  (∀ (c x : Nat) (s : State), c < 256 → x < 2 →
    let told (a : Arch) : Prop := if s.arch.routeSleeps (c / 32) 8 then
        a.interrupts = s.arch.interrupts ∧ a.syncq = s.arch.syncq ++ [(c / 32, 0)]
      else a.interrupts = s.arch.interrupts ++ [0] ∧ a.syncq = s.arch.syncq
    ((s.arch.ctx c x).status ≠ .idle → (s.arch.ctx c x).status ≠ .failing → c ∈ s.arch.members c x → (s.arch.members c x).Nodup →
      ∃ t : State, exec (.machineCheck c x) s = .next t ∧ told t.arch ∧
        ∀ m ∈ s.arch.members c x, (t.arch.ctx m x).status = .failing ∧ (t.arch.ctx m x).dying = if m = c then 0x0D else 0x0F) ∧
    ((s.arch.ctx c x).status = .failing → ∃ a : Arch, exec (.machineCheck c x) s = .next (s.setArch a) ∧ told a ∧
      { a with interrupts := s.arch.interrupts, syncq := s.arch.syncq, pba := s.arch.pba } = s.arch) ∧
    (∀ u v, (s.arch.ctx c x).status = .idle → (s.arch.ctx c x).unit = some u → s.arch.unit u = some v →
      ∃ t : State, exec (.machineCheck c x) s = .next t ∧ t.arch.unit u = some { v with fate := some .failed } ∧
        told t.arch ∧
        (t.arch.core c).dbg = if v.fate = some .failed then (s.arch.core c).dbg else (s.arch.core c).dbg.fatal x 0x0D)) ∧
  (∀ (c u : Nat) (v : ExecUnit) (s : State), c < 256 → s.arch.unit u = some v → v.swapped = true → v.fate = none → v.cores.Nodup →
    ∃ t : State, exec (.machineCheck c (16 + u)) s = .next t ∧
      (s.arch.routeSleeps (c / 32) 8 = false → t.arch.interrupts = s.arch.interrupts ++ [0]) ∧
      t.arch.unit u = some { v with fate := some .failed, swapped := false, kept := [], wanted := false, ctx := ghostOf u } ∧
      ∀ k ∈ v.cores, (t.arch.core k).dbg = (s.arch.core k).dbg.fatal v.ctx (if k = c then 0x0D else 0x0F))

-- ## Translation, stash and slices (07 R174 to R176; 08 R189, R194; 09 R197 to R213)

namespace Sys2Proof.Machine

/-- A miss is served by the Brick's shared buffer or enters the walker's queue; a walk, from the root or from the deepest entry that
the walker has kept, that finds a leaf with the permission gives the access its physical address, one that faults ends the miss; a
hand-over starts the shadow context with its arguments, and a service of 100 microseconds without its XRET declines (R198 to
R203). That a walk starts at the deepest entry kept is the model's (log entry 61), and so is that the service starts at address 0 of
the shadow store (log entry 82). -/
def MissesAreServed : Prop :=
  ∀ (c : Nat) (m : Miss) (s : State),
    let k := s.arch.core c
    let b := c / 32
    let found (t : State) (big : Bool) (base : Nat) : Prop :=
      (∀ n ∈ (t.arch.core c).misses, n.agent ≠ m.agent) ∧
      t.arch.lookup c m.agent m.asid m.va m.read m.write = .phys (base + m.va % 2 ^ (if big then 30 else 21))
    (k.misses.find? (fun m => m.stage == .core) = some m → findLeaf k.tlb m.asid m.va = none →
      (∀ l, findLeaf (s.arch.brick b).stb m.asid m.va = some l → (m.read → l.rd) → (m.write → l.wr) →
        ∃ t : State, exec (.translationMiss c) s = .next t ∧ found t l.big l.base) ∧
      (findLeaf (s.arch.brick b).stb m.asid m.va = none → ((s.arch.brick b).walkq.length < 544 ∨
          ∃ e ∈ (s.arch.brick b).walkq, ∃ n, s.arch.missAt e = some n ∧ n.joins m.asid m.va = true) →
        ∃ t : State, exec (.translationMiss c) s = .next t ∧ (t.arch.brick b).walkq = (s.arch.brick b).walkq ++ [(c, m.agent)] ∧
          { m with stage := .walker } ∈ (t.arch.core c).misses)) ∧
    ((s.arch.brick b).walkq = [(c, m.agent)] → k.miss m.agent = some m → m.stage = .walker →
      let from_ := if m.repeated then (4, m.root * 2 ^ 12) else s.arch.walkStart b m.asid m.va (m.root * 2 ^ 12)
      let w := s.arch.walkFrom b m.asid m.va from_.1 from_.2
      ((s.arch.brick b).nodeCache = [] → from_ = (4, m.root * 2 ^ 12)) ∧
      (w.1 = .wait → exec (.pageWalk b) s = .next (s.setArch w.2)) ∧
      (w.2.cores = s.arch.cores →
      (∀ big base rd wr, w.1 = .leaf big base rd wr → (m.read → rd) → (m.write → wr) →
        ∃ t : State, exec (.pageWalk b) s = .next t ∧ found t big base) ∧
      (∀ e, w.1 = .fault e → ∃ t : State, exec (.pageWalk b) s = .next t ∧
        { m with stage := .ended e } ∈ (t.arch.core c).misses))) ∧
    (k.misses.find? (fun m => m.stage == .shadow) = some m → (s.arch.ctx c 2).status = .idle →
        (∀ n ∈ k.misses, n.stage ≠ .service) →
      ∃ t : State, exec (.shadowService c) s = .next t ∧ (t.arch.ctx c 2).status = .running ∧ (t.arch.ctx c 2).pc = 0 ∧
        (t.arch.ctx c 2).readG 1 = BitVec.ofNat 64 m.va ∧ (t.arch.ctx c 2).readG 2 = m.entry ∧
        (t.arch.ctx c 2).readG 3 = BitVec.ofNat 64 (m.level + (if m.flagged then 4 else 0)
          + (if m.write then 8 else 0) + (if m.read then 16 else 0)) ∧
        (t.arch.ctx c 2).readG 4 = BitVec.ofNat 64 m.asid ∧ (t.arch.ctx c 2).readG 5 = BitVec.ofNat 64 m.entryPa ∧
        { m with stage := .service, since := s.arch.clock } ∈ (t.arch.core c).misses) ∧
    (k.misses.find? (fun m => m.stage == .service) = some m → m.since + 300000 ≤ s.arch.clock →
      (∀ w, (s.arch.ctx c 2).wait = some w → w.kind ≠ .xret) →
      ∃ t : State, exec (.shadowServiceTimeout c) s = .next t ∧ t.arch.ctx c 2 = Context.reset ∧
        { m with stage := .ended .declined } ∈ (t.arch.core c).misses)

/-- An invalidation empties every buffer of the leaves it names, by page, by ASID or all of them, keeps the others, flushes the
walkers' caches, and is BUSY until the accesses, fills and dispatcher requests translated through a named leaf, and the write-backs sent
before it, are done; an access that is withdrawn is not waited for, and is translated afresh once it has joined again (R166, R205; log
entry 82). -/
def InvalidationsReachEveryBuffer : Prop :=
  ∀ (va : Nat) (s : State), SMap.wf Core.reset s.arch.cores = true → SMap.wf Brick.reset s.arch.bricks = true →
    let x := s.arch.xlinv
    let drops (i : Instr) (p : Leaf → Bool) : Prop := ∃ t : State, exec i s = .next t ∧
      (∀ c, (t.arch.core c).tlb = (s.arch.core c).tlb.filter (fun l => !p l)) ∧
      (∀ b, (t.arch.brick b).stb = (s.arch.brick b).stb.filter (fun l => !p l) ∧ (t.arch.brick b).nodeCache = []) ∧
      t.arch.mem = s.arch.mem ∧
      t.arch.reqs = s.arch.reqs.map (fun (r : Req) => if r.leaf.any p then { r with named := true } else r) ∧
      t.arch.fills = s.arch.fills.map (fun (f : Fill) => if f.leaf.any p then { f with named := true } else f) ∧
      t.arch.xlinv = { x with busy := true, after := s.arch.nextId }
    (x.busy = false → drops (.xlinvVa va) (fun l => l.asid == x.asid.toNat && l.vpn == va / 2 ^ (if l.big then 30 else 21)) ∧
      drops .xlinvAsid (fun l => l.asid == x.asid.toNat) ∧ drops .xlinvAll (fun _ => true)) ∧
    let late (r : Req) : Prop := r.named = true ∧ r.leaf.isSome = true ∧ r.st ≠ .withdrawn
    (x.busy = true → (∀ e ∈ s.arch.bricks, e.2.nodeCache = []) → (∀ r ∈ s.arch.reqs, ¬ late r) →
      (∀ f ∈ s.arch.fills, f.named = false) → (∀ w ∈ s.arch.writeBacks, x.after ≤ w.id) → (∀ q ∈ s.arch.opq, q.named = false) →
      exec .xlinvComplete s = .next (s.setArch { s.arch with xlinv := { x with busy := false } })) ∧
    (x.busy = true → (∃ r ∈ s.arch.reqs, late r) ∨ (∃ f ∈ s.arch.fills, f.named = true) ∨
        (∃ w ∈ s.arch.writeBacks, w.id < x.after) ∨ (∃ q ∈ s.arch.opq, q.named = true) →
      exec .xlinvComplete s = .next s) ∧
    (∀ (c y : Nat) (r : Req), s.arch.reqs = [r] → s.arch.rejoins c y r = true → r.named = true →
      ∃ q, (s.arch.rejoin c y).reqs = [q] ∧ q.st = .flight ∧ q.leaf = none ∧ q.named = true)

end Sys2Proof.Machine

/-- Translation misses are walked and served, and invalidations reach every buffer (R198 to R203, R205; log entries 61 and 82). -/
def Obligations.TranslationActs : Prop := MissesAreServed ∧ InvalidationsReachEveryBuffer

namespace Sys2Proof.Machine

/-- No packet waits for a signal: a write of memory calls for no evaluation (R288). -/
def Arch.unnamed (a : Arch) : Prop := ∀ e ∈ a.queues, ∀ p ∈ e.2.packets, p.named = []

/-- A fill whose snoops are answered leaves its stash entry OWNED or SHARED with its line; the directory's record of a
region follows its requests; a snoop reaches the entries of its die; a write-back reaches memory, and one whose home is lost a machine
check; and a die that holds nothing of a region leaves its record (R22, R175, R176, R207, R209, R211, R212, R216, R328). -/
def StashTrafficActs : Prop :=
  ∀ (b d id region : Nat) (s : State),
    let a := s.arch
    (∀ (f : Fill) (v : Nat), a.fills.find? (fun f => f.id == id) = some f → f.stage = .granted →
      ((a.ctx f.core (a.fillCtx f)).detm = false ∨ a.fillTime f ≤ a.clock) → (a.brick b).lost = false →
      (a.core f.core).stopped = false → (∀ m ∈ a.snoops, m.fill ≠ id) →
      a.homeBrick f.pa = some b → a.routeSleeps b (f.core / 32) = false →
      a.windowStalls b (f.core / 32) (a.window + 1) = false → (a.brick b).covers (lineOf f.pa) (f.core / 32) f.owner = true →
      f.entry < 256 → SMap.get none (a.core f.core).window f.group = some v → a.readable f.pa 128 = true →
      ∃ t : State, exec (.stashFillComplete id) s = .next t ∧ (∀ g ∈ t.arch.fills, g.id ≠ id) ∧
        SMap.get StashState.invalid (t.arch.core f.core).stash (f.group * 256 + f.entry) = (if f.owner then .owned else .shared) ∧
        SMap.get 0 (t.arch.core f.core).stashLine (f.group * 256 + f.entry) = f.pa / 128) ∧
    (∀ f : Fill, a.fills = [f] → f.stage = .sent → a.homeBrick f.pa = some b → (a.brick b).lost = false →
      a.routeSleeps (f.core / 32) b = false →
      let r := regionOf (lineOf f.pa)
      let e := f.core / 32
      let becomes (v : Region) : Prop := ∃ t : State, exec (.directoryRequest b) s = .next t ∧ (t.arch.brick b).region r = v ∧
        t.arch.fills = [{ f with stage := .granted }]
      ((a.brick b).region r = .absent → becomes (.priv e)) ∧ ((a.brick b).region r = .priv e → becomes (.priv e)) ∧
      (∀ v, (a.brick b).region r = .shared v → f.owner = false → becomes (.shared (v ||| BitVec.ofNat 8 (2 ^ e))))) ∧
    (∀ m : SnoopMsg, a.snoops = [m] → a.routeSleeps m.home m.die = false → a.routeSleeps m.die m.home = false → (a.brick m.die).lost = false →
      ∃ t : State, exec (.snoop m.home m.die m.line m.inval) s = .next t ∧ t.arch.snoops = []) ∧
    (∀ (w : WriteBack) (o : Nat), a.writeBacks = [w] → w.id = id → a.place w.pa = .stack b o → w.pa % 128 = 0 →
      (a.brick b).lost = false → a.routeSleeps (w.core / 32) b = false → (w.win.isSome = true ∨ w.core / 32 = b) → a.unnamed →
      ∃ t : State, exec (.writeBack id) s = .next t ∧ t.arch.writeBacks = [] ∧ t.arch.mem = Memory.writeBytes a.mem w.pa w.data) ∧
    (∀ (w : WriteBack) (o : Nat), a.writeBacks = [w] → w.id = id → a.place w.pa = .stack b o → (a.brick b).lost = true →
      b < 8 → (w.win.isSome = true ∨ w.core / 32 = b) → exec (.writeBack id) s = .next (s.setArch ((a.backLands w).checkAt w.core w.ctx w.pa 7))) ∧
    (a.dieLines d region = [] → (∀ f ∈ a.fills, f.stage = .sent) → a.routeSleeps d b = false →
      ((a.brick b).region region = .priv d → ∃ t : State, exec (.releaseNotice b d region) s = .next t ∧
        (t.arch.brick b).region region = .absent) ∧
      (∀ v, (a.brick b).region region = .shared v → v &&& ~~~BitVec.ofNat 8 (2 ^ d) ≠ 0 →
        ∃ t : State, exec (.releaseNotice b d region) s = .next t ∧
          (t.arch.brick b).region region = .shared (v &&& ~~~BitVec.ofNat 8 (2 ^ d))))

/-- A snoop for a write leaves no entry of the die with the line, and one for a read leaves none that may write it; the
entries of other dies stay (R211). -/
def SnoopsTakeTheLine : Prop :=
  ∀ (m : SnoopMsg) (s t : State), s.arch.snoops = [m] → s.arch.writeBacks = [] → s.arch.routeSleeps m.home m.die = false →
    s.arch.routeSleeps m.die m.home = false →
    (s.arch.brick m.die).lost = false → exec (.snoop m.home m.die m.line m.inval) s = .next t → ∀ c i,
    let before := SMap.get StashState.invalid (s.arch.core c).stash i
    let after := SMap.get StashState.invalid (t.arch.core c).stash i
    (c / 32 ≠ m.die → after = before) ∧
    (c / 32 = m.die → c ∈ s.arch.cores.map Prod.fst → i ∈ (s.arch.core c).holders m.line →
      after = if m.inval then .invalid else .shared)

/-- A slice's counters are cleared, and its exact accumulators, of lines that are not poisoned, retire: each writes its rounded value
and is free again. An accumulator stands in the slice of the stack of its word, and none is named by a waiting packet here (R189,
R193, R194). -/
def SliceControls : Prop :=
  ∀ (b : Nat) (s : State),
    exec (.llcCounterClr b) s = .next (s.setArch (s.arch.mapBrick b (fun k => { k with expevict := 0, detwait := 0 }))) ∧
    ((∀ d ∈ (s.arch.brick b).dets, s.arch.poisoned (d.pa / 128) = false) → s.arch.unnamed → SMap.wf Brick.reset s.arch.bricks = true →
      (∀ e ∈ s.arch.bricks, ∀ d ∈ e.2.dets, ∃ o, s.arch.place d.pa = .stack e.1 o) →
    ∃ t : State, exec (.llcRetire b) s = .next t ∧ (t.arch.brick b).dets = [] ∧
      t.arch.mem = (s.arch.brick b).dets.foldl (fun m d => Memory.write m d.pa 4 d.value) s.arch.mem)

end Sys2Proof.Machine

/-- Fills, directory requests, snoops, write-backs, release notices and slice controls (R22, R175, R176, R189, R194, R207, R209,
R211, R212, R216). -/
def Obligations.CoherenceActs : Prop := StashTrafficActs ∧ SnoopsTakeTheLine ∧ SliceControls

-- ## Copies (10 R217 to R240)

namespace Sys2Proof.Machine

/-- A PLAIN copy that takes its next element on its own and has nothing to wait for. -/
def Arch.plainCopy (a : Arch) (c x n : Nat) : Prop :=
  let h := (a.ctx c x).chan n
  let t := h.tmpl.toNat
  (a.core c).stopped = false ∧ h.state = .active ∧ h.stop = none ∧ h.cancel = false ∧ tmplMode t = 0 ∧ patInd (tmplSrc t) = false ∧ h.srclim = 0 ∧
    patEsz (tmplSrc t) = patEsz (tmplDst t) ∧ (h.serial = true ∨ h.lineRun = 1) ∧ a.reqs = [] ∧ a.writeBacks = [] ∧ a.lowPort = []

/-- What tl.n reads once one more copy has ended (R235). -/
def Context.nextTl (t : Context) (n : Nat) : Word := BitVec.ofNat 64 (min ((t.readTl n).toNat + 1) (2 ^ 64 - 1))

/-- A start makes the context wait until it is armed; arming latches the registers and the template, checks it, and begins
the copy with its watermark at the low end of the destination, or ends it REJECT with the first failing check's code; while the core's
edges are omitted, or its context's channels are to pause, it is not armed (R219, R220, R222, R228, R230, R231, R237, R240, R312, R328); the oldest waiting COURSE copy takes a
free encoder (R226). That a template read once stands in a cache, and that a REJECT leaves the watermark registers 0, are the model's
(log entry 35). -/
def CopiesStart : Prop :=
  ∀ (c x n : Nat) (w : Word) (t : BitVec 1024) (s : State),
    let k := s.arch.ctx c x
    let h := k.chan n
    let num := w.toNat % 2 ^ 12
    let va := k.tmplbase.toNat * 128 + 128 * num
    let cached := SMap.get none (s.arch.core c).tmplCache (k.asid.toNat * 2 ^ 64 + va) = some t
    let check := s.arch.armCheck c x { h with lsrc := h.src, ldst := h.dst, lctl := h.ctl, tmpl := t }
    let foot := footprint (tmplDst t.toNat) (h.dst.toNat + patBase (tmplDst t.toNat))
    let starts : Prop := (s.arch.core c).stopped = false ∧ s.arch.pausing c x = false ∧ h.start = some w ∧ h.state ≠ .active ∧ ∃ q, k.wait = some q ∧ q.kind = .start ∧ q.req = n
    let rejects (code : Nat) : Prop := ∃ u : State, exec (.copyArm c x n) s = .next u ∧ (u.arch.ctx c x).wait = none ∧
      (let b := (u.arch.ctx c x).chan n
       b.state = .reject ∧ b.code = BitVec.ofNat 8 code ∧ b.start = none ∧ b.wm = 0 ∧ b.wmbase = 0 ∧ b.wmlim = 0) ∧
      (u.arch.ctx c x).readTl n = k.nextTl n ∧ u.arch.mem = s.arch.mem
    (k.status = .running → k.wait = none → h.start = none → ∃ u : State, exec (.copyStart c x n w) s = .next u ∧
      ((u.arch.ctx c x).chan n).start = some w ∧ (u.arch.ctx c x).wait = some ⟨.start, 0, n, false, n⟩ ∧
      u.arch.mem = s.arch.mem ∧ u.arch.reqs = s.arch.reqs) ∧
    (starts → num < k.tmplcnt.toNat → cached → check = none → ∃ u : State, exec (.copyArm c x n) s = .next u ∧
      (u.arch.ctx c x).wait = none ∧ u.arch.mem = s.arch.mem ∧ (u.arch.ctx c x).readTl n = k.readTl n ∧
      (let b := (u.arch.ctx c x).chan n
       b.state = .active ∧ b.start = none ∧ b.tmpl = t ∧ b.lsrc = h.src ∧ b.ldst = h.dst ∧ b.lctl = h.ctl ∧ b.lbar = h.bar ∧
       b.arr = w.getLsbD 12 ∧ b.ticket = (k.readTl n + 1).setWidth 32 ∧ b.code = 0 ∧ b.bad = false ∧ b.badcnt = 0 ∧
       b.si = 0 ∧ b.di = 0 ∧ b.wmbase = BitVec.ofInt 64 foot.1 ∧ b.wm = BitVec.ofInt 64 foot.1 ∧
       b.wmlim = BitVec.ofInt 64 foot.2)) ∧
    (∀ code, starts → num < k.tmplcnt.toNat → cached → check = some code → rejects code) ∧
    (starts → k.tmplcnt.toNat ≤ num → rejects 1) ∧
    (h.start = some w → h.state = .active ∨ s.arch.pausing c x = true → exec (.copyArm c x n) s = .next s) ∧
    (k.status = .swapping ∨ ((k.status = .halting ∨ k.status = .debugHalted) ∧ (s.arch.core c).dbg.stopch = true) ↔
      s.arch.pausing c x = true) ∧
    (∀ b, (s.arch.brick b).encq = [(c, x, n)] → h.state = .active → h.enc = false → s.arch.encoders b < 4 →
      ∃ u : State, exec (.courseEncoderGrant b) s = .next u ∧ ((u.arch.ctx c x).chan n).enc = true ∧ (u.arch.brick b).encq = [])

/-- A PLAIN copy within the scratchpad lands one element: its bytes stand at the destination, the watermark is the end of
that element, and with the last element the copy is DONE and its counter advances; a source address in neither space is
FAULT with code 8 and its address; that the source is read as the element lands is the model's choice (R226, R230, R234, R235; log
entry 35). -/
def CopiesLand : Prop :=
  ∀ (c x n src dst : Nat) (s : State), s.arch.plainCopy c x n → c < 256 →
    let k := s.arch.ctx c x
    let h := k.chan n
    let t := h.tmpl.toNat
    let e := 2 ^ patEsz (tmplDst t)
    let total := patTotal (tmplDst t)
    let fromVa := patAddr (tmplSrc t) h.di h.sbase none
    let toVa := patAddr (tmplDst t) h.di h.dbase none
    (fromVa = Int.ofNat (spadVa + src) → src + e ≤ spadSize → toVa = Int.ofNat (spadVa + dst) → dst + e ≤ spadSize →
      h.di < total → (h.di + 1 = total → h.arr = false ∧ h.badcnt = 0) →
      ∃ u : State, exec (.copyLand c x n) s = .next u ∧
        u.arch.mem = Memory.write s.arch.mem (s.arch.spadPa c dst) e (Memory.read s.arch.mem (s.arch.spadPa c src) e) ∧
        (let b := (u.arch.ctx c x).chan n
         b.di = h.di + 1 ∧ b.wm = BitVec.ofNat 64 (spadVa + dst + e) ∧
         b.state = (if h.di + 1 = total then .done else .active)) ∧
        (u.arch.ctx c x).readTl n = if h.di + 1 = total then k.nextTl n else k.readTl n) ∧
    (∀ va, fromVa = Int.ofNat va → va < 2 ^ 64 → va / 2 ^ 56 ≠ 0 → va / 2 ^ 56 ≠ 0xFE →
      ∃ u : State, exec (.copyFault c x n) s = .next u ∧ u.arch.mem = s.arch.mem ∧
        (let b := (u.arch.ctx c x).chan n
         b.state = .fault ∧ b.code = 8 ∧ b.faddr = BitVec.ofNat 64 va) ∧
        (u.arch.ctx c x).readTl n = k.nextTl n)

end Sys2Proof.Machine

/-- A block copy is started, armed or rejected, and lands, ends or faults (R219, R220, R222, R226, R228, R230, R231, R234, R235,
R237). -/
def Obligations.CopiesRun : Prop := CopiesStart ∧ CopiesLand

-- ## Levels, launches and units (02 R29 to R50; 13 R290, R305 to R312)

namespace Sys2Proof.Machine

/-- Where a step of the front end that leads to `b` takes the module: there, unless an access of it has to wait for a sleeping port or
for the window rule; then only what that wait leaves happens now (R22, R253; log entry 68). -/
def Arch.frontTo (a b : Arch) : Arch := if b.feHeld then { a with windows := b.windows, snoops := b.snoops } else b

/-- A step of the front end completes: it leads to `a`, and then does what every one of them ends with. -/
def FrontActs (i : Instr) (s : State) (a : Arch) : Prop := exec i s = .next (s.setArch (s.arch.frontTo a.frontDone))

/-- A step in which coded operators may close, and children of cancelled units end, as well. -/
def OpActs (i : Instr) (s : State) (a : Arch) : Prop := exec i s = .next (s.setArch (s.arch.frontTo a.opDone.frontDone))

/-- Such a step that nothing holds back. -/
def FrontGoes (i : Instr) (s : State) (P : Arch → Prop) : Prop :=
  ∃ a : Arch, exec i s = .next (s.setArch a.opDone.frontDone.anyway) ∧ P a

/-- The levels above a launch start to run (R31). -/
def Arch.runsLevel (a : Arch) (v : Launch) : Arch := match v.level with | some k => a.levelStarts k nestMax | none => a

/-- A launch that no other comes before sends its release message once every context of its units is idle, no port on the way sleeps,
its image is loaded and its presets are written; its release then has a time T, at least 64 fabric cycles later and a multiple of 4
fabric cycles (log entry 69), at which every member of every unit runs from ENTRY with every general register 0, its place in the gang
and its queue's translation, and free groups of BANKS are granted (R22, R35 to R38, R67, R199); where a context has been taken
meanwhile, the release is prepared afresh; a child not released within 100 ms posts STARVE once (R46). A fabric cycle is 3/2 of the
clock's thirds of a nanosecond. -/
def LaunchesRelease : Prop :=
  ∀ (l sent T : Nat) (us : List (List Nat × Nat)) (v : Launch) (s : State), s.arch.launch l = some v → v.released = false →
    s.arch.mayRelease v = true → ((takes us).map Prod.fst).Nodup →
    let d := v.desc.toNat
    let a := s.arch
    let m := a.release l
    let cs := (takes us).map Prod.fst
    (v.sent = none → a.placeUnits v = some us → a.outranked l v (takes us) = false → a.promised l v (takes us) = false →
      a.deaf cs = false → a.reqs = [] → FrontActs (.launchRelease l) s m ∧
        m.launch l = some { v with sent := some (a.clock, us) } ∧ m.clock = a.clock ∧ m.units = a.units ∧
        (∀ c x, m.ctx c x = a.ctx c x) ∧ (∀ c, c ∉ cs → m.core c = a.core c) ∧ (∀ c, (m.core c).owner = (a.core c).owner) ∧
        (∀ c ∈ cs, (m.core c).imem = Memory.writeBytes (a.core c).imem (ldIbase d) v.image) ∧
        m.mem = (takes us).foldl (fun w e => v.presets.foldl (fun w p => Memory.write w (a.spadPa e.1 p.1) 8 p.2.1.toNat) w) a.mem) ∧
    (v.sent = some (sent, us) → v.due = none → FrontActs (.launchRelease l) s m ∧
      ∃ T, m = a.setLaunch l { v with due := some T } ∧ T % (4 * 3 / 2) = 0 ∧ sent + 64 * 3 / 2 ≤ T ∧ a.clock < T ∧
        T < max (sent + 64 * 3 / 2) (a.clock + 1) + 4 * 3 / 2) ∧
    (v.sent = some (sent, us) → v.due = some T → T ≤ a.clock → (∀ e ∈ us, a.coresFree v e.1 e.2 = true) →
      FrontActs (.launchRelease l) s m ∧ ∃ b : Arch, m = b.runsLevel v ∧ b.clock = a.clock ∧ b.mem = a.mem ∧
        b.launch l = some { v with released := true } ∧ (∀ c, c ∉ cs → b.core c = a.core c) ∧ (∀ c, (b.core c).imem = (a.core c).imem) ∧
        (∀ (i : Nat) (e : List Nat × Nat), us[i]? = some e → ∃ u, a.nextId ≤ u ∧
          b.unit u = some ⟨l, e.1, e.2, none, 0, a.launchDepth v, false, [], false, []⟩ ∧
          ∀ (j c : Nat), e.1[j]? = some c →
            let t := b.ctx c e.2
            t.status = .running ∧ t.unit = some u ∧ t.pc = ldEntry d ∧ t.gpos = BitVec.ofNat 4 j ∧
            t.gsize = BitVec.ofNat 3 (dw d 0 19 17) ∧ (∀ r, t.readG r = 0) ∧ t.bt = 0 ∧ t.trap = TrapRegs.reset ∧
            t.inflight = [] ∧ t.ptroot = v.regs.ptroot ∧ t.asid = v.regs.asid ∧ t.detm = d.testBit 22 ∧
            ∀ g, g < 12 → (ldBanks d).testBit g = true → SMap.get Owner.free (a.core c).owner g = .free →
              SMap.get Owner.free (b.core c).owner g = ownerOf e.2)) ∧
    (v.sent = some (sent, us) → v.due = some T → T ≤ a.clock → (∃ e ∈ us, a.coresFree v e.1 e.2 = false) →
      FrontActs (.launchRelease l) s (a.setLaunch l { v with sent := none, due := none })) ∧
    (v.sent = some (sent, us) → v.due = some T → a.clock < T → FrontActs (.launchRelease l) s a) ∧
    (∀ k w, v.level = some k → s.arch.level k = some w → w.unit.isSome = true → w.state = .waiting →
      s.arch.starvedBefore k = false → v.waitingSince + 300000000 ≤ s.arch.clock →
      FrontActs (.launchStarvation l) s ((s.arch.setLaunch l { v with starved := true }).jobEvent w.queue 1 w.index s.arch.now))

/-- A unit that has ended and is quiet leaves its contexts and is counted by its launch (R34); a level whose children have
all ended ends (R33); a cancel of an unreleased launch abandons its units, which its own record shows (R31, R47 to R49); events of a
queue without a ring are only counted (R296). -/
def UnitsAndLevelsEnd : Prop :=
  (∀ (u : Nat) (e : ExecUnit) (f : UnitEnd) (v : Launch) (s : State), s.arch.unit u = some e → e.fate = some f →
    s.arch.unitQuiet u e = true → s.arch.launch e.launch = some v → v.task = none →
    OpActs (.unitEnd u) s (s.arch.unitEnds u) ∧
    ∃ a : Arch, s.arch.unitEnds u = (match v.level with | some k => a.countEnd k (f == UnitEnd.complete) | none => a) ∧
      a.unit u = none ∧ a.mem = s.arch.mem ∧
      ∀ c ∈ e.cores, (s.arch.ctx c e.ctx).unit = some u → (a.ctx c e.ctx).unit = none) ∧
  (∀ (l : Nat) (v : Level) (a : Arch) (ok : Bool), a.level l = some v → v.record = 0 →
    (a.countEnd l ok).level l = some { v with
      pending := v.pending - 1, done := if ok then v.done + 1 else v.done
      abandoned := if ok then v.abandoned else v.abandoned + 1, childloss := v.childloss || !ok }) ∧
  (∀ (l : Nat) (v : Level) (a : Arch), a.levels = [(l, some v)] → v.state.live = true → v.pending = 0 →
    (v.isOpen = false ∨ v.cancelled = true) → a.frontDone.level l = none) ∧
  (∀ (l record : Nat) (v : Level) (w : Launch) (s : State), s.arch.cancels = [record] → record < 2 ^ 56 →
    s.arch.levels = [(l, some v)] → v.state.live = true → v.cancelled = false → v.kind = .launch → v.record ≠ 0 →
    (({ s.arch with cancels := [] } : Arch).feXlate (queueRegs v.desc) v.record false true).1 = some record →
    s.arch.launch l = some w → w.released = false →
    let a := s.arch.cancelWrite record
    OpActs (.cancel record) s a ∧ a.cancels = [] ∧ a.launch l = none ∧
      a.level l = some { v with cancelled := true, abandoned := v.abandoned + v.pending, pending := 0, childloss := true }) ∧
  (∀ (q code index info : Nat) (a : Arch), dw (a.queue q).desc.toNat 0x38 63 0 = 0 →
    a.jobEvent q code index info = a.mapQueue q (fun k => { k with evcnt := k.evcnt + 1 })) ∧
  -- where no port sleeps, no write is under way and no droop stops the bank, no access has to wait on its way (R22, R213, R253, R328)
  (∀ (a : Arch) (d pa len : Nat) (w : Bool), a.lowPort = [] → a.reqs = [] → a.writeBacks = [] → a.bankStopped (a.place pa) = false →
    a.reachHeld d pa len w = none)

end Sys2Proof.Machine

/-- Launches release their units, and units and levels end (R31, R33 to R38, R46 to R49; log entries 56, 68 and 69). -/
def Obligations.UnitsAndLevelsRun : Prop := LaunchesRelease ∧ UnitsAndLevelsEnd

namespace Sys2Proof.Machine

/-- No line of memory is cached in a stash or on its way home, no exact sum is pending, no port sleeps, and nothing is poisoned. -/
def Arch.allHome (a : Arch) : Prop :=
  a.writeBacks = [] ∧ (∀ e ∈ a.cores, e.2.stashLine = []) ∧ (∀ b, (a.brick b).dets = []) ∧ a.lowPort = [] ∧
    ∀ l, a.poisoned l = false

/-- A swap freezes every member of a running unit, and once nothing of it is under way saves it and leaves its contexts as after
reset; for a unit of one core, memory then holds at its save area the image of `saveImage`, as the frozen context gives it once results
due at the freeze have landed; a restore brings every member back from its save area (R305, R307, R308). Before a swap is saved its
matrix commands run to their ends, and its channels are asked to pause once they have (R157, R240, R305; log entry 26). -/
def SwapsFreezeAndReload : Prop :=
  ∀ (u : Nat) (e : ExecUnit) (s : State), s.arch.unit u = some e → e.cores.Nodup → e.cores ≠ [] → e.ctx < 2 → e.fate = none →
    let x := e.ctx
    let frozen := (s.arch.swapBegin e).swapPause e
    let out := s.arch.swapOut u
    (e.swapped = false → (∀ c ∈ e.cores, (s.arch.ctx c x).atBoundary = true) → s.arch.deaf e.cores = false →
      (frozen.swapReady e = false → FrontActs (.swapOut u) s out ∧ out = frozen ∧
        ∀ c ∈ e.cores, (out.ctx c x).status = .swapping ∧ (out.ctx c x).pc = (s.arch.ctx c x).pc) ∧
      (frozen.swapReady e = true → frozen.swapError e = none → frozen.swapHeld e = none → FrontActs (.swapOut u) s out ∧
        (∃ w, out.unit u = some w ∧ w.swapped = true ∧ w.fate = none ∧ ∀ c ∈ e.cores, ∃ k, (c, k) ∈ w.kept ∧
          k.pc = (s.arch.ctx c x).pc ∧ k.bt = (s.arch.ctx c x).bt) ∧
        (∀ c ∈ e.cores, out.ctx c x = Context.reset) ∧
        (∀ c, e.cores = [c] → s.arch.allHome → s.arch.reqs = [] → (s.arch.core c).stashOf x = [] →
          (∃ b o, s.arch.place (s.arch.saveArea c x) = .stack b o) →
          let saved := ((frozen.swapSettle c x).2.saveImage c x 0).foldl (fun m p =>
            Memory.write m (s.arch.saveArea c x + p.1) p.2.1 p.2.2) s.arch.mem
          ∀ pa, Memory.read out.mem pa 1 = Memory.read saved pa 1))) ∧
    (∀ (v : Launch), e.swapped = true → e.kept.map Prod.fst = e.cores → s.arch.launch e.launch = some v →
      s.arch.canRestore e = true → (∀ p ∈ s.arch.launches, ∀ w, p.2 = some w → w.released = true) → s.arch.allHome → s.arch.reqs = [] →
      (∀ c ∈ e.cores, (∃ b o, s.arch.place (s.arch.saveArea c x) = .stack b o) ∧ s.arch.savedGroups c x = 0) →
      let back := s.arch.swapRestore u
      FrontActs (.swapRestore u) s back ∧
      back.unit u = some { e with swapped := false, kept := [], wanted := false, groups := [] } ∧
      ∀ c ∈ e.cores,
        let word (o : Nat) : Nat := Memory.read s.arch.mem (s.arch.saveArea c x + o) 8
        let k := back.ctx c x
        k.status = .running ∧
        k.pc = word 0 % 2 ^ 18 / 2 * 2 ∧ k.lc = BitVec.ofNat 64 (word 0x10) ∧
        k.trap.swapcnt = BitVec.ofNat 16 (word 0x58 / 2 ^ 16) + 1 ∧
        (∀ i, 0 < i → i < 64 → SMap.get 0 k.g i = BitVec.ofNat 64 (word (0x100 + 8 * i))) ∧
        (∀ i, i < 8 → k.readM i = BitVec.ofNat 64 (word (0x300 + 8 * i))) ∧
        ∀ i, i < 256 → SMap.get (0 : VReg) k.v i =
          BitVec.ofNat 4096 (Memory.read s.arch.mem (s.arch.saveArea c x + 0x4000 + 512 * i) 512))

/-- What a save area holds where (R308): the header's first words, the register files and the channels. -/
def SaveAreaLayout : Prop :=
  ∀ (a : Arch) (c x stash : Nat),
    let t := a.ctx c x
    let holds (off len v : Nat) : Prop := (off, len, v) ∈ a.saveImage c x stash
    holds 0x08 8 (t.bt % 2 ^ 64) ∧ holds 0x10 8 t.lc.toNat ∧ holds 0x18 8 t.ec.toNat ∧ holds 0x28 8 (4 * t.mpc.toNat) ∧
    holds 0x38 8 t.trap.tvec.toNat ∧ holds 0x40 8 t.trap.tcause.toNat ∧ holds 0x48 8 t.trap.tbundle.toNat ∧
    holds 0x50 8 t.trap.tinfo.toNat ∧ holds 0x60 8 t.ring.evbase.toNat ∧ holds 0x70 8 t.ring.evhead.toNat ∧
    (∀ i, i < 64 → holds (0x100 + 8 * i) 8 (SMap.get 0 t.g i).toNat) ∧ (∀ i, i < 8 → holds (0x300 + 8 * i) 8 (t.readM i).toNat) ∧
    (∀ i, i < 16 → holds (0x400 + 128 * i) 128 (t.readK i).toNat) ∧ (∀ i, i < 16 → holds (0xF00 + 8 * i) 8 (t.readTl i).toNat) ∧
    (∀ n, n < 16 → holds (0x2000 + 128 * n) 8 (t.chan n).src.toNat) ∧
    (∀ i, i < 256 → holds (0x4000 + 512 * i) 512 (SMap.get (0 : VReg) t.v i).toNat)

end Sys2Proof.Machine

/-- A swap saves a unit in the layout of R308 and a restore brings it back (R305, R307, R308; log entry 26). -/
def Obligations.SwapsSaveAndRestore : Prop := SwapsFreezeAndReload ∧ SaveAreaLayout

/-- A halt request, or a breakpoint at the pc, halts a context with nothing under way; clearing HREQ or a debug step takes
its registers back from the save area and lets it run, the step for one issue (R311, R312). That a step takes the registers back
too, and what is read where, is the model's choice (log entries 26 and 41). -/
def Obligations.DebuggerHaltsAndResumes : Prop :=
  ∀ (c x : Nat) (s : State), s.arch.members c x = [c] → x < 2 → s.arch.reqs = [] → s.arch.allHome →
    let t := s.arch.ctx c x
    let d := (s.arch.core c).dbg
    let halts (i : Instr) : Prop := ∃ u : State, exec i s = .next u ∧ (u.arch.ctx c x).status = .debugHalted ∧
      (u.arch.ctx c x).pc = t.pc ∧ (u.arch.ctx c x).bt = t.bt
    let runs (i : Instr) (once : Bool) : Prop := ∃ u : State, exec i s = .next u ∧ (u.arch.ctx c x).status = .running ∧
      (u.arch.ctx c x).stepOnce = once ∧ u.arch.mem = s.arch.mem ∧
      ∀ i, 0 < i → i < 64 → SMap.get 0 (u.arch.ctx c x).g i =
        BitVec.ofNat 64 (Memory.read s.arch.mem (s.arch.saveArea c x + 0x100 + 8 * i) 8)
    (t.atBoundary = true → t.stepOnce = false → t.chans = [] →
      (d.hreq x = true → halts (.haltRequest c x)) ∧
      (t.wait = none → t.bubbles = 0 → (let bp := if x = 0 then d.bpa else d.bpb
        bp.getLsbD 0 = true ∧ bp.toNat / 2 % 2 ^ 17 = t.pc / 2 % 2 ^ 17) → halts (.breakpoint c x))) ∧
    (t.status = .debugHalted → (∃ b o, s.arch.place (s.arch.saveArea c x) = .stack b o) →
      (d.hreq x = false → d.cleared x = true → runs (.haltRelease c x) false) ∧
      (d.hreq x = true → d.stepping x = true → runs (.debugStep c x) true))

-- ## Queues and packets (13 R272 to R297; 02 R29 to R33)

namespace Sys2Proof.Machine

/-- A queue is registered from an aligned descriptor in a stack that meets R273, with READ = WRITE = 0, and refused with
ERR 1 otherwise, be it misaligned, elsewhere, not to be read, or against R273; deregistering stops parsing; a doorbell moves WRITE forward by up to 2^LOG2 beyond READ (R273 to R275). -/
def QueuesRegister : Prop :=
  ∀ (q w : Nat) (s : State), s.arch.firmware = true →
    let pa := s.arch.qdesc.toNat
    let k := s.arch.queue q
    let d := (BitVec.ofNat 32 w - k.write).toNat
    let room := 2 ^ dw k.desc.toNat 0x08 4 0
    let stack : Prop := ∃ b o, s.arch.place pa = .stack b o
    let after (i : Instr) (a : Arch) : Prop := exec i s = .next (s.setArch (s.arch.frontTo a.frontDone))
    (q < 4096 → k.armed = false → stack → pa % 128 = 0 → ∀ bs m, s.arch.fePhys pa 128 = (some bs, m) →
      m.queueBad (ofBytes bs) = false → (m.queue q).pubs = [] → FrontActs (.queueArm q) s (s.arch.arm q) ∧
        let n := (s.arch.arm q).queue q
        n.armed = true ∧ n.read = 0 ∧ n.write = 0 ∧ n.desc = BitVec.ofNat 1024 (ofBytes bs) ∧ n.descPa = pa ∧ n.err = 0 ∧
        n.job = some m.nextId ∧ n.phase = some (m.nextId + 1)) ∧
    (q < 4096 → k.armed = false → (¬ stack ∨ pa % 128 ≠ 0) →
      after (.queueArm q) (s.arch.mapQueue q (fun k => { k with err := 1 }))) ∧
    (q < 4096 → k.armed = false → stack → pa % 128 = 0 → ∀ x m, s.arch.fePhys pa 128 = (x, m) →
      (x = none ∨ ∃ bs, x = some bs ∧ m.queueBad (ofBytes bs) = true) →
      after (.queueArm q) (m.mapQueue q (fun k => { k with err := 1 }))) ∧
    after (.queueDeregister q) (s.arch.mapQueue q (fun k => { k with armed := false, mapped := false })) ∧
    (k.armed = true → 0 < d → d < 2 ^ 31 → (BitVec.ofNat 32 w - k.read).toNat ≤ room →
      let a := s.arch.hostBell q w
      FrontActs (.qdb q w) s a ∧ (a.queue q).write = BitVec.ofNat 32 w ∧ (a.queue q).read = k.read ∧ (a.queue q).armed = true) ∧
    (k.armed = true → 0 < d → d < 2 ^ 31 → room < (BitVec.ofNat 32 w - k.read).toNat →
      after (.qdb q w) (s.arch.mapQueue q (fun k => { k with err := 2 }))) ∧
    (k.armed = true → (d = 0 ∨ 2 ^ 31 ≤ d) → after (.qdb q w) s.arch)

/-- A QPUB doorbell whose accesses have all been performed is applied to its queue, or refused with an event that gives
the reason: not armed, QPUB disabled, another ASID, or out of range (R291). -/
def DoorbellsArrive : Prop :=
  ∀ (b : Doorbell) (s : State), s.arch.firmware = true → s.arch.doorbells = [b] → s.arch.reqs = [] → s.arch.writeBacks = [] →
    s.arch.lowPort = [] →
    let k := s.arch.queue b.queue
    let d := (BitVec.ofNat 32 b.w - k.write).toNat
    let far := 2 ^ dw k.desc.toNat 0x08 4 0 < (BitVec.ofNat 32 b.w - k.read).toNat
    let refused (reason : Nat) : Prop := OpActs (.qpubDoorbell 0) s (({ s.arch with doorbells := [] } : Arch).post b.core
      ⟨0x0B, b.ctx, b.bt % 2 ^ 32, BitVec.ofNat 64 (b.queue + 2 ^ 12 * reason + 2 ^ 32 * b.w)⟩)
    let open_ := k.desc.getLsbD 71 = true
    let same := dw k.desc.toNat 0x08 19 8 = b.asid.toNat
    (k.armed = false → refused 1) ∧ (k.armed = true → ¬ open_ → refused 2) ∧ (k.armed = true → open_ → ¬ same → refused 3) ∧
    (k.armed = true → open_ → same → 0 < d → d < 2 ^ 31 → far → refused 4) ∧
    (k.armed = true → open_ → same → 0 < d → d < 2 ^ 31 → ¬ far →
      let a := s.arch.bellArrives 0
      OpActs (.qpubDoorbell 0) s a ∧ a.doorbells = [] ∧ (a.queue b.queue).write = BitVec.ofNat 32 b.w ∧
        (a.queue b.queue).read = k.read)

end Sys2Proof.Machine

/-- Queues are registered and deregistered, and doorbells move WRITE or are refused (R273 to R275, R291). -/
def Obligations.QueuesTakeDoorbells : Prop := QueuesRegister ∧ DoorbellsArrive

namespace Sys2Proof.Machine

/-- A worker takes the packet at READ of queue `q`, sound and of type `t`, not cancelled with the unit that published it nor in a phase
that is, and with no broken chain before it: `m` is the module once READ has moved on. -/
def Arch.takes (a : Arch) (q t : Nat) (p : Packet) (m : Arch) : Prop :=
  let k := a.queue q
  let i := k.read.toNat
  a.mayParse q = true ∧ dw p.raw.toNat 0 7 0 = t ∧ packetBad p.raw.toNat = false ∧
  k.dead.contains i = false ∧
  p = { index := i, raw := p.raw, progress := .waiting, level := none
        unit := (k.pubs.find? (fun e => e.1 == i)).map Prod.snd, phase := k.phase, desc := k.desc, stale := false, named := []
        evals := [] } ∧
  (∃ n, a.nextPacket q = (some p.raw.toNat, n) ∧ m = (n.mapQueue q (fun k => { k with
    read := k.read + 1
    pubs := k.pubs.filter (fun e => e.1 != k.read.toNat)
    dead := k.dead.filter (fun j => j != k.read.toNat) })).mirror q) ∧
  (t = 7 ∨ ∃ l v, m.phaseOf q = some (l, v) ∧ v.cancelled = false) ∧ (pktAchain p.raw = true → m.chainBroken q = false) ∧
  m.packetDepth p < 16 ∧ a.opq.length < 256

/-- Packet NOP is complete at once; SIGNAL acts on its signal; LAUNCH, CODED and GRAPH join their phase and create a level
that counts their units, operator or nodes; PHASE_END closes the phase, and with LAST the job (R276 to R285, R287). That a CODED level
begins with PENDING 1 is by inference (log entry 36). -/
def PacketsAreProcessed : Prop :=
  ∀ (q : Nat) (p : Packet) (m : Arch) (s : State),
    let r := p.raw.toNat
    let regs := queueRegs p.desc
    let ends (a : Arch) (ok : Bool) : Arch := (a.completeSignal p.desc q p.index (pktSignal r) (pktVector r) false).keepPacket q
      { p with progress := if ok then .complete else .failed }
    let created (a : Arch) (l : Nat) (kind : LevelKind) (pending : Nat) : Prop :=
      (∃ v, a.level l = some v ∧ v.kind = kind ∧ v.pending = pending ∧ v.state = .waiting ∧ v.queue = q ∧ v.index = p.index ∧
        v.signal = pktSignal r ∧ v.record = pktRecord r ∧ v.parent = (m.queue q).phase ∧ v.unit = p.unit) ∧
      { p with progress := .started, level := some l } ∈ (a.queue q).packets
    (s.arch.takes q 1 p m → FrontActs (.packetNop q) s (ends m true)) ∧
    (s.arch.takes q 6 p m →
      let x := m.signalOp p.desc q p.index (pktBody r 0) (pktBody r 2) (pktBody r 1)
      FrontActs (.packetSignal q) s (ends x.2 x.1)) ∧
    (∀ d image presets n, s.arch.takes q 2 p m → m.readLaunch regs (pktBody r 0) = (some (d, image, presets), n) →
      (n.queue q).phase = (m.queue q).phase →
      let a := m.launchBody q p
      FrontActs (.packetLaunch q) s a ∧ created a n.nextId .launch (ldNunits d) ∧
        ∃ v, a.launch n.nextId = some v ∧ v.level = some n.nextId ∧ v.queue = some q ∧ v.desc = BitVec.ofNat 2048 d ∧
          v.image = image ∧ v.presets = presets ∧ v.released = false ∧ v.regs = launchRegs regs d) ∧
    (∀ pa n, s.arch.takes q 3 p m → m.feXlate regs (pktBody r 0) true false = (some pa, n) →
      (n.queue q).phase = (m.queue q).phase →
      let a := m.codedBody q p
      OpActs (.packetCoded q) s a ∧ created a n.nextId .coded 1 ∧
        a.opq = n.opq ++ [⟨pa, pktBody r 0, regs, none, some n.nextId, some q, none, 0, false⟩]) ∧
    (∀ ns n, s.arch.takes q 4 p m → m.readNodes regs (pktBody r 0) (pktBody r 1) (pktBody r 1) = (some ns, n) →
      graphOk ns = true → (n.queue q).phase = (m.queue q).phase →
      let a := m.graphBody q p
      FrontActs (.packetGraph q) s a ∧ created a n.nextId .graph (pktBody r 1) ∧
        a.graph n.nextId = some ⟨n.nextId, q, ns, false⟩) ∧
    (∀ j v, s.arch.takes q 7 p m → (m.queue q).job = some j → m.level j = some v →
      let a := m.phaseBody q p
      FrontActs (.packetPhaseEnd q) s a ∧
      (pktBody r 1 = 1 → (a.queue q).phase = none ∧ ∃ w, a.level j = some w ∧ w.isOpen = false) ∧
      (pktBody r 1 = 0 → (a.queue q).phase = some m.nextId ∧
        ∃ w, a.level m.nextId = some w ∧ w.kind = .phase ∧ w.isOpen = true ∧ w.pending = 0 ∧ w.parent = some j ∧
          w.record = pktBody r 0))

/-- BARRIER_AND ends once every signal it names is 0, aborts once one is negative or its address fails, and waits otherwise, at its
processing and at each evaluation after a write to one of them (R287 to R289). -/
def BarrierAndWaits : Prop :=
  ∀ (q : Nat) (p : Packet) (m : Arch) (s : State),
    let r := p.raw.toNat
    let left (vs : List Word) : Progress :=
      if ∃ v ∈ vs, v.msb = true then .aborted else if ∀ v ∈ vs, v = 0 then .complete else .started
    let shows (a : Arch) (g : Progress) : Prop := ∃ e ∈ (a.queue q).packets, e.index = p.index ∧ e.raw = p.raw ∧ e.progress = g
    let started : Packet := { p with progress := .started }
    let names (a : Arch) : Option (List Nat) × Arch :=
      a.namedSignals (queueRegs p.desc) (((upTo 5).map (pktBody r)).filter (fun v => v != 0))
    (s.arch.takes q 5 p m → FrontActs (.packetBarrierAnd q) s (m.barrierBody q p) ∧
      ∀ ps n, names (m.keepPacket q started) = (some ps, n) → started ∈ (n.queue q).packets →
        shows (m.barrierBody q p) (left ((n.mapQueue q (fun k => { k with packets := k.packets.map (fun e =>
          if e = started then { started with named := ps } else e) })).signalValues ps).1)) ∧
    (s.arch.firmware = true → (s.arch.queue q).packets = [p] → p.progress = .started → p.level = none → ∀ vs rest,
      p.evals = vs :: rest →
      FrontActs (.barrierAndEvaluate q) s (s.arch.evalQueue q) ∧
      (∀ ps n, names s.arch = (some ps, n) → p ∈ (n.queue q).packets → shows (s.arch.evalQueue q) (left vs)) ∧
      (∀ n, names s.arch = (none, n) → (n.queue q).packets = [p] → shows (s.arch.evalQueue q) .aborted))

/-- A completion signal is decremented by one atomic at its home, or, to abort, takes the minimum with -1 (R286, R289). -/
def SignalsCountDown : Prop :=
  ∀ (a : Arch) (pa : Nat), a.allHome → (∀ b, (a.brick b).dets = []) → pa % 8 = 0 → (∃ b o, a.place pa = .stack b o) →
    let old := Memory.read a.mem pa 8
    (a.signalAtomic pa 0 minusOne).mem = Memory.write a.mem pa 8 ((old + (2 ^ 64 - 1)) % 2 ^ 64) ∧
    (a.signalAtomic pa 2 minusOne).mem = Memory.write a.mem pa 8 (if old < 2 ^ 63 then 2 ^ 64 - 1 else old)

end Sys2Proof.Machine

/-- Packets are processed in order and completion signals act (R276 to R287, R289; log entry 36). -/
def Obligations.PacketsAct : Prop := PacketsAreProcessed ∧ SignalsCountDown

namespace Sys2Proof.Machine

/-- A graph is admitted, in order, once every slice has room for its nodes; a node without predecessors left fires its
launch or its operator (R282, R283). -/
def GraphsFire : Prop :=
  ∀ (g n : Nat) (v : Graph) (s : State), s.arch.firmware = true → s.arch.graph g = some v →
    let need (b : Nat) : Nat := (v.nodes.filter (fun k => k.slice == b && !k.progress.ended)).length
    (v.admitted = false → (∀ e ∈ s.arch.graphs, e.1 < g → e.2.map Graph.admitted ≠ some false) →
      (∀ b, b < 8 → (s.arch.brick b).nodes + need b ≤ 1024) →
      let a := s.arch.admitGraph g
      FrontActs (.graphAdmit g) s a ∧ a.graph g = some { v with admitted := true } ∧
        ∀ b, b < 8 → (a.brick b).nodes = (s.arch.brick b).nodes + need b) ∧
    (∀ k w, v.admitted = true → v.nodes[n]? = some k → k.progress = .waiting → k.preds = 0 →
      s.arch.level v.level = some w → w.cancelled = false →
      let regs := queueRegs w.desc
      let a := s.arch.fireNode g n
      let fired (l : Nat) : Prop := a.graph g = some (v.mapNode n (fun k => { k with progress := .started, level := some l }))
      FrontActs (.nodeFire g n) s a ∧
      (∀ pa m, k.coded = true → k.desc % 128 = 0 → s.arch.feXlate regs k.desc true false = (some pa, m) →
        s.arch.opq.length < 256 → m.graph g = some v →
        fired m.nextId ∧ a.opq = m.opq ++ [⟨pa, k.desc, regs, none, some m.nextId, some w.queue, none, 0, false⟩]) ∧
      (∀ d image presets m, k.coded = false → s.arch.readLaunch regs k.desc = (some (d, image, presets), m) → m.graph g = some v →
        fired m.nextId ∧ ∃ x, a.launch m.nextId = some x ∧ x.released = false ∧
          x.level = some m.nextId ∧ x.desc = BitVec.ofNat 2048 d ∧ x.image = image ∧ x.presets = presets))

end Sys2Proof.Machine

/-- BARRIER_AND waits for its signals, and graphs are admitted and fire their nodes (R282, R283, R287 to R289). -/
def Obligations.BarriersAndGraphs : Prop := BarrierAndWaits ∧ GraphsFire

/-- Slots pass to waiting queues after 100 microseconds (R293); a hung worker is restarted and a lock-step mismatch stops
the front end (R297); charges count against the budget of a period, which starts anew each millisecond (R295). -/
def Obligations.SlotsWorkersAndEnergy : Prop :=
  ∀ (q uj : Nat) (s : State),
    let k := s.arch.queue q
    let budget := dw k.desc.toNat 0x40 47 16
    s.arch.firmware = true →
    (∀ h rest, s.arch.readyList = h :: rest → h ≠ q → k.mapped = true → k.mappedAt + 300000 ≤ s.arch.clock →
      let a := s.arch.timeslice q
      FrontActs (.slotTimeslice q) s a ∧ (a.queue q).mapped = false ∧ (a.queue h).mapped = true ∧
        (a.queue h).mappedAt = s.arch.clock ∧ ∃ tail, a.readyList = rest ++ tail ∧ (tail = [] ∨ tail = [q])) ∧
    (s.arch.mayParse q = true → FrontActs (.workerTimeout q) s { s.arch with workerRestarts := s.arch.workerRestarts + 1 }) ∧
    (let a := ({ s.arch with boot := { s.arch.boot with state := .fwfault } } : Arch).interrupt 0
     FrontActs .lockstepMismatch s a ∧ a.boot.state = .fwfault ∧ a.interrupts = s.arch.interrupts ++ [0] ∧ a.mem = s.arch.mem) ∧
    (budget ≠ 0 → k.armed = true → k.charge + uj < budget →
      FrontActs (.energyCharge q uj) s (s.arch.mapQueue q (fun k => { k with charge := k.charge + uj }))) ∧
    (budget ≠ 0 → k.armed = true → budget ≤ k.charge + uj → k.throttled = false →
      let a := s.arch.charge q uj
      FrontActs (.energyCharge q uj) s a ∧ (a.queue q).throttled = true ∧ (a.queue q).mapped = false ∧
        (a.queue q).charge = k.charge + uj) ∧
    (s.arch.periodStart < s.arch.now / 1000000 →
      let a := s.arch.period
      FrontActs .accountingPeriod s a ∧ a.periodStart = s.arch.now / 1000000 ∧
      ∀ i, a.queue i = { s.arch.queue i with charge := 0, throttled := false, throttleEvent := false })

-- ## Coded operators (12 R256 to R271)

namespace Sys2Proof.Machine

/-- The dispatcher opens the oldest request in the lowest free set, running the tasks of its descriptor, or posts OPBAD for
one whose descriptor cannot be read (R262, R263). -/
def OperatorsOpen : Prop :=
  ∀ (r : OpReq) (rest : List OpReq) (n : Nat) (s : State), s.arch.firmware = true → s.arch.opq = r :: rest → s.arch.opReady r = true →
    (upTo 64).find? (fun i => (s.arch.op i).isNone) = some n →
    (∀ bs m, s.arch.fePhys r.pa 128 = (some bs, m) →
      let d := ofBytes bs
      let a := { m with opq := rest }
      let tile := a.opTile d
      let record := tile.2.recordAt r.regs d
      let bar := if opBar d = 0 then (some 0, record.2) else record.2.opBarAt r.regs d
      opOuter d = false → opBad d = false → record.1.isSome = true → bar.1.isSome = true →
      (bar.2.opSpace r.regs d tile.1).1 = true → (∀ b, (a.brick b).lost = false) →
      let u := s.arch.openOp
      OpActs .operatorOpen s u ∧ u.opq = rest ∧
        (∃ o, u.op n = some o ∧ o.state = .opened ∧ o.closed = none ∧ o.desc = BitVec.ofNat 1024 (d % 2 ^ 768) ∧ o.opened = a.clock ∧ o.usable = 0 ∧
          o.tasks.map Task.state = (upTo 8).map (fun j => if j ∈ opTasks d then .running else .absent)) ∧
        ∀ j ∈ opTasks d, ∃ l v, u.launch l = some v ∧ v.task = some (n, j) ∧ v.base = 32 * opBrick d j + d / 2 ^ 16 % 32 ∧
          v.released = false) ∧
    (∀ c x bt m, s.arch.fePhys r.pa 128 = (none, m) → r.src = some (c, x, bt) → r.outer = none → r.level = none → m.deaf [c] = false →
      OpActs .operatorOpen s (({ m with opq := rest } : Arch).post c ⟨0x0A, x, bt % 2 ^ 32, BitVec.ofNat 64 r.va⟩))

/-- A task's return writes its tile and records its checksum; the grace period closes an operator, TMAX one that has too few, which
fails; a repointing unit takes a closed one, which makes its STATE 2, and finishes one without parities, its checksum the sum of its
tasks' (R264 to R267). A time of expiry closes once its dispatcher cycle is over, so that reports of that cycle count (R265; log
entry 40). -/
def OperatorsClose : Prop :=
  ∀ (n j u i : Nat) (e : ExecUnit) (v : Launch) (o : OpSet) (s : State), s.arch.op n = some o →
    let d := o.desc.toNat
    let c := e.cores.headD 0
    -- the fabric cycle of the time `t` of an expiry is over, so that every report of it counts before it
    let comes (t : Nat) : Prop := 2 * t / 3 < 2 * s.arch.clock / 3
    (o.state = .opened → o.closed = none → o.overdue s.arch.clock = false → s.arch.unit u = some e → s.arch.launch e.launch = some v → v.task = some (n, j) → e.fate = some .complete →
      s.arch.unitQuiet u e = true → (s.arch.brick (c / 32)).lost = false → (s.arch.ctx c e.ctx).exact = false →
      j < o.tasks.length → i ≠ j → (∃ t, o.tasks[i]? = some t ∧ t.state = .running) →
      ∀ ss m, s.arch.slotReach o j true = (some ss, m) → m.op n = some o →
      let xs := (s.arch.core c).engine.tile (d / 2 ^ 64 % 2 ^ 12) (opRows d)
      let a := (s.arch.returnTask u s.fresh).2
      OpActs (.taskReturn u) s a ∧ a.mem = (m.copyWrite ss (tileBytes xs)).mem ∧ a.unit u = none ∧
        ∃ w, a.op n = some w ∧ w.state = .opened ∧ w.tasks[j]? = some { (o.tasks.getD j ⟨.absent, none, 0⟩) with
          state := .usable, cs := tileSum xs } ∧ ∀ k, k ≠ j → w.tasks[k]? = o.tasks[k]?) ∧
    (∀ t, o.state = .opened → o.closed = none → o.tk = some t → comes (t + d / 2 ^ 384 % 2 ^ 32 * 3000) → opK d ≤ o.usables →
      OpActs (.graceExpiry n) s (s.arch.graceExpires n) ∧ ∃ w, (s.arch.graceExpires n).op n = some w ∧ w.state = .opened ∧
        w.closed.isSome = true ∧ w.usable = o.maskOf .usable ∧ w.inex = o.maskOf .inexact) ∧
    (let tmax := d / 2 ^ 416 % 2 ^ 32
     o.state = .opened → o.closed = none → tmax ≠ 0 → o.usables < opK d → comes (o.opened + tmax * 3000) →
      OpActs (.tmaxExpiry n) s (s.arch.tmaxExpires n) ∧ (s.arch.tmaxExpires n).op n = none) ∧
    (o.state = .opened → o.closed.isSome = true → s.arch.unitFree o = true →
      OpActs (.repointingDecode n) s (s.arch.decode n) ∧ (s.arch.decode n).op n = some { o with state := .decoding }) ∧
    (o.state = .decoding → s.arch.ops = [(n, some o)] → opR d = 0 → o.usable = BitVec.ofNat 8 (2 ^ opK d - 1) →
      OpActs (.repointingDecode n) s (s.arch.opFinish n { o with
        rebuilt := 0, faulty := 0, brick := 0
        cksum := BitVec.ofNat 64 (((upTo (opK d)).map (fun k => (o.tasks.getD k ⟨.absent, none, 0⟩).cs.toNat)).sum) } .done 0))

end Sys2Proof.Machine

/-- Coded operators open in a set, gather their tasks and close (R262 to R265, R267, R269). -/
def Obligations.OperatorsOpenAndClose : Prop := OperatorsOpen ∧ OperatorsClose

/-- The elimination of R266 gives back any data values whose tasks are missing, from as many parities as are missing,
whenever the parities are those of R256 (R256, R266). -/
def Obligations.MissingTilesAreRebuilt : Prop :=
  ∀ (ms ps : List Nat) (x : Nat → Int), ms.Nodup → ps.Nodup → ps.length = ms.length → (∀ m ∈ ms, m < 8) → (∀ p ∈ ps, p < 3) →
    (∀ m ∈ ms, -2 ^ 63 ≤ x m ∧ x m ≤ 2 ^ 63 - 1) →
    solveElem ms ps (ps.map (fun p => (ms.map (fun m => coeff m p * x m)).sum)) = some (ms.map x)

-- ## Reductions and links (15 R319 to R324; 09 R213 to R216, R425)

/-- REDGO enters a descriptor while there is room for 16 and its read need not wait for a port or the window rule, and leaves a reason
for one that is misaligned, which is the model's (log entry 43); a stream is held until its descriptor is first and every
contribution is there, and then the fold is written, sent and signalled, an operand in another module being asked for first; a stream
nobody names is dropped after TMO, and a failure leaves its reason, 3 where a port has not answered in time (R22, R253, R321 to R324).
-/
def Obligations.ReductionsRun : Prop :=
  ∀ (pa p tag : Nat) (data : List Byte) (s : State),
    let a := s.arch
    let q := pa % 2 ^ 56
    (a.red.queue.length < 16 → q % 64 = 0 → (∃ b o, a.place q = .stack b o) → a.readable q 64 = true →
      a.reachHeld 8 q 64 false = none →
      ∃ t : State, exec (.redgo pa) s = .next t ∧ t.arch.red.queue =
        a.red.queue ++ [⟨BitVec.ofNat 512 (a.homeRead q 64).1, a.clock, none⟩] ∧ t.arch.red.reason = a.red.reason) ∧
    (∀ m, a.red.queue.length < 16 → q % 64 = 0 → (∃ b o, a.place q = .stack b o) → a.reachHeld 8 q 64 false = some m →
      exec (.redgo pa) s = .next (s.setArch m)) ∧
    (a.red.queue.length < 16 → q % 64 ≠ 0 → exec (.redgo pa) s = .next (s.setArch { a with red := { a.red with reason := 1 } })) ∧
    (∀ r, a.redWaiter = some r → a.red.queue.length < 16 → exec .redgoAdmit s = .next (s.setArch (a.performReq r))) ∧
    ((a.link p).state = .up → exec (.reductionStreamArrive p tag data) s = .next (s.setArch
      { a with red := { a.red with held := a.red.held ++ [⟨p, tag, data, a.clock⟩] } })) ∧
    (∀ w, a.red.stream p tag = some w → w.since + a.links.tmo.toNat * 3000000 < a.clock →
      (∀ e ∈ a.red.queue, redTag e.raw.toNat = tag → (redRx e.raw.toNat).testBit p = false) →
      exec (.reductionStreamTimeout p tag) s = .next (s.setArch { a with red := { a.red with held := a.red.held.erase w } })) ∧
    (∀ d src dst ss, a.redNext = .go d src dst ss → a.redFar d ≠ [] → a.red.askedAt = none → ∃ r rs, a.red.queue = r :: rs ∧
      exec .reductionComplete s =
        .next (s.setArch { a with red := { a.red with queue := { r with asked := some a.clock } :: rs } })) ∧
    (∀ d src dst ss t tmo n, a.redNext = .go d src dst ss → p ∈ a.redFar d → a.red.askedAt = some t → t + tmo ≤ a.clock →
      a.redHolds d false = none → a.linkReduction p tmo n = a.redFail d 3 n) ∧
    (∀ d src dst ss, a.redNext = .go d src dst ss → a.redFar d = [] ∨ a.red.askedAt.isSome = true → a.redHolds d true = none →
      (∀ q ∈ a.reqs, q.st ≠ .parked) →
      let ty := redVType (redType d)
      let r := a.copyRead [(redSrc d, src, redLen d)]
      let bs := redBytes ty (redFold ty (redOp d) (redElems ty r.1) (ss.map (fun w => redElems ty w.data)))
      let w := r.2.copyWrite [(redDst d, dst, redLen d)] bs
      let u : Arch := { w with red := { w.red with
        held := ss.foldl (fun h x => h.erase x) w.red.held
        sent := w.red.sent ++ (portsOf (redTx d)).map (fun p => ⟨p, redTag d, bs, w.clock⟩) } }
      ∃ t : State, exec .reductionComplete s = .next t ∧ t.fresh = s.fresh ∧
        t.arch.mem = (u.redSignalOp (redSignal d) false).mem ∧
        t.arch.red.sent = a.red.sent ++ (portsOf (redTx d)).map (fun p => ⟨p, redTag d, bs, a.clock⟩) ∧
        t.arch.red.held = ss.foldl (fun h w => h.erase w) a.red.held ∧
        t.arch.red.queue.map Reduction.raw = (a.red.queue.map Reduction.raw).drop 1) ∧
    (∀ d reason, a.redNext = .fail d reason → reason < 256 → a.redHolds d false = none → ∃ t : State, exec .reductionComplete s = .next t ∧
      t.arch.red.reason.toNat = reason ∧ t.arch.red.queue.map Reduction.raw = (a.red.queue.map Reduction.raw).drop 1 ∧
      t.arch.red.sent = a.red.sent)

namespace Sys2Proof.Machine

/-- A lintel port trains up, counts replays, and goes down with a link event after 64 failures in a row; a request without
a response faults its copy, or rejects a start whose template it asks for (R228, R319 to R321). Mortar ports sleep and wake (R213); a Brick without heartbeats for 1 ms is lost, and what
its stack holds is poisoned, a heartbeat, or an interrupt, waiting where a port sleeps (R22, R214 to R216). What else these rows do is the model's (log
entries 44 to 46). -/
def LinksAndDies : Prop :=
  ∀ (p d b : Nat) (s : State),
    let a := s.arch
    let l := a.link p
    let low := SMap.get 0 a.lowPort (d * 8 + p)
    let after (i : Instr) (t : Arch) : Prop := exec i s = .next (s.setArch t)
    (∀ peer, a.links.enable.getLsbD p = true → l.state ≠ .up → after (.portTrained p peer)
      (a.mapLink p (fun l => { l with state := .up, peer := BitVec.ofNat 8 peer, failsInRow := 0 }))) ∧
    (l.state = .up → ∃ m : Arch, m = (a.mapLink p (fun l => { l with
        retry := if l.retry = 0xFFFFFFFF then l.retry else l.retry + 1, failsInRow := 0 })).sets (.retry p) ∧
      exec (.linkReplay p true) s = .next (s.setArch m.opDone.frontDone.anyway)) ∧
    (l.state = .up → l.failsInRow = 63 → ∃ (m : Arch) (k : Nat),
      exec (.linkReplay p false) s = .next { s with arch := m.opDone.frontDone.anyway, fresh := s.fresh + k } ∧
        (m.link p).state = .down ∧ m.interrupts = a.interrupts ++ [1]) ∧
    (∀ c x n w t, a.ops = [] → a.red.queue = [] → a.startChans = [(c, x, n)] → ((a.ctx c x).chan n).start = some w →
      ((a.ctx c x).chan n).asked = some t → t + a.links.tmo.toNat * 3000000 ≤ a.clock → a.activeChans = [] →
      (∀ va, (a.readTemplate c x n ((a.ctx c x).templateVa w)).1 ≠ .fault va) →
      (∃ va, ((a.without p).readTemplate c x n ((a.ctx c x).templateVa w)).1 = .fault va) →
      FrontGoes (.linkTimeout p) s (fun m =>
        let h := (m.ctx c x).chan n
        h.state = .reject ∧ h.code = 11 ∧ h.start = none)) ∧
    (∀ c x n code va, a.ops = [] → a.red.queue = [] → a.startChans = [] → a.activeChans = [(c, x, n)] → a.linkFault p c x n = some (code, va) →
      ((a.ctx c x).chan n).cancel = false → (∃ t, ((a.ctx c x).chan n).asked = some t ∧ t + a.links.tmo.toNat * 3000000 ≤ a.clock) →
      FrontGoes (.linkTimeout p) s (fun m =>
        let h := (m.ctx c x).chan n
        h.state = .fault ∧ h.code = BitVec.ofNat 8 code ∧ h.faddr = BitVec.ofNat 64 va)) ∧
    (let woken : Arch := { a with lowPort := SMap.set 0 a.lowPort (d * 8 + p) 0 }
     (a.syncq = [] → after (.portWake d p) woken) ∧
     ∀ e v, a.syncq = [(e, v)] → after (.portWake d p) (if woken.routeSleeps e 8 then woken else ({ woken with syncq := [] } : Arch).interrupt v)) ∧
    ((∀ e ∈ a.cores, ∀ x ∈ e.2.ctxs, x.2.detm = false) → low = 0 →
      after (.mortarPortLowPower d p) { a with lowPort := SMap.set 0 a.lowPort (d * 8 + p) 1 }) ∧
    (low = 1 → (∃ m ∈ a.snoops, m.crosses d p = true ∧ m.since + 30000 ≤ a.clock) → after (.portWakeTimeout d p)
      { a with wakeEvents := a.wakeEvents ++ [(d, p)], lowPort := SMap.set 0 a.lowPort (d * 8 + p) 2 }) ∧
    (a.routeSleeps b 8 = true → after (.heartbeat b) a) ∧
    ((a.brick b).lost = false → a.routeSleeps b 8 = false → after (.heartbeat b) (a.mapBrick b (fun k => { k with lastBeat := a.clock }))) ∧
    ((a.brick b).lost = false → (a.brick b).lastBeat + 3000000 ≤ a.clock → FrontGoes (.dieLost b) s (fun m =>
      (m.brick b).lost = true ∧ ∀ line o, a.place (line * 128) = .stack b o → m.poisoned line = true))

end Sys2Proof.Machine

-- ## Windows, time, power and heat (11 R252 to R255; 15 R325 to R328)

namespace Sys2Proof.Machine

/-- Markers, closures and announcements of windows (R252 to R255), and the time base: an offset steps the time while no
queue is armed and never backward, and is slewed otherwise; that a PTP offset replaces the slew still owed is the model's (R325; log
entry 44). -/
def WindowsAndTime : Prop :=
  ∀ (d h : Nat) (off : BitVec 64) (locked : Bool) (s : State),
    let a := s.arch
    let w := a.windows
    let held (m : SMap Nat) (i j : Nat) : Nat := SMap.get 0 m (i * 9 + j)
    let reaches (i j : Nat) : Prop := a.routeSleeps i j = false ∧ (i < 8 → (a.brick i).lost = false)
    (reaches d h → ∃ t : State, exec (.windowMarker d h) s = .next t ∧ held t.arch.windows.marked h d = a.window ∧
      ∀ i, i ≠ h * 9 + d → SMap.get 0 t.arch.windows.marked i = SMap.get 0 w.marked i) ∧
    ((∀ q ∈ a.reqs, q.op.writes = true → (a.place q.hpa).home ≠ h ∨ q.core / 32 ≠ d ∨ q.win = none) →
      (∀ q ∈ a.writeBacks, (a.place q.pa).home ≠ h ∨ q.core / 32 ≠ d ∨ q.win = none) →
      ∃ t : State, exec (.windowClose h d) s = .next t ∧
        held t.arch.windows.closed h d = max (held w.closed h d) (held w.marked h d)) ∧
    (∀ q, a.reqs = [q] → a.writeBacks = [] → q.op.writes = true → (a.place q.hpa).home = h → q.core / 32 = d → ∀ n, q.win = some (n + 1) →
      ∃ t : State, exec (.windowClose h d) s = .next t ∧
        held t.arch.windows.closed h d = max (held w.closed h d) (min (held w.marked h d) n)) ∧
    (reaches h d → (∀ e, e < 8 → (a.brick e).lost = false) → ∃ t : State, exec (.windowAnnounce h d) s = .next t ∧
      (∀ e, e < 9 → held t.arch.windows.announced h d ≤ max (held w.closed h e) (held w.announced h d)) ∧
      held w.announced h d ≤ held t.arch.windows.announced h d ∧
      ((∀ e, e < 9 → held w.closed h e = held w.closed h 0) →
        held t.arch.windows.announced h d = max (held w.closed h 0) (held w.announced h d))) ∧
    exec (.stretchClr d) s = .next (s.setArch { a with windows := { w with stretch := SMap.set 0 w.stretch d 0 } }) ∧
    ((∀ q ∈ a.queues, q.2.armed = false) → 0 ≤ off.toInt → exec (.tadj off) s = .next (s.setArch
      { a with time := { a.time with offset := a.time.offset + off.toInt } })) ∧
    ((∃ q ∈ a.queues, q.2.armed = true) ∨ off.toInt < 0 → exec (.tadj off) s = .next (s.setArch
      { a with time := { a.time with slew := a.time.slew + off.toInt } })) ∧
    (a.time.gm = true → exec (.ptpSync off locked) s = .next s) ∧
    (a.time.gm = false → ∃ t : State, exec (.ptpSync off locked) s = .next t ∧ t.arch.time.locked = locked ∧
      t.arch.time.offset + t.arch.time.slew = a.time.offset + off.toInt ∧ a.time.offset ≤ t.arch.time.offset)

end Sys2Proof.Machine

/-- Links train, replay and time out, dies are lost, and windows and time move on (R213 to R216, R252 to R255, R319 to R321, R325; log
entries 44 to 46). -/
def Obligations.LinksWindowsAndTime : Prop := LinksAndDies ∧ WindowsAndTime

namespace Sys2Proof.Machine

/-- The power clamp steps up above the limit and down below 95% of it (R327); a thermal trip ends every unit and tells the
host, a warning is told once per crossing, over ports that are awake (R22, R327, R328); a droop alarm omits edges, and then halves
issue, accesses of contexts in deterministic mode to the core's banks being performed first (R65, R328; log entry 85). That a trip discards
requests, snoops and fills and ends units at once, and that a reading of 110 degrees trips, is the model's (log entry 48). -/
def PowerHeatAndDroop : Prop :=
  ∀ (watts b c deg : Nat) (s : State),
    let a := s.arch
    let p := a.power
    let k := a.core c
    let h := (a.brick (c / 32)).health
    (watts < 2048 → ∃ t : State, exec (.powerSample watts) s = .next t ∧ t.arch.power.power.toNat = watts ∧
      t.arch.power.clamp.toNat =
        (if p.limit.toNat < watts then min 15 (p.clamp.toNat + 1)
         else if watts * 100 < p.limit.toNat * 95 then p.clamp.toNat - 1 else p.clamp.toNat)) ∧
    (p.tripped = false → FrontGoes .thermalTrip s (fun u => u.power.tripped = true ∧ u.interrupts = a.interrupts ++ [2] ∧
      u.reqs = [] ∧ u.snoops = [] ∧ u.fills = [] ∧ ∀ i, u.unit i = none)) ∧
    (p.tripped = true → FrontGoes .thermalTrip s (fun u => u = a)) ∧
    (110 ≤ deg → p.tripped = false → FrontGoes (.thermalWarning b deg) s (fun u => u.power.tripped = true ∧ ∀ i, u.unit i = none)) ∧
    (deg < 110 → a.routeSleeps b 8 = false → ∃ t : State, exec (.thermalWarning b deg) s = .next t ∧ (t.arch.brick b).health.tmax.toNat = deg ∧
      (t.arch.brick b).health.warned = decide (p.thwarn.toNat ≤ deg) ∧
      t.arch.interrupts = (if p.thwarn.toNat ≤ deg ∧ (a.brick b).health.warned = false then a.interrupts ++ [2] else a.interrupts)) ∧
    (h.en = true → k.stretchLeft ≤ 1 → let m := a.pushBanks c
      ∃ t : State, exec (.droopAlarm c) s = .next t ∧
      t.arch.core c = { m.core c with stretchLeft := h.dstretch.toNat + 1, halfLeft := 0, phase := 0 } ∧
      (t.arch.brick (c / 32)).health.droopcnt.toNat = min (2 ^ 32 - 1) ((m.brick (c / 32)).health.droopcnt.toNat + 1) ∧
      ((∀ e ∈ a.cores, ∀ x ∈ e.2.ctxs, x.2.detm = false) → m = a)) ∧
    (h.en = false → exec (.droopAlarm c) s = .next s) ∧
    (k.stretchLeft = 1 → exec (.droopStretchEnd c) s = .next (s.setArch (a.setCore c
      { k with stretchLeft := 0, halfLeft := h.dwin.toNat + 1, phase := 0 }))) ∧
    (k.halfLeft = 1 → exec (.droopWindowEnd c) s = .next (s.setArch (a.setCore c { k with halfLeft := 0, phase := 0 })))

end Sys2Proof.Machine

-- ## The host port, boot and reset (15 R313 to R318, R329, R330; 00 R5 to R7)

namespace Sys2Proof.Machine

/-- The host reads registers and memory and writes memory; a register read clears its RC fields, an unsupported write is
logged (R5, R27, R314 to R317); a register write changes the fields its access codes allow (R5, R8). -/
def HostAndRegisters : Prop :=
  ∀ (o n : Nat) (data : List Byte) (v : BitVec 64) (s : State),
    let a := s.arch
    let reply (i : Instr) (t : Arch) (bs : Option (List Byte)) : Prop := exec i s = .next (s.setArch { t with reply := bs })
    (∀ q x, placeInModule o = .quoin q → a.quoinPeek q = some x → reply (.hostRead o 8) (a.quoinClear q) (some (toBytes 8 x))) ∧
    (∀ q, placeInModule o = .quoin q → (n ≠ 8 ∨ q % 8 ≠ 0 ∨ a.quoinPeek q = none) → reply (.hostRead o n) a none) ∧
    (∀ c i, placeInModule o = .spad c i → 0 < n → i % 0x8000 + n ≤ 0x8000 → (a.brick (c / 32)).lost = false →
      SMap.get none (a.core c).window (i / 0x8000) = none → a.hostHeld o n false = none →
      reply (.hostRead o n) a (some (toBytes n (Memory.read a.mem (a.spadPa c i) n)))) ∧
    (∀ c i, placeInModule o = .spad c i → data ≠ [] → i % 0x8000 + data.length ≤ 0x8000 → (a.brick (c / 32)).lost = false →
      SMap.get none (a.core c).window (i / 0x8000) = none → a.hostHeld o data.length true = none →
      OpActs (.hostWrite o data) s { a with mem := Memory.writeBytes a.mem (a.spadPa c i) data }) ∧
    (∀ q, placeInModule o = .quoin q → data.length = 8 → q % 8 = 0 → a.quoinPeek q = none →
      OpActs (.hostWrite o data) s { a with unsupported := a.unsupported + 1 }) ∧
    (∀ q, placeInModule o = .quoin q → (data.length ≠ 8 ∨ q % 8 ≠ 0) →
      let touched := (upTo ((q % 8 + data.length + 7) / 8)).map (fun i => a.quoinPeek (q / 8 * 8 + 8 * i))
      OpActs (.hostWrite o data) s (if none ∈ touched then { a with unsupported := a.unsupported + 1 } else a)) ∧
    (placeInModule o = .quoin 0x100 → data.length = 8 →
      OpActs (.hostWrite o data) s { a with cancels := a.cancels ++ [ofBytes data] }) ∧
    OpActs (.registerWrite 0x308 v) s { a with qdesc := v.setWidth 56 } ∧
    (∀ i, i < 256 → OpActs (.registerWrite (0x3400 + 8 * i) v) s
      { a with links := { a.links with route := SMap.set 0 a.links.route i (v.setWidth 5) } }) ∧
    OpActs (.registerWrite 0x5000 v) s { a with power := { a.power with
      limit := BitVec.ofNat 11 (min (v.toNat % 2 ^ 11) 1800), thwarn := BitVec.ofNat 8 (v.toNat / 2 ^ 11) } }

end Sys2Proof.Machine

/-- Power, heat and droop act on the cores, and the host port reads and writes registers and memory (R5, R8, R27, R314 to R318,
R326 to R328). -/
def Obligations.PowerAndHost : Prop := PowerHeatAndDroop ∧ HostAndRegisters

/-- The boot ROM verifies an image and runs it, or fails with the first cause; an attestation ends with its signature and an
interrupt (R329, R330); a cold reset leaves every register at its reset value and memory as it is (R7). What the opaque
constants of the configuration decide, where its body runs from, and memory kept over a reset, are the model's (log entries 8, 15 and
49). -/
def Obligations.BootAndReset : Prop :=
  ∀ (s : State),
    let a := s.arch
    let b := a.boot
    let fails (m : Arch) (cause : BitVec 8) : Prop := exec .bootVerifyDone s = .next (s.setArch (s.arch.frontTo
      (Arch.frontDone { m with boot := { m.boot with state := .failed, cause := cause } })))
    exec .bootStart s = .next (s.setArch { a with boot := { b with state := .verifying, cause := 0 } }) ∧
    (b.state = .verifying → ∀ (x : Option (List Byte)) (m : Arch), a.bootImage = (x, m) →
      (x.bind Config.imageFields = none → fails m 4) ∧
      (∀ key svn body sig, x.bind Config.imageFields = some (key, svn, body, sig) →
        (sha512 key ≠ Config.pkhash → fails m 1) ∧
        (sha512 key = Config.pkhash → svn < Config.minsvn → fails m 3) ∧
        (sha512 key = Config.pkhash → ¬ svn < Config.minsvn → Config.ecdsaVerify key (sha512 body) sig = false → fails m 2) ∧
        (sha512 key = Config.pkhash → ¬ svn < Config.minsvn → Config.ecdsaVerify key (sha512 body) sig = true →
          let t := m.bootRuns svn body
          FrontActs .bootVerifyDone s t ∧ t.boot.state = .running ∧ t.boot.svn = svn ∧ t.boot.sram = body ∧
            t.boot.meas = sha512 (toBytes 64 m.boot.meas.toNat ++ sha512Bytes body) ∧ t.mem = m.mem))) ∧
    (b.busy = false → exec .attgo s = .next (s.setArch { a with boot := { b with busy := true } })) ∧
    (b.busy = true → exec .attgo s = .next s ∧ ∃ t : State, exec .attestationDone s = .next t ∧ t.arch.boot.busy = false ∧
      t.arch.boot.done = true ∧ t.arch.boot.meas = b.meas ∧ t.arch.interrupts = a.interrupts ++ [3] ∧ t.fresh = s.fresh + 1) ∧
    exec .coldReset s = .next { s with arch := { Arch.reset with mem := a.mem, modnum := a.modnum }, iss := Issue.reset }

-- ## Traps, commits, frames, stepping and encodings (02 R40; 03 R56 to R60, R72, R74; 04 R77 to R104; 11 R243; 14 R299 to R304, R309; 18 R384)

namespace Sys2Proof.Machine

/-- A program trap with its vector on is taken in the handler: the cause, the bundle and the information are saved, results
under way go to the latches with the delay they have left, and the pc goes to the vector; no register of the program and no
other context changes (R299, R302 to R304). That a fatal trap writes TCAUSE as well is the model's (log entry 20). -/
def TrapsEnterTheHandler : Prop :=
  ∀ (a : Arch) (c x cause slot step arg info left : Nat), x < 2 →
    let t := a.ctx c x
    let vec := (a.ctx (a.leadOf c x) x).trap.tvec
    let word : Word := BitVec.ofNat 64 (cause + 2 ^ 8 * slot + 2 ^ 16 * step + 2 ^ 24 * arg)
    let b := a.raise c x cause slot step arg info left
    let u := b.ctx c x
    b.mem = a.mem ∧ (∀ c' x', c' ≠ c ∨ x' ≠ x → b.ctx c' x' = a.ctx c' x') ∧
    (u.g = t.g ∧ u.p = t.p ∧ u.k = t.k ∧ u.v = t.v ∧ u.m = t.m ∧ u.a = t.a ∧ u.tl = t.tl ∧ u.lc = t.lc ∧ u.bt = t.bt) ∧
    (vec.getLsbD 0 = true → t.trap.tmode = false → cause ≠ 0x0D →
      u.trap = { t.trap with tcause := word, tbundle := BitVec.ofNat 64 (t.pc % 2 ^ 18), tinfo := BitVec.ofNat 64 info, tmode := true
                             repleft := left, hbt := 0 } ∧
      u.pc = vec.toNat % 2 ^ 18 / 2 * 2 ∧ u.owed = none ∧ u.bubbles = 0 ∧ u.status = t.status ∧ u.inflight = [] ∧
      u.latched = t.inflight.map (fun e => { e with due := e.due - t.bt }) ∧ u.wait = none ∧ u.latchedWait = t.wait) ∧
    (vec.getLsbD 0 = false ∨ t.trap.tmode = true ∨ cause = 0x0D →
      u.status = .failing ∧ u.dying = cause ∧ u.pc = t.pc ∧ u.trap.tcause = word ∧ ∀ w, u.wait = some w → w.kind ≠ .trap)

/-- A fatal trap ends its unit FAILED once every result has arrived: the debug block names the cause, the context is idle
and owns no bank group (R309). -/
def FatalTrapsEndTheUnit : Prop :=
  ∀ (a : Arch) (u c : Nat) (e : ExecUnit), a.unit u = some e → e.cores = [c] → e.ctx < 2 → e.fate = none →
    (a.ctx c e.ctx).status = .failing → (∀ w, (a.ctx c e.ctx).wait = some w → w.kind ≠ .trap) → (∀ r ∈ a.reqs, r.core = c → r.ctx = e.ctx → r.tag = none) →
    a.saveHeld c e.ctx (maskOf ((a.core c).stashOf e.ctx)) = none →
    let b := a.finishFailing u e
    (b.unit u).map ExecUnit.fate = some (some .failed) ∧ (b.ctx c e.ctx).status = .idle ∧ (b.ctx c e.ctx).inflight = [] ∧
    (if e.ctx = 0 then (b.core c).dbg.fcausea else (b.core c).dbg.fcauseb) = BitVec.ofNat 8 (a.ctx c e.ctx).dying ∧
    (if e.ctx = 0 then (b.core c).dbg.fvalida else (b.core c).dbg.fvalidb) = true ∧
    ∀ g, SMap.get Owner.free (b.core c).owner g ≠ ownerOf e.ctx

end Sys2Proof.Machine

/-- A trap enters the handler, and a fatal one ends its unit FAILED (R299, R302 to R304, R309; log entry 20). -/
def Obligations.TrapsAreTaken : Prop := TrapsEnterTheHandler ∧ FatalTrapsEndTheUnit

namespace Sys2Proof.Machine

/-- A trapping slot voids its bundle: the module is as it was before the bundle but for the trap taken, with the issues still
owed in REPLEFT, and the bundle's remaining slots do nothing (R74, R302). -/
def TrapsVoidTheBundle : Prop :=
  ∀ (s : State) (cause slot step arg info : Nat),
    let u := s.trapNow cause slot step arg info
    u.arch = s.view.raise s.iss.core s.iss.ctx cause slot step arg info (s.rd.owed.getD (s.iss.rep + 1)) ∧
    u.iss.trapped = true ∧ u.iss.accs = [] ∧ u.tape = s.tape ∧
    ∀ (i : Instr) (e : Enc) (t : State), i.enc = some e → e.kind ≠ .u → t.iss.trapped = true → exec i t = .next t

/-- The machine at the last slot of a bundle that has found no hold, trap or access of its own. -/
structure Bare (s : State) : Prop where
  last : s.iss.left ≤ 1
  held : s.iss.held = none
  accs : s.iss.accs = []
  rows : s.iss.rows = []
  room : (s.arch.core s.iss.core).landing ≤ 3072

end Sys2Proof.Machine

/-- TRAP n enters the handler once its bundle has committed and what is due with it has arrived, until when the context waits, naming
its own bundle and owing no issue; and the return from a handler goes to the saved address, skips that bundle where nothing is owed, and
replays the latches; the members of a gang return together, once every result of every member has arrived (R302, R304, R384, R422). That
XRET commits and then waits for results still to come, or leaves at once where there are none, is the model's (log entry 21). -/
def Obligations.SoftwareTrapsAndReturns : Prop :=
  (∀ (s : State) (n : Nat), Bare s → s.iss.trapAfter = some n → n < 256 → s.iss.branch = .none → s.iss.rep = 0 → s.cur.owed = none →
    s.iss.ctx < 2 → s.cur.trap.tmode = false →
    let vec := (s.arch.ctx (s.arch.leadOf s.iss.core s.iss.ctx) s.iss.ctx).trap.tvec
    vec.getLsbD 0 = true →
    let u := s.slotDone.cur
    let here := s.cur.inflight.all (fun e => decide (s.cur.bt + 1 < e.due) || e.parts == 0)
    (here = false → u.wait = some ⟨.trap, s.rd.pc, n, false, 0⟩ ∧ u.trap = s.cur.trap ∧ u.bt = s.cur.bt + 1) ∧
    (here = true → u.trap.tmode = true ∧ u.trap.repleft = 0 ∧ u.trap.tinfo = 0 ∧ u.bt = s.cur.bt + 1 ∧
    u.trap.tbundle = BitVec.ofNat 64 (s.rd.pc % 2 ^ 18) ∧ u.trap.tcause = BitVec.ofNat 64 (0x0E + 2 ^ 24 * n) ∧
    u.pc = vec.toNat % 2 ^ 18 / 2 * 2)) ∧
  (∀ (a : Arch) (c x : Nat), x < 2 →
    let t := a.ctx c x
    let b := a.xretLeave c x
    let u := b.ctx c x
    let at_ := t.trap.tbundle.toNat % 2 ^ 18 / 2 * 2
    (t.inflight.any (fun e => decide (e.parts ≠ 0)) = true →
      b = a.setCtx c x { t with wait := some ⟨.xret, 0, 0, false, 0⟩ }) ∧
    (t.inflight.all (fun e => decide (e.parts = 0)) = true →
      u.trap = { t.trap with tmode := false } ∧ u.bt = t.bt ∧ u.bubbles = 0 ∧ u.wait = t.latchedWait ∧ u.latched = [] ∧
      u.inflight = t.latched.map (fun e => { e with due := e.due + t.bt }) ∧
      (t.trap.repleft = 0 → u.owed = none ∧
        u.pc = at_ + bundleLen (Memory.read (a.core (a.leadOf c x)).imem at_ 2)) ∧
      (t.trap.repleft ≠ 0 → u.owed = some t.trap.repleft ∧ u.pc = at_)) ∧
    ((a.members c x).length ≤ 1 → a.xretIssued c x = b) ∧
    (1 < (a.members c x).length → a.xretIssued c x = a.setCtx c x { t with wait := some ⟨.xret, 0, 0, false, 0⟩ }) ∧
    (∀ cs, c ∈ cs → (t.status ≠ .running ∨ t.wait.map Wait.kind ≠ some .xret ∨
      t.inflight.any (fun e => decide (e.parts ≠ 0)) = true) → a.gangLeave x cs = a) ∧
    (t.status = .running → t.wait.map Wait.kind = some .xret → t.inflight.all (fun e => decide (e.parts = 0)) = true →
      a.gangLeave x [c] = (a.setCtx c x { t with wait := none }).xretLeave c x))

namespace Sys2Proof.Machine

/-- A register file, physical number and value that a result gives. -/
def landsOn (t : Context) (f : RFile) (r : Nat) (e : Pend) : Bool := e.file == f && e.reg == r && decide (e.due ≤ t.bt + 1)

end Sys2Proof.Machine

/-- A bundle without accesses that commits changes its context only: bundle time counts one issue, the pc moves past the
bundle once no issue is owed, or to the target of a transfer, and a register changes exactly where a result falls due, the
latest issued winning: of a vector or mask register lane by lane, among the results whose lane mask takes the lane, the others keeping
what they hold at landing; a result for an a register gives the register and a walk position of 0, or, from SADV, the position only
(R56 to R60, R67, R68, R80, R192, R243, R375). -/
def Obligations.CommitsAdvanceOneContext : Prop :=
  ∀ s : State, Bare s → s.iss.trapAfter = none → s.cur.trap.tmode = false →
    let t := s.cur
    let d := s.slotDone
    let u := d.cur
    let n := t.owed.getD (s.iss.rep + 1)
    (s.iss.branch = .none ∨ (∃ pc b, s.iss.branch = .to pc b)) →
    { d.arch with cores := [] } = { s.arch with cores := [] } ∧
    (∀ c, { d.arch.core c with ctxs := [] } = { s.arch.core c with ctxs := [] }) ∧
    (∀ c x, c ≠ s.iss.core ∨ x ≠ s.iss.ctx → d.arch.ctx c x = s.arch.ctx c x) ∧
    u.bt = t.bt + 1 ∧ u.trap = t.trap ∧ u.ring = t.ring ∧ u.lc = t.lc ∧ u.ec = t.ec ∧ u.rg = t.rg ∧ u.tl = t.tl ∧ u.wait = t.wait ∧
    (s.iss.branch = .none → n ≤ 1 → u.pc = t.pc + s.iss.len ∧ u.owed = none) ∧
    (s.iss.branch = .none → 1 < n → u.pc = t.pc ∧ u.owed = some (n - 1)) ∧
    (∀ pc b, s.iss.branch = .to pc b → u.pc = pc ∧ u.bubbles = b ∧ u.owed = none) ∧
    (∀ r, t.inflight.any (landsOn t .g r) = false → SMap.get 0 u.g r = SMap.get 0 t.g r) ∧
    (∀ r, t.inflight.any (landsOn t .p r) = false → SMap.get false u.p r = SMap.get false t.p r) ∧
    (∀ r, t.inflight.any (landsOn t .k r) = false → SMap.get 0 u.k r = SMap.get 0 t.k r) ∧
    (∀ r, t.inflight.any (landsOn t .v r) = false → SMap.get 0 u.v r = SMap.get 0 t.v r) ∧
    (∀ r, t.inflight.any (landsOn t .m r) = false → SMap.get 0 u.m r = SMap.get 0 t.m r) ∧
    (∀ r, t.inflight.any (landsOn t .a r) = false → SMap.get 0 u.a r = SMap.get 0 t.a r ∧ SMap.get 0 u.apos r = SMap.get 0 t.apos r) ∧
    (∀ r i, (∀ q ∈ t.inflight, landsOn t .v r q = true → q.mask.getLsbD i = false) →
      (SMap.get (0 : VReg) u.v r).getLsbD i = (SMap.get (0 : VReg) t.v r).getLsbD i) ∧
    (∀ r i, (∀ q ∈ t.inflight, landsOn t .k r q = true → q.mask.getLsbD i = false) →
      (SMap.get (0 : BitVec 1024) u.k r).getLsbD i = (SMap.get (0 : BitVec 1024) t.k r).getLsbD i) ∧
    (∀ (xs ys : List Pend) (e : Pend), t.inflight = xs ++ e :: ys →
      t.inflight.all (fun q => decide (t.bt + 1 < q.due) || q.parts == 0) = true →
      let last (f : RFile) : Prop := landsOn t f e.reg e = true ∧ ys.any (landsOn t f e.reg) = false
      let lastOn (f : RFile) (i : Nat) : Prop := landsOn t f e.reg e = true ∧ e.mask.getLsbD i = true ∧
        ∀ q ∈ ys, landsOn t f e.reg q = true → q.mask.getLsbD i = false
      (last .g → e.reg ≠ 0 → SMap.get 0 u.g e.reg = e.val.setWidth 64) ∧
      (last .p → e.reg ≠ 0 → SMap.get false u.p e.reg = e.val.getLsbD 0) ∧
      (last .m → SMap.get 0 u.m e.reg = e.val.setWidth 64) ∧
      (∀ i, lastOn .k i → e.reg ≠ 0 → i < 1024 → (SMap.get (0 : BitVec 1024) u.k e.reg).getLsbD i = e.val.getLsbD i) ∧
      (∀ i, lastOn .v i → i < 4096 → (SMap.get (0 : VReg) u.v e.reg).getLsbD i =
        (if e.expand then BitVec.ofNat 4096 (expandBlock e.val.toNat) else e.val).getLsbD i) ∧
      (last .a → SMap.get 0 u.apos e.reg = if e.mask = 0 then e.val.toNat else 0) ∧
      (landsOn t .a e.reg e = true → e.mask ≠ 0 → (∀ q ∈ ys, landsOn t .a e.reg q = true → q.mask = 0) →
        SMap.get 0 u.a e.reg = e.val.setWidth 256))

namespace Sys2Proof

/-- The instructions that only issue results to registers: arithmetic, compares, predicates, constants, clocks, counter
reads, the V slot and the X slot but for the two that post events. -/
def Instr.registerOnly : Instr → Bool
  | .add _ | .sub _ | .mul _ | .mulh _ | .mulhn _ | .div _ | .divn _ | .mod _ | .modn _ | .and _ | .or _ | .xor _ | .andn _
  | .shl _ | .shr _ | .sar _ | .min _ | .max _ | .minn _ | .maxn _ => true
  | .clz .. | .ctz .. | .popc .. | .bfx .. | .bfi .. | .sext .. | .zext .. | .cmp .. | .cmpi .. => true
  | .pand .. | .por .. | .pxor .. | .pnot .. | .pget .. | .pset .. => true
  | .addi .. | .andi .. | .ori .. | .xori .. | .shli .. | .shri .. | .sari .. | .movi .. | .movhi .. | .lit .. => true
  | .tstamp .. | .cycles .. | .tlread .. => true
  | .vadd _ | .vsub _ | .vmul _ | .vmulh _ | .vfma _ | .vfms _ | .vmin _ | .vmax _ | .vabs _ | .vneg _ | .vand _ | .vor _
  | .vxor _ | .vshl _ | .vshr _ | .vsar _ | .vcmp _ | .vsel _ | .vmov _ | .vsplat _ | .vbcast _ | .vperm _ | .vslide _
  | .vext _ | .vins _ | .vcvt _ | .vwadd _ | .vwmul _ | .vwfma _ | .vnarr _ | .vdot _ | .vredadd _ | .vredmax _
  | .vredmin _ | .vscan _ | .vexp2 _ | .vlog2 _ | .vrcp _ | .vrsq _ | .vtanh _ | .vclz _ | .vpopc _ | .viota _ | .vcomp _
  | .vdrop .. | .vrand _ | .kand _ | .kor _ | .kxor _ | .knot _ | .kcnt _ => true
  | .xexp .. | .xpak .. | .xtrn .. | .xcvt .. | .xdqn .. => true
  | _ => false

end Sys2Proof

namespace Sys2Proof.Machine

/-- A result goes to a register that the instruction names, under the name's present rotation (R59, R103). -/
def goesTo (t : Context) (i : Instr) (e : Pend) : Prop :=
  ∃ n, (e.file = .g ∧ (DestFile.g, n) ∈ i.dests ∧ e.reg = t.physG n) ∨ (e.file = .p ∧ (DestFile.p, n) ∈ i.dests ∧ e.reg = t.physP n) ∨
    (e.file = .k ∧ (DestFile.k, n) ∈ i.dests ∧ e.reg = n) ∨ (e.file = .v ∧ (DestFile.v, n) ∈ i.dests ∧ e.reg = t.physV n)

/-- The frame of the register instructions: a slot of one adds results, of its own destinations and due later, to its
context, and leaves every register, flag, special register, access and byte of memory of every context as it was (R58,
R59, R72, R103); only TSTAMP notes the time it gave, which is the model's (log entry 74). -/
def RegisterInstructionsKeepTheRest : Prop :=
  ∀ (i : Instr) (s t : State), i.registerOnly = true → i.wf = true → s.iss.trapped = false → 2 ≤ s.iss.left →
    exec i s = .next t →
    { t.arch with cores := [] } = { s.arch with cores := [] } ∧
    (∀ c, { t.arch.core c with ctxs := [], stamp := 0 } = { s.arch.core c with ctxs := [], stamp := 0 }) ∧
    (∀ c, c ≠ s.iss.core ∨ (∀ p d, i ≠ .tstamp p d) → (t.arch.core c).stamp = (s.arch.core c).stamp) ∧
    (∀ c x, c ≠ s.iss.core ∨ x ≠ s.iss.ctx → t.arch.ctx c x = s.arch.ctx c x) ∧
    t.iss = { s.iss with left := s.iss.left - 1 } ∧ t.tape = s.tape ∧ t.fresh = s.fresh ∧
    ∃ es : List Pend, t.cur = { s.cur with inflight := s.cur.inflight ++ es } ∧
      ∀ e ∈ es, e.parts = 0 ∧ s.cur.time < e.due ∧ goesTo s.rd i e

/-- No slot of any instruction writes memory or touches another context before its bundle commits, whether it completes,
traps, holds or waits (R74, R243). -/
def SlotsKeepToTheirContext : Prop :=
  ∀ (i : Instr) (e : Enc) (s t : State) (a : Arch), i.enc = some e → e.kind ≠ .u → s.iss.ctx < 2 → 2 ≤ s.iss.left →
    s.iss.pre = some a → a.mem = s.arch.mem →
    (∀ c x, c ≠ s.iss.core ∨ x ≠ s.iss.ctx → a.ctx c x = s.arch.ctx c x) → exec i s = .next t →
    t.arch.mem = s.arch.mem ∧ (∀ c x, c ≠ s.iss.core ∨ x ≠ s.iss.ctx → t.arch.ctx c x = s.arch.ctx c x) ∧ t.tape = s.tape

end Sys2Proof.Machine

/-- What slots leave alone: a register instruction adds results of its own destinations only, and no slot writes memory or
another context (R58, R59, R74, R103, R243). -/
def Obligations.SlotFrames : Prop := RegisterInstructionsKeepTheRest ∧ SlotsKeepToTheirContext

namespace Sys2Proof.Machine

/-- A guarded-off slot does nothing, but an M slot advances the metadata PC (R72). -/
def GuardedOffSlotsDoNothing : Prop :=
  ∀ (i : Instr) (e : Enc) (s : State), i.enc = some e → e.kind ≠ .u → i.wf = true → s.iss.trapped = false →
    s.iss.follow = none → s.guard (bits e.word 4 0) = false →
    exec i s = .next (if e.kind = .m ∧ s.iss.mpcSet = false then (s.upd (fun t => { t with mpc := t.mpc + 1 })).slotDone
      else s.slotDone)

end Sys2Proof.Machine

/-- A trapping slot voids its bundle, and a guarded-off slot does nothing (R72, R74, R302). -/
def Obligations.VoidedAndGuardedSlots : Prop := TrapsVoidTheBundle ∧ GuardedOffSlotsDoNothing

namespace Sys2Proof.Machine

/-- A core-local access alone in its bundle, on a quiet core, with the bundle's last slot at hand. -/
structure QuietNear (s : State) (p sz off : Nat) : Prop where
  runs : Runs s p
  bare : Bare s
  pre : s.iss.pre = some s.arch
  plain : s.iss.trapAfter = none ∧ s.iss.branch = .none ∧ s.iss.rep = 0 ∧ s.cur.owed = none ∧ s.cur.trap.tmode = false
  size : sz < 4 ∧ off < 0x60000 ∧ off % 2 ^ sz = 0
  core : s.iss.core < 256 ∧ s.iss.ctx < 2 ∧ (s.iss.ctx = 1 → s.arch.leadOf s.iss.core 1 = s.iss.core)
  clock : (s.arch.core s.iss.core).stopped = false
  idle : s.arch.reqs = [] ∧ s.arch.writeBacks = [] ∧ s.cur.inflight = [] ∧ s.cur.latched = [] ∧ s.cur.acqs = [] ∧ s.cur.chans = []
  mine : s.arch.touchable s.iss.core s.iss.ctx (off / 0x8000)
  window : (s.arch.core s.iss.core).window = []

/-- What such a bundle leaves as it was: every register of its context and every other context. -/
def keepsRegisters (s t : State) : Prop :=
  t.cur.g = s.cur.g ∧ t.cur.p = s.cur.p ∧ t.cur.k = s.cur.k ∧ t.cur.v = s.cur.v ∧ t.cur.m = s.cur.m ∧ t.cur.a = s.cur.a ∧
  t.cur.tl = s.cur.tl ∧ t.cur.trap = s.cur.trap ∧ t.cur.ring = s.cur.ring ∧ t.cur.lc = s.cur.lc ∧
  (∀ c x, c ≠ s.iss.core ∨ x ≠ s.iss.ctx → t.arch.ctx c x = s.arch.ctx c x) ∧
  t.cur.pc = s.cur.pc + s.iss.len ∧ t.cur.bt = s.cur.bt + 1

end Sys2Proof.Machine

/-- ST alone in its bundle writes the low bytes of its source at its scratchpad address as the bundle commits, and no other
byte of memory; LD reads the bytes there, and its destination alone receives them four cycles later (R61, R89, R159, R350, R377). -/
def Obligations.NearAccessesArePerformedAtCommit : Prop :=
  ∀ (x : MemArgs) (s : State) (off : Nat), QuietNear s x.p x.sz off →
    addrOf (s.rd.readG x.a) x.off (2 ^ x.sz) = 0xFE00000000000000 + off →
    let pa := s.arch.spadPa s.iss.core off
    let n := 2 ^ x.sz
    (∃ t, exec (.st x) s = .next t ∧ keepsRegisters s t ∧ t.arch.reqs = [] ∧ t.cur.inflight = [] ∧
      Memory.read t.arch.mem pa n = (s.rd.readG x.d).toNat % 2 ^ (8 * n) ∧
      ∀ b, b < pa ∨ pa + n ≤ b → Memory.byte t.arch.mem b = Memory.byte s.arch.mem b) ∧
    (∃ t e, exec (.ld x) s = .next t ∧ keepsRegisters s t ∧ t.arch.reqs = [] ∧ t.arch.mem = s.arch.mem ∧
      t.cur.inflight = [e] ∧ e.file = .g ∧ e.reg = (if x.d = 0 then 0 else s.rd.physG x.d) ∧ e.parts = 0 ∧
      e.due = s.cur.bt + 4 ∧ e.val.toNat = Memory.read s.arch.mem pa n)

namespace Sys2Proof.Machine

/-- What a cycle adds after context A's bundle: the debug step, the S slot noted for the event ring, what context B and the
shadow context do in the same cycle, what waited there for A's turn, and the end of the edge (R54, R63, R135, R161, R312, R328). -/
def afterBundle (c : Nat) (before : State) (occ : Nat) (t : State) : Out :=
  let t := if t.iss.held.isSome then t
    else if t.iss.trap.isSome then t.stepped c 0 else (t.setArch (t.arch.noteS occ [c])).stepped c 0
  let q := t.offer c 1
  outBind (outBind (if q.occ.isNone then q.out else .next (t.keepHold (before.offer c 1) c)) (fun t => t.shadowCycle c))
    (fun t => .next ((t.setArch ((t.arch.deferredActs c).mapCore c Core.afterEdge)).setIss t.iss.rest))

/-- A step of a core, at its next edge, fetches the bundle at the pc of context A and executes each of its slots in order as `exec`
says: where no other core's edge and no release comes before, the core may issue, B asks for nothing, and A is alone in its unit and
ready (R54 to R58, R80, R104); a release whose time comes first takes place instead (log entry 69). -/
def StepRunsTheDecodedBundle : Prop :=
  (∀ (s : State) (c : Nat) (rest : List Move) (b : Bundle), s.tape = .core c :: rest → c < 256 →
    s.arch.dueCore c = c → s.arch.releaseBy (s.arch.edgeAt c) = none →
    let s1 := ({ s with tape := rest } : State).setArch (((s.arch.drainCycle c).edge c).serveTiles (c / 32))
    let k := s1.arch.core c
    (s1.arch.brick (c / 32)).lost = false → s1.arch.power.tripped = false → k.stretchLeft ≤ 1 →
    k.permits s1.arch.power.clamp.toNat = true → k.clockHeld = false → s1.arch.members c 0 = [c] → (s1.offer c 1).occ = none →
    let s2 := s1.setArch (s1.arch.begin c 0)
    s2.arch.ready c 0 = .issue → s2.arch.fetch c 0 = .bundle b →
    let s3 := s2.begin c 0 (max 1 b.slots.length) b.len b.rep none
    b.slots.find? (s3.rd.slotFails 0) = none →
    step s = outBind (if b.slots = [] then exec (.nop b.rep) s3 else runSlots s3 b.slots)
      (afterBundle c s1 (bits b.header 6 0))) ∧
  (∀ (s : State) (c T l : Nat) (rest : List Move), s.tape = .core c :: rest → c < 256 →
    s.arch.releaseBy (s.arch.edgeAt (s.arch.dueCore c)) = some (T, l) →
    step s = ({ s with tape := rest } : State).releaseAt T l) ∧
  (∀ s : State, runSlots s [] = .next s) ∧
  (∀ (s : State) (q : Slot) (qs : List Slot) (i : Instr), q.instr = some i →
    runSlots s (q :: qs) = outBind (exec i (s.setIss { s.iss with pos := q.pos })) (fun t => runSlots t qs))

/-- Any other step runs the micro-op or the command that the engine has next, or the row that the tape names, as `exec` says
(log entry 5 says why a tape). -/
def StepRunsMicroOpsAndRows : Prop :=
  ∀ (s : State) (rest : List Move),
    let s' : State := { s with tape := rest }
    (∀ (c : Nat) (q : Call) (i : Instr), s.tape = .engine c :: rest → c < 256 → s.arch.clocked c = true → (s.arch.core c).stopped = false →
      (s.arch.core c).engine.run = some q →
      decodeMicro (q.code.getD q.pos 0) = some i → step s = exec i (s'.setIss { Issue.reset with core := c })) ∧
    (∀ (c : Nat) (m : Cmd), s.tape = .engine c :: rest → c < 256 → s.arch.clocked c = true → (s.arch.core c).stopped = false →
      (s.arch.core c).engine.run = none →
      (s.arch.core c).engine.head = some m →
      step s = exec (match m.kind with | .call => .mcallRun c | .load => .mploadInstall c | .drain => .mdrainArrive c) s') ∧
    (∀ i : Instr, s.tape = .act i :: rest → i.wf = true → i.enc = none → (∀ r, i ≠ .nop r) →
      s.arch.power.tripped = false → step s = exec i s') ∧
    (∀ n : Nat, s.tape = .elapse n :: rest → (∀ t, s.arch.nextEdge = some t → s.arch.clock + n ≤ t) →
      s.arch.releaseBy (s.arch.clock + n) = none → step s = .next (s'.setArch (s.arch.elapse n)))

end Sys2Proof.Machine

/-- A step runs what was decoded: every slot of the bundle at the pc, the next micro-op, or the row of the tape, as exec says
(R54 to R58, R80, R104). -/
def Obligations.StepsRunExec : Prop := StepRunsTheDecodedBundle ∧ StepRunsMicroOpsAndRows

namespace Sys2Proof

/-- The widths in bytes of the seven slots, and their kinds, in order S, V0, V1, M, C0, C1, X (R77, R78). -/
def slotWidth (pos : Nat) : Nat := [4, 6, 6, 4, 6, 6, 4].getD pos 0

def slotKind (pos : Nat) : SlotKind := [SlotKind.s, .v, .v, .m, .c, .c, .x].getD pos .s

/-- The bits of the slot at a position of a bundle: it follows the slots before it that the header `h` names (R77, R78). -/
def slotBits (bs : List Byte) (h pos : Nat) : Nat :=
  leNat ((bs.drop (2 + ((List.range pos).map (fun q => if h.testBit q then slotWidth q else 0)).sum)).take (slotWidth pos))

/-- The S opcodes that may not stand under REP (R73): BR, JMPI, CALL, CALLI, RET, LOOP, HALT, TRAP and XRET. -/
def noRepOpcodes : List Nat := [0x30, 0x31, 0x32, 0x33, 0x34, 0x35, 0x37, 0x38, 0x39]

/-- Which bundles are rejected, and by which check: the first that fails of steps 1 to 6 of R104, each over every slot there is; and what
a bundle that passes them all decodes to (R60, R73, R77 to R83, R103, R104). -/
def BundlesAreChecked : Prop :=
  ∀ (pc : Nat) (bs : List Byte),
    let h := leNat (bs.take 2)
    let d := decodeBundle pc bs
    let slot (pos : Nat) : Prop := pos < 7 ∧ h.testBit pos = true
    let w (pos : Nat) : Nat := slotBits bs h pos
    let lit : BitVec 32 := BitVec.ofNat 32 (if h.testBit 7 then leNat ((bs.drop (bundleLen h - 4)).take 4) else 0)
    let long : Prop := 0x40000 < pc + bundleLen h
    let badHeader : Prop := h / 2 ^ 12 % 16 ≠ 0 ∨ (h % 128 = 0 ∧ h.testBit 7 = true)
    let badGuard : Prop := ∃ pos, slot pos ∧ w pos % 32 = 0x10
    let badLiteral : Prop := h.testBit 7 = false ∧ ∃ pos, slot pos ∧ selectsLit (slotKind pos) (w pos) = true
    let badTransfer : Prop := h / 2 ^ 8 % 16 ≠ 0 ∧ slot 0 ∧ w 0 / 32 % 128 ∈ noRepOpcodes
    let sameDestination : Prop := ∃ p q i j x, p < q ∧ slot p ∧ slot q ∧ parseSlot (slotKind p) (w p) lit = some i ∧
      parseSlot (slotKind q) (w q) lit = some j ∧ x ∈ i.dests ∧ x ∈ j.dests
    (long → d = .reject .length h) ∧
    (¬ long → badHeader → d = .reject .header h) ∧
    (¬ long → ¬ badHeader → badGuard → d = .reject .guard h) ∧
    (¬ long → ¬ badHeader → ¬ badGuard → badLiteral → d = .reject .literal h) ∧
    (¬ long → ¬ badHeader → ¬ badGuard → ¬ badLiteral → badTransfer → d = .reject .repTransfer h) ∧
    (¬ long → ¬ badHeader → ¬ badGuard → ¬ badLiteral → ¬ badTransfer → sameDestination → d = .reject .sameDestination h) ∧
    (¬ long → ¬ badHeader → ¬ badGuard → ¬ badLiteral → ¬ badTransfer → ¬ sameDestination →
      d = .bundle ⟨h, h / 2 ^ 8 % 16, bundleLen h, ((List.range 7).filter (fun pos => h.testBit pos)).map (fun pos =>
        ⟨pos, w pos, decodeSlot (slotKind pos) (w pos) lit⟩)⟩)

/-- The opcodes with a literal select it by bit 31 of an S slot and bit 47 of a V slot, and no slot of another kind does (R82, R86, R93);
g0, p0 and k0 are no destinations that could be the same (R60). -/
def SelectionsAndDestinations : Prop :=
  (∀ w, selectsLit .m w = false ∧ selectsLit .c w = false ∧ selectsLit .x w = false) ∧
  (∀ w, w / 32 % 128 ∈ [1, 2, 3, 6, 0x0A, 0x14, 0x18, 0x19, 0x1C, 0x29, 0x6B, 0x6D, 0x6F] → selectsLit .s w = w.testBit 31) ∧
  (∀ w, w / 32 % 128 ∈ [0, 0x20, 0x30, 0x35, 0x38, 0x40, 0x6E] → selectsLit .s w = false) ∧
  (∀ w, w / 32 % 128 ∈ [1, 2, 3, 0x0B, 0x14, 0x1F, 0x2D] → selectsLit .v w = w.testBit 47) ∧
  ∀ (i : Instr) (f : DestFile) (n : Nat), (f, n) ∈ i.dests → f = .g ∨ f = .p ∨ f = .k → n ≠ 0

end Sys2Proof

/-- A bundle that breaks a rule of its own is an illegal encoding, by the first check it fails: its length, its header, a
guard of 0x10, a literal selected and absent, a transfer under REP, two slots with one destination; the checks of guarded-on slots
follow; each traps before any slot acts (R60, R73, R77 to R83, R102 to R104, R301). -/
def Obligations.IllegalBundlesTrap : Prop :=
  BundlesAreChecked ∧ SelectionsAndDestinations ∧
  (∀ (s : State) (c x : Nat) (r : Reject) (h : Nat), x < 2 → (s.arch.ctx c x).owed = none → ∃ u : State,
    s.issue c x (.reject r h) none = .next u ∧ u.iss.trap = some ⟨1, 7, r.step, 0, bits h 15 0⟩ ∧
    u.arch = s.arch.raise c x 1 7 r.step 0 (bits h 15 0) (bits h 11 8 + 1)) ∧
  (∀ (s : State) (c x : Nat) (b : Bundle) (q : Slot), x < 2 → b.slots.find? ((s.arch.ctx c x).slotFails x) = some q →
    ∃ u : State, s.issue c x (.bundle b) none = .next u ∧ u.iss.trap = some ⟨2, q.pos, 7, 0, q.word⟩) ∧
  Reject.length.step = 1 ∧ Reject.header.step = 2 ∧ Reject.guard.step = 3 ∧ Reject.literal.step = 4 ∧
    Reject.repTransfer.step = 5 ∧ Reject.sameDestination.step = 6

/-- Words written out from the encodings of R84 to R99 decode to the instructions they stand for, and opcodes that no map
assigns decode to nothing (R90, R94, R99). -/
def Obligations.WordsDecode : Prop :=
  decodeOne false [0x01, 0x00, 0x00, 0x35, 0x08, 0x00] = some (.movi 0 3 2) ∧
  decodeOne false [0x01, 0x00, 0x20, 0x3C, 0x1C, 0x00] = some (.mts 0 3 7) ∧
  decodeOne false [0x01, 0x00, 0xA0, 0x85, 0x00, 0x01] = some (.pset 0 8 true) ∧
  decodeOne false [0x01, 0x00, 0x08, 0x04, 0xC7, 0x01] = some (.addi 8 48 49 1) ∧
  decodeOne false [0x01, 0x00, 0xA0, 0xB6, 0xFF, 0xFF] = some (.loopR 0 (-3)) ∧
  decodeOne false [0x01, 0x00, 0xC2, 0x70, 0x20, 0x49] = some (.div ⟨2, 7, 8, .reg 9, true⟩) ∧
  decodeOne false [0x02, 0x00, 0x20, 0xA0, 0x0A, 0x0B, 0x0C, 0x00] = some (.vadd ⟨0, .f32, 10, 11, .reg 12, 0, false, 0⟩) ∧
  decodeOne false [0x10, 0x00, 0x20, 0x00, 0x14, 0x89, 0x00, 0x00] = some (.ldv 0 20 9 2) ∧
  decodeBundle 0 [0x93, 0x00, 0x23, 0x50, 0x04, 0x80, 0x20, 0xA0, 0x0A, 0x0B, 0x0C, 0x00, 0x20, 0x00, 0x14, 0x89, 0x00, 0x00,
      0xA0, 0x86, 0x01, 0x00] =
    .bundle ⟨0x93, 0, 22, [⟨0, 0x80045023, some (.add ⟨3, 5, 1, .lit 100000, false⟩)⟩,
      ⟨1, 0x000C0B0AA020, some (.vadd ⟨0, .f32, 10, 11, .reg 12, 0, false, 0⟩)⟩, ⟨4, 0x000089140020, some (.ldv 0 20 9 2)⟩]⟩ ∧
  (∀ (w : Nat) (lit : BitVec 32), bits w 11 5 ∈ [0x00, 0x2E, 0x2F, 0x3C, 0x3D, 0x3E, 0x3F, 0x49, 0x4F, 0x70, 0x7F] →
    decodeSlot .s w lit = none) ∧
  (∀ (w : Nat) (lit : BitVec 32), bits w 11 5 ∈ [0x00, 0x2F, 0x35, 0x7F] → decodeSlot .v w lit = none) ∧
  (∀ w : Nat, bits w 31 27 ∈ [0x00, 0x0D, 0x1F] → decodeMicro w = none)

/-- Every well-formed instruction that has an encoding is what its bytes decode to, whatever its operands (R77 to R101). -/
def Obligations.DecodingInvertsEncoding : Prop :=
  ∀ i : Instr, i.wf = true →
    (∀ e, i.enc = some e → decodeOne (decide (e.kind = .u)) (encode i) = some i) ∧
    (∀ rep, i = .nop rep → decodeOne false (encode i) = some i)

-- ## Invariants and reset (00 R7, R9; 14 R304; 15 R327)

/-- Between steps no bundle is in issue: a bundle commits whole, or leaves nothing, within one step (R54, R74; the bundle
cursor is the model's own, log entry 7). -/
def Obligations.StepsLeaveNoBundleOpen : Prop :=
  ∀ s t : State, s.iss = s.iss.rest → step s = .next t → t.iss = t.iss.rest

/-- Every step keeps memory in its one form: addresses rising and no byte listed that reads as an unlisted one (R9, log
entry 1), so that memories that read alike are equal. -/
def Obligations.StepsKeepMemoryCanonical : Prop :=
  ∀ s t : State, Memory.wf s.arch.mem = true → step s = .next t → Memory.wf t.arch.mem = true

/-- Cold reset: no context runs, the trap and event registers read 0, the power limit is 1,800 W and the warning threshold
95 degrees, memory lists nothing, no bundle is open and both invariants hold (R7, R137, R304, R327). That memory lists nothing, and
reads 0, is the model's (log entry 1), as are EVBASE, EVSIZE and DETM of 0 (log entry 3). -/
def Obligations.ResetIsAsTheSpecSays : Prop :=
  let a := State.reset.arch
  (∀ c x, (a.ctx c x).status = .idle ∧ (a.ctx c x).trap.tmode = false) ∧
  (∀ c x n, n ∈ [0x040, 0x041, 0x042, 0x043, 0x044, 0x060, 0x061, 0x062, 0x063, 0x064, 0x180] → a.sysReg c x n = 0) ∧
  a.power.limit = 1800 ∧ a.power.thwarn = 95 ∧ a.power.tripped = false ∧
  MemoriesOk a ∧ (∀ b, Memory.byte a.mem b = 0) ∧ State.reset.iss = State.reset.iss.rest
end

