-- ==== Sys2Proof/Laws/Fields.lean ====
section
/-! SUPPORT. Laws of the encoding: the fields of a packed word are the numbers it was packed from. -/

namespace Sys2Proof

theorem bits_packR {op p d a b f : Nat} (hp : p < 32) (ho : op < 128) (hd : d < 64) (ha : a < 64) (hb : b < 64)
    (hf : f < 4) :
    bits (packR op p d a b f) 4 0 = p ∧ bits (packR op p d a b f) 11 5 = op ∧ bits (packR op p d a b f) 17 12 = d ∧
    bits (packR op p d a b f) 23 18 = a ∧ bits (packR op p d a b f) 29 24 = b ∧ bits (packR op p d a b f) 31 30 = f := by
  simp only [bits, packR]
  refine ⟨?_, ?_, ?_, ?_, ?_, ?_⟩ <;> norm_num <;> omega

/-- Parts of the fields that R84, R87 and R89 cut further. -/
theorem bits_split (w : Nat) :
    bits w 30 30 = bits w 31 30 % 2 ∧ bits w 31 31 = bits w 31 30 / 2 ∧ bits w 25 24 = bits w 29 24 % 4 ∧
    bits w 29 26 = bits w 29 24 / 4 ∧ bits w 15 12 = bits w 17 12 % 16 ∧ bits w 17 16 = bits w 17 12 / 16 ∧
    bits w 21 18 = bits w 23 18 % 16 ∧ bits w 23 23 = bits w 23 18 / 32 ∧ bits w 27 24 = bits w 29 24 % 16 ∧
    bits w 29 29 = bits w 29 24 / 32 := by
  simp only [bits]
  refine ⟨?_, ?_, ?_, ?_, ?_, ?_, ?_, ?_, ?_, ?_⟩ <;> norm_num <;> omega

theorem bits_packI {op p d a imm : Nat} (hp : p < 32) (ho : op < 128) (hd : d < 64) (ha : a < 64) (hi : imm < 256) :
    bits (packI op p d a imm) 4 0 = p ∧ bits (packI op p d a imm) 11 5 = op ∧ bits (packI op p d a imm) 17 12 = d ∧
    bits (packI op p d a imm) 23 18 = a ∧ bits (packI op p d a imm) 31 24 = imm ∧
    bits (packI op p d a imm) 29 24 = imm % 64 ∧ bits (packI op p d a imm) 30 30 = imm / 64 % 2 ∧
    bits (packI op p d a imm) 24 24 = imm % 2 := by
  simp only [bits, packI]
  refine ⟨?_, ?_, ?_, ?_, ?_, ?_, ?_, ?_⟩ <;> norm_num <;> omega

theorem bits_packB {op p off : Nat} (hp : p < 32) (ho : op < 128) (hf : off < 2 ^ 20) :
    bits (packB op p off) 4 0 = p ∧ bits (packB op p off) 11 5 = op ∧ bits (packB op p off) 31 12 = off ∧
    bits (packB op p off) 17 12 = off % 64 ∧ bits (packB op p off) 31 18 = off / 64 ∧
    bits (packB op p off) 12 12 = off % 2 ∧ bits (packB op p off) 31 13 = off / 2 ∧
    bits (packB op p off) 29 18 = off / 64 % 4096 := by
  simp only [bits, packB]
  norm_num at hf
  refine ⟨?_, ?_, ?_, ?_, ?_, ?_, ?_, ?_⟩ <;> norm_num <;> omega

theorem bits_packV {op p ty vd va vb k f : Nat} (hp : p < 32) (ho : op < 128) (ht : ty < 16) (hd : vd < 256)
    (ha : va < 256) (hb : vb < 256) (hk : k < 16) (hf : f < 16) :
    bits (packV op p ty vd va vb k f) 4 0 = p ∧ bits (packV op p ty vd va vb k f) 11 5 = op ∧
    bits (packV op p ty vd va vb k f) 15 12 = ty ∧ bits (packV op p ty vd va vb k f) 23 16 = vd ∧
    bits (packV op p ty vd va vb k f) 31 24 = va ∧ bits (packV op p ty vd va vb k f) 39 32 = vb ∧
    bits (packV op p ty vd va vb k f) 43 40 = k ∧ bits (packV op p ty vd va vb k f) 45 44 = f % 4 ∧
    bits (packV op p ty vd va vb k f) 46 46 = f / 4 % 2 ∧ bits (packV op p ty vd va vb k f) 47 47 = f / 8 := by
  simp only [bits, packV]
  refine ⟨?_, ?_, ?_, ?_, ?_, ?_, ?_, ?_, ?_, ?_⟩ <;> norm_num <;> omega

theorem bits_packC {op p a v g imm f : Nat} (hp : p < 32) (ho : op < 128) (ha : a < 16) (hv : v < 256) (hg : g < 64)
    (hi : imm < 2 ^ 14) :
    bits (packC op p a v g imm f) 4 0 = p ∧ bits (packC op p a v g imm f) 11 5 = op ∧
    bits (packC op p a v g imm f) 15 12 = a ∧ bits (packC op p a v g imm f) 23 16 = v ∧
    bits (packC op p a v g imm f) 29 24 = g ∧ bits (packC op p a v g imm f) 43 30 = imm ∧
    bits (packC op p a v g imm f) 44 44 = f % 2 ∧ bits (packC op p a v g imm f) 45 44 = f % 4 := by
  simp only [bits, packC]
  norm_num at hi
  refine ⟨?_, ?_, ?_, ?_, ?_, ?_, ?_, ?_⟩ <;> norm_num <;> omega

theorem bits_packM {op p n g : Nat} (hp : p < 32) (ho : op < 16) (hn : n < 256) (hg : g < 64) :
    bits (packM op p n g) 4 0 = p ∧ bits (packM op p n g) 8 5 = op ∧ bits (packM op p n g) 16 9 = n ∧
    bits (packM op p n g) 22 17 = g ∧ bits (packM op p n g) 11 9 = n % 8 := by
  simp only [bits, packM]
  refine ⟨?_, ?_, ?_, ?_, ?_⟩ <;> norm_num <;> omega

theorem bits_packX {op p d a q : Nat} (hp : p < 32) (ho : op < 16) (hd : d < 256) (ha : a < 256) (hq : q < 128) :
    bits (packX op p d a q) 4 0 = p ∧ bits (packX op p d a q) 8 5 = op ∧ bits (packX op p d a q) 16 9 = d ∧
    bits (packX op p d a q) 24 17 = a ∧ bits (packX op p d a q) 19 17 = a % 8 ∧ bits (packX op p d a q) 26 25 = q % 4 ∧
    bits (packX op p d a q) 28 27 = q / 4 % 4 ∧ bits (packX op p d a q) 30 29 = q / 16 % 4 ∧
    bits (packX op p d a q) 27 25 = q % 8 ∧ bits (packX op p d a q) 29 28 = q / 8 % 4 ∧
    bits (packX op p d a q) 31 30 = q / 32 ∧ bits (packX op p d a q) 28 25 = q % 16 := by
  simp only [bits, packX]
  refine ⟨?_, ?_, ?_, ?_, ?_, ?_, ?_, ?_, ?_, ?_, ?_, ?_⟩ <;> norm_num <;> omega

theorem bits_packU {op r : Nat} (ho : op < 32) (hr : r < 2 ^ 27) :
    bits (packU op r) 31 27 = op ∧ bits (packU op r) 26 24 = r / 2 ^ 24 ∧ bits (packU op r) 23 0 = r % 2 ^ 24 ∧
    bits (packU op r) 23 18 = r / 2 ^ 18 % 64 ∧ bits (packU op r) 17 12 = r / 2 ^ 12 % 64 ∧
    bits (packU op r) 11 10 = r / 2 ^ 10 % 4 ∧ bits (packU op r) 20 20 = r / 2 ^ 20 % 2 ∧
    bits (packU op r) 19 16 = r / 2 ^ 16 % 16 ∧ bits (packU op r) 23 21 = r / 2 ^ 21 % 8 ∧
    bits (packU op r) 15 8 = r / 2 ^ 8 % 256 ∧ bits (packU op r) 11 0 = r % 4096 ∧
    bits (packU op r) 23 23 = r / 2 ^ 23 % 2 ∧ bits (packU op r) 15 0 = r % 65536 := by
  simp only [bits, packU]
  norm_num at hr
  refine ⟨?_, ?_, ?_, ?_, ?_, ?_, ?_, ?_, ?_, ?_, ?_, ?_, ?_⟩ <;> norm_num <;> omega

theorem bit_lt (b : Bool) : bit b < 2 := by cases b <;> decide

theorem VType.code_lt (t : VType) : t.code < 16 := by cases t <;> decide

@[simp] theorem VType.ofCode_code (t : VType) : VType.ofCode t.code = t := by cases t <;> rfl

theorem guard_lt {p : Nat} (h : guardOk p = true) : p < 32 := by
  simp only [guardOk, Bool.and_eq_true, decide_eq_true_eq] at h
  exact h.1

theorem g_lt {n : Nat} (h : gOk n = true) : n < 64 := by simpa [gOk] using h

theorem Src.field_lt {b : Src} (h : b.ok = true) : b.field < 64 := by
  cases b <;> simp_all [Src.ok, Src.field]

/-- A source, from its field, its selection bit and its literal. -/
theorem Src.of_fields (b : Src) : (if b.sel = 1 then Src.lit (b.literal.getD 0) else .reg b.field) = b := by
  cases b <;> rfl

/-- What makes a slot decode to an instruction: its opcode and operands parse, and it is well formed. -/
theorem decodeSlot_of_parse {i : Instr} {e : Enc} (hw : i.wf = true) (he : i.enc = some e)
    (hp : parseSlot e.kind e.word (e.lit.getD 0) = some i) : decodeSlot e.kind e.word (e.lit.getD 0) = some i := by
  rw [decodeSlot, hp]
  simp only [fieldsOk, hw, he, beq_self_eq_true, Bool.and_self, if_true]

end Sys2Proof
end

