-- ==== Sys2Proof/Laws/SMap.lean ====
section
/-! SUPPORT. Laws of sparse maps: reading what was put, leaving the rest alone, and keeping the canonical form. -/

namespace Sys2Proof.Machine

variable {α : Type}

@[simp] theorem SMap.get_nil (d : α) (k : Nat) : SMap.get d ([] : SMap α) k = d := rfl

theorem SMap.get_of_above (d : α) (m : SMap α) (k : Nat) (h : SMap.above k m = true) : SMap.get d m k = d := by
  induction m with
  | nil => rfl
  | cons e m ih =>
    simp only [SMap.above, List.all_cons, Bool.and_eq_true, decide_eq_true_eq] at h
    simp only [SMap.get]
    rw [if_neg (by omega)]
    exact ih (by simpa [SMap.above] using h.2)

theorem SMap.above_mono {j k : Nat} {m : SMap α} (hjk : j ≤ k) (h : SMap.above k m = true) : SMap.above j m = true := by
  simp only [SMap.above, List.all_eq_true, decide_eq_true_eq] at h ⊢
  exact fun e he => Nat.lt_of_le_of_lt hjk (h e he)

theorem SMap.get_put_same (d : α) (m : SMap α) (k : Nat) (x : α) : SMap.get d (SMap.put m k x) k = x := by
  induction m with
  | nil => simp [SMap.put, SMap.get]
  | cons e m ih =>
    simp only [SMap.put]
    split
    · simp [SMap.get]
    · split
      · simp [SMap.get]
      · rw [SMap.get, if_neg (by omega)]
        exact ih

theorem SMap.get_put_other (d : α) (m : SMap α) {j k : Nat} (x : α) (h : j ≠ k) :
    SMap.get d (SMap.put m k x) j = SMap.get d m j := by
  induction m with
  | nil => simp [SMap.put, SMap.get, Ne.symm h]
  | cons e m ih =>
    simp only [SMap.put]
    split
    · rw [SMap.get, if_neg (by omega)]
    · split
      · next h2 => subst h2; simp [SMap.get, Ne.symm h]
      · simp only [SMap.get, ih]

theorem SMap.get_erase_other (d : α) (m : SMap α) {j k : Nat} (h : j ≠ k) :
    SMap.get d (SMap.erase m k) j = SMap.get d m j := by
  induction m with
  | nil => rfl
  | cons e m ih =>
    simp only [SMap.erase, List.filter_cons] at ih ⊢
    split
    · simp only [SMap.get, ih]
    · next he =>
      simp only [bne_iff_ne, ne_eq, Decidable.not_not] at he
      rw [ih, SMap.get, if_neg (by omega)]

theorem SMap.get_erase_same (d : α) (m : SMap α) (k : Nat) : SMap.get d (SMap.erase m k) k = d := by
  induction m with
  | nil => rfl
  | cons e m ih =>
    simp only [SMap.erase, List.filter_cons] at ih ⊢
    split
    · next he =>
      simp only [bne_iff_ne, ne_eq] at he
      simp only [SMap.get, if_neg he, ih]
    · exact ih

variable [DecidableEq α]

@[simp] theorem SMap.get_set_same (d : α) (m : SMap α) (k : Nat) (x : α) : SMap.get d (SMap.set d m k x) k = x := by
  unfold SMap.set
  split
  · next h => rw [h, SMap.get_erase_same]
  · exact SMap.get_put_same d m k x

theorem SMap.get_set_other (d : α) (m : SMap α) {j k : Nat} (x : α) (h : j ≠ k) :
    SMap.get d (SMap.set d m k x) j = SMap.get d m j := by
  unfold SMap.set
  split
  · exact SMap.get_erase_other d m h
  · exact SMap.get_put_other d m x h

/-- What every key holds after a write. -/
theorem SMap.get_set (d : α) (m : SMap α) (j k : Nat) (x : α) :
    SMap.get d (SMap.set d m k x) j = if j = k then x else SMap.get d m j := by
  split
  · next h => rw [h, SMap.get_set_same]
  · next h => exact SMap.get_set_other d m x h

theorem SMap.above_filter (k : Nat) (m : SMap α) (p : Nat × α → Bool) (h : SMap.above k m = true) :
    SMap.above k (m.filter p) = true := by
  simp only [SMap.above, List.all_eq_true, decide_eq_true_eq] at h ⊢
  exact fun e he => h e (List.mem_filter.mp he).1

/-- Dropping entries keeps the canonical form. -/
theorem SMap.wf_filter (d : α) (m : SMap α) (p : Nat × α → Bool) (h : SMap.wf d m = true) :
    SMap.wf d (m.filter p) = true := by
  induction m with
  | nil => rfl
  | cons e m ih =>
    simp only [SMap.wf, Bool.and_eq_true] at h
    rw [List.filter_cons]
    split
    · simp only [SMap.wf, Bool.and_eq_true]
      exact ⟨⟨SMap.above_filter _ _ _ h.1.1, h.1.2⟩, ih h.2⟩
    · exact ih h.2

theorem SMap.above_put (j k : Nat) (m : SMap α) (x : α) (hk : j < k) (h : SMap.above j m = true) :
    SMap.above j (SMap.put m k x) = true := by
  induction m with
  | nil => simp [SMap.put, SMap.above, hk]
  | cons e m ih =>
    simp only [SMap.above, List.all_cons, Bool.and_eq_true, decide_eq_true_eq] at h ih ⊢
    unfold SMap.put
    split
    · simp only [List.all_cons, Bool.and_eq_true, decide_eq_true_eq]; exact ⟨hk, h⟩
    · split
      · simp only [List.all_cons, Bool.and_eq_true, decide_eq_true_eq]; exact ⟨hk, h.2⟩
      · simp only [List.all_cons, Bool.and_eq_true, decide_eq_true_eq]; exact ⟨h.1, ih h.2⟩

/-- Putting a value other than the default keeps the canonical form. -/
theorem SMap.wf_put (d : α) (m : SMap α) (k : Nat) (x : α) (hx : x ≠ d) (h : SMap.wf d m = true) :
    SMap.wf d (SMap.put m k x) = true := by
  induction m with
  | nil => simp [SMap.put, SMap.wf, SMap.above, hx]
  | cons e m ih =>
    have h' := h
    simp only [SMap.wf, Bool.and_eq_true] at h
    unfold SMap.put
    split
    · next hlt =>
      simp only [SMap.wf, Bool.and_eq_true]
      refine ⟨⟨?_, by simpa using hx⟩, h⟩
      simp only [SMap.above, List.all_cons, Bool.and_eq_true, decide_eq_true_eq]
      exact ⟨hlt, by simpa [SMap.above] using SMap.above_mono (Nat.le_of_lt hlt) h.1.1⟩
    · split
      · next he =>
        subst he
        simp only [SMap.wf, Bool.and_eq_true]
        exact ⟨⟨h.1.1, by simpa using hx⟩, h.2⟩
      · simp only [SMap.wf, Bool.and_eq_true]
        exact ⟨⟨SMap.above_put _ _ _ _ (by omega) h.1.1, h.1.2⟩, ih h.2⟩

/-- Writing keeps the canonical form. -/
theorem SMap.wf_set (d : α) (m : SMap α) (k : Nat) (x : α) (h : SMap.wf d m = true) :
    SMap.wf d (SMap.set d m k x) = true := by
  unfold SMap.set
  split
  · exact SMap.wf_filter d m _ h
  · next hx => exact SMap.wf_put d m k x hx h

end Sys2Proof.Machine
end

