-- ==== Sys2Proof/Laws/Memory.lean ====
section
/-! SUPPORT. Laws of memory: what a write leaves at every address, and that every memory operation keeps the canonical
form of `Memory.wf`. -/

namespace Sys2Proof.Machine

theorem Memory.byte_setByte (m : Memory) (a b : Nat) (x : Byte) :
    Memory.byte (Memory.setByte m a x) b = if b = a then x else Memory.byte m b := SMap.get_set 0 m b a x

theorem Memory.wf_setByte (m : Memory) (a : Nat) (x : Byte) (h : Memory.wf m = true) :
    Memory.wf (Memory.setByte m a x) = true := SMap.wf_set 0 m a x h

theorem Memory.wf_nil : Memory.wf [] = true := rfl

/-- A write of `n` bytes keeps the canonical form. -/
theorem Memory.wf_write (n : Nat) (m : Memory) (a x : Nat) (h : Memory.wf m = true) :
    Memory.wf (Memory.write m a n x) = true := by
  induction n generalizing m a x with
  | zero => exact h
  | succ n ih => exact ih _ _ _ (Memory.wf_setByte _ _ _ h)

theorem Memory.wf_writeBytes (bs : List Byte) (m : Memory) (a : Nat) (h : Memory.wf m = true) :
    Memory.wf (Memory.writeBytes m a bs) = true := by
  induction bs generalizing m a with
  | nil => exact h
  | cons b bs ih => exact ih _ _ (Memory.wf_setByte _ _ _ h)

theorem Memory.wf_copyMem (m : Memory) (src dst n : Nat) (h : Memory.wf m = true) :
    Memory.wf (copyMem m src dst n) = true := Memory.wf_writeBytes _ _ _ h

/-- Every byte outside the written range is as before. -/
theorem Memory.byte_write_outside (n : Nat) (m : Memory) (a x b : Nat) (h : b < a ∨ a + n ≤ b) :
    Memory.byte (Memory.write m a n x) b = Memory.byte m b := by
  induction n generalizing m a x with
  | zero => rfl
  | succ n ih =>
    rw [Memory.write, ih _ _ _ (by omega), Memory.byte_setByte, if_neg (by omega)]

/-- Byte `i` of a written value. -/
theorem Memory.byte_write_inside (n : Nat) (m : Memory) (a x i : Nat) (h : i < n) :
    Memory.byte (Memory.write m a n x) (a + i) = BitVec.ofNat 8 (x / 256 ^ i) := by
  induction n generalizing m a x i with
  | zero => omega
  | succ n ih =>
    cases i with
    | zero => rw [Memory.write, Memory.byte_write_outside _ _ _ _ _ (by omega), Memory.byte_setByte]; simp
    | succ i =>
      have := ih (Memory.setByte m a (BitVec.ofNat 8 x)) (a + 1) (x / 256) i (by omega)
      rw [Memory.write, show a + (i + 1) = a + 1 + i by omega, this, Nat.pow_succ, Nat.mul_comm, Nat.div_div_eq_div_mul]

/-- Bytes are all that a read sees. -/
theorem Memory.read_congr (n : Nat) (m m' : Memory) (a : Nat)
    (h : ∀ i, i < n → Memory.byte m' (a + i) = Memory.byte m (a + i)) : Memory.read m' a n = Memory.read m a n := by
  induction n generalizing a with
  | zero => rfl
  | succ n ih =>
    have h0 := h 0 (by omega)
    have h1 := ih (a + 1) (fun i hi => by have := h (i + 1) (by omega); rwa [show a + (i + 1) = a + 1 + i by omega] at this)
    simp only [Memory.read, Nat.add_zero] at h0 ⊢
    rw [h0, h1]

theorem Memory.read_lt (n : Nat) (m : Memory) (a : Nat) : Memory.read m a n < 2 ^ (8 * n) := by
  induction n generalizing a with
  | zero => simp [Memory.read]
  | succ n ih =>
    have h1 := ih (a + 1)
    have h2 := (Memory.byte m a).isLt
    rw [Memory.read, Nat.mul_succ, Nat.pow_add]
    omega

/-- A read of what was written gives its low bytes. -/
theorem Memory.read_write (n : Nat) (m : Memory) (a x : Nat) :
    Memory.read (Memory.write m a n x) a n = x % 2 ^ (8 * n) := by
  induction n generalizing m a x with
  | zero => simp [Memory.read, Nat.mod_one]
  | succ n ih =>
    rw [Memory.read, Memory.write, ih, Memory.byte_write_outside _ _ _ _ _ (by omega), Memory.byte_setByte, if_pos rfl,
      BitVec.toNat_ofNat, Nat.mul_succ, Nat.add_comm (8 * n), Nat.pow_add]
    exact (Nat.mod_mul (x := x) (a := 2 ^ 8) (b := 2 ^ (8 * n))).symm

/-- A read away from a write sees what was there. -/
theorem Memory.read_write_apart (n k : Nat) (m : Memory) (a b x : Nat) (h : b + k ≤ a ∨ a + n ≤ b) :
    Memory.read (Memory.write m a n x) b k = Memory.read m b k :=
  Memory.read_congr _ _ _ _ (fun i hi => Memory.byte_write_outside _ _ _ _ _ (by omega))

theorem Memory.byte_writeBytes_outside (bs : List Byte) (m : Memory) (a b : Nat) (h : b < a ∨ a + bs.length ≤ b) :
    Memory.byte (Memory.writeBytes m a bs) b = Memory.byte m b := by
  induction bs generalizing m a with
  | nil => rfl
  | cons c bs ih =>
    simp only [List.length_cons] at h
    rw [Memory.writeBytes, ih _ _ (by omega), Memory.byte_setByte, if_neg (by omega)]

end Sys2Proof.Machine
end

