-- ==== Sys2Proof/Laws/State.lean ====
section
/-! SUPPORT. What each named update of the state leaves alone, one lemma for each field, and what it writes: no later
proof unfolds a record update. -/

namespace Sys2Proof.Machine

set_option Elab.async false
set_option linter.all false

-- ## Fields that an update of the module does not write

section
variable (a : Arch) (c : Nat) (k : Core)

@[simp] theorem Arch.setCore_clock : (a.setCore c k).clock = a.clock := by rfl
@[simp] theorem Arch.setCore_modnum : (a.setCore c k).modnum = a.modnum := by rfl
@[simp] theorem Arch.setCore_mem : (a.setCore c k).mem = a.mem := by rfl
@[simp] theorem Arch.setCore_bricks : (a.setCore c k).bricks = a.bricks := by rfl
@[simp] theorem Arch.setCore_lowPort : (a.setCore c k).lowPort = a.lowPort := by rfl
@[simp] theorem Arch.setCore_wakeEvents : (a.setCore c k).wakeEvents = a.wakeEvents := by rfl
@[simp] theorem Arch.setCore_nextId : (a.setCore c k).nextId = a.nextId := by rfl
@[simp] theorem Arch.setCore_reqs : (a.setCore c k).reqs = a.reqs := by rfl
@[simp] theorem Arch.setCore_fills : (a.setCore c k).fills = a.fills := by rfl
@[simp] theorem Arch.setCore_snoops : (a.setCore c k).snoops = a.snoops := by rfl
@[simp] theorem Arch.setCore_writeBacks : (a.setCore c k).writeBacks = a.writeBacks := by rfl
@[simp] theorem Arch.setCore_doorbells : (a.setCore c k).doorbells = a.doorbells := by rfl
@[simp] theorem Arch.setCore_queues : (a.setCore c k).queues = a.queues := by rfl
@[simp] theorem Arch.setCore_qdesc : (a.setCore c k).qdesc = a.qdesc := by rfl
@[simp] theorem Arch.setCore_readyList : (a.setCore c k).readyList = a.readyList := by rfl
@[simp] theorem Arch.setCore_levels : (a.setCore c k).levels = a.levels := by rfl
@[simp] theorem Arch.setCore_launches : (a.setCore c k).launches = a.launches := by rfl
@[simp] theorem Arch.setCore_units : (a.setCore c k).units = a.units := by rfl
@[simp] theorem Arch.setCore_graphs : (a.setCore c k).graphs = a.graphs := by rfl
@[simp] theorem Arch.setCore_opq : (a.setCore c k).opq = a.opq := by rfl
@[simp] theorem Arch.setCore_ops : (a.setCore c k).ops = a.ops := by rfl
@[simp] theorem Arch.setCore_xlinv : (a.setCore c k).xlinv = a.xlinv := by rfl
@[simp] theorem Arch.setCore_windows : (a.setCore c k).windows = a.windows := by rfl
@[simp] theorem Arch.setCore_hwin : (a.setCore c k).hwin = a.hwin := by rfl
@[simp] theorem Arch.setCore_time : (a.setCore c k).time = a.time := by rfl
@[simp] theorem Arch.setCore_links : (a.setCore c k).links = a.links := by rfl
@[simp] theorem Arch.setCore_red : (a.setCore c k).red = a.red := by rfl
@[simp] theorem Arch.setCore_cancels : (a.setCore c k).cancels = a.cancels := by rfl
@[simp] theorem Arch.setCore_power : (a.setCore c k).power = a.power := by rfl
@[simp] theorem Arch.setCore_boot : (a.setCore c k).boot = a.boot := by rfl
@[simp] theorem Arch.setCore_msix : (a.setCore c k).msix = a.msix := by rfl
@[simp] theorem Arch.setCore_pba : (a.setCore c k).pba = a.pba := by rfl
@[simp] theorem Arch.setCore_interrupts : (a.setCore c k).interrupts = a.interrupts := by rfl
@[simp] theorem Arch.setCore_reply : (a.setCore c k).reply = a.reply := by rfl
@[simp] theorem Arch.setCore_workerRestarts : (a.setCore c k).workerRestarts = a.workerRestarts := by rfl
@[simp] theorem Arch.setCore_unsupported : (a.setCore c k).unsupported = a.unsupported := by rfl
@[simp] theorem Arch.setCore_periodStart : (a.setCore c k).periodStart = a.periodStart := by rfl
@[simp] theorem Arch.setCore_feHeld : (a.setCore c k).feHeld = a.feHeld := by rfl
@[simp] theorem Arch.setCore_raced : (a.setCore c k).raced = a.raced := by rfl
@[simp] theorem Arch.setCore_syncq : (a.setCore c k).syncq = a.syncq := by rfl

end

section
variable (a : Arch) (c : Nat) (f : Core → Core)

@[simp] theorem Arch.mapCore_clock : (a.mapCore c f).clock = a.clock := by rfl
@[simp] theorem Arch.mapCore_modnum : (a.mapCore c f).modnum = a.modnum := by rfl
@[simp] theorem Arch.mapCore_mem : (a.mapCore c f).mem = a.mem := by rfl
@[simp] theorem Arch.mapCore_bricks : (a.mapCore c f).bricks = a.bricks := by rfl
@[simp] theorem Arch.mapCore_lowPort : (a.mapCore c f).lowPort = a.lowPort := by rfl
@[simp] theorem Arch.mapCore_wakeEvents : (a.mapCore c f).wakeEvents = a.wakeEvents := by rfl
@[simp] theorem Arch.mapCore_nextId : (a.mapCore c f).nextId = a.nextId := by rfl
@[simp] theorem Arch.mapCore_reqs : (a.mapCore c f).reqs = a.reqs := by rfl
@[simp] theorem Arch.mapCore_fills : (a.mapCore c f).fills = a.fills := by rfl
@[simp] theorem Arch.mapCore_snoops : (a.mapCore c f).snoops = a.snoops := by rfl
@[simp] theorem Arch.mapCore_writeBacks : (a.mapCore c f).writeBacks = a.writeBacks := by rfl
@[simp] theorem Arch.mapCore_doorbells : (a.mapCore c f).doorbells = a.doorbells := by rfl
@[simp] theorem Arch.mapCore_queues : (a.mapCore c f).queues = a.queues := by rfl
@[simp] theorem Arch.mapCore_qdesc : (a.mapCore c f).qdesc = a.qdesc := by rfl
@[simp] theorem Arch.mapCore_readyList : (a.mapCore c f).readyList = a.readyList := by rfl
@[simp] theorem Arch.mapCore_levels : (a.mapCore c f).levels = a.levels := by rfl
@[simp] theorem Arch.mapCore_launches : (a.mapCore c f).launches = a.launches := by rfl
@[simp] theorem Arch.mapCore_units : (a.mapCore c f).units = a.units := by rfl
@[simp] theorem Arch.mapCore_graphs : (a.mapCore c f).graphs = a.graphs := by rfl
@[simp] theorem Arch.mapCore_opq : (a.mapCore c f).opq = a.opq := by rfl
@[simp] theorem Arch.mapCore_ops : (a.mapCore c f).ops = a.ops := by rfl
@[simp] theorem Arch.mapCore_xlinv : (a.mapCore c f).xlinv = a.xlinv := by rfl
@[simp] theorem Arch.mapCore_windows : (a.mapCore c f).windows = a.windows := by rfl
@[simp] theorem Arch.mapCore_hwin : (a.mapCore c f).hwin = a.hwin := by rfl
@[simp] theorem Arch.mapCore_time : (a.mapCore c f).time = a.time := by rfl
@[simp] theorem Arch.mapCore_links : (a.mapCore c f).links = a.links := by rfl
@[simp] theorem Arch.mapCore_red : (a.mapCore c f).red = a.red := by rfl
@[simp] theorem Arch.mapCore_cancels : (a.mapCore c f).cancels = a.cancels := by rfl
@[simp] theorem Arch.mapCore_power : (a.mapCore c f).power = a.power := by rfl
@[simp] theorem Arch.mapCore_boot : (a.mapCore c f).boot = a.boot := by rfl
@[simp] theorem Arch.mapCore_msix : (a.mapCore c f).msix = a.msix := by rfl
@[simp] theorem Arch.mapCore_pba : (a.mapCore c f).pba = a.pba := by rfl
@[simp] theorem Arch.mapCore_interrupts : (a.mapCore c f).interrupts = a.interrupts := by rfl
@[simp] theorem Arch.mapCore_reply : (a.mapCore c f).reply = a.reply := by rfl
@[simp] theorem Arch.mapCore_workerRestarts : (a.mapCore c f).workerRestarts = a.workerRestarts := by rfl
@[simp] theorem Arch.mapCore_unsupported : (a.mapCore c f).unsupported = a.unsupported := by rfl
@[simp] theorem Arch.mapCore_periodStart : (a.mapCore c f).periodStart = a.periodStart := by rfl
@[simp] theorem Arch.mapCore_feHeld : (a.mapCore c f).feHeld = a.feHeld := by rfl
@[simp] theorem Arch.mapCore_raced : (a.mapCore c f).raced = a.raced := by rfl
@[simp] theorem Arch.mapCore_syncq : (a.mapCore c f).syncq = a.syncq := by rfl

end

section
variable (a : Arch) (c x : Nat) (t : Context)

@[simp] theorem Arch.setCtx_clock : (a.setCtx c x t).clock = a.clock := by rfl
@[simp] theorem Arch.setCtx_modnum : (a.setCtx c x t).modnum = a.modnum := by rfl
@[simp] theorem Arch.setCtx_mem : (a.setCtx c x t).mem = a.mem := by rfl
@[simp] theorem Arch.setCtx_bricks : (a.setCtx c x t).bricks = a.bricks := by rfl
@[simp] theorem Arch.setCtx_lowPort : (a.setCtx c x t).lowPort = a.lowPort := by rfl
@[simp] theorem Arch.setCtx_wakeEvents : (a.setCtx c x t).wakeEvents = a.wakeEvents := by rfl
@[simp] theorem Arch.setCtx_nextId : (a.setCtx c x t).nextId = a.nextId := by rfl
@[simp] theorem Arch.setCtx_reqs : (a.setCtx c x t).reqs = a.reqs := by rfl
@[simp] theorem Arch.setCtx_fills : (a.setCtx c x t).fills = a.fills := by rfl
@[simp] theorem Arch.setCtx_snoops : (a.setCtx c x t).snoops = a.snoops := by rfl
@[simp] theorem Arch.setCtx_writeBacks : (a.setCtx c x t).writeBacks = a.writeBacks := by rfl
@[simp] theorem Arch.setCtx_doorbells : (a.setCtx c x t).doorbells = a.doorbells := by rfl
@[simp] theorem Arch.setCtx_queues : (a.setCtx c x t).queues = a.queues := by rfl
@[simp] theorem Arch.setCtx_qdesc : (a.setCtx c x t).qdesc = a.qdesc := by rfl
@[simp] theorem Arch.setCtx_readyList : (a.setCtx c x t).readyList = a.readyList := by rfl
@[simp] theorem Arch.setCtx_levels : (a.setCtx c x t).levels = a.levels := by rfl
@[simp] theorem Arch.setCtx_launches : (a.setCtx c x t).launches = a.launches := by rfl
@[simp] theorem Arch.setCtx_units : (a.setCtx c x t).units = a.units := by rfl
@[simp] theorem Arch.setCtx_graphs : (a.setCtx c x t).graphs = a.graphs := by rfl
@[simp] theorem Arch.setCtx_opq : (a.setCtx c x t).opq = a.opq := by rfl
@[simp] theorem Arch.setCtx_ops : (a.setCtx c x t).ops = a.ops := by rfl
@[simp] theorem Arch.setCtx_xlinv : (a.setCtx c x t).xlinv = a.xlinv := by rfl
@[simp] theorem Arch.setCtx_windows : (a.setCtx c x t).windows = a.windows := by rfl
@[simp] theorem Arch.setCtx_hwin : (a.setCtx c x t).hwin = a.hwin := by rfl
@[simp] theorem Arch.setCtx_time : (a.setCtx c x t).time = a.time := by rfl
@[simp] theorem Arch.setCtx_links : (a.setCtx c x t).links = a.links := by rfl
@[simp] theorem Arch.setCtx_red : (a.setCtx c x t).red = a.red := by rfl
@[simp] theorem Arch.setCtx_cancels : (a.setCtx c x t).cancels = a.cancels := by rfl
@[simp] theorem Arch.setCtx_power : (a.setCtx c x t).power = a.power := by rfl
@[simp] theorem Arch.setCtx_boot : (a.setCtx c x t).boot = a.boot := by rfl
@[simp] theorem Arch.setCtx_msix : (a.setCtx c x t).msix = a.msix := by rfl
@[simp] theorem Arch.setCtx_pba : (a.setCtx c x t).pba = a.pba := by rfl
@[simp] theorem Arch.setCtx_interrupts : (a.setCtx c x t).interrupts = a.interrupts := by rfl
@[simp] theorem Arch.setCtx_reply : (a.setCtx c x t).reply = a.reply := by rfl
@[simp] theorem Arch.setCtx_workerRestarts : (a.setCtx c x t).workerRestarts = a.workerRestarts := by rfl
@[simp] theorem Arch.setCtx_unsupported : (a.setCtx c x t).unsupported = a.unsupported := by rfl
@[simp] theorem Arch.setCtx_periodStart : (a.setCtx c x t).periodStart = a.periodStart := by rfl
@[simp] theorem Arch.setCtx_feHeld : (a.setCtx c x t).feHeld = a.feHeld := by rfl
@[simp] theorem Arch.setCtx_raced : (a.setCtx c x t).raced = a.raced := by rfl
@[simp] theorem Arch.setCtx_syncq : (a.setCtx c x t).syncq = a.syncq := by rfl

end

section
variable (a : Arch) (c x : Nat) (f : Context → Context)

@[simp] theorem Arch.mapCtx_clock : (a.mapCtx c x f).clock = a.clock := by rfl
@[simp] theorem Arch.mapCtx_modnum : (a.mapCtx c x f).modnum = a.modnum := by rfl
@[simp] theorem Arch.mapCtx_mem : (a.mapCtx c x f).mem = a.mem := by rfl
@[simp] theorem Arch.mapCtx_bricks : (a.mapCtx c x f).bricks = a.bricks := by rfl
@[simp] theorem Arch.mapCtx_lowPort : (a.mapCtx c x f).lowPort = a.lowPort := by rfl
@[simp] theorem Arch.mapCtx_wakeEvents : (a.mapCtx c x f).wakeEvents = a.wakeEvents := by rfl
@[simp] theorem Arch.mapCtx_nextId : (a.mapCtx c x f).nextId = a.nextId := by rfl
@[simp] theorem Arch.mapCtx_reqs : (a.mapCtx c x f).reqs = a.reqs := by rfl
@[simp] theorem Arch.mapCtx_fills : (a.mapCtx c x f).fills = a.fills := by rfl
@[simp] theorem Arch.mapCtx_snoops : (a.mapCtx c x f).snoops = a.snoops := by rfl
@[simp] theorem Arch.mapCtx_writeBacks : (a.mapCtx c x f).writeBacks = a.writeBacks := by rfl
@[simp] theorem Arch.mapCtx_doorbells : (a.mapCtx c x f).doorbells = a.doorbells := by rfl
@[simp] theorem Arch.mapCtx_queues : (a.mapCtx c x f).queues = a.queues := by rfl
@[simp] theorem Arch.mapCtx_qdesc : (a.mapCtx c x f).qdesc = a.qdesc := by rfl
@[simp] theorem Arch.mapCtx_readyList : (a.mapCtx c x f).readyList = a.readyList := by rfl
@[simp] theorem Arch.mapCtx_levels : (a.mapCtx c x f).levels = a.levels := by rfl
@[simp] theorem Arch.mapCtx_launches : (a.mapCtx c x f).launches = a.launches := by rfl
@[simp] theorem Arch.mapCtx_units : (a.mapCtx c x f).units = a.units := by rfl
@[simp] theorem Arch.mapCtx_graphs : (a.mapCtx c x f).graphs = a.graphs := by rfl
@[simp] theorem Arch.mapCtx_opq : (a.mapCtx c x f).opq = a.opq := by rfl
@[simp] theorem Arch.mapCtx_ops : (a.mapCtx c x f).ops = a.ops := by rfl
@[simp] theorem Arch.mapCtx_xlinv : (a.mapCtx c x f).xlinv = a.xlinv := by rfl
@[simp] theorem Arch.mapCtx_windows : (a.mapCtx c x f).windows = a.windows := by rfl
@[simp] theorem Arch.mapCtx_hwin : (a.mapCtx c x f).hwin = a.hwin := by rfl
@[simp] theorem Arch.mapCtx_time : (a.mapCtx c x f).time = a.time := by rfl
@[simp] theorem Arch.mapCtx_links : (a.mapCtx c x f).links = a.links := by rfl
@[simp] theorem Arch.mapCtx_red : (a.mapCtx c x f).red = a.red := by rfl
@[simp] theorem Arch.mapCtx_cancels : (a.mapCtx c x f).cancels = a.cancels := by rfl
@[simp] theorem Arch.mapCtx_power : (a.mapCtx c x f).power = a.power := by rfl
@[simp] theorem Arch.mapCtx_boot : (a.mapCtx c x f).boot = a.boot := by rfl
@[simp] theorem Arch.mapCtx_msix : (a.mapCtx c x f).msix = a.msix := by rfl
@[simp] theorem Arch.mapCtx_pba : (a.mapCtx c x f).pba = a.pba := by rfl
@[simp] theorem Arch.mapCtx_interrupts : (a.mapCtx c x f).interrupts = a.interrupts := by rfl
@[simp] theorem Arch.mapCtx_reply : (a.mapCtx c x f).reply = a.reply := by rfl
@[simp] theorem Arch.mapCtx_workerRestarts : (a.mapCtx c x f).workerRestarts = a.workerRestarts := by rfl
@[simp] theorem Arch.mapCtx_unsupported : (a.mapCtx c x f).unsupported = a.unsupported := by rfl
@[simp] theorem Arch.mapCtx_periodStart : (a.mapCtx c x f).periodStart = a.periodStart := by rfl
@[simp] theorem Arch.mapCtx_feHeld : (a.mapCtx c x f).feHeld = a.feHeld := by rfl
@[simp] theorem Arch.mapCtx_raced : (a.mapCtx c x f).raced = a.raced := by rfl
@[simp] theorem Arch.mapCtx_syncq : (a.mapCtx c x f).syncq = a.syncq := by rfl

end

section
variable (a : Arch) (c x n : Nat) (f : Chan → Chan)

@[simp] theorem Arch.mapChan_clock : (a.mapChan c x n f).clock = a.clock := by rfl
@[simp] theorem Arch.mapChan_modnum : (a.mapChan c x n f).modnum = a.modnum := by rfl
@[simp] theorem Arch.mapChan_mem : (a.mapChan c x n f).mem = a.mem := by rfl
@[simp] theorem Arch.mapChan_bricks : (a.mapChan c x n f).bricks = a.bricks := by rfl
@[simp] theorem Arch.mapChan_lowPort : (a.mapChan c x n f).lowPort = a.lowPort := by rfl
@[simp] theorem Arch.mapChan_wakeEvents : (a.mapChan c x n f).wakeEvents = a.wakeEvents := by rfl
@[simp] theorem Arch.mapChan_nextId : (a.mapChan c x n f).nextId = a.nextId := by rfl
@[simp] theorem Arch.mapChan_reqs : (a.mapChan c x n f).reqs = a.reqs := by rfl
@[simp] theorem Arch.mapChan_fills : (a.mapChan c x n f).fills = a.fills := by rfl
@[simp] theorem Arch.mapChan_snoops : (a.mapChan c x n f).snoops = a.snoops := by rfl
@[simp] theorem Arch.mapChan_writeBacks : (a.mapChan c x n f).writeBacks = a.writeBacks := by rfl
@[simp] theorem Arch.mapChan_doorbells : (a.mapChan c x n f).doorbells = a.doorbells := by rfl
@[simp] theorem Arch.mapChan_queues : (a.mapChan c x n f).queues = a.queues := by rfl
@[simp] theorem Arch.mapChan_qdesc : (a.mapChan c x n f).qdesc = a.qdesc := by rfl
@[simp] theorem Arch.mapChan_readyList : (a.mapChan c x n f).readyList = a.readyList := by rfl
@[simp] theorem Arch.mapChan_levels : (a.mapChan c x n f).levels = a.levels := by rfl
@[simp] theorem Arch.mapChan_launches : (a.mapChan c x n f).launches = a.launches := by rfl
@[simp] theorem Arch.mapChan_units : (a.mapChan c x n f).units = a.units := by rfl
@[simp] theorem Arch.mapChan_graphs : (a.mapChan c x n f).graphs = a.graphs := by rfl
@[simp] theorem Arch.mapChan_opq : (a.mapChan c x n f).opq = a.opq := by rfl
@[simp] theorem Arch.mapChan_ops : (a.mapChan c x n f).ops = a.ops := by rfl
@[simp] theorem Arch.mapChan_xlinv : (a.mapChan c x n f).xlinv = a.xlinv := by rfl
@[simp] theorem Arch.mapChan_windows : (a.mapChan c x n f).windows = a.windows := by rfl
@[simp] theorem Arch.mapChan_hwin : (a.mapChan c x n f).hwin = a.hwin := by rfl
@[simp] theorem Arch.mapChan_time : (a.mapChan c x n f).time = a.time := by rfl
@[simp] theorem Arch.mapChan_links : (a.mapChan c x n f).links = a.links := by rfl
@[simp] theorem Arch.mapChan_red : (a.mapChan c x n f).red = a.red := by rfl
@[simp] theorem Arch.mapChan_cancels : (a.mapChan c x n f).cancels = a.cancels := by rfl
@[simp] theorem Arch.mapChan_power : (a.mapChan c x n f).power = a.power := by rfl
@[simp] theorem Arch.mapChan_boot : (a.mapChan c x n f).boot = a.boot := by rfl
@[simp] theorem Arch.mapChan_msix : (a.mapChan c x n f).msix = a.msix := by rfl
@[simp] theorem Arch.mapChan_pba : (a.mapChan c x n f).pba = a.pba := by rfl
@[simp] theorem Arch.mapChan_interrupts : (a.mapChan c x n f).interrupts = a.interrupts := by rfl
@[simp] theorem Arch.mapChan_reply : (a.mapChan c x n f).reply = a.reply := by rfl
@[simp] theorem Arch.mapChan_workerRestarts : (a.mapChan c x n f).workerRestarts = a.workerRestarts := by rfl
@[simp] theorem Arch.mapChan_unsupported : (a.mapChan c x n f).unsupported = a.unsupported := by rfl
@[simp] theorem Arch.mapChan_periodStart : (a.mapChan c x n f).periodStart = a.periodStart := by rfl
@[simp] theorem Arch.mapChan_feHeld : (a.mapChan c x n f).feHeld = a.feHeld := by rfl
@[simp] theorem Arch.mapChan_raced : (a.mapChan c x n f).raced = a.raced := by rfl
@[simp] theorem Arch.mapChan_syncq : (a.mapChan c x n f).syncq = a.syncq := by rfl

end

section
variable (a : Arch) (c : Nat) (f : Engine → Engine)

@[simp] theorem Arch.mapEngine_clock : (a.mapEngine c f).clock = a.clock := by rfl
@[simp] theorem Arch.mapEngine_modnum : (a.mapEngine c f).modnum = a.modnum := by rfl
@[simp] theorem Arch.mapEngine_mem : (a.mapEngine c f).mem = a.mem := by rfl
@[simp] theorem Arch.mapEngine_bricks : (a.mapEngine c f).bricks = a.bricks := by rfl
@[simp] theorem Arch.mapEngine_lowPort : (a.mapEngine c f).lowPort = a.lowPort := by rfl
@[simp] theorem Arch.mapEngine_wakeEvents : (a.mapEngine c f).wakeEvents = a.wakeEvents := by rfl
@[simp] theorem Arch.mapEngine_nextId : (a.mapEngine c f).nextId = a.nextId := by rfl
@[simp] theorem Arch.mapEngine_reqs : (a.mapEngine c f).reqs = a.reqs := by rfl
@[simp] theorem Arch.mapEngine_fills : (a.mapEngine c f).fills = a.fills := by rfl
@[simp] theorem Arch.mapEngine_snoops : (a.mapEngine c f).snoops = a.snoops := by rfl
@[simp] theorem Arch.mapEngine_writeBacks : (a.mapEngine c f).writeBacks = a.writeBacks := by rfl
@[simp] theorem Arch.mapEngine_doorbells : (a.mapEngine c f).doorbells = a.doorbells := by rfl
@[simp] theorem Arch.mapEngine_queues : (a.mapEngine c f).queues = a.queues := by rfl
@[simp] theorem Arch.mapEngine_qdesc : (a.mapEngine c f).qdesc = a.qdesc := by rfl
@[simp] theorem Arch.mapEngine_readyList : (a.mapEngine c f).readyList = a.readyList := by rfl
@[simp] theorem Arch.mapEngine_levels : (a.mapEngine c f).levels = a.levels := by rfl
@[simp] theorem Arch.mapEngine_launches : (a.mapEngine c f).launches = a.launches := by rfl
@[simp] theorem Arch.mapEngine_units : (a.mapEngine c f).units = a.units := by rfl
@[simp] theorem Arch.mapEngine_graphs : (a.mapEngine c f).graphs = a.graphs := by rfl
@[simp] theorem Arch.mapEngine_opq : (a.mapEngine c f).opq = a.opq := by rfl
@[simp] theorem Arch.mapEngine_ops : (a.mapEngine c f).ops = a.ops := by rfl
@[simp] theorem Arch.mapEngine_xlinv : (a.mapEngine c f).xlinv = a.xlinv := by rfl
@[simp] theorem Arch.mapEngine_windows : (a.mapEngine c f).windows = a.windows := by rfl
@[simp] theorem Arch.mapEngine_hwin : (a.mapEngine c f).hwin = a.hwin := by rfl
@[simp] theorem Arch.mapEngine_time : (a.mapEngine c f).time = a.time := by rfl
@[simp] theorem Arch.mapEngine_links : (a.mapEngine c f).links = a.links := by rfl
@[simp] theorem Arch.mapEngine_red : (a.mapEngine c f).red = a.red := by rfl
@[simp] theorem Arch.mapEngine_cancels : (a.mapEngine c f).cancels = a.cancels := by rfl
@[simp] theorem Arch.mapEngine_power : (a.mapEngine c f).power = a.power := by rfl
@[simp] theorem Arch.mapEngine_boot : (a.mapEngine c f).boot = a.boot := by rfl
@[simp] theorem Arch.mapEngine_msix : (a.mapEngine c f).msix = a.msix := by rfl
@[simp] theorem Arch.mapEngine_pba : (a.mapEngine c f).pba = a.pba := by rfl
@[simp] theorem Arch.mapEngine_interrupts : (a.mapEngine c f).interrupts = a.interrupts := by rfl
@[simp] theorem Arch.mapEngine_reply : (a.mapEngine c f).reply = a.reply := by rfl
@[simp] theorem Arch.mapEngine_workerRestarts : (a.mapEngine c f).workerRestarts = a.workerRestarts := by rfl
@[simp] theorem Arch.mapEngine_unsupported : (a.mapEngine c f).unsupported = a.unsupported := by rfl
@[simp] theorem Arch.mapEngine_periodStart : (a.mapEngine c f).periodStart = a.periodStart := by rfl
@[simp] theorem Arch.mapEngine_feHeld : (a.mapEngine c f).feHeld = a.feHeld := by rfl
@[simp] theorem Arch.mapEngine_raced : (a.mapEngine c f).raced = a.raced := by rfl
@[simp] theorem Arch.mapEngine_syncq : (a.mapEngine c f).syncq = a.syncq := by rfl

end

section
variable (a : Arch) (b : Nat) (f : Brick → Brick)

@[simp] theorem Arch.mapBrick_clock : (a.mapBrick b f).clock = a.clock := by rfl
@[simp] theorem Arch.mapBrick_modnum : (a.mapBrick b f).modnum = a.modnum := by rfl
@[simp] theorem Arch.mapBrick_mem : (a.mapBrick b f).mem = a.mem := by rfl
@[simp] theorem Arch.mapBrick_cores : (a.mapBrick b f).cores = a.cores := by rfl
@[simp] theorem Arch.mapBrick_lowPort : (a.mapBrick b f).lowPort = a.lowPort := by rfl
@[simp] theorem Arch.mapBrick_wakeEvents : (a.mapBrick b f).wakeEvents = a.wakeEvents := by rfl
@[simp] theorem Arch.mapBrick_nextId : (a.mapBrick b f).nextId = a.nextId := by rfl
@[simp] theorem Arch.mapBrick_reqs : (a.mapBrick b f).reqs = a.reqs := by rfl
@[simp] theorem Arch.mapBrick_fills : (a.mapBrick b f).fills = a.fills := by rfl
@[simp] theorem Arch.mapBrick_snoops : (a.mapBrick b f).snoops = a.snoops := by rfl
@[simp] theorem Arch.mapBrick_writeBacks : (a.mapBrick b f).writeBacks = a.writeBacks := by rfl
@[simp] theorem Arch.mapBrick_doorbells : (a.mapBrick b f).doorbells = a.doorbells := by rfl
@[simp] theorem Arch.mapBrick_queues : (a.mapBrick b f).queues = a.queues := by rfl
@[simp] theorem Arch.mapBrick_qdesc : (a.mapBrick b f).qdesc = a.qdesc := by rfl
@[simp] theorem Arch.mapBrick_readyList : (a.mapBrick b f).readyList = a.readyList := by rfl
@[simp] theorem Arch.mapBrick_levels : (a.mapBrick b f).levels = a.levels := by rfl
@[simp] theorem Arch.mapBrick_launches : (a.mapBrick b f).launches = a.launches := by rfl
@[simp] theorem Arch.mapBrick_units : (a.mapBrick b f).units = a.units := by rfl
@[simp] theorem Arch.mapBrick_graphs : (a.mapBrick b f).graphs = a.graphs := by rfl
@[simp] theorem Arch.mapBrick_opq : (a.mapBrick b f).opq = a.opq := by rfl
@[simp] theorem Arch.mapBrick_ops : (a.mapBrick b f).ops = a.ops := by rfl
@[simp] theorem Arch.mapBrick_xlinv : (a.mapBrick b f).xlinv = a.xlinv := by rfl
@[simp] theorem Arch.mapBrick_windows : (a.mapBrick b f).windows = a.windows := by rfl
@[simp] theorem Arch.mapBrick_hwin : (a.mapBrick b f).hwin = a.hwin := by rfl
@[simp] theorem Arch.mapBrick_time : (a.mapBrick b f).time = a.time := by rfl
@[simp] theorem Arch.mapBrick_links : (a.mapBrick b f).links = a.links := by rfl
@[simp] theorem Arch.mapBrick_red : (a.mapBrick b f).red = a.red := by rfl
@[simp] theorem Arch.mapBrick_cancels : (a.mapBrick b f).cancels = a.cancels := by rfl
@[simp] theorem Arch.mapBrick_power : (a.mapBrick b f).power = a.power := by rfl
@[simp] theorem Arch.mapBrick_boot : (a.mapBrick b f).boot = a.boot := by rfl
@[simp] theorem Arch.mapBrick_msix : (a.mapBrick b f).msix = a.msix := by rfl
@[simp] theorem Arch.mapBrick_pba : (a.mapBrick b f).pba = a.pba := by rfl
@[simp] theorem Arch.mapBrick_interrupts : (a.mapBrick b f).interrupts = a.interrupts := by rfl
@[simp] theorem Arch.mapBrick_reply : (a.mapBrick b f).reply = a.reply := by rfl
@[simp] theorem Arch.mapBrick_workerRestarts : (a.mapBrick b f).workerRestarts = a.workerRestarts := by rfl
@[simp] theorem Arch.mapBrick_unsupported : (a.mapBrick b f).unsupported = a.unsupported := by rfl
@[simp] theorem Arch.mapBrick_periodStart : (a.mapBrick b f).periodStart = a.periodStart := by rfl
@[simp] theorem Arch.mapBrick_feHeld : (a.mapBrick b f).feHeld = a.feHeld := by rfl
@[simp] theorem Arch.mapBrick_raced : (a.mapBrick b f).raced = a.raced := by rfl
@[simp] theorem Arch.mapBrick_syncq : (a.mapBrick b f).syncq = a.syncq := by rfl

end

section
variable (a : Arch) (q : Nat) (f : Queue → Queue)

@[simp] theorem Arch.mapQueue_clock : (a.mapQueue q f).clock = a.clock := by rfl
@[simp] theorem Arch.mapQueue_modnum : (a.mapQueue q f).modnum = a.modnum := by rfl
@[simp] theorem Arch.mapQueue_mem : (a.mapQueue q f).mem = a.mem := by rfl
@[simp] theorem Arch.mapQueue_cores : (a.mapQueue q f).cores = a.cores := by rfl
@[simp] theorem Arch.mapQueue_bricks : (a.mapQueue q f).bricks = a.bricks := by rfl
@[simp] theorem Arch.mapQueue_lowPort : (a.mapQueue q f).lowPort = a.lowPort := by rfl
@[simp] theorem Arch.mapQueue_wakeEvents : (a.mapQueue q f).wakeEvents = a.wakeEvents := by rfl
@[simp] theorem Arch.mapQueue_nextId : (a.mapQueue q f).nextId = a.nextId := by rfl
@[simp] theorem Arch.mapQueue_reqs : (a.mapQueue q f).reqs = a.reqs := by rfl
@[simp] theorem Arch.mapQueue_fills : (a.mapQueue q f).fills = a.fills := by rfl
@[simp] theorem Arch.mapQueue_snoops : (a.mapQueue q f).snoops = a.snoops := by rfl
@[simp] theorem Arch.mapQueue_writeBacks : (a.mapQueue q f).writeBacks = a.writeBacks := by rfl
@[simp] theorem Arch.mapQueue_doorbells : (a.mapQueue q f).doorbells = a.doorbells := by rfl
@[simp] theorem Arch.mapQueue_qdesc : (a.mapQueue q f).qdesc = a.qdesc := by rfl
@[simp] theorem Arch.mapQueue_readyList : (a.mapQueue q f).readyList = a.readyList := by rfl
@[simp] theorem Arch.mapQueue_levels : (a.mapQueue q f).levels = a.levels := by rfl
@[simp] theorem Arch.mapQueue_launches : (a.mapQueue q f).launches = a.launches := by rfl
@[simp] theorem Arch.mapQueue_units : (a.mapQueue q f).units = a.units := by rfl
@[simp] theorem Arch.mapQueue_graphs : (a.mapQueue q f).graphs = a.graphs := by rfl
@[simp] theorem Arch.mapQueue_opq : (a.mapQueue q f).opq = a.opq := by rfl
@[simp] theorem Arch.mapQueue_ops : (a.mapQueue q f).ops = a.ops := by rfl
@[simp] theorem Arch.mapQueue_xlinv : (a.mapQueue q f).xlinv = a.xlinv := by rfl
@[simp] theorem Arch.mapQueue_windows : (a.mapQueue q f).windows = a.windows := by rfl
@[simp] theorem Arch.mapQueue_hwin : (a.mapQueue q f).hwin = a.hwin := by rfl
@[simp] theorem Arch.mapQueue_time : (a.mapQueue q f).time = a.time := by rfl
@[simp] theorem Arch.mapQueue_links : (a.mapQueue q f).links = a.links := by rfl
@[simp] theorem Arch.mapQueue_red : (a.mapQueue q f).red = a.red := by rfl
@[simp] theorem Arch.mapQueue_cancels : (a.mapQueue q f).cancels = a.cancels := by rfl
@[simp] theorem Arch.mapQueue_power : (a.mapQueue q f).power = a.power := by rfl
@[simp] theorem Arch.mapQueue_boot : (a.mapQueue q f).boot = a.boot := by rfl
@[simp] theorem Arch.mapQueue_msix : (a.mapQueue q f).msix = a.msix := by rfl
@[simp] theorem Arch.mapQueue_pba : (a.mapQueue q f).pba = a.pba := by rfl
@[simp] theorem Arch.mapQueue_interrupts : (a.mapQueue q f).interrupts = a.interrupts := by rfl
@[simp] theorem Arch.mapQueue_reply : (a.mapQueue q f).reply = a.reply := by rfl
@[simp] theorem Arch.mapQueue_workerRestarts : (a.mapQueue q f).workerRestarts = a.workerRestarts := by rfl
@[simp] theorem Arch.mapQueue_unsupported : (a.mapQueue q f).unsupported = a.unsupported := by rfl
@[simp] theorem Arch.mapQueue_periodStart : (a.mapQueue q f).periodStart = a.periodStart := by rfl
@[simp] theorem Arch.mapQueue_feHeld : (a.mapQueue q f).feHeld = a.feHeld := by rfl
@[simp] theorem Arch.mapQueue_raced : (a.mapQueue q f).raced = a.raced := by rfl
@[simp] theorem Arch.mapQueue_syncq : (a.mapQueue q f).syncq = a.syncq := by rfl

end

section
variable (a : Arch) (l : Nat) (v : Level)

@[simp] theorem Arch.setLevel_clock : (a.setLevel l v).clock = a.clock := by rfl
@[simp] theorem Arch.setLevel_modnum : (a.setLevel l v).modnum = a.modnum := by rfl
@[simp] theorem Arch.setLevel_mem : (a.setLevel l v).mem = a.mem := by rfl
@[simp] theorem Arch.setLevel_cores : (a.setLevel l v).cores = a.cores := by rfl
@[simp] theorem Arch.setLevel_bricks : (a.setLevel l v).bricks = a.bricks := by rfl
@[simp] theorem Arch.setLevel_lowPort : (a.setLevel l v).lowPort = a.lowPort := by rfl
@[simp] theorem Arch.setLevel_wakeEvents : (a.setLevel l v).wakeEvents = a.wakeEvents := by rfl
@[simp] theorem Arch.setLevel_nextId : (a.setLevel l v).nextId = a.nextId := by rfl
@[simp] theorem Arch.setLevel_reqs : (a.setLevel l v).reqs = a.reqs := by rfl
@[simp] theorem Arch.setLevel_fills : (a.setLevel l v).fills = a.fills := by rfl
@[simp] theorem Arch.setLevel_snoops : (a.setLevel l v).snoops = a.snoops := by rfl
@[simp] theorem Arch.setLevel_writeBacks : (a.setLevel l v).writeBacks = a.writeBacks := by rfl
@[simp] theorem Arch.setLevel_doorbells : (a.setLevel l v).doorbells = a.doorbells := by rfl
@[simp] theorem Arch.setLevel_queues : (a.setLevel l v).queues = a.queues := by rfl
@[simp] theorem Arch.setLevel_qdesc : (a.setLevel l v).qdesc = a.qdesc := by rfl
@[simp] theorem Arch.setLevel_readyList : (a.setLevel l v).readyList = a.readyList := by rfl
@[simp] theorem Arch.setLevel_launches : (a.setLevel l v).launches = a.launches := by rfl
@[simp] theorem Arch.setLevel_units : (a.setLevel l v).units = a.units := by rfl
@[simp] theorem Arch.setLevel_graphs : (a.setLevel l v).graphs = a.graphs := by rfl
@[simp] theorem Arch.setLevel_opq : (a.setLevel l v).opq = a.opq := by rfl
@[simp] theorem Arch.setLevel_ops : (a.setLevel l v).ops = a.ops := by rfl
@[simp] theorem Arch.setLevel_xlinv : (a.setLevel l v).xlinv = a.xlinv := by rfl
@[simp] theorem Arch.setLevel_windows : (a.setLevel l v).windows = a.windows := by rfl
@[simp] theorem Arch.setLevel_hwin : (a.setLevel l v).hwin = a.hwin := by rfl
@[simp] theorem Arch.setLevel_time : (a.setLevel l v).time = a.time := by rfl
@[simp] theorem Arch.setLevel_links : (a.setLevel l v).links = a.links := by rfl
@[simp] theorem Arch.setLevel_red : (a.setLevel l v).red = a.red := by rfl
@[simp] theorem Arch.setLevel_cancels : (a.setLevel l v).cancels = a.cancels := by rfl
@[simp] theorem Arch.setLevel_power : (a.setLevel l v).power = a.power := by rfl
@[simp] theorem Arch.setLevel_boot : (a.setLevel l v).boot = a.boot := by rfl
@[simp] theorem Arch.setLevel_msix : (a.setLevel l v).msix = a.msix := by rfl
@[simp] theorem Arch.setLevel_pba : (a.setLevel l v).pba = a.pba := by rfl
@[simp] theorem Arch.setLevel_interrupts : (a.setLevel l v).interrupts = a.interrupts := by rfl
@[simp] theorem Arch.setLevel_reply : (a.setLevel l v).reply = a.reply := by rfl
@[simp] theorem Arch.setLevel_workerRestarts : (a.setLevel l v).workerRestarts = a.workerRestarts := by rfl
@[simp] theorem Arch.setLevel_unsupported : (a.setLevel l v).unsupported = a.unsupported := by rfl
@[simp] theorem Arch.setLevel_periodStart : (a.setLevel l v).periodStart = a.periodStart := by rfl
@[simp] theorem Arch.setLevel_feHeld : (a.setLevel l v).feHeld = a.feHeld := by rfl
@[simp] theorem Arch.setLevel_raced : (a.setLevel l v).raced = a.raced := by rfl
@[simp] theorem Arch.setLevel_syncq : (a.setLevel l v).syncq = a.syncq := by rfl

end

section
variable (a : Arch) (l : Nat) (v : Launch)

@[simp] theorem Arch.setLaunch_clock : (a.setLaunch l v).clock = a.clock := by rfl
@[simp] theorem Arch.setLaunch_modnum : (a.setLaunch l v).modnum = a.modnum := by rfl
@[simp] theorem Arch.setLaunch_mem : (a.setLaunch l v).mem = a.mem := by rfl
@[simp] theorem Arch.setLaunch_cores : (a.setLaunch l v).cores = a.cores := by rfl
@[simp] theorem Arch.setLaunch_bricks : (a.setLaunch l v).bricks = a.bricks := by rfl
@[simp] theorem Arch.setLaunch_lowPort : (a.setLaunch l v).lowPort = a.lowPort := by rfl
@[simp] theorem Arch.setLaunch_wakeEvents : (a.setLaunch l v).wakeEvents = a.wakeEvents := by rfl
@[simp] theorem Arch.setLaunch_nextId : (a.setLaunch l v).nextId = a.nextId := by rfl
@[simp] theorem Arch.setLaunch_reqs : (a.setLaunch l v).reqs = a.reqs := by rfl
@[simp] theorem Arch.setLaunch_fills : (a.setLaunch l v).fills = a.fills := by rfl
@[simp] theorem Arch.setLaunch_snoops : (a.setLaunch l v).snoops = a.snoops := by rfl
@[simp] theorem Arch.setLaunch_writeBacks : (a.setLaunch l v).writeBacks = a.writeBacks := by rfl
@[simp] theorem Arch.setLaunch_doorbells : (a.setLaunch l v).doorbells = a.doorbells := by rfl
@[simp] theorem Arch.setLaunch_queues : (a.setLaunch l v).queues = a.queues := by rfl
@[simp] theorem Arch.setLaunch_qdesc : (a.setLaunch l v).qdesc = a.qdesc := by rfl
@[simp] theorem Arch.setLaunch_readyList : (a.setLaunch l v).readyList = a.readyList := by rfl
@[simp] theorem Arch.setLaunch_levels : (a.setLaunch l v).levels = a.levels := by rfl
@[simp] theorem Arch.setLaunch_units : (a.setLaunch l v).units = a.units := by rfl
@[simp] theorem Arch.setLaunch_graphs : (a.setLaunch l v).graphs = a.graphs := by rfl
@[simp] theorem Arch.setLaunch_opq : (a.setLaunch l v).opq = a.opq := by rfl
@[simp] theorem Arch.setLaunch_ops : (a.setLaunch l v).ops = a.ops := by rfl
@[simp] theorem Arch.setLaunch_xlinv : (a.setLaunch l v).xlinv = a.xlinv := by rfl
@[simp] theorem Arch.setLaunch_windows : (a.setLaunch l v).windows = a.windows := by rfl
@[simp] theorem Arch.setLaunch_hwin : (a.setLaunch l v).hwin = a.hwin := by rfl
@[simp] theorem Arch.setLaunch_time : (a.setLaunch l v).time = a.time := by rfl
@[simp] theorem Arch.setLaunch_links : (a.setLaunch l v).links = a.links := by rfl
@[simp] theorem Arch.setLaunch_red : (a.setLaunch l v).red = a.red := by rfl
@[simp] theorem Arch.setLaunch_cancels : (a.setLaunch l v).cancels = a.cancels := by rfl
@[simp] theorem Arch.setLaunch_power : (a.setLaunch l v).power = a.power := by rfl
@[simp] theorem Arch.setLaunch_boot : (a.setLaunch l v).boot = a.boot := by rfl
@[simp] theorem Arch.setLaunch_msix : (a.setLaunch l v).msix = a.msix := by rfl
@[simp] theorem Arch.setLaunch_pba : (a.setLaunch l v).pba = a.pba := by rfl
@[simp] theorem Arch.setLaunch_interrupts : (a.setLaunch l v).interrupts = a.interrupts := by rfl
@[simp] theorem Arch.setLaunch_reply : (a.setLaunch l v).reply = a.reply := by rfl
@[simp] theorem Arch.setLaunch_workerRestarts : (a.setLaunch l v).workerRestarts = a.workerRestarts := by rfl
@[simp] theorem Arch.setLaunch_unsupported : (a.setLaunch l v).unsupported = a.unsupported := by rfl
@[simp] theorem Arch.setLaunch_periodStart : (a.setLaunch l v).periodStart = a.periodStart := by rfl
@[simp] theorem Arch.setLaunch_feHeld : (a.setLaunch l v).feHeld = a.feHeld := by rfl
@[simp] theorem Arch.setLaunch_raced : (a.setLaunch l v).raced = a.raced := by rfl
@[simp] theorem Arch.setLaunch_syncq : (a.setLaunch l v).syncq = a.syncq := by rfl

end

section
variable (a : Arch) (u : Nat) (v : ExecUnit)

@[simp] theorem Arch.setUnit_clock : (a.setUnit u v).clock = a.clock := by rfl
@[simp] theorem Arch.setUnit_modnum : (a.setUnit u v).modnum = a.modnum := by rfl
@[simp] theorem Arch.setUnit_mem : (a.setUnit u v).mem = a.mem := by rfl
@[simp] theorem Arch.setUnit_cores : (a.setUnit u v).cores = a.cores := by rfl
@[simp] theorem Arch.setUnit_bricks : (a.setUnit u v).bricks = a.bricks := by rfl
@[simp] theorem Arch.setUnit_lowPort : (a.setUnit u v).lowPort = a.lowPort := by rfl
@[simp] theorem Arch.setUnit_wakeEvents : (a.setUnit u v).wakeEvents = a.wakeEvents := by rfl
@[simp] theorem Arch.setUnit_nextId : (a.setUnit u v).nextId = a.nextId := by rfl
@[simp] theorem Arch.setUnit_reqs : (a.setUnit u v).reqs = a.reqs := by rfl
@[simp] theorem Arch.setUnit_fills : (a.setUnit u v).fills = a.fills := by rfl
@[simp] theorem Arch.setUnit_snoops : (a.setUnit u v).snoops = a.snoops := by rfl
@[simp] theorem Arch.setUnit_writeBacks : (a.setUnit u v).writeBacks = a.writeBacks := by rfl
@[simp] theorem Arch.setUnit_doorbells : (a.setUnit u v).doorbells = a.doorbells := by rfl
@[simp] theorem Arch.setUnit_queues : (a.setUnit u v).queues = a.queues := by rfl
@[simp] theorem Arch.setUnit_qdesc : (a.setUnit u v).qdesc = a.qdesc := by rfl
@[simp] theorem Arch.setUnit_readyList : (a.setUnit u v).readyList = a.readyList := by rfl
@[simp] theorem Arch.setUnit_levels : (a.setUnit u v).levels = a.levels := by rfl
@[simp] theorem Arch.setUnit_launches : (a.setUnit u v).launches = a.launches := by rfl
@[simp] theorem Arch.setUnit_graphs : (a.setUnit u v).graphs = a.graphs := by rfl
@[simp] theorem Arch.setUnit_opq : (a.setUnit u v).opq = a.opq := by rfl
@[simp] theorem Arch.setUnit_ops : (a.setUnit u v).ops = a.ops := by rfl
@[simp] theorem Arch.setUnit_xlinv : (a.setUnit u v).xlinv = a.xlinv := by rfl
@[simp] theorem Arch.setUnit_windows : (a.setUnit u v).windows = a.windows := by rfl
@[simp] theorem Arch.setUnit_hwin : (a.setUnit u v).hwin = a.hwin := by rfl
@[simp] theorem Arch.setUnit_time : (a.setUnit u v).time = a.time := by rfl
@[simp] theorem Arch.setUnit_links : (a.setUnit u v).links = a.links := by rfl
@[simp] theorem Arch.setUnit_red : (a.setUnit u v).red = a.red := by rfl
@[simp] theorem Arch.setUnit_cancels : (a.setUnit u v).cancels = a.cancels := by rfl
@[simp] theorem Arch.setUnit_power : (a.setUnit u v).power = a.power := by rfl
@[simp] theorem Arch.setUnit_boot : (a.setUnit u v).boot = a.boot := by rfl
@[simp] theorem Arch.setUnit_msix : (a.setUnit u v).msix = a.msix := by rfl
@[simp] theorem Arch.setUnit_pba : (a.setUnit u v).pba = a.pba := by rfl
@[simp] theorem Arch.setUnit_interrupts : (a.setUnit u v).interrupts = a.interrupts := by rfl
@[simp] theorem Arch.setUnit_reply : (a.setUnit u v).reply = a.reply := by rfl
@[simp] theorem Arch.setUnit_workerRestarts : (a.setUnit u v).workerRestarts = a.workerRestarts := by rfl
@[simp] theorem Arch.setUnit_unsupported : (a.setUnit u v).unsupported = a.unsupported := by rfl
@[simp] theorem Arch.setUnit_periodStart : (a.setUnit u v).periodStart = a.periodStart := by rfl
@[simp] theorem Arch.setUnit_feHeld : (a.setUnit u v).feHeld = a.feHeld := by rfl
@[simp] theorem Arch.setUnit_raced : (a.setUnit u v).raced = a.raced := by rfl
@[simp] theorem Arch.setUnit_syncq : (a.setUnit u v).syncq = a.syncq := by rfl

end

section
variable (a : Arch) (g : Nat) (v : Graph)

@[simp] theorem Arch.setGraph_clock : (a.setGraph g v).clock = a.clock := by rfl
@[simp] theorem Arch.setGraph_modnum : (a.setGraph g v).modnum = a.modnum := by rfl
@[simp] theorem Arch.setGraph_mem : (a.setGraph g v).mem = a.mem := by rfl
@[simp] theorem Arch.setGraph_cores : (a.setGraph g v).cores = a.cores := by rfl
@[simp] theorem Arch.setGraph_bricks : (a.setGraph g v).bricks = a.bricks := by rfl
@[simp] theorem Arch.setGraph_lowPort : (a.setGraph g v).lowPort = a.lowPort := by rfl
@[simp] theorem Arch.setGraph_wakeEvents : (a.setGraph g v).wakeEvents = a.wakeEvents := by rfl
@[simp] theorem Arch.setGraph_nextId : (a.setGraph g v).nextId = a.nextId := by rfl
@[simp] theorem Arch.setGraph_reqs : (a.setGraph g v).reqs = a.reqs := by rfl
@[simp] theorem Arch.setGraph_fills : (a.setGraph g v).fills = a.fills := by rfl
@[simp] theorem Arch.setGraph_snoops : (a.setGraph g v).snoops = a.snoops := by rfl
@[simp] theorem Arch.setGraph_writeBacks : (a.setGraph g v).writeBacks = a.writeBacks := by rfl
@[simp] theorem Arch.setGraph_doorbells : (a.setGraph g v).doorbells = a.doorbells := by rfl
@[simp] theorem Arch.setGraph_queues : (a.setGraph g v).queues = a.queues := by rfl
@[simp] theorem Arch.setGraph_qdesc : (a.setGraph g v).qdesc = a.qdesc := by rfl
@[simp] theorem Arch.setGraph_readyList : (a.setGraph g v).readyList = a.readyList := by rfl
@[simp] theorem Arch.setGraph_levels : (a.setGraph g v).levels = a.levels := by rfl
@[simp] theorem Arch.setGraph_launches : (a.setGraph g v).launches = a.launches := by rfl
@[simp] theorem Arch.setGraph_units : (a.setGraph g v).units = a.units := by rfl
@[simp] theorem Arch.setGraph_opq : (a.setGraph g v).opq = a.opq := by rfl
@[simp] theorem Arch.setGraph_ops : (a.setGraph g v).ops = a.ops := by rfl
@[simp] theorem Arch.setGraph_xlinv : (a.setGraph g v).xlinv = a.xlinv := by rfl
@[simp] theorem Arch.setGraph_windows : (a.setGraph g v).windows = a.windows := by rfl
@[simp] theorem Arch.setGraph_hwin : (a.setGraph g v).hwin = a.hwin := by rfl
@[simp] theorem Arch.setGraph_time : (a.setGraph g v).time = a.time := by rfl
@[simp] theorem Arch.setGraph_links : (a.setGraph g v).links = a.links := by rfl
@[simp] theorem Arch.setGraph_red : (a.setGraph g v).red = a.red := by rfl
@[simp] theorem Arch.setGraph_cancels : (a.setGraph g v).cancels = a.cancels := by rfl
@[simp] theorem Arch.setGraph_power : (a.setGraph g v).power = a.power := by rfl
@[simp] theorem Arch.setGraph_boot : (a.setGraph g v).boot = a.boot := by rfl
@[simp] theorem Arch.setGraph_msix : (a.setGraph g v).msix = a.msix := by rfl
@[simp] theorem Arch.setGraph_pba : (a.setGraph g v).pba = a.pba := by rfl
@[simp] theorem Arch.setGraph_interrupts : (a.setGraph g v).interrupts = a.interrupts := by rfl
@[simp] theorem Arch.setGraph_reply : (a.setGraph g v).reply = a.reply := by rfl
@[simp] theorem Arch.setGraph_workerRestarts : (a.setGraph g v).workerRestarts = a.workerRestarts := by rfl
@[simp] theorem Arch.setGraph_unsupported : (a.setGraph g v).unsupported = a.unsupported := by rfl
@[simp] theorem Arch.setGraph_periodStart : (a.setGraph g v).periodStart = a.periodStart := by rfl
@[simp] theorem Arch.setGraph_feHeld : (a.setGraph g v).feHeld = a.feHeld := by rfl
@[simp] theorem Arch.setGraph_raced : (a.setGraph g v).raced = a.raced := by rfl
@[simp] theorem Arch.setGraph_syncq : (a.setGraph g v).syncq = a.syncq := by rfl

end

section
variable (a : Arch) (n : Nat) (v : Option OpSet)

@[simp] theorem Arch.setOp_clock : (a.setOp n v).clock = a.clock := by rfl
@[simp] theorem Arch.setOp_modnum : (a.setOp n v).modnum = a.modnum := by rfl
@[simp] theorem Arch.setOp_mem : (a.setOp n v).mem = a.mem := by rfl
@[simp] theorem Arch.setOp_cores : (a.setOp n v).cores = a.cores := by rfl
@[simp] theorem Arch.setOp_bricks : (a.setOp n v).bricks = a.bricks := by rfl
@[simp] theorem Arch.setOp_lowPort : (a.setOp n v).lowPort = a.lowPort := by rfl
@[simp] theorem Arch.setOp_wakeEvents : (a.setOp n v).wakeEvents = a.wakeEvents := by rfl
@[simp] theorem Arch.setOp_nextId : (a.setOp n v).nextId = a.nextId := by rfl
@[simp] theorem Arch.setOp_reqs : (a.setOp n v).reqs = a.reqs := by rfl
@[simp] theorem Arch.setOp_fills : (a.setOp n v).fills = a.fills := by rfl
@[simp] theorem Arch.setOp_snoops : (a.setOp n v).snoops = a.snoops := by rfl
@[simp] theorem Arch.setOp_writeBacks : (a.setOp n v).writeBacks = a.writeBacks := by rfl
@[simp] theorem Arch.setOp_doorbells : (a.setOp n v).doorbells = a.doorbells := by rfl
@[simp] theorem Arch.setOp_queues : (a.setOp n v).queues = a.queues := by rfl
@[simp] theorem Arch.setOp_qdesc : (a.setOp n v).qdesc = a.qdesc := by rfl
@[simp] theorem Arch.setOp_readyList : (a.setOp n v).readyList = a.readyList := by rfl
@[simp] theorem Arch.setOp_levels : (a.setOp n v).levels = a.levels := by rfl
@[simp] theorem Arch.setOp_launches : (a.setOp n v).launches = a.launches := by rfl
@[simp] theorem Arch.setOp_units : (a.setOp n v).units = a.units := by rfl
@[simp] theorem Arch.setOp_graphs : (a.setOp n v).graphs = a.graphs := by rfl
@[simp] theorem Arch.setOp_opq : (a.setOp n v).opq = a.opq := by rfl
@[simp] theorem Arch.setOp_xlinv : (a.setOp n v).xlinv = a.xlinv := by rfl
@[simp] theorem Arch.setOp_windows : (a.setOp n v).windows = a.windows := by rfl
@[simp] theorem Arch.setOp_hwin : (a.setOp n v).hwin = a.hwin := by rfl
@[simp] theorem Arch.setOp_time : (a.setOp n v).time = a.time := by rfl
@[simp] theorem Arch.setOp_links : (a.setOp n v).links = a.links := by rfl
@[simp] theorem Arch.setOp_red : (a.setOp n v).red = a.red := by rfl
@[simp] theorem Arch.setOp_cancels : (a.setOp n v).cancels = a.cancels := by rfl
@[simp] theorem Arch.setOp_power : (a.setOp n v).power = a.power := by rfl
@[simp] theorem Arch.setOp_boot : (a.setOp n v).boot = a.boot := by rfl
@[simp] theorem Arch.setOp_msix : (a.setOp n v).msix = a.msix := by rfl
@[simp] theorem Arch.setOp_pba : (a.setOp n v).pba = a.pba := by rfl
@[simp] theorem Arch.setOp_interrupts : (a.setOp n v).interrupts = a.interrupts := by rfl
@[simp] theorem Arch.setOp_reply : (a.setOp n v).reply = a.reply := by rfl
@[simp] theorem Arch.setOp_workerRestarts : (a.setOp n v).workerRestarts = a.workerRestarts := by rfl
@[simp] theorem Arch.setOp_unsupported : (a.setOp n v).unsupported = a.unsupported := by rfl
@[simp] theorem Arch.setOp_periodStart : (a.setOp n v).periodStart = a.periodStart := by rfl
@[simp] theorem Arch.setOp_feHeld : (a.setOp n v).feHeld = a.feHeld := by rfl
@[simp] theorem Arch.setOp_raced : (a.setOp n v).raced = a.raced := by rfl
@[simp] theorem Arch.setOp_syncq : (a.setOp n v).syncq = a.syncq := by rfl

end

section
variable (a : Arch) (p : Nat) (f : Link → Link)

@[simp] theorem Arch.mapLink_clock : (a.mapLink p f).clock = a.clock := by rfl
@[simp] theorem Arch.mapLink_modnum : (a.mapLink p f).modnum = a.modnum := by rfl
@[simp] theorem Arch.mapLink_mem : (a.mapLink p f).mem = a.mem := by rfl
@[simp] theorem Arch.mapLink_cores : (a.mapLink p f).cores = a.cores := by rfl
@[simp] theorem Arch.mapLink_bricks : (a.mapLink p f).bricks = a.bricks := by rfl
@[simp] theorem Arch.mapLink_lowPort : (a.mapLink p f).lowPort = a.lowPort := by rfl
@[simp] theorem Arch.mapLink_wakeEvents : (a.mapLink p f).wakeEvents = a.wakeEvents := by rfl
@[simp] theorem Arch.mapLink_nextId : (a.mapLink p f).nextId = a.nextId := by rfl
@[simp] theorem Arch.mapLink_reqs : (a.mapLink p f).reqs = a.reqs := by rfl
@[simp] theorem Arch.mapLink_fills : (a.mapLink p f).fills = a.fills := by rfl
@[simp] theorem Arch.mapLink_snoops : (a.mapLink p f).snoops = a.snoops := by rfl
@[simp] theorem Arch.mapLink_writeBacks : (a.mapLink p f).writeBacks = a.writeBacks := by rfl
@[simp] theorem Arch.mapLink_doorbells : (a.mapLink p f).doorbells = a.doorbells := by rfl
@[simp] theorem Arch.mapLink_queues : (a.mapLink p f).queues = a.queues := by rfl
@[simp] theorem Arch.mapLink_qdesc : (a.mapLink p f).qdesc = a.qdesc := by rfl
@[simp] theorem Arch.mapLink_readyList : (a.mapLink p f).readyList = a.readyList := by rfl
@[simp] theorem Arch.mapLink_levels : (a.mapLink p f).levels = a.levels := by rfl
@[simp] theorem Arch.mapLink_launches : (a.mapLink p f).launches = a.launches := by rfl
@[simp] theorem Arch.mapLink_units : (a.mapLink p f).units = a.units := by rfl
@[simp] theorem Arch.mapLink_graphs : (a.mapLink p f).graphs = a.graphs := by rfl
@[simp] theorem Arch.mapLink_opq : (a.mapLink p f).opq = a.opq := by rfl
@[simp] theorem Arch.mapLink_ops : (a.mapLink p f).ops = a.ops := by rfl
@[simp] theorem Arch.mapLink_xlinv : (a.mapLink p f).xlinv = a.xlinv := by rfl
@[simp] theorem Arch.mapLink_windows : (a.mapLink p f).windows = a.windows := by rfl
@[simp] theorem Arch.mapLink_hwin : (a.mapLink p f).hwin = a.hwin := by rfl
@[simp] theorem Arch.mapLink_time : (a.mapLink p f).time = a.time := by rfl
@[simp] theorem Arch.mapLink_red : (a.mapLink p f).red = a.red := by rfl
@[simp] theorem Arch.mapLink_cancels : (a.mapLink p f).cancels = a.cancels := by rfl
@[simp] theorem Arch.mapLink_power : (a.mapLink p f).power = a.power := by rfl
@[simp] theorem Arch.mapLink_boot : (a.mapLink p f).boot = a.boot := by rfl
@[simp] theorem Arch.mapLink_msix : (a.mapLink p f).msix = a.msix := by rfl
@[simp] theorem Arch.mapLink_pba : (a.mapLink p f).pba = a.pba := by rfl
@[simp] theorem Arch.mapLink_interrupts : (a.mapLink p f).interrupts = a.interrupts := by rfl
@[simp] theorem Arch.mapLink_reply : (a.mapLink p f).reply = a.reply := by rfl
@[simp] theorem Arch.mapLink_workerRestarts : (a.mapLink p f).workerRestarts = a.workerRestarts := by rfl
@[simp] theorem Arch.mapLink_unsupported : (a.mapLink p f).unsupported = a.unsupported := by rfl
@[simp] theorem Arch.mapLink_periodStart : (a.mapLink p f).periodStart = a.periodStart := by rfl
@[simp] theorem Arch.mapLink_feHeld : (a.mapLink p f).feHeld = a.feHeld := by rfl
@[simp] theorem Arch.mapLink_raced : (a.mapLink p f).raced = a.raced := by rfl
@[simp] theorem Arch.mapLink_syncq : (a.mapLink p f).syncq = a.syncq := by rfl

end

-- ## What an update writes

@[simp] theorem Arch.core_setCore (a : Arch) (c : Nat) (k : Core) : (a.setCore c k).core c = k := by
  simp [Arch.core, Arch.setCore]

theorem Arch.core_setCore_other (a : Arch) {c d : Nat} (k : Core) (h : d ≠ c) : (a.setCore c k).core d = a.core d :=
  SMap.get_set_other _ _ _ h

@[simp] theorem Arch.core_mapCore (a : Arch) (c : Nat) (f : Core → Core) : (a.mapCore c f).core c = f (a.core c) :=
  a.core_setCore c _

theorem Arch.core_mapCore_other (a : Arch) {c d : Nat} (f : Core → Core) (h : d ≠ c) :
    (a.mapCore c f).core d = a.core d := a.core_setCore_other _ h

@[simp] theorem Core.ctx_setCtx (k : Core) (x : Nat) (t : Context) : (k.setCtx x t).ctx x = t := by
  simp [Core.ctx, Core.setCtx]

theorem Core.ctx_setCtx_other (k : Core) {x y : Nat} (t : Context) (h : y ≠ x) : (k.setCtx x t).ctx y = k.ctx y :=
  SMap.get_set_other _ _ _ h

@[simp] theorem Arch.ctx_setCtx (a : Arch) (c x : Nat) (t : Context) : (a.setCtx c x t).ctx c x = t := by
  simp [Arch.ctx, Arch.setCtx]

@[simp] theorem Arch.ctx_mapCtx (a : Arch) (c x : Nat) (f : Context → Context) : (a.mapCtx c x f).ctx c x = f (a.ctx c x) :=
  a.ctx_setCtx c x _

/-- An update of one context leaves every other context as it was. -/
theorem Arch.ctx_setCtx_other (a : Arch) {c x d y : Nat} (t : Context) (h : d ≠ c ∨ y ≠ x) :
    (a.setCtx c x t).ctx d y = a.ctx d y := by
  by_cases hd : d = c
  · subst hd
    have hy : y ≠ x := by tauto
    simp [Arch.ctx, Arch.setCtx, Core.ctx_setCtx_other _ _ hy]
  · simp [Arch.ctx, Arch.setCtx, Arch.core_setCore_other _ _ hd]

theorem Arch.ctx_mapCtx_other (a : Arch) {c x d y : Nat} (f : Context → Context) (h : d ≠ c ∨ y ≠ x) :
    (a.mapCtx c x f).ctx d y = a.ctx d y := a.ctx_setCtx_other _ h

@[simp] theorem Context.chan_setChan (t : Context) (n : Nat) (h : Chan) : (t.setChan n h).chan n = h := by
  simp [Context.chan, Context.setChan]

theorem Context.chan_setChan_other (t : Context) {n m : Nat} (h : Chan) (hm : m ≠ n) : (t.setChan n h).chan m = t.chan m :=
  SMap.get_set_other _ _ _ hm

@[simp] theorem Arch.brick_mapBrick (a : Arch) (b : Nat) (f : Brick → Brick) : (a.mapBrick b f).brick b = f (a.brick b) := by
  simp [Arch.brick, Arch.mapBrick]

theorem Arch.brick_mapBrick_other (a : Arch) {b d : Nat} (f : Brick → Brick) (h : d ≠ b) :
    (a.mapBrick b f).brick d = a.brick d := SMap.get_set_other _ _ _ h

@[simp] theorem Arch.queue_mapQueue (a : Arch) (q : Nat) (f : Queue → Queue) : (a.mapQueue q f).queue q = f (a.queue q) := by
  simp [Arch.queue, Arch.mapQueue]

theorem Arch.queue_mapQueue_other (a : Arch) {q p : Nat} (f : Queue → Queue) (h : p ≠ q) :
    (a.mapQueue q f).queue p = a.queue p := SMap.get_set_other _ _ _ h

@[simp] theorem Arch.level_setLevel (a : Arch) (l : Nat) (v : Level) : (a.setLevel l v).level l = some v := by
  simp [Arch.level, Arch.setLevel]

@[simp] theorem Arch.launch_setLaunch (a : Arch) (l : Nat) (v : Launch) : (a.setLaunch l v).launch l = some v := by
  simp [Arch.launch, Arch.setLaunch]

@[simp] theorem Arch.unit_setUnit (a : Arch) (u : Nat) (v : ExecUnit) : (a.setUnit u v).unit u = some v := by
  simp [Arch.unit, Arch.setUnit]

@[simp] theorem Arch.graph_setGraph (a : Arch) (g : Nat) (v : Graph) : (a.setGraph g v).graph g = some v := by
  simp [Arch.graph, Arch.setGraph]

@[simp] theorem Arch.op_setOp (a : Arch) (n : Nat) (v : Option OpSet) : (a.setOp n v).op n = v := by
  simp [Arch.op, Arch.setOp]

@[simp] theorem Arch.link_mapLink (a : Arch) (p : Nat) (f : Link → Link) : (a.mapLink p f).link p = f (a.link p) := by
  simp [Arch.link, Arch.mapLink]

-- ## The state around the module

section
variable (s : State) (a : Arch) (i : Issue) (f : Context → Context)

@[simp] theorem State.setArch_arch : (s.setArch a).arch = a := rfl
@[simp] theorem State.setArch_iss : (s.setArch a).iss = s.iss := rfl
@[simp] theorem State.setArch_tape : (s.setArch a).tape = s.tape := rfl
@[simp] theorem State.setArch_fresh : (s.setArch a).fresh = s.fresh := rfl
@[simp] theorem State.setIss_arch : (s.setIss i).arch = s.arch := rfl
@[simp] theorem State.setIss_iss : (s.setIss i).iss = i := rfl
@[simp] theorem State.setIss_tape : (s.setIss i).tape = s.tape := rfl
@[simp] theorem State.setIss_fresh : (s.setIss i).fresh = s.fresh := rfl
@[simp] theorem State.upd_arch : (s.upd f).arch = s.arch.mapCtx s.iss.core s.iss.ctx f := rfl
@[simp] theorem State.upd_iss : (s.upd f).iss = s.iss := rfl
@[simp] theorem State.upd_tape : (s.upd f).tape = s.tape := rfl
@[simp] theorem State.upd_fresh : (s.upd f).fresh = s.fresh := rfl

@[simp] theorem State.upd_cur : (s.upd f).cur = f s.cur := by simp [State.cur]

end

end Sys2Proof.Machine
end

