-- ==== Sys2Proof/Laws/Ops.lean ====
section
/-! SUPPORT. What each shared operation of a slot and of an event can do, said once: guards, outcomes of a slot, results in
flight, accesses, the taking of an exception and the return from one, the landing of results, and the clock. -/

namespace Sys2Proof.Machine

-- ## Guards and outcomes

section
variable (s t : State)

theorem State.whenOn_on {p : Nat} (r : SlotR) (h : s.guard p = true) : s.whenOn p r = r := by simp [State.whenOn, h]
theorem State.whenOn_off {p : Nat} (r : SlotR) (h : s.guard p = false) : s.whenOn p r = .ok s := by simp [State.whenOn, h]

theorem State.finish_trapped (r : SlotR) (h : s.iss.trapped = true) : s.finish r = s := by simp [State.finish, h]
theorem State.finish_ok (h : s.iss.trapped = false) : s.finish (.ok t) = t.slotDone := by simp [State.finish, h]
theorem State.finish_trap {c i st g : Nat} (h : s.iss.trapped = false) :
    s.finish (.trap c i st g) = s.trapNow c s.iss.pos st g i := by simp [State.finish, h]
theorem State.finish_hold {k : Hold} (h : s.iss.trapped = false) :
    s.finish (.hold k) = (s.setIss { s.iss with held := some (s.iss.held.getD k) }).slotDone := by simp [State.finish, h]
theorem State.finish_stall {k : Hold} {a : Arch} (h : s.iss.trapped = false) (hk : k ≠ .stash) :
    s.finish (.stall k a) = ((s.setArch a).setIss { s.iss with pre := some a }).holdNow k := by simp [State.finish, h, hk]
theorem State.finish_stash {a : Arch} (h : s.iss.trapped = false) :
    s.finish (.stall .stash a) =
      ((s.setArch a).setIss { s.iss with pre := some a, held := some (s.iss.held.getD .stash) }).slotDone := by
  simp [State.finish, h, State.setIss, State.setArch]

/-- A slot that is not the last of its bundle only counts down. -/
theorem State.slotDone_more (h : 2 ≤ s.iss.left) : s.slotDone = s.setIss { s.iss with left := s.iss.left - 1 } := by
  simp [State.slotDone, show ¬ s.iss.left ≤ 1 by omega]
theorem State.slotDone_last (h : s.iss.left ≤ 1) (hh : s.iss.held = none) : s.slotDone = s.commit := by
  simp [State.slotDone, h, hh]
theorem State.slotDone_held {k : Hold} (h : s.iss.left ≤ 1) (hh : s.iss.held = some k) : s.slotDone = s.holdNow k := by
  simp [State.slotDone, h, hh]

-- ## Results in flight

theorem State.result_eq (file : RFile) (reg : Nat) (mask val : BitVec 4096) (lat : Nat) :
    s.result file reg mask val lat = s.upd (fun t => { t with inflight := t.inflight ++
      [⟨file, reg, mask, val, 0, t.time + lat, t.ord, 0, 0, false⟩] }) := rfl

@[simp] theorem State.result_iss (file : RFile) (reg : Nat) (mask val : BitVec 4096) (lat : Nat) :
    (s.result file reg mask val lat).iss = s.iss := rfl
@[simp] theorem State.result_mem (file : RFile) (reg : Nat) (mask val : BitVec 4096) (lat : Nat) :
    (s.result file reg mask val lat).arch.mem = s.arch.mem := rfl
@[simp] theorem State.result_reqs (file : RFile) (reg : Nat) (mask val : BitVec 4096) (lat : Nat) :
    (s.result file reg mask val lat).arch.reqs = s.arch.reqs := rfl

theorem State.landG_zero (x : Word) (lat : Nat) : s.landG 0 x lat = s := rfl
theorem State.landG_of_ne {d : Nat} (x : Word) (lat : Nat) (h : d ≠ 0) :
    s.landG d x lat = s.result .g (s.rd.physG d) full4096 (x.setWidth 4096) lat := by simp [State.landG, h]
theorem State.landP_of_ne {d : Nat} (x : Bool) (lat : Nat) (h : d ≠ 0) :
    s.landP d x lat = s.result .p (s.rd.physP d) full4096 (if x then 1 else 0) lat := by simp [State.landP, h]
theorem State.landK_of_ne {d : Nat} (x lat : Nat) (h : d ≠ 0) :
    s.landK d x lat = s.result .k d full4096 (BitVec.ofNat 4096 x) lat := by simp [State.landK, h]

@[simp] theorem State.landG_iss (d : Nat) (x : Word) (lat : Nat) : (s.landG d x lat).iss = s.iss := by
  unfold State.landG; split <;> rfl
@[simp] theorem State.landP_iss (d : Nat) (x : Bool) (lat : Nat) : (s.landP d x lat).iss = s.iss := by
  unfold State.landP; split <;> rfl
@[simp] theorem State.landK_iss (d x lat : Nat) : (s.landK d x lat).iss = s.iss := by
  unfold State.landK; split <;> rfl
@[simp] theorem State.landV_iss (d : Nat) (mask : BitVec 4096) (x lat : Nat) : (s.landV d mask x lat).iss = s.iss := rfl

/-- An access of a bundle changes the list of its accesses only. -/
@[simp] theorem State.access_arch (r : Req) : (s.access r).arch = s.arch := rfl
@[simp] theorem State.accesses_arch (rs : List Req) : (s.accesses rs).arch = s.arch := rfl
@[simp] theorem State.access_accs (r : Req) : (s.access r).iss.accs = s.iss.accs ++ [r] := rfl
@[simp] theorem State.accesses_accs (rs : List Req) : (s.accesses rs).iss.accs = s.iss.accs ++ rs := rfl

-- ## Events

theorem State.event_next (f : Arch → Arch) : s.event f = .next (s.setArch (f s.arch)) := rfl

/-- A step of the front end goes where it leads, unless an access of it has to wait (R22, R253; log entry 68). -/
theorem State.frontEvent_next (f : Arch → Arch) :
    s.frontEvent f = .next (s.setArch (s.arch.unlessHeld (fun a => (f a).frontDone))) := rfl
theorem State.opEvent_next (f : Arch → Arch) :
    s.opEvent f = .next (s.setArch (s.arch.unlessHeld (fun a => (f a).opDone.frontDone))) := rfl

/-- All that a held step of the front end leaves is what its wait notes. -/
theorem Arch.unlessHeld_held {a : Arch} {f : Arch → Arch} (h : (f a).feHeld = true) :
    a.unlessHeld f = { a with windows := (f a).windows, snoops := (f a).snoops } := by simp [Arch.unlessHeld, h]
theorem Arch.unlessHeld_goes {a : Arch} {f : Arch → Arch} (h : (f a).feHeld = false) : a.unlessHeld f = f a := by
  simp [Arch.unlessHeld, h]
@[simp] theorem Arch.anyway_feHeld (a : Arch) : a.anyway.feHeld = false := rfl
@[simp] theorem Arch.anyway_mem (a : Arch) : a.anyway.mem = a.mem := rfl

end

-- ## Exceptions (R299 to R304, R309)

/-- A trap in the shadow context declines its service; a machine check is reported first. -/
theorem Arch.raise_shadow (a : Arch) (c cause slot step arg info left : Nat) :
    a.raise c 2 cause slot step arg info left =
      (if cause = 0x0D then a.interruptFrom (c / 32) 0 else a).declineService c := by simp [Arch.raise, Arch.raiseAt, Arch.raiseAs]

/-- The return of a program whose results have all landed lands them in order. -/
theorem Context.landAll_some {t t' : Context} (h : t.landAll = some t') :
    t.inflight.all (fun p => p.parts == 0) = true ∧ t'.inflight =
      ((t.inflight.mergeSort (fun p q => p.due < q.due || (p.due == q.due && p.ord ≤ q.ord))).foldl Context.put
        { t with inflight := [] }).inflight := by
  simp only [Context.landAll] at h
  split at h
  · next hp => exact ⟨hp, by cases h; rfl⟩
  · cases h

/-- A freeze keeps every result in flight, with the delay it still has. -/
theorem Context.freeze_latched (t : Context) :
    t.freeze.latched = t.inflight.map (fun p => { p with due := p.due - t.time }) ∧ t.freeze.inflight = [] := ⟨rfl, rfl⟩

-- ## Landing

/-- Landing a result changes no result in flight. -/
@[simp] theorem Context.put_inflight (t : Context) (p : Pend) : (t.put p).inflight = t.inflight := by
  unfold Context.put
  cases p.file <;> simp only <;> (try split) <;> rfl

theorem Context.foldl_put_inflight (ps : List Pend) (t : Context) : (ps.foldl Context.put t).inflight = t.inflight := by
  induction ps generalizing t with
  | nil => rfl
  | cons p ps ih => simp [ih]

/-- Where every result due has arrived, a result lands exactly when it is due (R62). -/
theorem Context.lands_of_allPresent (t : Context) (h : t.allPresent = true) {p : Pend} (hp : p ∈ t.inflight) :
    t.lands p = decide (p.due ≤ t.time) := by
  simp only [Context.allPresent, List.all_eq_true, Bool.or_eq_true, decide_eq_true_eq, beq_iff_eq] at h
  simp only [Context.lands]
  by_cases hd : p.due ≤ t.time
  · have hz : p.parts = 0 := (h p hp).resolve_left (by omega)
    simp only [hd, decide_true, hz, beq_self_eq_true, Bool.true_and, List.all_eq_true, Bool.not_eq_true', Bool.and_eq_false_iff]
    intro q hq
    rcases h q hq with h1 | h1
    · simp [Nat.not_le.mpr h1]
    · simp [h1]
  · simp [hd]

/-- Results that are not due stay in flight as they are. -/
theorem Context.settle_inflight (t : Context) (h : t.allPresent = true) :
    t.settle.inflight = t.inflight.filter (fun p => t.time < p.due) := by
  simp only [Context.settle, Context.foldl_put_inflight]
  refine List.filter_congr (fun p hp => ?_)
  rw [t.lands_of_allPresent h hp]
  by_cases hd : p.due ≤ t.time <;> simp [hd, Nat.not_le.mp, Nat.not_lt.mpr]

/-- Landing takes results out of flight that have arrived and are due, and no others (R60, R62). -/
theorem Context.settle_keeps (t : Context) {p : Pend} (hp : p ∈ t.inflight) (h : t.time < p.due ∨ p.parts ≠ 0) :
    p ∈ t.settle.inflight := by
  simp only [Context.settle, Context.foldl_put_inflight, List.mem_filter]
  refine ⟨hp, ?_⟩
  rcases h with h | h <;> simp [Context.lands, h, Nat.not_le.mpr]

-- ## Requests

/-- Every access sent gets an order of its own. -/
theorem Arch.enqueue_nil (a : Arch) : a.enqueue [] = (a, []) := rfl

-- ## Time

/-- Time passes by what it is told, and nothing but the time base moves with it. -/
@[simp] theorem Arch.elapse_clock (a : Arch) (n : Nat) : (a.elapse n).clock = a.clock + n := rfl
@[simp] theorem Arch.elapse_mem (a : Arch) (n : Nat) : (a.elapse n).mem = a.mem := rfl
@[simp] theorem Arch.elapse_cores (a : Arch) (n : Nat) : (a.elapse n).cores = a.cores := rfl
@[simp] theorem Arch.elapse_reqs (a : Arch) (n : Nat) : (a.elapse n).reqs = a.reqs := rfl

end Sys2Proof.Machine
end

