-- ==== Sys2Proof/Laws/PerInstr.lean ====
section
/-! SUPPORT. One lemma for each instruction of the family Coding: a well-formed instruction with an encoding (R84 to R99)
is what its slot or micro-op word decodes to. Rows without an encoding have nothing to show. -/

namespace Sys2Proof

theorem bit_mod (b : Bool) : (bit b % 2 == 1) = b := by cases b <;> rfl
theorem bit_eq (b : Bool) : (bit b == 1) = b := by cases b <;> rfl

theorem predSrc_parts {n : Nat} {neg : Bool} (h : n < 16) :
    predSrc n neg < 64 ∧ predSrc n neg % 16 = n ∧ (predSrc n neg / 32 == 1) = neg := by
  cases neg <;> simp only [predSrc, bit, beq_iff_eq, beq_eq_false_iff_ne] <;>
    (refine ⟨?_, ?_, ?_⟩ <;> first | omega | (simp; omega))

theorem encR_kind (op : Nat) (x : RArgs) : (encR op x).kind = .s := rfl
theorem encV_kind (op : Nat) (x : VArgs) : (encV op x).kind = .v := rfl

/-- The fields of a format R word with a source. -/
theorem encR_parts (op : Nat) (x : RArgs) (ho : op < 128) (hp : x.p < 32) (hd : x.d < 64) (ha : x.a < 64)
    (hb : x.b.ok = true) :
    bits (encR op x).word 11 5 = op ∧ bits (encR op x).word 4 0 = x.p ∧ bits (encR op x).word 17 12 = x.d ∧
    bits (encR op x).word 23 18 = x.a ∧ rdSrc (encR op x).word ((encR op x).lit.getD 0) = x.b ∧
    (bits (encR op x).word 30 30 == 1) = x.w := by
  have hf : bit x.w + 2 * x.b.sel < 4 := by have := bit_lt x.w; cases x.b <;> simp [Src.sel] <;> omega
  obtain ⟨h1, h2, h3, h4, h5, h6⟩ := bits_packR hp ho hd ha (Src.field_lt hb) hf
  obtain ⟨s1, s2, -⟩ := bits_split (encR op x).word
  refine ⟨h2, h1, h3, h4, ?_, ?_⟩
  · simp only [rdSrc, s2]
    simp only [encR, h5, h6]
    cases x.b <;> cases x.w <;> simp [bit, Src.sel, Src.literal, Src.field]
  · rw [s1]
    simp only [encR, h6]
    cases x.b <;> cases x.w <;> simp [bit, Src.sel]

/-- A format R word of a well-formed arithmetic instruction. -/
theorem encR_of_wf (op : Nat) (x : RArgs) (ho : op < 128)
    (hw : (guardOk x.p && gOk x.d && gOk x.a && x.b.ok) = true) :
    bits (encR op x).word 11 5 = op ∧ rdR (encR op x).word ((encR op x).lit.getD 0) = x := by
  simp only [Bool.and_eq_true] at hw
  obtain ⟨h1, h2, h3, h4, h5, h6⟩ := encR_parts op x ho (guard_lt hw.1.1.1) (g_lt hw.1.1.2) (g_lt hw.1.2) hw.2
  exact ⟨h1, by rw [rdR, h2, h3, h4, h5, h6]⟩

theorem encMem_fields (op : Nat) (x : MemArgs) (ho : op < 128) (hp : x.p < 32) (hd : x.d < 64) (ha : x.a < 64)
    (hs : x.sz < 4) : bits (encMem op x).word 11 5 = op ∧ rdMem (encMem op x).word = x := by
  obtain ⟨h1, h2, h3, h4, h5, h6⟩ := bits_packR hp ho hd ha x.off.isLt hs
  refine ⟨h2, ?_⟩
  simp only [rdMem, encMem, encS, h1, h3, h4, h5, h6, BitVec.ofNat_toNat, BitVec.setWidth_eq]

theorem encScope_fields (op : Nat) (x : ScopeArgs) (ho : op < 128) (hp : x.p < 32) (hd : x.d < 64) (ha : x.a < 64)
    (hc : x.scope < 4) (hs : x.sz < 4) : bits (encScope op x).word 11 5 = op ∧ rdScope (encScope op x).word = x := by
  have hb := x.off.isLt
  obtain ⟨h1, h2, h3, h4, h5, h6⟩ := bits_packR (b := x.scope + 4 * x.off.toNat) hp ho hd ha (by omega) hs
  obtain ⟨-, -, s3, s4, -⟩ := bits_split (encScope op x).word
  refine ⟨h2, ?_⟩
  simp only [rdScope, s3, s4]
  simp only [encScope, encS, h1, h3, h4, h5, h6]
  rw [show (x.scope + 4 * x.off.toNat) % 4 = x.scope by omega, show (x.scope + 4 * x.off.toNat) / 4 = x.off.toNat by omega,
    BitVec.ofNat_toNat, BitVec.setWidth_eq]

theorem encAmo_fields (op : Nat) (x : AmoArgs) (ho : op < 128) (hp : x.p < 32) (hd : x.d < 64) (ha : x.a < 64)
    (hb : x.b < 64) (hs : x.ord < 4) : bits (encAmo op x).word 11 5 = op ∧ rdAmo (encAmo op x).word = x := by
  obtain ⟨h1, h2, h3, h4, h5, h6⟩ := bits_packR hp ho hd ha hb hs
  refine ⟨h2, ?_⟩
  simp only [rdAmo, encAmo, encS, h1, h3, h4, h5, h6]

theorem ranges_parts {x : VArgs} (h : x.ranges = true) :
    x.p < 32 ∧ x.ty.isAny = true ∧ x.vd < 256 ∧ x.va < 256 ∧ x.k < 16 ∧ x.rm < 4 ∧ x.b.field < 256 := by
  simp only [VArgs.ranges, Bool.and_eq_true, decide_eq_true_eq] at h
  obtain ⟨⟨⟨⟨⟨⟨hp, ht⟩, hd⟩, ha⟩, hk⟩, hr⟩, hb⟩ := h
  refine ⟨guard_lt hp, ht, hd, ha, hk, hr, ?_⟩
  cases hx : x.b <;> simp_all [Src.field]

/-- The fields of a V slot; `l` says whether the opcode takes a literal. -/
theorem encV_fields (op : Nat) (x : VArgs) (l : Bool) (ho : op < 128) (hr : x.ranges = true)
    (hl : l = true ∨ ∃ n, x.b = .reg n) :
    bits (encV op x).word 11 5 = op ∧ rdV (encV op x).word ((encV op x).lit.getD 0) l = x := by
  obtain ⟨hp, hty, hvd, hva, hk, hrm, hb⟩ := ranges_parts hr
  have hs := bit_lt x.s2
  have hf : x.rm + 4 * bit x.s2 + 8 * x.b.sel < 16 := by cases x.b <;> simp [Src.sel] <;> omega
  obtain ⟨h1, h2, h3, h4, h5, h6, h7, h8, h9, h10⟩ := bits_packV hp ho x.ty.code_lt hvd hva hb hk hf
  refine ⟨h2, ?_⟩
  simp only [rdV, encV, h1, h3, h4, h5, h6, h7, h8, h9, h10, VType.ofCode_code]
  rw [show (x.rm + 4 * bit x.s2 + 8 * x.b.sel) % 4 = x.rm by omega,
    show (x.rm + 4 * bit x.s2 + 8 * x.b.sel) / 4 % 2 = bit x.s2 by
      have : x.b.sel < 2 := by cases x.b <;> simp [Src.sel]
      omega,
    show (x.rm + 4 * bit x.s2 + 8 * x.b.sel) / 8 = x.b.sel by omega, bit_eq]
  obtain ⟨p, ty, vd, va, b, k, s2, rm⟩ := x
  cases b with
  | reg n => simp [Src.sel, Src.field]
  | lit y =>
    rcases hl with rfl | ⟨n, hn⟩
    · simp [Src.sel, Src.literal]
    · simp at hn

namespace Laws.Coding

set_option Elab.async false
set_option linter.all false

/-- The word of a well-formed instruction, in a slot of its kind, decodes to it. -/
def Statement (i : Instr) : Prop :=
  i.wf = true → ∀ e, i.enc = some e → decodeSlot e.kind e.word (e.lit.getD 0) = some i

theorem nop (rep : Nat) : Statement (.nop rep) := fun _ _ h => nomatch h
theorem add (x : RArgs) : Statement (.add x) := by
  intro hw e he
  cases he
  exact decodeSlot_of_parse hw rfl (by
    obtain ⟨h1, h2⟩ := encR_of_wf 0x01 x (by decide) hw
    show parseSOp _ _ _ = _
    rw [h1]
    exact congrArg (fun x => some (Instr.add x)) h2)
theorem sub (x : RArgs) : Statement (.sub x) := by
  intro hw e he
  cases he
  exact decodeSlot_of_parse hw rfl (by
    obtain ⟨h1, h2⟩ := encR_of_wf 0x02 x (by decide) hw
    show parseSOp _ _ _ = _
    rw [h1]
    exact congrArg (fun x => some (Instr.sub x)) h2)
theorem mul (x : RArgs) : Statement (.mul x) := by
  intro hw e he
  cases he
  exact decodeSlot_of_parse hw rfl (by
    obtain ⟨h1, h2⟩ := encR_of_wf 0x03 x (by decide) hw
    show parseSOp _ _ _ = _
    rw [h1]
    exact congrArg (fun x => some (Instr.mul x)) h2)
theorem mulh (x : RArgs) : Statement (.mulh x) := by
  intro hw e he
  cases he
  exact decodeSlot_of_parse hw rfl (by
    obtain ⟨h1, h2⟩ := encR_of_wf 0x04 x (by decide) hw
    show parseSOp _ _ _ = _
    rw [h1]
    exact congrArg (fun x => some (Instr.mulh x)) h2)
theorem mulhn (x : RArgs) : Statement (.mulhn x) := by
  intro hw e he
  cases he
  exact decodeSlot_of_parse hw rfl (by
    obtain ⟨h1, h2⟩ := encR_of_wf 0x05 x (by decide) hw
    show parseSOp _ _ _ = _
    rw [h1]
    exact congrArg (fun x => some (Instr.mulhn x)) h2)
theorem div (x : RArgs) : Statement (.div x) := by
  intro hw e he
  cases he
  exact decodeSlot_of_parse hw rfl (by
    obtain ⟨h1, h2⟩ := encR_of_wf 0x06 x (by decide) hw
    show parseSOp _ _ _ = _
    rw [h1]
    exact congrArg (fun x => some (Instr.div x)) h2)
theorem divn (x : RArgs) : Statement (.divn x) := by
  intro hw e he
  cases he
  exact decodeSlot_of_parse hw rfl (by
    obtain ⟨h1, h2⟩ := encR_of_wf 0x07 x (by decide) hw
    show parseSOp _ _ _ = _
    rw [h1]
    exact congrArg (fun x => some (Instr.divn x)) h2)
theorem mod (x : RArgs) : Statement (.mod x) := by
  intro hw e he
  cases he
  exact decodeSlot_of_parse hw rfl (by
    obtain ⟨h1, h2⟩ := encR_of_wf 0x08 x (by decide) hw
    show parseSOp _ _ _ = _
    rw [h1]
    exact congrArg (fun x => some (Instr.mod x)) h2)
theorem modn (x : RArgs) : Statement (.modn x) := by
  intro hw e he
  cases he
  exact decodeSlot_of_parse hw rfl (by
    obtain ⟨h1, h2⟩ := encR_of_wf 0x09 x (by decide) hw
    show parseSOp _ _ _ = _
    rw [h1]
    exact congrArg (fun x => some (Instr.modn x)) h2)
theorem and (x : RArgs) : Statement (.and x) := by
  intro hw e he
  cases he
  exact decodeSlot_of_parse hw rfl (by
    obtain ⟨h1, h2⟩ := encR_of_wf 0x0A x (by decide) hw
    show parseSOp _ _ _ = _
    rw [h1]
    exact congrArg (fun x => some (Instr.and x)) h2)
theorem or (x : RArgs) : Statement (.or x) := by
  intro hw e he
  cases he
  exact decodeSlot_of_parse hw rfl (by
    obtain ⟨h1, h2⟩ := encR_of_wf 0x0B x (by decide) hw
    show parseSOp _ _ _ = _
    rw [h1]
    exact congrArg (fun x => some (Instr.or x)) h2)
theorem xor (x : RArgs) : Statement (.xor x) := by
  intro hw e he
  cases he
  exact decodeSlot_of_parse hw rfl (by
    obtain ⟨h1, h2⟩ := encR_of_wf 0x0C x (by decide) hw
    show parseSOp _ _ _ = _
    rw [h1]
    exact congrArg (fun x => some (Instr.xor x)) h2)
theorem andn (x : RArgs) : Statement (.andn x) := by
  intro hw e he
  cases he
  exact decodeSlot_of_parse hw rfl (by
    obtain ⟨h1, h2⟩ := encR_of_wf 0x0D x (by decide) hw
    show parseSOp _ _ _ = _
    rw [h1]
    exact congrArg (fun x => some (Instr.andn x)) h2)
theorem shl (x : RArgs) : Statement (.shl x) := by
  intro hw e he
  cases he
  exact decodeSlot_of_parse hw rfl (by
    obtain ⟨h1, h2⟩ := encR_of_wf 0x0E x (by decide) hw
    show parseSOp _ _ _ = _
    rw [h1]
    exact congrArg (fun x => some (Instr.shl x)) h2)
theorem shr (x : RArgs) : Statement (.shr x) := by
  intro hw e he
  cases he
  exact decodeSlot_of_parse hw rfl (by
    obtain ⟨h1, h2⟩ := encR_of_wf 0x0F x (by decide) hw
    show parseSOp _ _ _ = _
    rw [h1]
    exact congrArg (fun x => some (Instr.shr x)) h2)
theorem sar (x : RArgs) : Statement (.sar x) := by
  intro hw e he
  cases he
  exact decodeSlot_of_parse hw rfl (by
    obtain ⟨h1, h2⟩ := encR_of_wf 0x10 x (by decide) hw
    show parseSOp _ _ _ = _
    rw [h1]
    exact congrArg (fun x => some (Instr.sar x)) h2)
theorem min (x : RArgs) : Statement (.min x) := by
  intro hw e he
  cases he
  exact decodeSlot_of_parse hw rfl (by
    obtain ⟨h1, h2⟩ := encR_of_wf 0x11 x (by decide) hw
    show parseSOp _ _ _ = _
    rw [h1]
    exact congrArg (fun x => some (Instr.min x)) h2)
theorem max (x : RArgs) : Statement (.max x) := by
  intro hw e he
  cases he
  exact decodeSlot_of_parse hw rfl (by
    obtain ⟨h1, h2⟩ := encR_of_wf 0x12 x (by decide) hw
    show parseSOp _ _ _ = _
    rw [h1]
    exact congrArg (fun x => some (Instr.max x)) h2)
theorem minn (x : RArgs) : Statement (.minn x) := by
  intro hw e he
  cases he
  exact decodeSlot_of_parse hw rfl (by
    obtain ⟨h1, h2⟩ := encR_of_wf 0x13 x (by decide) hw
    show parseSOp _ _ _ = _
    rw [h1]
    exact congrArg (fun x => some (Instr.minn x)) h2)
theorem maxn (x : RArgs) : Statement (.maxn x) := by
  intro hw e he
  cases he
  exact decodeSlot_of_parse hw rfl (by
    obtain ⟨h1, h2⟩ := encR_of_wf 0x14 x (by decide) hw
    show parseSOp _ _ _ = _
    rw [h1]
    exact congrArg (fun x => some (Instr.maxn x)) h2)
theorem clz (p d a : Nat) (w : Bool) : Statement (.clz p d a w) := by
  intro hw e he
  cases he
  refine decodeSlot_of_parse hw rfl ?_
  simp only [Instr.wf, guardOk, gOk, Bool.and_eq_true, decide_eq_true_eq] at hw
  have hb := bit_lt w
  obtain ⟨h1, h2, h3, h4, h5, h6⟩ := bits_packR (op := 0x15) (p := p) (d := d) (a := a) (b := 0) (f := (bit w))
    (by omega) (by decide) (by omega) (by omega) (by omega) (by omega)
  show parseSOp (bits (packR 0x15 p d a 0 (bit w)) 11 5) (packR 0x15 p d a 0 (bit w)) _ = _
  rw [h2]
  show some (Instr.clz (bits (packR 0x15 p d a 0 (bit w)) 4 0) (bits (packR 0x15 p d a 0 (bit w)) 17 12) (bits (packR 0x15 p d a 0 (bit w)) 23 18) (bits (packR 0x15 p d a 0 (bit w)) 30 30 == 1)) = _
  simp only [h1, h3, h4, (bits_split _).1, h6, bit_mod]
theorem ctz (p d a : Nat) (w : Bool) : Statement (.ctz p d a w) := by
  intro hw e he
  cases he
  refine decodeSlot_of_parse hw rfl ?_
  simp only [Instr.wf, guardOk, gOk, Bool.and_eq_true, decide_eq_true_eq] at hw
  have hb := bit_lt w
  obtain ⟨h1, h2, h3, h4, h5, h6⟩ := bits_packR (op := 0x16) (p := p) (d := d) (a := a) (b := 0) (f := (bit w))
    (by omega) (by decide) (by omega) (by omega) (by omega) (by omega)
  show parseSOp (bits (packR 0x16 p d a 0 (bit w)) 11 5) (packR 0x16 p d a 0 (bit w)) _ = _
  rw [h2]
  show some (Instr.ctz (bits (packR 0x16 p d a 0 (bit w)) 4 0) (bits (packR 0x16 p d a 0 (bit w)) 17 12) (bits (packR 0x16 p d a 0 (bit w)) 23 18) (bits (packR 0x16 p d a 0 (bit w)) 30 30 == 1)) = _
  simp only [h1, h3, h4, (bits_split _).1, h6, bit_mod]
theorem popc (p d a : Nat) (w : Bool) : Statement (.popc p d a w) := by
  intro hw e he
  cases he
  refine decodeSlot_of_parse hw rfl ?_
  simp only [Instr.wf, guardOk, gOk, Bool.and_eq_true, decide_eq_true_eq] at hw
  have hb := bit_lt w
  obtain ⟨h1, h2, h3, h4, h5, h6⟩ := bits_packR (op := 0x17) (p := p) (d := d) (a := a) (b := 0) (f := (bit w))
    (by omega) (by decide) (by omega) (by omega) (by omega) (by omega)
  show parseSOp (bits (packR 0x17 p d a 0 (bit w)) 11 5) (packR 0x17 p d a 0 (bit w)) _ = _
  rw [h2]
  show some (Instr.popc (bits (packR 0x17 p d a 0 (bit w)) 4 0) (bits (packR 0x17 p d a 0 (bit w)) 17 12) (bits (packR 0x17 p d a 0 (bit w)) 23 18) (bits (packR 0x17 p d a 0 (bit w)) 30 30 == 1)) = _
  simp only [h1, h3, h4, (bits_split _).1, h6, bit_mod]
theorem bfx (p d a : Nat) (b : Src) : Statement (.bfx p d a b) := by
  intro hw e he
  cases he
  refine decodeSlot_of_parse hw rfl ?_
  simp only [Instr.wf, guardOk, gOk, Bool.and_eq_true, decide_eq_true_eq] at hw
  obtain ⟨h1, h2, h3, h4, h5, h6⟩ := encR_parts 0x18 ⟨p, d, a, b, false⟩ (by decide)
    (by first | omega | (simp only; omega)) (by first | omega | (simp only; omega)) (by first | omega | (simp only; omega)) (by first | rfl | exact hw.2 | exact hw.1.2)
  show parseSOp (bits _ 11 5) _ _ = _
  rw [h1]
  show some (Instr.bfx (bits _ 4 0) (bits _ 17 12) (bits _ 23 18) (rdSrc _ _)) = _
  simp only [h2, h3, h4, h5, h6]
theorem bfi (p d a : Nat) (b : Src) : Statement (.bfi p d a b) := by
  intro hw e he
  cases he
  refine decodeSlot_of_parse hw rfl ?_
  simp only [Instr.wf, guardOk, gOk, Bool.and_eq_true, decide_eq_true_eq] at hw
  obtain ⟨h1, h2, h3, h4, h5, h6⟩ := encR_parts 0x19 ⟨p, d, a, b, false⟩ (by decide)
    (by first | omega | (simp only; omega)) (by first | omega | (simp only; omega)) (by first | omega | (simp only; omega)) (by first | rfl | exact hw.2 | exact hw.1.2)
  show parseSOp (bits _ 11 5) _ _ = _
  rw [h1]
  show some (Instr.bfi (bits _ 4 0) (bits _ 17 12) (bits _ 23 18) (rdSrc _ _)) = _
  simp only [h2, h3, h4, h5, h6]
theorem sext (p d a w : Nat) : Statement (.sext p d a w) := by
  intro hw e he
  cases he
  refine decodeSlot_of_parse hw rfl ?_
  simp only [Instr.wf, guardOk, gOk, Bool.and_eq_true, decide_eq_true_eq] at hw
  obtain ⟨h1, h2, h3, h4, h5, h6⟩ := bits_packR (op := 0x1A) (p := p) (d := d) (a := a) (b := w) (f := 0)
    (by omega) (by decide) (by omega) (by omega) (by omega) (by omega)
  show parseSOp (bits (packR 0x1A p d a w 0) 11 5) (packR 0x1A p d a w 0) _ = _
  rw [h2]
  show some (Instr.sext (bits (packR 0x1A p d a w 0) 4 0) (bits (packR 0x1A p d a w 0) 17 12) (bits (packR 0x1A p d a w 0) 23 18) (bits (packR 0x1A p d a w 0) 29 24)) = _
  simp only [h1, h3, h4, h5]
theorem zext (p d a w : Nat) : Statement (.zext p d a w) := by
  intro hw e he
  cases he
  refine decodeSlot_of_parse hw rfl ?_
  simp only [Instr.wf, guardOk, gOk, Bool.and_eq_true, decide_eq_true_eq] at hw
  obtain ⟨h1, h2, h3, h4, h5, h6⟩ := bits_packR (op := 0x1B) (p := p) (d := d) (a := a) (b := w) (f := 0)
    (by omega) (by decide) (by omega) (by omega) (by omega) (by omega)
  show parseSOp (bits (packR 0x1B p d a w 0) 11 5) (packR 0x1B p d a w 0) _ = _
  rw [h2]
  show some (Instr.zext (bits (packR 0x1B p d a w 0) 4 0) (bits (packR 0x1B p d a w 0) 17 12) (bits (packR 0x1B p d a w 0) 23 18) (bits (packR 0x1B p d a w 0) 29 24)) = _
  simp only [h1, h3, h4, h5]
theorem cmp (p pd cc a : Nat) (b : Src) (w : Bool) : Statement (.cmp p pd cc a b w) := by
  intro hw e he
  cases he
  refine decodeSlot_of_parse hw rfl ?_
  simp only [Instr.wf, guardOk, gOk, Bool.and_eq_true, decide_eq_true_eq] at hw
  obtain ⟨h1, h2, h3, h4, h5, h6⟩ := encR_parts 0x1C ⟨p, pd + 16 * cc, a, b, w⟩ (by decide)
    (by first | omega | (simp only; omega)) (by first | omega | (simp only; omega)) (by first | omega | (simp only; omega)) (by first | rfl | exact hw.2 | exact hw.1.2)
  show parseSOp (bits _ 11 5) _ _ = _
  rw [h1]
  show some (Instr.cmp (bits _ 4 0) ((bits _ 17 12) % 16) ((bits _ 17 12) / 16) (bits _ 23 18) (rdSrc _ _) (bits _ 30 30 == 1)) = _
  simp only [h2, h3, h4, h5, h6]
  rw [show (pd + 16 * cc) % 16 = pd by omega, show (pd + 16 * cc) / 16 = cc by omega]
theorem pand (p pd pa : Nat) (na : Bool) (pb : Nat) (nb : Bool) : Statement (.pand p pd pa na pb nb) := by
  intro hw e he
  cases he
  refine decodeSlot_of_parse hw rfl ?_
  simp only [Instr.wf, guardOk, gOk, Bool.and_eq_true, decide_eq_true_eq] at hw
  obtain ⟨a1, a2, a3⟩ := predSrc_parts (n := pa) (neg := na) (by omega)
  obtain ⟨b1, b2, b3⟩ := predSrc_parts (n := pb) (neg := nb) (by omega)
  obtain ⟨h1, h2, h3, h4, h5, h6⟩ := bits_packR (op := 0x1D) (p := p) (d := pd) (a := (predSrc pa na)) (b := (predSrc pb nb)) (f := 0)
    (by omega) (by decide) (by omega) (by omega) (by omega) (by omega)
  show parseSOp (bits (packR 0x1D p pd (predSrc pa na) (predSrc pb nb) 0) 11 5) (packR 0x1D p pd (predSrc pa na) (predSrc pb nb) 0) _ = _
  rw [h2]
  show some (Instr.pand (bits (packR 0x1D p pd (predSrc pa na) (predSrc pb nb) 0) 4 0) (bits (packR 0x1D p pd (predSrc pa na) (predSrc pb nb) 0) 17 12) ((bits (packR 0x1D p pd (predSrc pa na) (predSrc pb nb) 0) 23 18) % 16) ((bits (packR 0x1D p pd (predSrc pa na) (predSrc pb nb) 0) 23 18) / 32 == 1) ((bits (packR 0x1D p pd (predSrc pa na) (predSrc pb nb) 0) 29 24) % 16) ((bits (packR 0x1D p pd (predSrc pa na) (predSrc pb nb) 0) 29 24) / 32 == 1)) = _
  simp only [h1, h3, h4, h5, a2, a3, b2, b3]
theorem por (p pd pa : Nat) (na : Bool) (pb : Nat) (nb : Bool) : Statement (.por p pd pa na pb nb) := by
  intro hw e he
  cases he
  refine decodeSlot_of_parse hw rfl ?_
  simp only [Instr.wf, guardOk, gOk, Bool.and_eq_true, decide_eq_true_eq] at hw
  obtain ⟨a1, a2, a3⟩ := predSrc_parts (n := pa) (neg := na) (by omega)
  obtain ⟨b1, b2, b3⟩ := predSrc_parts (n := pb) (neg := nb) (by omega)
  obtain ⟨h1, h2, h3, h4, h5, h6⟩ := bits_packR (op := 0x1E) (p := p) (d := pd) (a := (predSrc pa na)) (b := (predSrc pb nb)) (f := 0)
    (by omega) (by decide) (by omega) (by omega) (by omega) (by omega)
  show parseSOp (bits (packR 0x1E p pd (predSrc pa na) (predSrc pb nb) 0) 11 5) (packR 0x1E p pd (predSrc pa na) (predSrc pb nb) 0) _ = _
  rw [h2]
  show some (Instr.por (bits (packR 0x1E p pd (predSrc pa na) (predSrc pb nb) 0) 4 0) (bits (packR 0x1E p pd (predSrc pa na) (predSrc pb nb) 0) 17 12) ((bits (packR 0x1E p pd (predSrc pa na) (predSrc pb nb) 0) 23 18) % 16) ((bits (packR 0x1E p pd (predSrc pa na) (predSrc pb nb) 0) 23 18) / 32 == 1) ((bits (packR 0x1E p pd (predSrc pa na) (predSrc pb nb) 0) 29 24) % 16) ((bits (packR 0x1E p pd (predSrc pa na) (predSrc pb nb) 0) 29 24) / 32 == 1)) = _
  simp only [h1, h3, h4, h5, a2, a3, b2, b3]
theorem pxor (p pd pa : Nat) (na : Bool) (pb : Nat) (nb : Bool) : Statement (.pxor p pd pa na pb nb) := by
  intro hw e he
  cases he
  refine decodeSlot_of_parse hw rfl ?_
  simp only [Instr.wf, guardOk, gOk, Bool.and_eq_true, decide_eq_true_eq] at hw
  obtain ⟨a1, a2, a3⟩ := predSrc_parts (n := pa) (neg := na) (by omega)
  obtain ⟨b1, b2, b3⟩ := predSrc_parts (n := pb) (neg := nb) (by omega)
  obtain ⟨h1, h2, h3, h4, h5, h6⟩ := bits_packR (op := 0x1F) (p := p) (d := pd) (a := (predSrc pa na)) (b := (predSrc pb nb)) (f := 0)
    (by omega) (by decide) (by omega) (by omega) (by omega) (by omega)
  show parseSOp (bits (packR 0x1F p pd (predSrc pa na) (predSrc pb nb) 0) 11 5) (packR 0x1F p pd (predSrc pa na) (predSrc pb nb) 0) _ = _
  rw [h2]
  show some (Instr.pxor (bits (packR 0x1F p pd (predSrc pa na) (predSrc pb nb) 0) 4 0) (bits (packR 0x1F p pd (predSrc pa na) (predSrc pb nb) 0) 17 12) ((bits (packR 0x1F p pd (predSrc pa na) (predSrc pb nb) 0) 23 18) % 16) ((bits (packR 0x1F p pd (predSrc pa na) (predSrc pb nb) 0) 23 18) / 32 == 1) ((bits (packR 0x1F p pd (predSrc pa na) (predSrc pb nb) 0) 29 24) % 16) ((bits (packR 0x1F p pd (predSrc pa na) (predSrc pb nb) 0) 29 24) / 32 == 1)) = _
  simp only [h1, h3, h4, h5, a2, a3, b2, b3]
theorem addi (p d a : Nat) (imm : BitVec 8) : Statement (.addi p d a imm) := by
  intro hw e he
  cases he
  refine decodeSlot_of_parse hw rfl ?_
  simp only [Instr.wf, guardOk, gOk, Bool.and_eq_true, decide_eq_true_eq] at hw
  have hb := imm.isLt
  obtain ⟨h1, h2, h3, h4, h5, h6, h7, h8⟩ := bits_packI (op := 0x20) (p := p) (d := d) (a := a) (imm := imm.toNat)
    (by omega) (by decide) (by omega) (by omega) (by omega)
  show parseSOp (bits (packI 0x20 p d a imm.toNat) 11 5) (packI 0x20 p d a imm.toNat) _ = _
  rw [h2]
  show some (Instr.addi (bits (packI 0x20 p d a imm.toNat) 4 0) (bits (packI 0x20 p d a imm.toNat) 17 12) (bits (packI 0x20 p d a imm.toNat) 23 18) (imm8 (packI 0x20 p d a imm.toNat))) = _
  simp only [imm8, h1, h3, h4, h5, h6, h7, h8, bit_mod, BitVec.ofNat_toNat, BitVec.setWidth_eq]
theorem andi (p d a : Nat) (imm : BitVec 8) : Statement (.andi p d a imm) := by
  intro hw e he
  cases he
  refine decodeSlot_of_parse hw rfl ?_
  simp only [Instr.wf, guardOk, gOk, Bool.and_eq_true, decide_eq_true_eq] at hw
  have hb := imm.isLt
  obtain ⟨h1, h2, h3, h4, h5, h6, h7, h8⟩ := bits_packI (op := 0x21) (p := p) (d := d) (a := a) (imm := imm.toNat)
    (by omega) (by decide) (by omega) (by omega) (by omega)
  show parseSOp (bits (packI 0x21 p d a imm.toNat) 11 5) (packI 0x21 p d a imm.toNat) _ = _
  rw [h2]
  show some (Instr.andi (bits (packI 0x21 p d a imm.toNat) 4 0) (bits (packI 0x21 p d a imm.toNat) 17 12) (bits (packI 0x21 p d a imm.toNat) 23 18) (imm8 (packI 0x21 p d a imm.toNat))) = _
  simp only [imm8, h1, h3, h4, h5, h6, h7, h8, bit_mod, BitVec.ofNat_toNat, BitVec.setWidth_eq]
theorem ori (p d a : Nat) (imm : BitVec 8) : Statement (.ori p d a imm) := by
  intro hw e he
  cases he
  refine decodeSlot_of_parse hw rfl ?_
  simp only [Instr.wf, guardOk, gOk, Bool.and_eq_true, decide_eq_true_eq] at hw
  have hb := imm.isLt
  obtain ⟨h1, h2, h3, h4, h5, h6, h7, h8⟩ := bits_packI (op := 0x22) (p := p) (d := d) (a := a) (imm := imm.toNat)
    (by omega) (by decide) (by omega) (by omega) (by omega)
  show parseSOp (bits (packI 0x22 p d a imm.toNat) 11 5) (packI 0x22 p d a imm.toNat) _ = _
  rw [h2]
  show some (Instr.ori (bits (packI 0x22 p d a imm.toNat) 4 0) (bits (packI 0x22 p d a imm.toNat) 17 12) (bits (packI 0x22 p d a imm.toNat) 23 18) (imm8 (packI 0x22 p d a imm.toNat))) = _
  simp only [imm8, h1, h3, h4, h5, h6, h7, h8, bit_mod, BitVec.ofNat_toNat, BitVec.setWidth_eq]
theorem xori (p d a : Nat) (imm : BitVec 8) : Statement (.xori p d a imm) := by
  intro hw e he
  cases he
  refine decodeSlot_of_parse hw rfl ?_
  simp only [Instr.wf, guardOk, gOk, Bool.and_eq_true, decide_eq_true_eq] at hw
  have hb := imm.isLt
  obtain ⟨h1, h2, h3, h4, h5, h6, h7, h8⟩ := bits_packI (op := 0x23) (p := p) (d := d) (a := a) (imm := imm.toNat)
    (by omega) (by decide) (by omega) (by omega) (by omega)
  show parseSOp (bits (packI 0x23 p d a imm.toNat) 11 5) (packI 0x23 p d a imm.toNat) _ = _
  rw [h2]
  show some (Instr.xori (bits (packI 0x23 p d a imm.toNat) 4 0) (bits (packI 0x23 p d a imm.toNat) 17 12) (bits (packI 0x23 p d a imm.toNat) 23 18) (imm8 (packI 0x23 p d a imm.toNat))) = _
  simp only [imm8, h1, h3, h4, h5, h6, h7, h8, bit_mod, BitVec.ofNat_toNat, BitVec.setWidth_eq]
theorem shli (p d a n : Nat) (w : Bool) : Statement (.shli p d a n w) := by
  intro hw e he
  cases he
  refine decodeSlot_of_parse hw rfl ?_
  simp only [Instr.wf, guardOk, gOk, Bool.and_eq_true, decide_eq_true_eq] at hw
  have hb := bit_lt w
  obtain ⟨h1, h2, h3, h4, h5, h6, h7, h8⟩ := bits_packI (op := 0x24) (p := p) (d := d) (a := a) (imm := (n + 64 * bit w))
    (by omega) (by decide) (by omega) (by omega) (by omega)
  show parseSOp (bits (packI 0x24 p d a (n + 64 * bit w)) 11 5) (packI 0x24 p d a (n + 64 * bit w)) _ = _
  rw [h2]
  show some (Instr.shli (bits (packI 0x24 p d a (n + 64 * bit w)) 4 0) (bits (packI 0x24 p d a (n + 64 * bit w)) 17 12) (bits (packI 0x24 p d a (n + 64 * bit w)) 23 18) ((bits (packI 0x24 p d a (n + 64 * bit w)) 29 24) % 64) (bits (packI 0x24 p d a (n + 64 * bit w)) 30 30 == 1)) = _
  simp only [imm8, h1, h3, h4, h5, h6, h7, h8, bit_mod, BitVec.ofNat_toNat, BitVec.setWidth_eq]
  rw [show (n + 64 * bit w) % 64 = n by omega, show (n + 64 * bit w) / 64 % 2 = bit w by omega, bit_eq, Nat.mod_eq_of_lt hw.2]
theorem shri (p d a n : Nat) (w : Bool) : Statement (.shri p d a n w) := by
  intro hw e he
  cases he
  refine decodeSlot_of_parse hw rfl ?_
  simp only [Instr.wf, guardOk, gOk, Bool.and_eq_true, decide_eq_true_eq] at hw
  have hb := bit_lt w
  obtain ⟨h1, h2, h3, h4, h5, h6, h7, h8⟩ := bits_packI (op := 0x25) (p := p) (d := d) (a := a) (imm := (n + 64 * bit w))
    (by omega) (by decide) (by omega) (by omega) (by omega)
  show parseSOp (bits (packI 0x25 p d a (n + 64 * bit w)) 11 5) (packI 0x25 p d a (n + 64 * bit w)) _ = _
  rw [h2]
  show some (Instr.shri (bits (packI 0x25 p d a (n + 64 * bit w)) 4 0) (bits (packI 0x25 p d a (n + 64 * bit w)) 17 12) (bits (packI 0x25 p d a (n + 64 * bit w)) 23 18) ((bits (packI 0x25 p d a (n + 64 * bit w)) 29 24) % 64) (bits (packI 0x25 p d a (n + 64 * bit w)) 30 30 == 1)) = _
  simp only [imm8, h1, h3, h4, h5, h6, h7, h8, bit_mod, BitVec.ofNat_toNat, BitVec.setWidth_eq]
  rw [show (n + 64 * bit w) % 64 = n by omega, show (n + 64 * bit w) / 64 % 2 = bit w by omega, bit_eq, Nat.mod_eq_of_lt hw.2]
theorem sari (p d a n : Nat) (w : Bool) : Statement (.sari p d a n w) := by
  intro hw e he
  cases he
  refine decodeSlot_of_parse hw rfl ?_
  simp only [Instr.wf, guardOk, gOk, Bool.and_eq_true, decide_eq_true_eq] at hw
  have hb := bit_lt w
  obtain ⟨h1, h2, h3, h4, h5, h6, h7, h8⟩ := bits_packI (op := 0x26) (p := p) (d := d) (a := a) (imm := (n + 64 * bit w))
    (by omega) (by decide) (by omega) (by omega) (by omega)
  show parseSOp (bits (packI 0x26 p d a (n + 64 * bit w)) 11 5) (packI 0x26 p d a (n + 64 * bit w)) _ = _
  rw [h2]
  show some (Instr.sari (bits (packI 0x26 p d a (n + 64 * bit w)) 4 0) (bits (packI 0x26 p d a (n + 64 * bit w)) 17 12) (bits (packI 0x26 p d a (n + 64 * bit w)) 23 18) ((bits (packI 0x26 p d a (n + 64 * bit w)) 29 24) % 64) (bits (packI 0x26 p d a (n + 64 * bit w)) 30 30 == 1)) = _
  simp only [imm8, h1, h3, h4, h5, h6, h7, h8, bit_mod, BitVec.ofNat_toNat, BitVec.setWidth_eq]
  rw [show (n + 64 * bit w) % 64 = n by omega, show (n + 64 * bit w) / 64 % 2 = bit w by omega, bit_eq, Nat.mod_eq_of_lt hw.2]
theorem cmpi (p pd cc a : Nat) (imm : BitVec 8) : Statement (.cmpi p pd cc a imm) := by
  intro hw e he
  cases he
  refine decodeSlot_of_parse hw rfl ?_
  simp only [Instr.wf, guardOk, gOk, Bool.and_eq_true, decide_eq_true_eq] at hw
  have hb := imm.isLt
  obtain ⟨h1, h2, h3, h4, h5, h6, h7, h8⟩ := bits_packI (op := 0x27) (p := p) (d := (pd + 16 * cc)) (a := a) (imm := imm.toNat)
    (by omega) (by decide) (by omega) (by omega) (by omega)
  show parseSOp (bits (packI 0x27 p (pd + 16 * cc) a imm.toNat) 11 5) (packI 0x27 p (pd + 16 * cc) a imm.toNat) _ = _
  rw [h2]
  show some (Instr.cmpi (bits (packI 0x27 p (pd + 16 * cc) a imm.toNat) 4 0) ((bits (packI 0x27 p (pd + 16 * cc) a imm.toNat) 17 12) % 16) ((bits (packI 0x27 p (pd + 16 * cc) a imm.toNat) 17 12) / 16) (bits (packI 0x27 p (pd + 16 * cc) a imm.toNat) 23 18) (imm8 (packI 0x27 p (pd + 16 * cc) a imm.toNat))) = _
  simp only [imm8, h1, h3, h4, h5, h6, h7, h8, bit_mod, BitVec.ofNat_toNat, BitVec.setWidth_eq]
  rw [show (pd + 16 * cc) % 16 = pd by omega, show (pd + 16 * cc) / 16 = cc by omega]
theorem movi (p d : Nat) (imm : BitVec 14) : Statement (.movi p d imm) := by
  intro hw e he
  cases he
  refine decodeSlot_of_parse hw rfl ?_
  simp only [Instr.wf, guardOk, gOk, Bool.and_eq_true, Bool.or_eq_true, beq_iff_eq, decide_eq_true_eq] at hw
  have hb := imm.isLt
  obtain ⟨h1, h2, h3, h4, h5, h6, h7, h8⟩ := bits_packB (op := 0x28) (p := p) (off := d + 64 * imm.toNat) (by omega) (by decide) (by omega)
  show parseSOp (bits (packB 0x28 p (d + 64 * imm.toNat)) 11 5) (packB 0x28 p (d + 64 * imm.toNat)) _ = _
  rw [h2]
  show some (Instr.movi (bits (packB 0x28 p (d + 64 * imm.toNat)) 4 0) (bits (packB 0x28 p (d + 64 * imm.toNat)) 17 12) (BitVec.ofNat 14 (bits (packB 0x28 p (d + 64 * imm.toNat)) 31 18))) = _
  simp only [h1, h3, h4, h5, h6, h7, h8]
  rw [show (d + 64 * imm.toNat) % 64 = d by omega, show (d + 64 * imm.toNat) / 64 = imm.toNat by omega]
  simp
theorem movhi (p d a : Nat) (x : BitVec 32) : Statement (.movhi p d a x) := by
  intro hw e he
  cases he
  refine decodeSlot_of_parse hw rfl ?_
  simp only [Instr.wf, guardOk, gOk, Bool.and_eq_true, decide_eq_true_eq] at hw
  obtain ⟨h1, h2, h3, h4, h5, h6⟩ := encR_parts 0x29 ⟨p, d, a, .lit x, false⟩ (by decide)
    (by first | omega | (simp only; omega)) (by first | omega | (simp only; omega)) (by first | omega | (simp only; omega)) (by first | rfl | exact hw.2 | exact hw.1.2)
  show parseSOp (bits _ 11 5) _ _ = _
  rw [h1]
  show some (Instr.movhi (bits _ 4 0) (bits _ 17 12) (bits _ 23 18) _) = _
  simp only [h2, h3, h4]
  rfl
theorem lit (p d : Nat) (x : BitVec 32) : Statement (.lit p d x) := by
  intro hw e he
  cases he
  refine decodeSlot_of_parse hw rfl ?_
  simp only [Instr.wf, guardOk, gOk, Bool.and_eq_true, decide_eq_true_eq] at hw
  obtain ⟨h1, h2, h3, h4, h5, h6⟩ := encR_parts 0x2A ⟨p, d, 0, .lit x, false⟩ (by decide)
    (by first | omega | (simp only; omega)) (by first | omega | (simp only; omega)) (by first | omega | (simp only; omega)) (by first | rfl | exact hw.2 | exact hw.1.2)
  show parseSOp (bits _ 11 5) _ _ = _
  rw [h1]
  show some (Instr.lit (bits _ 4 0) (bits _ 17 12) _) = _
  simp only [h2, h3]
  rfl
theorem pnot (p pd pa : Nat) : Statement (.pnot p pd pa) := by
  intro hw e he
  cases he
  refine decodeSlot_of_parse hw rfl ?_
  simp only [Instr.wf, guardOk, gOk, Bool.and_eq_true, decide_eq_true_eq] at hw
  obtain ⟨h1, h2, h3, h4, h5, h6⟩ := bits_packR (op := 0x2B) (p := p) (d := pd) (a := pa) (b := 0) (f := 0)
    (by omega) (by decide) (by omega) (by omega) (by omega) (by omega)
  show parseSOp (bits (packR 0x2B p pd pa 0 0) 11 5) (packR 0x2B p pd pa 0 0) _ = _
  rw [h2]
  show some (Instr.pnot (bits (packR 0x2B p pd pa 0 0) 4 0) (bits (packR 0x2B p pd pa 0 0) 17 12) (bits (packR 0x2B p pd pa 0 0) 23 18)) = _
  simp only [h1, h3, h4, h5]
theorem pget (p d : Nat) : Statement (.pget p d) := by
  intro hw e he
  cases he
  refine decodeSlot_of_parse hw rfl ?_
  simp only [Instr.wf, guardOk, gOk, Bool.and_eq_true, decide_eq_true_eq] at hw
  obtain ⟨h1, h2, h3, h4, h5, h6⟩ := bits_packR (op := 0x2C) (p := p) (d := d) (a := 0) (b := 0) (f := 0)
    (by omega) (by decide) (by omega) (by omega) (by omega) (by omega)
  show parseSOp (bits (packR 0x2C p d 0 0 0) 11 5) (packR 0x2C p d 0 0 0) _ = _
  rw [h2]
  show some (Instr.pget (bits (packR 0x2C p d 0 0 0) 4 0) (bits (packR 0x2C p d 0 0 0) 17 12)) = _
  simp only [h1, h3, h4, h5]
theorem pset (p pd : Nat) (v : Bool) : Statement (.pset p pd v) := by
  intro hw e he
  cases he
  refine decodeSlot_of_parse hw rfl ?_
  simp only [Instr.wf, guardOk, gOk, Bool.and_eq_true, decide_eq_true_eq] at hw
  have hb := bit_lt v
  obtain ⟨h1, h2, h3, h4, h5, h6, h7, h8⟩ := bits_packI (op := 0x2D) (p := p) (d := pd) (a := 0) (imm := (bit v))
    (by omega) (by decide) (by omega) (by omega) (by omega)
  show parseSOp (bits (packI 0x2D p pd 0 (bit v)) 11 5) (packI 0x2D p pd 0 (bit v)) _ = _
  rw [h2]
  show some (Instr.pset (bits (packI 0x2D p pd 0 (bit v)) 4 0) (bits (packI 0x2D p pd 0 (bit v)) 17 12) (bits (packI 0x2D p pd 0 (bit v)) 24 24 == 1)) = _
  simp only [imm8, h1, h3, h4, h5, h6, h7, h8, bit_mod, BitVec.ofNat_toNat, BitVec.setWidth_eq]
theorem br (p : Nat) (off : BitVec 20) : Statement (.br p off) := by
  intro hw e he
  cases he
  refine decodeSlot_of_parse hw rfl ?_
  simp only [Instr.wf, guardOk, gOk, Bool.and_eq_true, Bool.or_eq_true, beq_iff_eq, decide_eq_true_eq] at hw
  have hb := off.isLt
  obtain ⟨h1, h2, h3, h4, h5, h6, h7, h8⟩ := bits_packB (op := 0x30) (p := p) (off := off.toNat) (by omega) (by decide) (by omega)
  show parseSOp (bits (packB 0x30 p (off.toNat)) 11 5) (packB 0x30 p (off.toNat)) _ = _
  rw [h2]
  show some (Instr.br (bits (packB 0x30 p (off.toNat)) 4 0) (BitVec.ofNat 20 (bits (packB 0x30 p (off.toNat)) 31 12))) = _
  simp only [h1, h3, h4, h5, h6, h7, h8]
  simp
theorem jmpi (p a : Nat) : Statement (.jmpi p a) := by
  intro hw e he
  cases he
  refine decodeSlot_of_parse hw rfl ?_
  simp only [Instr.wf, guardOk, gOk, Bool.and_eq_true, decide_eq_true_eq] at hw
  obtain ⟨h1, h2, h3, h4, h5, h6⟩ := bits_packR (op := 0x31) (p := p) (d := 0) (a := a) (b := 0) (f := 0)
    (by omega) (by decide) (by omega) (by omega) (by omega) (by omega)
  show parseSOp (bits (packR 0x31 p 0 a 0 0) 11 5) (packR 0x31 p 0 a 0 0) _ = _
  rw [h2]
  show some (Instr.jmpi (bits (packR 0x31 p 0 a 0 0) 4 0) (bits (packR 0x31 p 0 a 0 0) 23 18)) = _
  simp only [h1, h3, h4, h5]
theorem call (p : Nat) (off : BitVec 20) : Statement (.call p off) := by
  intro hw e he
  cases he
  refine decodeSlot_of_parse hw rfl ?_
  simp only [Instr.wf, guardOk, gOk, Bool.and_eq_true, Bool.or_eq_true, beq_iff_eq, decide_eq_true_eq] at hw
  have hb := off.isLt
  obtain ⟨h1, h2, h3, h4, h5, h6, h7, h8⟩ := bits_packB (op := 0x32) (p := p) (off := off.toNat) (by omega) (by decide) (by omega)
  show parseSOp (bits (packB 0x32 p (off.toNat)) 11 5) (packB 0x32 p (off.toNat)) _ = _
  rw [h2]
  show some (Instr.call (bits (packB 0x32 p (off.toNat)) 4 0) (BitVec.ofNat 20 (bits (packB 0x32 p (off.toNat)) 31 12))) = _
  simp only [h1, h3, h4, h5, h6, h7, h8]
  simp
theorem calli (p a : Nat) : Statement (.calli p a) := by
  intro hw e he
  cases he
  refine decodeSlot_of_parse hw rfl ?_
  simp only [Instr.wf, guardOk, gOk, Bool.and_eq_true, decide_eq_true_eq] at hw
  obtain ⟨h1, h2, h3, h4, h5, h6⟩ := bits_packR (op := 0x33) (p := p) (d := 0) (a := a) (b := 0) (f := 0)
    (by omega) (by decide) (by omega) (by omega) (by omega) (by omega)
  show parseSOp (bits (packR 0x33 p 0 a 0 0) 11 5) (packR 0x33 p 0 a 0 0) _ = _
  rw [h2]
  show some (Instr.calli (bits (packR 0x33 p 0 a 0 0) 4 0) (bits (packR 0x33 p 0 a 0 0) 23 18)) = _
  simp only [h1, h3, h4, h5]
theorem ret (p : Nat) : Statement (.ret p) := by
  intro hw e he
  cases he
  refine decodeSlot_of_parse hw rfl ?_
  simp only [Instr.wf, guardOk, gOk, Bool.and_eq_true, decide_eq_true_eq] at hw
  obtain ⟨h1, h2, h3, h4, h5, h6⟩ := bits_packR (op := 0x34) (p := p) (d := 0) (a := 0) (b := 0) (f := 0)
    (by omega) (by decide) (by omega) (by omega) (by omega) (by omega)
  show parseSOp (bits (packR 0x34 p 0 0 0 0) 11 5) (packR 0x34 p 0 0 0 0) _ = _
  rw [h2]
  show some (Instr.ret (bits (packR 0x34 p 0 0 0 0) 4 0)) = _
  simp only [h1, h3, h4, h5]
theorem loop (p : Nat) (off : BitVec 19) : Statement (.loop p off) := by
  intro hw e he
  cases he
  refine decodeSlot_of_parse hw rfl ?_
  simp only [Instr.wf, guardOk, gOk, Bool.and_eq_true, Bool.or_eq_true, beq_iff_eq, decide_eq_true_eq] at hw
  have hb := off.isLt
  obtain ⟨h1, h2, h3, h4, h5, h6, h7, h8⟩ := bits_packB (op := 0x35) (p := p) (off := 2 * off.toNat) (by omega) (by decide) (by omega)
  show parseSOp (bits (packB 0x35 p (2 * off.toNat)) 11 5) (packB 0x35 p (2 * off.toNat)) _ = _
  rw [h2]
  show some (if bits (packB 0x35 p (2 * off.toNat)) 12 12 = 1 then Instr.loopR (bits (packB 0x35 p (2 * off.toNat)) 4 0) (BitVec.ofNat 19 (bits (packB 0x35 p (2 * off.toNat)) 31 13)) else Instr.loop (bits (packB 0x35 p (2 * off.toNat)) 4 0) (BitVec.ofNat 19 (bits (packB 0x35 p (2 * off.toNat)) 31 13))) = _
  simp only [h1, h3, h4, h5, h6, h7, h8]
  rw [if_neg (by omega), show 2 * off.toNat / 2 = off.toNat by omega]
  simp
theorem loopR (p : Nat) (off : BitVec 19) : Statement (.loopR p off) := by
  intro hw e he
  cases he
  refine decodeSlot_of_parse hw rfl ?_
  simp only [Instr.wf, guardOk, gOk, Bool.and_eq_true, Bool.or_eq_true, beq_iff_eq, decide_eq_true_eq] at hw
  have hb := off.isLt
  obtain ⟨h1, h2, h3, h4, h5, h6, h7, h8⟩ := bits_packB (op := 0x35) (p := p) (off := 1 + 2 * off.toNat) (by omega) (by decide) (by omega)
  show parseSOp (bits (packB 0x35 p (1 + 2 * off.toNat)) 11 5) (packB 0x35 p (1 + 2 * off.toNat)) _ = _
  rw [h2]
  show some (if bits (packB 0x35 p (1 + 2 * off.toNat)) 12 12 = 1 then Instr.loopR (bits (packB 0x35 p (1 + 2 * off.toNat)) 4 0) (BitVec.ofNat 19 (bits (packB 0x35 p (1 + 2 * off.toNat)) 31 13)) else Instr.loop (bits (packB 0x35 p (1 + 2 * off.toNat)) 4 0) (BitVec.ofNat 19 (bits (packB 0x35 p (1 + 2 * off.toNat)) 31 13))) = _
  simp only [h1, h3, h4, h5, h6, h7, h8]
  rw [if_pos (by omega), show (1 + 2 * off.toNat) / 2 = off.toNat by omega]
  simp
theorem rotb (p : Nat) : Statement (.rotb p) := by
  intro hw e he
  cases he
  refine decodeSlot_of_parse hw rfl ?_
  simp only [Instr.wf, guardOk, gOk, Bool.and_eq_true, decide_eq_true_eq] at hw
  obtain ⟨h1, h2, h3, h4, h5, h6⟩ := bits_packR (op := 0x36) (p := p) (d := 0) (a := 0) (b := 0) (f := 0)
    (by omega) (by decide) (by omega) (by omega) (by omega) (by omega)
  show parseSOp (bits (packR 0x36 p 0 0 0 0) 11 5) (packR 0x36 p 0 0 0 0) _ = _
  rw [h2]
  show some (Instr.rotb (bits (packR 0x36 p 0 0 0 0) 4 0)) = _
  simp only [h1, h3, h4, h5]
theorem halt (p : Nat) : Statement (.halt p) := by
  intro hw e he
  cases he
  refine decodeSlot_of_parse hw rfl ?_
  simp only [Instr.wf, guardOk, gOk, Bool.and_eq_true, decide_eq_true_eq] at hw
  obtain ⟨h1, h2, h3, h4, h5, h6⟩ := bits_packR (op := 0x37) (p := p) (d := 0) (a := 0) (b := 0) (f := 0)
    (by omega) (by decide) (by omega) (by omega) (by omega) (by omega)
  show parseSOp (bits (packR 0x37 p 0 0 0 0) 11 5) (packR 0x37 p 0 0 0 0) _ = _
  rw [h2]
  show some (Instr.halt (bits (packR 0x37 p 0 0 0 0) 4 0)) = _
  simp only [h1, h3, h4, h5]
theorem trap (p n : Nat) : Statement (.trap p n) := by
  intro hw e he
  cases he
  refine decodeSlot_of_parse hw rfl ?_
  simp only [Instr.wf, guardOk, gOk, Bool.and_eq_true, decide_eq_true_eq] at hw
  obtain ⟨h1, h2, h3, h4, h5, h6, h7, h8⟩ := bits_packI (op := 0x38) (p := p) (d := 0) (a := 0) (imm := n)
    (by omega) (by decide) (by omega) (by omega) (by omega)
  show parseSOp (bits (packI 0x38 p 0 0 n) 11 5) (packI 0x38 p 0 0 n) _ = _
  rw [h2]
  show some (Instr.trap (bits (packI 0x38 p 0 0 n) 4 0) (bits (packI 0x38 p 0 0 n) 31 24)) = _
  simp only [imm8, h1, h3, h4, h5, h6, h7, h8, bit_mod, BitVec.ofNat_toNat, BitVec.setWidth_eq]
theorem xret (p : Nat) : Statement (.xret p) := by
  intro hw e he
  cases he
  refine decodeSlot_of_parse hw rfl ?_
  simp only [Instr.wf, guardOk, gOk, Bool.and_eq_true, decide_eq_true_eq] at hw
  obtain ⟨h1, h2, h3, h4, h5, h6⟩ := bits_packR (op := 0x39) (p := p) (d := 0) (a := 0) (b := 0) (f := 0)
    (by omega) (by decide) (by omega) (by omega) (by omega) (by omega)
  show parseSOp (bits (packR 0x39 p 0 0 0 0) 11 5) (packR 0x39 p 0 0 0 0) _ = _
  rw [h2]
  show some (Instr.xret (bits (packR 0x39 p 0 0 0 0) 4 0)) = _
  simp only [h1, h3, h4, h5]
theorem waitev (p d a : Nat) : Statement (.waitev p d a) := by
  intro hw e he
  cases he
  refine decodeSlot_of_parse hw rfl ?_
  simp only [Instr.wf, guardOk, gOk, Bool.and_eq_true, decide_eq_true_eq] at hw
  obtain ⟨h1, h2, h3, h4, h5, h6⟩ := bits_packR (op := 0x3A) (p := p) (d := d) (a := a) (b := 0) (f := 0)
    (by omega) (by decide) (by omega) (by omega) (by omega) (by omega)
  show parseSOp (bits (packR 0x3A p d a 0 0) 11 5) (packR 0x3A p d a 0 0) _ = _
  rw [h2]
  show some (Instr.waitev (bits (packR 0x3A p d a 0 0) 4 0) (bits (packR 0x3A p d a 0 0) 17 12) (bits (packR 0x3A p d a 0 0) 23 18)) = _
  simp only [h1, h3, h4, h5]
theorem evack (p a : Nat) : Statement (.evack p a) := by
  intro hw e he
  cases he
  refine decodeSlot_of_parse hw rfl ?_
  simp only [Instr.wf, guardOk, gOk, Bool.and_eq_true, decide_eq_true_eq] at hw
  obtain ⟨h1, h2, h3, h4, h5, h6⟩ := bits_packR (op := 0x3B) (p := p) (d := 0) (a := a) (b := 0) (f := 0)
    (by omega) (by decide) (by omega) (by omega) (by omega) (by omega)
  show parseSOp (bits (packR 0x3B p 0 a 0 0) 11 5) (packR 0x3B p 0 a 0 0) _ = _
  rw [h2]
  show some (Instr.evack (bits (packR 0x3B p 0 a 0 0) 4 0) (bits (packR 0x3B p 0 a 0 0) 23 18)) = _
  simp only [h1, h3, h4, h5]
theorem ld (x : MemArgs) : Statement (.ld x) := by
  intro hw e he
  cases he
  refine decodeSlot_of_parse hw rfl ?_
  simp only [Instr.wf, guardOk, gOk, Bool.and_eq_true, decide_eq_true_eq] at hw
  obtain ⟨h1, h2⟩ := encMem_fields 0x40 x (by decide)
    (by first | omega | (simp only; omega)) (by first | omega | (simp only; omega)) (by first | omega | (simp only; omega)) (by first | omega | (simp only; omega))
  show parseSOp _ _ _ = _
  rw [h1]
  exact congrArg (fun x => some (Instr.ld x)) h2
theorem st (x : MemArgs) : Statement (.st x) := by
  intro hw e he
  cases he
  refine decodeSlot_of_parse hw rfl ?_
  simp only [Instr.wf, guardOk, gOk, Bool.and_eq_true, decide_eq_true_eq] at hw
  obtain ⟨h1, h2⟩ := encMem_fields 0x41 x (by decide)
    (by first | omega | (simp only; omega)) (by first | omega | (simp only; omega)) (by first | omega | (simp only; omega)) (by first | omega | (simp only; omega))
  show parseSOp _ _ _ = _
  rw [h1]
  exact congrArg (fun x => some (Instr.st x)) h2
theorem ldf (p d a : Nat) (off : BitVec 6) : Statement (.ldf p d a off) := by
  intro hw e he
  cases he
  refine decodeSlot_of_parse hw rfl ?_
  simp only [Instr.wf, guardOk, gOk, Bool.and_eq_true, decide_eq_true_eq] at hw
  obtain ⟨h1, h2⟩ := encMem_fields 0x42 ⟨p, d, a, off, 3⟩ (by decide)
    (by first | omega | (simp only; omega)) (by first | omega | (simp only; omega)) (by first | omega | (simp only; omega)) (by first | omega | (simp only; omega))
  show parseSOp _ _ _ = _
  rw [h1]
  exact congrArg (fun x : MemArgs => some (Instr.ldf x.p x.d x.a x.off)) h2
theorem ste (p d a : Nat) (off : BitVec 6) : Statement (.ste p d a off) := by
  intro hw e he
  cases he
  refine decodeSlot_of_parse hw rfl ?_
  simp only [Instr.wf, guardOk, gOk, Bool.and_eq_true, decide_eq_true_eq] at hw
  obtain ⟨h1, h2⟩ := encMem_fields 0x43 ⟨p, d, a, off, 3⟩ (by decide)
    (by first | omega | (simp only; omega)) (by first | omega | (simp only; omega)) (by first | omega | (simp only; omega)) (by first | omega | (simp only; omega))
  show parseSOp _ _ _ = _
  rw [h1]
  exact congrArg (fun x : MemArgs => some (Instr.ste x.p x.d x.a x.off)) h2
theorem feget (p d a : Nat) (off : BitVec 6) : Statement (.feget p d a off) := by
  intro hw e he
  cases he
  refine decodeSlot_of_parse hw rfl ?_
  simp only [Instr.wf, guardOk, gOk, Bool.and_eq_true, decide_eq_true_eq] at hw
  obtain ⟨h1, h2⟩ := encMem_fields 0x44 ⟨p, d, a, off, 3⟩ (by decide)
    (by first | omega | (simp only; omega)) (by first | omega | (simp only; omega)) (by first | omega | (simp only; omega)) (by first | omega | (simp only; omega))
  show parseSOp _ _ _ = _
  rw [h1]
  exact congrArg (fun x : MemArgs => some (Instr.feget x.p x.d x.a x.off)) h2
theorem feset (p a : Nat) (off : BitVec 6) : Statement (.feset p a off) := by
  intro hw e he
  cases he
  refine decodeSlot_of_parse hw rfl ?_
  simp only [Instr.wf, guardOk, gOk, Bool.and_eq_true, decide_eq_true_eq] at hw
  obtain ⟨h1, h2⟩ := encMem_fields 0x45 ⟨p, 0, a, off, 3⟩ (by decide)
    (by first | omega | (simp only; omega)) (by first | omega | (simp only; omega)) (by first | omega | (simp only; omega)) (by first | omega | (simp only; omega))
  show parseSOp _ _ _ = _
  rw [h1]
  exact congrArg (fun x : MemArgs => some (Instr.feset x.p x.a x.off)) h2
theorem feclr (p a : Nat) (off : BitVec 6) : Statement (.feclr p a off) := by
  intro hw e he
  cases he
  refine decodeSlot_of_parse hw rfl ?_
  simp only [Instr.wf, guardOk, gOk, Bool.and_eq_true, decide_eq_true_eq] at hw
  obtain ⟨h1, h2⟩ := encMem_fields 0x46 ⟨p, 0, a, off, 3⟩ (by decide)
    (by first | omega | (simp only; omega)) (by first | omega | (simp only; omega)) (by first | omega | (simp only; omega)) (by first | omega | (simp only; omega))
  show parseSOp _ _ _ = _
  rw [h1]
  exact congrArg (fun x : MemArgs => some (Instr.feclr x.p x.a x.off)) h2
theorem lda (x : ScopeArgs) : Statement (.lda x) := by
  intro hw e he
  cases he
  refine decodeSlot_of_parse hw rfl ?_
  simp only [Instr.wf, guardOk, gOk, Bool.and_eq_true, decide_eq_true_eq] at hw
  obtain ⟨h1, h2⟩ := encScope_fields 0x47 x (by decide)
    (by first | omega | (simp only; omega)) (by first | omega | (simp only; omega)) (by first | omega | (simp only; omega)) (by first | omega | (simp only; omega)) (by first | omega | (simp only; omega))
  show parseSOp _ _ _ = _
  rw [h1]
  exact congrArg (fun x => some (Instr.lda x)) h2
theorem stl (x : ScopeArgs) : Statement (.stl x) := by
  intro hw e he
  cases he
  refine decodeSlot_of_parse hw rfl ?_
  simp only [Instr.wf, guardOk, gOk, Bool.and_eq_true, decide_eq_true_eq] at hw
  obtain ⟨h1, h2⟩ := encScope_fields 0x48 x (by decide)
    (by first | omega | (simp only; omega)) (by first | omega | (simp only; omega)) (by first | omega | (simp only; omega)) (by first | omega | (simp only; omega)) (by first | omega | (simp only; omega))
  show parseSOp _ _ _ = _
  rw [h1]
  exact congrArg (fun x => some (Instr.stl x)) h2
theorem amoadd (x : AmoArgs) : Statement (.amoadd x) := by
  intro hw e he
  cases he
  refine decodeSlot_of_parse hw rfl ?_
  simp only [Instr.wf, guardOk, gOk, Bool.and_eq_true, decide_eq_true_eq] at hw
  obtain ⟨h1, h2⟩ := encAmo_fields 0x50 x (by decide)
    (by first | omega | (simp only; omega)) (by first | omega | (simp only; omega)) (by first | omega | (simp only; omega)) (by first | omega | (simp only; omega)) (by first | omega | (simp only; omega))
  show parseSOp _ _ _ = _
  rw [h1]
  exact congrArg (fun x => some (Instr.amoadd x)) h2
theorem amoand (x : AmoArgs) : Statement (.amoand x) := by
  intro hw e he
  cases he
  refine decodeSlot_of_parse hw rfl ?_
  simp only [Instr.wf, guardOk, gOk, Bool.and_eq_true, decide_eq_true_eq] at hw
  obtain ⟨h1, h2⟩ := encAmo_fields 0x51 x (by decide)
    (by first | omega | (simp only; omega)) (by first | omega | (simp only; omega)) (by first | omega | (simp only; omega)) (by first | omega | (simp only; omega)) (by first | omega | (simp only; omega))
  show parseSOp _ _ _ = _
  rw [h1]
  exact congrArg (fun x => some (Instr.amoand x)) h2
theorem amoor (x : AmoArgs) : Statement (.amoor x) := by
  intro hw e he
  cases he
  refine decodeSlot_of_parse hw rfl ?_
  simp only [Instr.wf, guardOk, gOk, Bool.and_eq_true, decide_eq_true_eq] at hw
  obtain ⟨h1, h2⟩ := encAmo_fields 0x52 x (by decide)
    (by first | omega | (simp only; omega)) (by first | omega | (simp only; omega)) (by first | omega | (simp only; omega)) (by first | omega | (simp only; omega)) (by first | omega | (simp only; omega))
  show parseSOp _ _ _ = _
  rw [h1]
  exact congrArg (fun x => some (Instr.amoor x)) h2
theorem amoxor (x : AmoArgs) : Statement (.amoxor x) := by
  intro hw e he
  cases he
  refine decodeSlot_of_parse hw rfl ?_
  simp only [Instr.wf, guardOk, gOk, Bool.and_eq_true, decide_eq_true_eq] at hw
  obtain ⟨h1, h2⟩ := encAmo_fields 0x53 x (by decide)
    (by first | omega | (simp only; omega)) (by first | omega | (simp only; omega)) (by first | omega | (simp only; omega)) (by first | omega | (simp only; omega)) (by first | omega | (simp only; omega))
  show parseSOp _ _ _ = _
  rw [h1]
  exact congrArg (fun x => some (Instr.amoxor x)) h2
theorem amomin (x : AmoArgs) : Statement (.amomin x) := by
  intro hw e he
  cases he
  refine decodeSlot_of_parse hw rfl ?_
  simp only [Instr.wf, guardOk, gOk, Bool.and_eq_true, decide_eq_true_eq] at hw
  obtain ⟨h1, h2⟩ := encAmo_fields 0x54 x (by decide)
    (by first | omega | (simp only; omega)) (by first | omega | (simp only; omega)) (by first | omega | (simp only; omega)) (by first | omega | (simp only; omega)) (by first | omega | (simp only; omega))
  show parseSOp _ _ _ = _
  rw [h1]
  exact congrArg (fun x => some (Instr.amomin x)) h2
theorem amomax (x : AmoArgs) : Statement (.amomax x) := by
  intro hw e he
  cases he
  refine decodeSlot_of_parse hw rfl ?_
  simp only [Instr.wf, guardOk, gOk, Bool.and_eq_true, decide_eq_true_eq] at hw
  obtain ⟨h1, h2⟩ := encAmo_fields 0x55 x (by decide)
    (by first | omega | (simp only; omega)) (by first | omega | (simp only; omega)) (by first | omega | (simp only; omega)) (by first | omega | (simp only; omega)) (by first | omega | (simp only; omega))
  show parseSOp _ _ _ = _
  rw [h1]
  exact congrArg (fun x => some (Instr.amomax x)) h2
theorem amoswp (x : AmoArgs) : Statement (.amoswp x) := by
  intro hw e he
  cases he
  refine decodeSlot_of_parse hw rfl ?_
  simp only [Instr.wf, guardOk, gOk, Bool.and_eq_true, decide_eq_true_eq] at hw
  obtain ⟨h1, h2⟩ := encAmo_fields 0x56 x (by decide)
    (by first | omega | (simp only; omega)) (by first | omega | (simp only; omega)) (by first | omega | (simp only; omega)) (by first | omega | (simp only; omega)) (by first | omega | (simp only; omega))
  show parseSOp _ _ _ = _
  rw [h1]
  exact congrArg (fun x => some (Instr.amoswp x)) h2
theorem amocas (x : AmoArgs) : Statement (.amocas x) := by
  intro hw e he
  cases he
  refine decodeSlot_of_parse hw rfl ?_
  simp only [Instr.wf, guardOk, gOk, Bool.and_eq_true, decide_eq_true_eq] at hw
  obtain ⟨h1, h2⟩ := encAmo_fields 0x57 x (by decide)
    (by first | omega | (simp only; omega)) (by first | omega | (simp only; omega)) (by first | omega | (simp only; omega)) (by first | omega | (simp only; omega)) (by first | omega | (simp only; omega))
  show parseSOp _ _ _ = _
  rw [h1]
  exact congrArg (fun x => some (Instr.amocas x)) h2
theorem amofadd (x : AmoArgs) : Statement (.amofadd x) := by
  intro hw e he
  cases he
  refine decodeSlot_of_parse hw rfl ?_
  simp only [Instr.wf, guardOk, gOk, Bool.and_eq_true, decide_eq_true_eq] at hw
  obtain ⟨h1, h2⟩ := encAmo_fields 0x58 x (by decide)
    (by first | omega | (simp only; omega)) (by first | omega | (simp only; omega)) (by first | omega | (simp only; omega)) (by first | omega | (simp only; omega)) (by first | omega | (simp only; omega))
  show parseSOp _ _ _ = _
  rw [h1]
  exact congrArg (fun x => some (Instr.amofadd x)) h2
theorem amoaddC (p a b : Nat) : Statement (.amoaddC p a b) := by
  intro hw e he
  cases he
  refine decodeSlot_of_parse hw rfl ?_
  simp only [Instr.wf, guardOk, gOk, Bool.and_eq_true, decide_eq_true_eq] at hw
  obtain ⟨h1, h2⟩ := encAmo_fields 0x59 ⟨p, 0, a, b, 0⟩ (by decide)
    (by first | omega | (simp only; omega)) (by first | omega | (simp only; omega)) (by first | omega | (simp only; omega)) (by first | omega | (simp only; omega)) (by first | omega | (simp only; omega))
  show parseSOp _ _ _ = _
  rw [h1]
  exact congrArg (fun x : AmoArgs => some (Instr.amoaddC x.p x.a x.b)) h2
theorem amoandC (p a b : Nat) : Statement (.amoandC p a b) := by
  intro hw e he
  cases he
  refine decodeSlot_of_parse hw rfl ?_
  simp only [Instr.wf, guardOk, gOk, Bool.and_eq_true, decide_eq_true_eq] at hw
  obtain ⟨h1, h2⟩ := encAmo_fields 0x5A ⟨p, 0, a, b, 0⟩ (by decide)
    (by first | omega | (simp only; omega)) (by first | omega | (simp only; omega)) (by first | omega | (simp only; omega)) (by first | omega | (simp only; omega)) (by first | omega | (simp only; omega))
  show parseSOp _ _ _ = _
  rw [h1]
  exact congrArg (fun x : AmoArgs => some (Instr.amoandC x.p x.a x.b)) h2
theorem amoorC (p a b : Nat) : Statement (.amoorC p a b) := by
  intro hw e he
  cases he
  refine decodeSlot_of_parse hw rfl ?_
  simp only [Instr.wf, guardOk, gOk, Bool.and_eq_true, decide_eq_true_eq] at hw
  obtain ⟨h1, h2⟩ := encAmo_fields 0x5B ⟨p, 0, a, b, 0⟩ (by decide)
    (by first | omega | (simp only; omega)) (by first | omega | (simp only; omega)) (by first | omega | (simp only; omega)) (by first | omega | (simp only; omega)) (by first | omega | (simp only; omega))
  show parseSOp _ _ _ = _
  rw [h1]
  exact congrArg (fun x : AmoArgs => some (Instr.amoorC x.p x.a x.b)) h2
theorem amoxorC (p a b : Nat) : Statement (.amoxorC p a b) := by
  intro hw e he
  cases he
  refine decodeSlot_of_parse hw rfl ?_
  simp only [Instr.wf, guardOk, gOk, Bool.and_eq_true, decide_eq_true_eq] at hw
  obtain ⟨h1, h2⟩ := encAmo_fields 0x5C ⟨p, 0, a, b, 0⟩ (by decide)
    (by first | omega | (simp only; omega)) (by first | omega | (simp only; omega)) (by first | omega | (simp only; omega)) (by first | omega | (simp only; omega)) (by first | omega | (simp only; omega))
  show parseSOp _ _ _ = _
  rw [h1]
  exact congrArg (fun x : AmoArgs => some (Instr.amoxorC x.p x.a x.b)) h2
theorem amominC (p a b : Nat) : Statement (.amominC p a b) := by
  intro hw e he
  cases he
  refine decodeSlot_of_parse hw rfl ?_
  simp only [Instr.wf, guardOk, gOk, Bool.and_eq_true, decide_eq_true_eq] at hw
  obtain ⟨h1, h2⟩ := encAmo_fields 0x5D ⟨p, 0, a, b, 0⟩ (by decide)
    (by first | omega | (simp only; omega)) (by first | omega | (simp only; omega)) (by first | omega | (simp only; omega)) (by first | omega | (simp only; omega)) (by first | omega | (simp only; omega))
  show parseSOp _ _ _ = _
  rw [h1]
  exact congrArg (fun x : AmoArgs => some (Instr.amominC x.p x.a x.b)) h2
theorem amomaxC (p a b : Nat) : Statement (.amomaxC p a b) := by
  intro hw e he
  cases he
  refine decodeSlot_of_parse hw rfl ?_
  simp only [Instr.wf, guardOk, gOk, Bool.and_eq_true, decide_eq_true_eq] at hw
  obtain ⟨h1, h2⟩ := encAmo_fields 0x5E ⟨p, 0, a, b, 0⟩ (by decide)
    (by first | omega | (simp only; omega)) (by first | omega | (simp only; omega)) (by first | omega | (simp only; omega)) (by first | omega | (simp only; omega)) (by first | omega | (simp only; omega))
  show parseSOp _ _ _ = _
  rw [h1]
  exact congrArg (fun x : AmoArgs => some (Instr.amomaxC x.p x.a x.b)) h2
theorem amofaddC (p a b : Nat) : Statement (.amofaddC p a b) := by
  intro hw e he
  cases he
  refine decodeSlot_of_parse hw rfl ?_
  simp only [Instr.wf, guardOk, gOk, Bool.and_eq_true, decide_eq_true_eq] at hw
  obtain ⟨h1, h2⟩ := encAmo_fields 0x5F ⟨p, 0, a, b, 0⟩ (by decide)
    (by first | omega | (simp only; omega)) (by first | omega | (simp only; omega)) (by first | omega | (simp only; omega)) (by first | omega | (simp only; omega)) (by first | omega | (simp only; omega))
  show parseSOp _ _ _ = _
  rw [h1]
  exact congrArg (fun x : AmoArgs => some (Instr.amofaddC x.p x.a x.b)) h2
theorem mfs (p d n : Nat) : Statement (.mfs p d n) := by
  intro hw e he
  cases he
  refine decodeSlot_of_parse hw rfl ?_
  simp only [Instr.wf, guardOk, gOk, Bool.and_eq_true, Bool.or_eq_true, beq_iff_eq, decide_eq_true_eq] at hw
  obtain ⟨h1, h2, h3, h4, h5, h6, h7, h8⟩ := bits_packB (op := 0x60) (p := p) (off := d + 64 * n) (by omega) (by decide) (by omega)
  show parseSOp (bits (packB 0x60 p (d + 64 * n)) 11 5) (packB 0x60 p (d + 64 * n)) _ = _
  rw [h2]
  show some (Instr.mfs (bits (packB 0x60 p (d + 64 * n)) 4 0) (bits (packB 0x60 p (d + 64 * n)) 17 12) (bits (packB 0x60 p (d + 64 * n)) 29 18)) = _
  simp only [h1, h3, h4, h5, h6, h7, h8]
  rw [show (d + 64 * n) % 64 = d by omega, show (d + 64 * n) / 64 % 4096 = n by omega]
theorem mts (p d n : Nat) : Statement (.mts p d n) := by
  intro hw e he
  cases he
  refine decodeSlot_of_parse hw rfl ?_
  simp only [Instr.wf, guardOk, gOk, Bool.and_eq_true, Bool.or_eq_true, beq_iff_eq, decide_eq_true_eq] at hw
  obtain ⟨h1, h2, h3, h4, h5, h6, h7, h8⟩ := bits_packB (op := 0x61) (p := p) (off := d + 64 * n) (by omega) (by decide) (by omega)
  show parseSOp (bits (packB 0x61 p (d + 64 * n)) 11 5) (packB 0x61 p (d + 64 * n)) _ = _
  rw [h2]
  show some (Instr.mts (bits (packB 0x61 p (d + 64 * n)) 4 0) (bits (packB 0x61 p (d + 64 * n)) 17 12) (bits (packB 0x61 p (d + 64 * n)) 29 18)) = _
  simp only [h1, h3, h4, h5, h6, h7, h8]
  rw [show (d + 64 * n) % 64 = d by omega, show (d + 64 * n) / 64 % 4096 = n by omega]
theorem drain (p scope : Nat) : Statement (.drain p scope) := by
  intro hw e he
  cases he
  refine decodeSlot_of_parse hw rfl ?_
  simp only [Instr.wf, guardOk, gOk, Bool.and_eq_true, decide_eq_true_eq] at hw
  obtain ⟨h1, h2, h3, h4, h5, h6⟩ := bits_packR (op := 0x62) (p := p) (d := scope) (a := 0) (b := 0) (f := 0)
    (by omega) (by decide) (by omega) (by omega) (by omega) (by omega)
  show parseSOp (bits (packR 0x62 p scope 0 0 0) 11 5) (packR 0x62 p scope 0 0 0) _ = _
  rw [h2]
  show some (Instr.drain (bits (packR 0x62 p scope 0 0 0) 4 0) (bits (packR 0x62 p scope 0 0 0) 17 12)) = _
  simp only [h1, h3, h4, h5]
theorem tstamp (p d : Nat) : Statement (.tstamp p d) := by
  intro hw e he
  cases he
  refine decodeSlot_of_parse hw rfl ?_
  simp only [Instr.wf, guardOk, gOk, Bool.and_eq_true, decide_eq_true_eq] at hw
  obtain ⟨h1, h2, h3, h4, h5, h6⟩ := bits_packR (op := 0x63) (p := p) (d := d) (a := 0) (b := 0) (f := 0)
    (by omega) (by decide) (by omega) (by omega) (by omega) (by omega)
  show parseSOp (bits (packR 0x63 p d 0 0 0) 11 5) (packR 0x63 p d 0 0 0) _ = _
  rw [h2]
  show some (Instr.tstamp (bits (packR 0x63 p d 0 0 0) 4 0) (bits (packR 0x63 p d 0 0 0) 17 12)) = _
  simp only [h1, h3, h4, h5]
theorem cycles (p d : Nat) : Statement (.cycles p d) := by
  intro hw e he
  cases he
  refine decodeSlot_of_parse hw rfl ?_
  simp only [Instr.wf, guardOk, gOk, Bool.and_eq_true, decide_eq_true_eq] at hw
  obtain ⟨h1, h2, h3, h4, h5, h6⟩ := bits_packR (op := 0x64) (p := p) (d := d) (a := 0) (b := 0) (f := 0)
    (by omega) (by decide) (by omega) (by omega) (by omega) (by omega)
  show parseSOp (bits (packR 0x64 p d 0 0 0) 11 5) (packR 0x64 p d 0 0 0) _ = _
  rw [h2]
  show some (Instr.cycles (bits (packR 0x64 p d 0 0 0) 4 0) (bits (packR 0x64 p d 0 0 0) 17 12)) = _
  simp only [h1, h3, h4, h5]
theorem nxtile (p d : Nat) : Statement (.nxtile p d) := by
  intro hw e he
  cases he
  refine decodeSlot_of_parse hw rfl ?_
  simp only [Instr.wf, guardOk, gOk, Bool.and_eq_true, decide_eq_true_eq] at hw
  obtain ⟨h1, h2, h3, h4, h5, h6⟩ := bits_packR (op := 0x65) (p := p) (d := d) (a := 0) (b := 0) (f := 0)
    (by omega) (by decide) (by omega) (by omega) (by omega) (by omega)
  show parseSOp (bits (packR 0x65 p d 0 0 0) 11 5) (packR 0x65 p d 0 0 0) _ = _
  rw [h2]
  show some (Instr.nxtile (bits (packR 0x65 p d 0 0 0) 4 0) (bits (packR 0x65 p d 0 0 0) 17 12)) = _
  simp only [h1, h3, h4, h5]
theorem bankrel (p : Nat) (mask : BitVec 12) : Statement (.bankrel p mask) := by
  intro hw e he
  cases he
  refine decodeSlot_of_parse hw rfl ?_
  simp only [Instr.wf, guardOk, gOk, Bool.and_eq_true, Bool.or_eq_true, beq_iff_eq, decide_eq_true_eq] at hw
  have hb := mask.isLt
  obtain ⟨h1, h2, h3, h4, h5, h6, h7, h8⟩ := bits_packB (op := 0x66) (p := p) (off := 64 * mask.toNat) (by omega) (by decide) (by omega)
  show parseSOp (bits (packB 0x66 p (64 * mask.toNat)) 11 5) (packB 0x66 p (64 * mask.toNat)) _ = _
  rw [h2]
  show some (Instr.bankrel (bits (packB 0x66 p (64 * mask.toNat)) 4 0) (BitVec.ofNat 12 (bits (packB 0x66 p (64 * mask.toNat)) 29 18))) = _
  simp only [h1, h3, h4, h5, h6, h7, h8]
  rw [show 64 * mask.toNat / 64 % 4096 = mask.toNat by omega]
  simp
theorem bankacq (p : Nat) (mask : BitVec 12) : Statement (.bankacq p mask) := by
  intro hw e he
  cases he
  refine decodeSlot_of_parse hw rfl ?_
  simp only [Instr.wf, guardOk, gOk, Bool.and_eq_true, Bool.or_eq_true, beq_iff_eq, decide_eq_true_eq] at hw
  have hb := mask.isLt
  obtain ⟨h1, h2, h3, h4, h5, h6, h7, h8⟩ := bits_packB (op := 0x67) (p := p) (off := 64 * mask.toNat) (by omega) (by decide) (by omega)
  show parseSOp (bits (packB 0x67 p (64 * mask.toNat)) 11 5) (packB 0x67 p (64 * mask.toNat)) _ = _
  rw [h2]
  show some (Instr.bankacq (bits (packB 0x67 p (64 * mask.toNat)) 4 0) (BitVec.ofNat 12 (bits (packB 0x67 p (64 * mask.toNat)) 29 18))) = _
  simp only [h1, h3, h4, h5, h6, h7, h8]
  rw [show 64 * mask.toNat / 64 % 4096 = mask.toNat by omega]
  simp
theorem tlwait (p n a : Nat) : Statement (.tlwait p n a) := by
  intro hw e he
  cases he
  refine decodeSlot_of_parse hw rfl ?_
  simp only [Instr.wf, guardOk, gOk, Bool.and_eq_true, decide_eq_true_eq] at hw
  obtain ⟨h1, h2, h3, h4, h5, h6⟩ := bits_packR (op := 0x68) (p := p) (d := n) (a := a) (b := 0) (f := 0)
    (by omega) (by decide) (by omega) (by omega) (by omega) (by omega)
  show parseSOp (bits (packR 0x68 p n a 0 0) 11 5) (packR 0x68 p n a 0 0) _ = _
  rw [h2]
  show some (Instr.tlwait (bits (packR 0x68 p n a 0 0) 4 0) (bits (packR 0x68 p n a 0 0) 17 12) (bits (packR 0x68 p n a 0 0) 23 18)) = _
  simp only [h1, h3, h4, h5]
theorem tlread (p d n : Nat) : Statement (.tlread p d n) := by
  intro hw e he
  cases he
  refine decodeSlot_of_parse hw rfl ?_
  simp only [Instr.wf, guardOk, gOk, Bool.and_eq_true, decide_eq_true_eq] at hw
  obtain ⟨h1, h2, h3, h4, h5, h6⟩ := bits_packR (op := 0x69) (p := p) (d := d) (a := n) (b := 0) (f := 0)
    (by omega) (by decide) (by omega) (by omega) (by omega) (by omega)
  show parseSOp (bits (packR 0x69 p d n 0 0) 11 5) (packR 0x69 p d n 0 0) _ = _
  rw [h2]
  show some (Instr.tlread (bits (packR 0x69 p d n 0 0) 4 0) (bits (packR 0x69 p d n 0 0) 17 12) (bits (packR 0x69 p d n 0 0) 23 18)) = _
  simp only [h1, h3, h4, h5]
theorem tladv (p n a : Nat) : Statement (.tladv p n a) := by
  intro hw e he
  cases he
  refine decodeSlot_of_parse hw rfl ?_
  simp only [Instr.wf, guardOk, gOk, Bool.and_eq_true, decide_eq_true_eq] at hw
  obtain ⟨h1, h2, h3, h4, h5, h6⟩ := bits_packR (op := 0x6A) (p := p) (d := n) (a := a) (b := 0) (f := 0)
    (by omega) (by decide) (by omega) (by omega) (by omega) (by omega)
  show parseSOp (bits (packR 0x6A p n a 0 0) 11 5) (packR 0x6A p n a 0 0) _ = _
  rw [h2]
  show some (Instr.tladv (bits (packR 0x6A p n a 0 0) 4 0) (bits (packR 0x6A p n a 0 0) 17 12) (bits (packR 0x6A p n a 0 0) 23 18)) = _
  simp only [h1, h3, h4, h5]
theorem barinit (p a : Nat) (b : Src) : Statement (.barinit p a b) := by
  intro hw e he
  cases he
  refine decodeSlot_of_parse hw rfl ?_
  simp only [Instr.wf, guardOk, gOk, Bool.and_eq_true, decide_eq_true_eq] at hw
  obtain ⟨h1, h2, h3, h4, h5, h6⟩ := encR_parts 0x6B ⟨p, 0, a, b, false⟩ (by decide)
    (by first | omega | (simp only; omega)) (by first | omega | (simp only; omega)) (by first | omega | (simp only; omega)) (by first | rfl | exact hw.2 | exact hw.1.2)
  show parseSOp (bits _ 11 5) _ _ = _
  rw [h1]
  show some (Instr.barinit (bits _ 4 0) (bits _ 23 18) (rdSrc _ _)) = _
  simp only [h2, h3, h4, h5, h6]
theorem bararr (p a : Nat) : Statement (.bararr p a) := by
  intro hw e he
  cases he
  refine decodeSlot_of_parse hw rfl ?_
  simp only [Instr.wf, guardOk, gOk, Bool.and_eq_true, decide_eq_true_eq] at hw
  obtain ⟨h1, h2, h3, h4, h5, h6⟩ := bits_packR (op := 0x6C) (p := p) (d := 0) (a := a) (b := 0) (f := 0)
    (by omega) (by decide) (by omega) (by omega) (by omega) (by omega)
  show parseSOp (bits (packR 0x6C p 0 a 0 0) 11 5) (packR 0x6C p 0 a 0 0) _ = _
  rw [h2]
  show some (Instr.bararr (bits (packR 0x6C p 0 a 0 0) 4 0) (bits (packR 0x6C p 0 a 0 0) 23 18)) = _
  simp only [h1, h3, h4, h5]
theorem barwait (p a : Nat) (b : Src) : Statement (.barwait p a b) := by
  intro hw e he
  cases he
  refine decodeSlot_of_parse hw rfl ?_
  simp only [Instr.wf, guardOk, gOk, Bool.and_eq_true, decide_eq_true_eq] at hw
  obtain ⟨h1, h2, h3, h4, h5, h6⟩ := encR_parts 0x6D ⟨p, 0, a, b, false⟩ (by decide)
    (by first | omega | (simp only; omega)) (by first | omega | (simp only; omega)) (by first | omega | (simp only; omega)) (by first | rfl | exact hw.2 | exact hw.1.2)
  show parseSOp (bits _ 11 5) _ _ = _
  rw [h1]
  show some (Instr.barwait (bits _ 4 0) (bits _ 23 18) (rdSrc _ _)) = _
  simp only [h2, h3, h4, h5, h6]
theorem opgo (p a : Nat) : Statement (.opgo p a) := by
  intro hw e he
  cases he
  refine decodeSlot_of_parse hw rfl ?_
  simp only [Instr.wf, guardOk, gOk, Bool.and_eq_true, decide_eq_true_eq] at hw
  obtain ⟨h1, h2, h3, h4, h5, h6⟩ := bits_packR (op := 0x6E) (p := p) (d := 0) (a := a) (b := 0) (f := 0)
    (by omega) (by decide) (by omega) (by omega) (by omega) (by omega)
  show parseSOp (bits (packR 0x6E p 0 a 0 0) 11 5) (packR 0x6E p 0 a 0 0) _ = _
  rw [h2]
  show some (Instr.opgo (bits (packR 0x6E p 0 a 0 0) 4 0) (bits (packR 0x6E p 0 a 0 0) 23 18)) = _
  simp only [h1, h3, h4, h5]
theorem qpub (p a : Nat) (b : Src) : Statement (.qpub p a b) := by
  intro hw e he
  cases he
  refine decodeSlot_of_parse hw rfl ?_
  simp only [Instr.wf, guardOk, gOk, Bool.and_eq_true, decide_eq_true_eq] at hw
  obtain ⟨h1, h2, h3, h4, h5, h6⟩ := encR_parts 0x6F ⟨p, 0, a, b, false⟩ (by decide)
    (by first | omega | (simp only; omega)) (by first | omega | (simp only; omega)) (by first | omega | (simp only; omega)) (by first | rfl | exact hw.2 | exact hw.1.2)
  show parseSOp (bits _ 11 5) _ _ = _
  rw [h1]
  show some (Instr.qpub (bits _ 4 0) (bits _ 23 18) (rdSrc _ _)) = _
  simp only [h2, h3, h4, h5, h6]
theorem vadd (x : VArgs) : Statement (.vadd x) := by
  intro hw e he
  cases he
  refine decodeSlot_of_parse hw rfl ?_
  have hr : x.ranges = true := by
    simp only [Instr.wf, VArgs.elt, VArgs.unary, VArgs.wide, VArgs.red, VArgs.special, VArgs.mask, cvtOk, Bool.and_eq_true] at hw
    tauto
  obtain ⟨h1, h2⟩ := encV_fields 0x01 x true (by decide) hr (.inl rfl)
  show parseVOp _ _ _ = _
  rw [h1]
  exact congrArg (fun x => some (Instr.vadd x)) h2
theorem vsub (x : VArgs) : Statement (.vsub x) := by
  intro hw e he
  cases he
  refine decodeSlot_of_parse hw rfl ?_
  have hr : x.ranges = true := by
    simp only [Instr.wf, VArgs.elt, VArgs.unary, VArgs.wide, VArgs.red, VArgs.special, VArgs.mask, cvtOk, Bool.and_eq_true] at hw
    tauto
  obtain ⟨h1, h2⟩ := encV_fields 0x02 x true (by decide) hr (.inl rfl)
  show parseVOp _ _ _ = _
  rw [h1]
  exact congrArg (fun x => some (Instr.vsub x)) h2
theorem vmul (x : VArgs) : Statement (.vmul x) := by
  intro hw e he
  cases he
  refine decodeSlot_of_parse hw rfl ?_
  have hr : x.ranges = true := by
    simp only [Instr.wf, VArgs.elt, VArgs.unary, VArgs.wide, VArgs.red, VArgs.special, VArgs.mask, cvtOk, Bool.and_eq_true] at hw
    tauto
  obtain ⟨h1, h2⟩ := encV_fields 0x03 x true (by decide) hr (.inl rfl)
  show parseVOp _ _ _ = _
  rw [h1]
  exact congrArg (fun x => some (Instr.vmul x)) h2
theorem vmulh (x : VArgs) : Statement (.vmulh x) := by
  intro hw e he
  cases he
  refine decodeSlot_of_parse hw rfl ?_
  have hr : x.ranges = true := by
    simp only [Instr.wf, VArgs.elt, VArgs.unary, VArgs.wide, VArgs.red, VArgs.special, VArgs.mask, cvtOk, Bool.and_eq_true] at hw
    tauto
  obtain ⟨h1, h2⟩ := encV_fields 0x04 x true (by decide) hr (.inl rfl)
  show parseVOp _ _ _ = _
  rw [h1]
  exact congrArg (fun x => some (Instr.vmulh x)) h2
theorem vfma (x : VArgs) : Statement (.vfma x) := by
  intro hw e he
  cases he
  refine decodeSlot_of_parse hw rfl ?_
  have hr : x.ranges = true := by
    simp only [Instr.wf, VArgs.elt, VArgs.unary, VArgs.wide, VArgs.red, VArgs.special, VArgs.mask, cvtOk, Bool.and_eq_true] at hw
    tauto
  obtain ⟨h1, h2⟩ := encV_fields 0x05 x true (by decide) hr (.inl rfl)
  show parseVOp _ _ _ = _
  rw [h1]
  exact congrArg (fun x => some (Instr.vfma x)) h2
theorem vfms (x : VArgs) : Statement (.vfms x) := by
  intro hw e he
  cases he
  refine decodeSlot_of_parse hw rfl ?_
  have hr : x.ranges = true := by
    simp only [Instr.wf, VArgs.elt, VArgs.unary, VArgs.wide, VArgs.red, VArgs.special, VArgs.mask, cvtOk, Bool.and_eq_true] at hw
    tauto
  obtain ⟨h1, h2⟩ := encV_fields 0x06 x true (by decide) hr (.inl rfl)
  show parseVOp _ _ _ = _
  rw [h1]
  exact congrArg (fun x => some (Instr.vfms x)) h2
theorem vmin (x : VArgs) : Statement (.vmin x) := by
  intro hw e he
  cases he
  refine decodeSlot_of_parse hw rfl ?_
  have hr : x.ranges = true := by
    simp only [Instr.wf, VArgs.elt, VArgs.unary, VArgs.wide, VArgs.red, VArgs.special, VArgs.mask, cvtOk, Bool.and_eq_true] at hw
    tauto
  obtain ⟨h1, h2⟩ := encV_fields 0x07 x true (by decide) hr (.inl rfl)
  show parseVOp _ _ _ = _
  rw [h1]
  exact congrArg (fun x => some (Instr.vmin x)) h2
theorem vmax (x : VArgs) : Statement (.vmax x) := by
  intro hw e he
  cases he
  refine decodeSlot_of_parse hw rfl ?_
  have hr : x.ranges = true := by
    simp only [Instr.wf, VArgs.elt, VArgs.unary, VArgs.wide, VArgs.red, VArgs.special, VArgs.mask, cvtOk, Bool.and_eq_true] at hw
    tauto
  obtain ⟨h1, h2⟩ := encV_fields 0x08 x true (by decide) hr (.inl rfl)
  show parseVOp _ _ _ = _
  rw [h1]
  exact congrArg (fun x => some (Instr.vmax x)) h2
theorem vabs (x : VArgs) : Statement (.vabs x) := by
  intro hw e he
  cases he
  refine decodeSlot_of_parse hw rfl ?_
  have hr : x.ranges = true := by
    simp only [Instr.wf, VArgs.elt, VArgs.unary, VArgs.wide, VArgs.red, VArgs.special, VArgs.mask, cvtOk, Bool.and_eq_true] at hw
    tauto
  have hl : ∃ n, x.b = .reg n := by
    rcases hb : x.b with n | y
    · exact ⟨n, rfl⟩
    · simp [Instr.wf, VArgs.elt, VArgs.unary, VArgs.wide, VArgs.red, VArgs.special, VArgs.mask, cvtOk, VArgs.noB, VArgs.noLit, VArgs.gB, hb] at hw
  obtain ⟨h1, h2⟩ := encV_fields 0x09 x false (by decide) hr (.inr hl)
  show parseVOp _ _ _ = _
  rw [h1]
  exact congrArg (fun x => some (Instr.vabs x)) h2
theorem vneg (x : VArgs) : Statement (.vneg x) := by
  intro hw e he
  cases he
  refine decodeSlot_of_parse hw rfl ?_
  have hr : x.ranges = true := by
    simp only [Instr.wf, VArgs.elt, VArgs.unary, VArgs.wide, VArgs.red, VArgs.special, VArgs.mask, cvtOk, Bool.and_eq_true] at hw
    tauto
  have hl : ∃ n, x.b = .reg n := by
    rcases hb : x.b with n | y
    · exact ⟨n, rfl⟩
    · simp [Instr.wf, VArgs.elt, VArgs.unary, VArgs.wide, VArgs.red, VArgs.special, VArgs.mask, cvtOk, VArgs.noB, VArgs.noLit, VArgs.gB, hb] at hw
  obtain ⟨h1, h2⟩ := encV_fields 0x0A x false (by decide) hr (.inr hl)
  show parseVOp _ _ _ = _
  rw [h1]
  exact congrArg (fun x => some (Instr.vneg x)) h2
theorem vand (x : VArgs) : Statement (.vand x) := by
  intro hw e he
  cases he
  refine decodeSlot_of_parse hw rfl ?_
  have hr : x.ranges = true := by
    simp only [Instr.wf, VArgs.elt, VArgs.unary, VArgs.wide, VArgs.red, VArgs.special, VArgs.mask, cvtOk, Bool.and_eq_true] at hw
    tauto
  obtain ⟨h1, h2⟩ := encV_fields 0x0B x true (by decide) hr (.inl rfl)
  show parseVOp _ _ _ = _
  rw [h1]
  exact congrArg (fun x => some (Instr.vand x)) h2
theorem vor (x : VArgs) : Statement (.vor x) := by
  intro hw e he
  cases he
  refine decodeSlot_of_parse hw rfl ?_
  have hr : x.ranges = true := by
    simp only [Instr.wf, VArgs.elt, VArgs.unary, VArgs.wide, VArgs.red, VArgs.special, VArgs.mask, cvtOk, Bool.and_eq_true] at hw
    tauto
  obtain ⟨h1, h2⟩ := encV_fields 0x0C x true (by decide) hr (.inl rfl)
  show parseVOp _ _ _ = _
  rw [h1]
  exact congrArg (fun x => some (Instr.vor x)) h2
theorem vxor (x : VArgs) : Statement (.vxor x) := by
  intro hw e he
  cases he
  refine decodeSlot_of_parse hw rfl ?_
  have hr : x.ranges = true := by
    simp only [Instr.wf, VArgs.elt, VArgs.unary, VArgs.wide, VArgs.red, VArgs.special, VArgs.mask, cvtOk, Bool.and_eq_true] at hw
    tauto
  obtain ⟨h1, h2⟩ := encV_fields 0x0D x true (by decide) hr (.inl rfl)
  show parseVOp _ _ _ = _
  rw [h1]
  exact congrArg (fun x => some (Instr.vxor x)) h2
theorem vshl (x : VArgs) : Statement (.vshl x) := by
  intro hw e he
  cases he
  refine decodeSlot_of_parse hw rfl ?_
  have hr : x.ranges = true := by
    simp only [Instr.wf, VArgs.elt, VArgs.unary, VArgs.wide, VArgs.red, VArgs.special, VArgs.mask, cvtOk, Bool.and_eq_true] at hw
    tauto
  obtain ⟨h1, h2⟩ := encV_fields 0x0E x true (by decide) hr (.inl rfl)
  show parseVOp _ _ _ = _
  rw [h1]
  exact congrArg (fun x => some (Instr.vshl x)) h2
theorem vshr (x : VArgs) : Statement (.vshr x) := by
  intro hw e he
  cases he
  refine decodeSlot_of_parse hw rfl ?_
  have hr : x.ranges = true := by
    simp only [Instr.wf, VArgs.elt, VArgs.unary, VArgs.wide, VArgs.red, VArgs.special, VArgs.mask, cvtOk, Bool.and_eq_true] at hw
    tauto
  obtain ⟨h1, h2⟩ := encV_fields 0x0F x true (by decide) hr (.inl rfl)
  show parseVOp _ _ _ = _
  rw [h1]
  exact congrArg (fun x => some (Instr.vshr x)) h2
theorem vsar (x : VArgs) : Statement (.vsar x) := by
  intro hw e he
  cases he
  refine decodeSlot_of_parse hw rfl ?_
  have hr : x.ranges = true := by
    simp only [Instr.wf, VArgs.elt, VArgs.unary, VArgs.wide, VArgs.red, VArgs.special, VArgs.mask, cvtOk, Bool.and_eq_true] at hw
    tauto
  obtain ⟨h1, h2⟩ := encV_fields 0x10 x true (by decide) hr (.inl rfl)
  show parseVOp _ _ _ = _
  rw [h1]
  exact congrArg (fun x => some (Instr.vsar x)) h2
theorem vcmp (x : VArgs) : Statement (.vcmp x) := by
  intro hw e he
  cases he
  refine decodeSlot_of_parse hw rfl ?_
  have hr : x.ranges = true := by
    simp only [Instr.wf, VArgs.elt, VArgs.unary, VArgs.wide, VArgs.red, VArgs.special, VArgs.mask, cvtOk, Bool.and_eq_true] at hw
    tauto
  obtain ⟨h1, h2⟩ := encV_fields 0x11 x true (by decide) hr (.inl rfl)
  show parseVOp _ _ _ = _
  rw [h1]
  exact congrArg (fun x => some (Instr.vcmp x)) h2
theorem vsel (x : VArgs) : Statement (.vsel x) := by
  intro hw e he
  cases he
  refine decodeSlot_of_parse hw rfl ?_
  have hr : x.ranges = true := by
    simp only [Instr.wf, VArgs.elt, VArgs.unary, VArgs.wide, VArgs.red, VArgs.special, VArgs.mask, cvtOk, Bool.and_eq_true] at hw
    tauto
  obtain ⟨h1, h2⟩ := encV_fields 0x12 x true (by decide) hr (.inl rfl)
  show parseVOp _ _ _ = _
  rw [h1]
  exact congrArg (fun x => some (Instr.vsel x)) h2
theorem vmov (x : VArgs) : Statement (.vmov x) := by
  intro hw e he
  cases he
  refine decodeSlot_of_parse hw rfl ?_
  have hr : x.ranges = true := by
    simp only [Instr.wf, VArgs.elt, VArgs.unary, VArgs.wide, VArgs.red, VArgs.special, VArgs.mask, cvtOk, Bool.and_eq_true] at hw
    tauto
  have hl : ∃ n, x.b = .reg n := by
    rcases hb : x.b with n | y
    · exact ⟨n, rfl⟩
    · simp [Instr.wf, VArgs.elt, VArgs.unary, VArgs.wide, VArgs.red, VArgs.special, VArgs.mask, cvtOk, VArgs.noB, VArgs.noLit, VArgs.gB, hb] at hw
  obtain ⟨h1, h2⟩ := encV_fields 0x13 x false (by decide) hr (.inr hl)
  show parseVOp _ _ _ = _
  rw [h1]
  exact congrArg (fun x => some (Instr.vmov x)) h2
theorem vsplat (x : VArgs) : Statement (.vsplat x) := by
  intro hw e he
  cases he
  refine decodeSlot_of_parse hw rfl ?_
  have hr : x.ranges = true := by
    simp only [Instr.wf, VArgs.elt, VArgs.unary, VArgs.wide, VArgs.red, VArgs.special, VArgs.mask, cvtOk, Bool.and_eq_true] at hw
    tauto
  obtain ⟨h1, h2⟩ := encV_fields 0x14 x true (by decide) hr (.inl rfl)
  show parseVOp _ _ _ = _
  rw [h1]
  exact congrArg (fun x => some (Instr.vsplat x)) h2
theorem vbcast (x : VArgs) : Statement (.vbcast x) := by
  intro hw e he
  cases he
  refine decodeSlot_of_parse hw rfl ?_
  have hr : x.ranges = true := by
    simp only [Instr.wf, VArgs.elt, VArgs.unary, VArgs.wide, VArgs.red, VArgs.special, VArgs.mask, cvtOk, Bool.and_eq_true] at hw
    tauto
  have hl : ∃ n, x.b = .reg n := by
    rcases hb : x.b with n | y
    · exact ⟨n, rfl⟩
    · simp [Instr.wf, VArgs.elt, VArgs.unary, VArgs.wide, VArgs.red, VArgs.special, VArgs.mask, cvtOk, VArgs.noB, VArgs.noLit, VArgs.gB, hb] at hw
  obtain ⟨h1, h2⟩ := encV_fields 0x15 x false (by decide) hr (.inr hl)
  show parseVOp _ _ _ = _
  rw [h1]
  exact congrArg (fun x => some (Instr.vbcast x)) h2
theorem vperm (x : VArgs) : Statement (.vperm x) := by
  intro hw e he
  cases he
  refine decodeSlot_of_parse hw rfl ?_
  have hr : x.ranges = true := by
    simp only [Instr.wf, VArgs.elt, VArgs.unary, VArgs.wide, VArgs.red, VArgs.special, VArgs.mask, cvtOk, Bool.and_eq_true] at hw
    tauto
  have hl : ∃ n, x.b = .reg n := by
    rcases hb : x.b with n | y
    · exact ⟨n, rfl⟩
    · simp [Instr.wf, VArgs.elt, VArgs.unary, VArgs.wide, VArgs.red, VArgs.special, VArgs.mask, cvtOk, VArgs.noB, VArgs.noLit, VArgs.gB, hb] at hw
  obtain ⟨h1, h2⟩ := encV_fields 0x16 x false (by decide) hr (.inr hl)
  show parseVOp _ _ _ = _
  rw [h1]
  exact congrArg (fun x => some (Instr.vperm x)) h2
theorem vslide (x : VArgs) : Statement (.vslide x) := by
  intro hw e he
  cases he
  refine decodeSlot_of_parse hw rfl ?_
  have hr : x.ranges = true := by
    simp only [Instr.wf, VArgs.elt, VArgs.unary, VArgs.wide, VArgs.red, VArgs.special, VArgs.mask, cvtOk, Bool.and_eq_true] at hw
    tauto
  have hl : ∃ n, x.b = .reg n := by
    rcases hb : x.b with n | y
    · exact ⟨n, rfl⟩
    · simp [Instr.wf, VArgs.elt, VArgs.unary, VArgs.wide, VArgs.red, VArgs.special, VArgs.mask, cvtOk, VArgs.noB, VArgs.noLit, VArgs.gB, hb] at hw
  obtain ⟨h1, h2⟩ := encV_fields 0x17 x false (by decide) hr (.inr hl)
  show parseVOp _ _ _ = _
  rw [h1]
  exact congrArg (fun x => some (Instr.vslide x)) h2
theorem vext (x : VArgs) : Statement (.vext x) := by
  intro hw e he
  cases he
  refine decodeSlot_of_parse hw rfl ?_
  have hr : x.ranges = true := by
    simp only [Instr.wf, VArgs.elt, VArgs.unary, VArgs.wide, VArgs.red, VArgs.special, VArgs.mask, cvtOk, Bool.and_eq_true] at hw
    tauto
  have hl : ∃ n, x.b = .reg n := by
    rcases hb : x.b with n | y
    · exact ⟨n, rfl⟩
    · simp [Instr.wf, VArgs.elt, VArgs.unary, VArgs.wide, VArgs.red, VArgs.special, VArgs.mask, cvtOk, VArgs.noB, VArgs.noLit, VArgs.gB, hb] at hw
  obtain ⟨h1, h2⟩ := encV_fields 0x18 x false (by decide) hr (.inr hl)
  show parseVOp _ _ _ = _
  rw [h1]
  exact congrArg (fun x => some (Instr.vext x)) h2
theorem vins (x : VArgs) : Statement (.vins x) := by
  intro hw e he
  cases he
  refine decodeSlot_of_parse hw rfl ?_
  have hr : x.ranges = true := by
    simp only [Instr.wf, VArgs.elt, VArgs.unary, VArgs.wide, VArgs.red, VArgs.special, VArgs.mask, cvtOk, Bool.and_eq_true] at hw
    tauto
  have hl : ∃ n, x.b = .reg n := by
    rcases hb : x.b with n | y
    · exact ⟨n, rfl⟩
    · simp [Instr.wf, VArgs.elt, VArgs.unary, VArgs.wide, VArgs.red, VArgs.special, VArgs.mask, cvtOk, VArgs.noB, VArgs.noLit, VArgs.gB, hb] at hw
  obtain ⟨h1, h2⟩ := encV_fields 0x19 x false (by decide) hr (.inr hl)
  show parseVOp _ _ _ = _
  rw [h1]
  exact congrArg (fun x => some (Instr.vins x)) h2
theorem vcvt (x : VArgs) : Statement (.vcvt x) := by
  intro hw e he
  cases he
  refine decodeSlot_of_parse hw rfl ?_
  have hr : x.ranges = true := by
    simp only [Instr.wf, VArgs.elt, VArgs.unary, VArgs.wide, VArgs.red, VArgs.special, VArgs.mask, cvtOk, Bool.and_eq_true] at hw
    revert hw
    rcases x with ⟨_, _, _, _, _ | _, _, _, _⟩
    · simp only [Bool.and_eq_true]; exact fun h => h.1.1.1.1.1.1.1.1
    · exact fun h => nomatch h
  have hl : ∃ n, x.b = .reg n := by
    rcases hb : x.b with n | y
    · exact ⟨n, rfl⟩
    · simp [Instr.wf, VArgs.elt, VArgs.unary, VArgs.wide, VArgs.red, VArgs.special, VArgs.mask, cvtOk, VArgs.noB, VArgs.noLit, VArgs.gB, hb] at hw
  obtain ⟨h1, h2⟩ := encV_fields 0x1A x false (by decide) hr (.inr hl)
  show parseVOp _ _ _ = _
  rw [h1]
  exact congrArg (fun x => some (Instr.vcvt x)) h2
theorem vwadd (x : VArgs) : Statement (.vwadd x) := by
  intro hw e he
  cases he
  refine decodeSlot_of_parse hw rfl ?_
  have hr : x.ranges = true := by
    simp only [Instr.wf, VArgs.elt, VArgs.unary, VArgs.wide, VArgs.red, VArgs.special, VArgs.mask, cvtOk, Bool.and_eq_true] at hw
    tauto
  obtain ⟨h1, h2⟩ := encV_fields 0x1B x true (by decide) hr (.inl rfl)
  show parseVOp _ _ _ = _
  rw [h1]
  exact congrArg (fun x => some (Instr.vwadd x)) h2
theorem vwmul (x : VArgs) : Statement (.vwmul x) := by
  intro hw e he
  cases he
  refine decodeSlot_of_parse hw rfl ?_
  have hr : x.ranges = true := by
    simp only [Instr.wf, VArgs.elt, VArgs.unary, VArgs.wide, VArgs.red, VArgs.special, VArgs.mask, cvtOk, Bool.and_eq_true] at hw
    tauto
  obtain ⟨h1, h2⟩ := encV_fields 0x1C x true (by decide) hr (.inl rfl)
  show parseVOp _ _ _ = _
  rw [h1]
  exact congrArg (fun x => some (Instr.vwmul x)) h2
theorem vwfma (x : VArgs) : Statement (.vwfma x) := by
  intro hw e he
  cases he
  refine decodeSlot_of_parse hw rfl ?_
  have hr : x.ranges = true := by
    simp only [Instr.wf, VArgs.elt, VArgs.unary, VArgs.wide, VArgs.red, VArgs.special, VArgs.mask, cvtOk, Bool.and_eq_true] at hw
    tauto
  obtain ⟨h1, h2⟩ := encV_fields 0x1D x true (by decide) hr (.inl rfl)
  show parseVOp _ _ _ = _
  rw [h1]
  exact congrArg (fun x => some (Instr.vwfma x)) h2
theorem vnarr (x : VArgs) : Statement (.vnarr x) := by
  intro hw e he
  cases he
  refine decodeSlot_of_parse hw rfl ?_
  have hr : x.ranges = true := by
    simp only [Instr.wf, VArgs.elt, VArgs.unary, VArgs.wide, VArgs.red, VArgs.special, VArgs.mask, cvtOk, Bool.and_eq_true] at hw
    tauto
  have hl : ∃ n, x.b = .reg n := by
    rcases hb : x.b with n | y
    · exact ⟨n, rfl⟩
    · simp [Instr.wf, VArgs.elt, VArgs.unary, VArgs.wide, VArgs.red, VArgs.special, VArgs.mask, cvtOk, VArgs.noB, VArgs.noLit, VArgs.gB, hb] at hw
  obtain ⟨h1, h2⟩ := encV_fields 0x1E x false (by decide) hr (.inr hl)
  show parseVOp _ _ _ = _
  rw [h1]
  exact congrArg (fun x => some (Instr.vnarr x)) h2
theorem vdot (x : VArgs) : Statement (.vdot x) := by
  intro hw e he
  cases he
  refine decodeSlot_of_parse hw rfl ?_
  have hr : x.ranges = true := by
    simp only [Instr.wf, VArgs.elt, VArgs.unary, VArgs.wide, VArgs.red, VArgs.special, VArgs.mask, cvtOk, Bool.and_eq_true] at hw
    tauto
  obtain ⟨h1, h2⟩ := encV_fields 0x1F x true (by decide) hr (.inl rfl)
  show parseVOp _ _ _ = _
  rw [h1]
  exact congrArg (fun x => some (Instr.vdot x)) h2
theorem vredadd (x : VArgs) : Statement (.vredadd x) := by
  intro hw e he
  cases he
  refine decodeSlot_of_parse hw rfl ?_
  have hr : x.ranges = true := by
    simp only [Instr.wf, VArgs.elt, VArgs.unary, VArgs.wide, VArgs.red, VArgs.special, VArgs.mask, cvtOk, Bool.and_eq_true] at hw
    tauto
  have hl : ∃ n, x.b = .reg n := by
    rcases hb : x.b with n | y
    · exact ⟨n, rfl⟩
    · simp [Instr.wf, VArgs.elt, VArgs.unary, VArgs.wide, VArgs.red, VArgs.special, VArgs.mask, cvtOk, VArgs.noB, VArgs.noLit, VArgs.gB, hb] at hw
  obtain ⟨h1, h2⟩ := encV_fields 0x20 x false (by decide) hr (.inr hl)
  show parseVOp _ _ _ = _
  rw [h1]
  exact congrArg (fun x => some (Instr.vredadd x)) h2
theorem vredmax (x : VArgs) : Statement (.vredmax x) := by
  intro hw e he
  cases he
  refine decodeSlot_of_parse hw rfl ?_
  have hr : x.ranges = true := by
    simp only [Instr.wf, VArgs.elt, VArgs.unary, VArgs.wide, VArgs.red, VArgs.special, VArgs.mask, cvtOk, Bool.and_eq_true] at hw
    tauto
  have hl : ∃ n, x.b = .reg n := by
    rcases hb : x.b with n | y
    · exact ⟨n, rfl⟩
    · simp [Instr.wf, VArgs.elt, VArgs.unary, VArgs.wide, VArgs.red, VArgs.special, VArgs.mask, cvtOk, VArgs.noB, VArgs.noLit, VArgs.gB, hb] at hw
  obtain ⟨h1, h2⟩ := encV_fields 0x21 x false (by decide) hr (.inr hl)
  show parseVOp _ _ _ = _
  rw [h1]
  exact congrArg (fun x => some (Instr.vredmax x)) h2
theorem vredmin (x : VArgs) : Statement (.vredmin x) := by
  intro hw e he
  cases he
  refine decodeSlot_of_parse hw rfl ?_
  have hr : x.ranges = true := by
    simp only [Instr.wf, VArgs.elt, VArgs.unary, VArgs.wide, VArgs.red, VArgs.special, VArgs.mask, cvtOk, Bool.and_eq_true] at hw
    tauto
  have hl : ∃ n, x.b = .reg n := by
    rcases hb : x.b with n | y
    · exact ⟨n, rfl⟩
    · simp [Instr.wf, VArgs.elt, VArgs.unary, VArgs.wide, VArgs.red, VArgs.special, VArgs.mask, cvtOk, VArgs.noB, VArgs.noLit, VArgs.gB, hb] at hw
  obtain ⟨h1, h2⟩ := encV_fields 0x22 x false (by decide) hr (.inr hl)
  show parseVOp _ _ _ = _
  rw [h1]
  exact congrArg (fun x => some (Instr.vredmin x)) h2
theorem vscan (x : VArgs) : Statement (.vscan x) := by
  intro hw e he
  cases he
  refine decodeSlot_of_parse hw rfl ?_
  have hr : x.ranges = true := by
    simp only [Instr.wf, VArgs.elt, VArgs.unary, VArgs.wide, VArgs.red, VArgs.special, VArgs.mask, cvtOk, Bool.and_eq_true] at hw
    tauto
  have hl : ∃ n, x.b = .reg n := by
    rcases hb : x.b with n | y
    · exact ⟨n, rfl⟩
    · simp [Instr.wf, VArgs.elt, VArgs.unary, VArgs.wide, VArgs.red, VArgs.special, VArgs.mask, cvtOk, VArgs.noB, VArgs.noLit, VArgs.gB, hb] at hw
  obtain ⟨h1, h2⟩ := encV_fields 0x23 x false (by decide) hr (.inr hl)
  show parseVOp _ _ _ = _
  rw [h1]
  exact congrArg (fun x => some (Instr.vscan x)) h2
theorem vexp2 (x : VArgs) : Statement (.vexp2 x) := by
  intro hw e he
  cases he
  refine decodeSlot_of_parse hw rfl ?_
  have hr : x.ranges = true := by
    simp only [Instr.wf, VArgs.elt, VArgs.unary, VArgs.wide, VArgs.red, VArgs.special, VArgs.mask, cvtOk, Bool.and_eq_true] at hw
    tauto
  have hl : ∃ n, x.b = .reg n := by
    rcases hb : x.b with n | y
    · exact ⟨n, rfl⟩
    · simp [Instr.wf, VArgs.elt, VArgs.unary, VArgs.wide, VArgs.red, VArgs.special, VArgs.mask, cvtOk, VArgs.noB, VArgs.noLit, VArgs.gB, hb] at hw
  obtain ⟨h1, h2⟩ := encV_fields 0x24 x false (by decide) hr (.inr hl)
  show parseVOp _ _ _ = _
  rw [h1]
  exact congrArg (fun x => some (Instr.vexp2 x)) h2
theorem vlog2 (x : VArgs) : Statement (.vlog2 x) := by
  intro hw e he
  cases he
  refine decodeSlot_of_parse hw rfl ?_
  have hr : x.ranges = true := by
    simp only [Instr.wf, VArgs.elt, VArgs.unary, VArgs.wide, VArgs.red, VArgs.special, VArgs.mask, cvtOk, Bool.and_eq_true] at hw
    tauto
  have hl : ∃ n, x.b = .reg n := by
    rcases hb : x.b with n | y
    · exact ⟨n, rfl⟩
    · simp [Instr.wf, VArgs.elt, VArgs.unary, VArgs.wide, VArgs.red, VArgs.special, VArgs.mask, cvtOk, VArgs.noB, VArgs.noLit, VArgs.gB, hb] at hw
  obtain ⟨h1, h2⟩ := encV_fields 0x25 x false (by decide) hr (.inr hl)
  show parseVOp _ _ _ = _
  rw [h1]
  exact congrArg (fun x => some (Instr.vlog2 x)) h2
theorem vrcp (x : VArgs) : Statement (.vrcp x) := by
  intro hw e he
  cases he
  refine decodeSlot_of_parse hw rfl ?_
  have hr : x.ranges = true := by
    simp only [Instr.wf, VArgs.elt, VArgs.unary, VArgs.wide, VArgs.red, VArgs.special, VArgs.mask, cvtOk, Bool.and_eq_true] at hw
    tauto
  have hl : ∃ n, x.b = .reg n := by
    rcases hb : x.b with n | y
    · exact ⟨n, rfl⟩
    · simp [Instr.wf, VArgs.elt, VArgs.unary, VArgs.wide, VArgs.red, VArgs.special, VArgs.mask, cvtOk, VArgs.noB, VArgs.noLit, VArgs.gB, hb] at hw
  obtain ⟨h1, h2⟩ := encV_fields 0x26 x false (by decide) hr (.inr hl)
  show parseVOp _ _ _ = _
  rw [h1]
  exact congrArg (fun x => some (Instr.vrcp x)) h2
theorem vrsq (x : VArgs) : Statement (.vrsq x) := by
  intro hw e he
  cases he
  refine decodeSlot_of_parse hw rfl ?_
  have hr : x.ranges = true := by
    simp only [Instr.wf, VArgs.elt, VArgs.unary, VArgs.wide, VArgs.red, VArgs.special, VArgs.mask, cvtOk, Bool.and_eq_true] at hw
    tauto
  have hl : ∃ n, x.b = .reg n := by
    rcases hb : x.b with n | y
    · exact ⟨n, rfl⟩
    · simp [Instr.wf, VArgs.elt, VArgs.unary, VArgs.wide, VArgs.red, VArgs.special, VArgs.mask, cvtOk, VArgs.noB, VArgs.noLit, VArgs.gB, hb] at hw
  obtain ⟨h1, h2⟩ := encV_fields 0x27 x false (by decide) hr (.inr hl)
  show parseVOp _ _ _ = _
  rw [h1]
  exact congrArg (fun x => some (Instr.vrsq x)) h2
theorem vtanh (x : VArgs) : Statement (.vtanh x) := by
  intro hw e he
  cases he
  refine decodeSlot_of_parse hw rfl ?_
  have hr : x.ranges = true := by
    simp only [Instr.wf, VArgs.elt, VArgs.unary, VArgs.wide, VArgs.red, VArgs.special, VArgs.mask, cvtOk, Bool.and_eq_true] at hw
    tauto
  have hl : ∃ n, x.b = .reg n := by
    rcases hb : x.b with n | y
    · exact ⟨n, rfl⟩
    · simp [Instr.wf, VArgs.elt, VArgs.unary, VArgs.wide, VArgs.red, VArgs.special, VArgs.mask, cvtOk, VArgs.noB, VArgs.noLit, VArgs.gB, hb] at hw
  obtain ⟨h1, h2⟩ := encV_fields 0x28 x false (by decide) hr (.inr hl)
  show parseVOp _ _ _ = _
  rw [h1]
  exact congrArg (fun x => some (Instr.vtanh x)) h2
theorem vclz (x : VArgs) : Statement (.vclz x) := by
  intro hw e he
  cases he
  refine decodeSlot_of_parse hw rfl ?_
  have hr : x.ranges = true := by
    simp only [Instr.wf, VArgs.elt, VArgs.unary, VArgs.wide, VArgs.red, VArgs.special, VArgs.mask, cvtOk, Bool.and_eq_true] at hw
    tauto
  have hl : ∃ n, x.b = .reg n := by
    rcases hb : x.b with n | y
    · exact ⟨n, rfl⟩
    · simp [Instr.wf, VArgs.elt, VArgs.unary, VArgs.wide, VArgs.red, VArgs.special, VArgs.mask, cvtOk, VArgs.noB, VArgs.noLit, VArgs.gB, hb] at hw
  obtain ⟨h1, h2⟩ := encV_fields 0x29 x false (by decide) hr (.inr hl)
  show parseVOp _ _ _ = _
  rw [h1]
  exact congrArg (fun x => some (Instr.vclz x)) h2
theorem vpopc (x : VArgs) : Statement (.vpopc x) := by
  intro hw e he
  cases he
  refine decodeSlot_of_parse hw rfl ?_
  have hr : x.ranges = true := by
    simp only [Instr.wf, VArgs.elt, VArgs.unary, VArgs.wide, VArgs.red, VArgs.special, VArgs.mask, cvtOk, Bool.and_eq_true] at hw
    tauto
  have hl : ∃ n, x.b = .reg n := by
    rcases hb : x.b with n | y
    · exact ⟨n, rfl⟩
    · simp [Instr.wf, VArgs.elt, VArgs.unary, VArgs.wide, VArgs.red, VArgs.special, VArgs.mask, cvtOk, VArgs.noB, VArgs.noLit, VArgs.gB, hb] at hw
  obtain ⟨h1, h2⟩ := encV_fields 0x2A x false (by decide) hr (.inr hl)
  show parseVOp _ _ _ = _
  rw [h1]
  exact congrArg (fun x => some (Instr.vpopc x)) h2
theorem viota (x : VArgs) : Statement (.viota x) := by
  intro hw e he
  cases he
  refine decodeSlot_of_parse hw rfl ?_
  have hr : x.ranges = true := by
    simp only [Instr.wf, VArgs.elt, VArgs.unary, VArgs.wide, VArgs.red, VArgs.special, VArgs.mask, cvtOk, Bool.and_eq_true] at hw
    tauto
  have hl : ∃ n, x.b = .reg n := by
    rcases hb : x.b with n | y
    · exact ⟨n, rfl⟩
    · simp [Instr.wf, VArgs.elt, VArgs.unary, VArgs.wide, VArgs.red, VArgs.special, VArgs.mask, cvtOk, VArgs.noB, VArgs.noLit, VArgs.gB, hb] at hw
  obtain ⟨h1, h2⟩ := encV_fields 0x2B x false (by decide) hr (.inr hl)
  show parseVOp _ _ _ = _
  rw [h1]
  exact congrArg (fun x => some (Instr.viota x)) h2
theorem vcomp (x : VArgs) : Statement (.vcomp x) := by
  intro hw e he
  cases he
  refine decodeSlot_of_parse hw rfl ?_
  have hr : x.ranges = true := by
    simp only [Instr.wf, VArgs.elt, VArgs.unary, VArgs.wide, VArgs.red, VArgs.special, VArgs.mask, cvtOk, Bool.and_eq_true] at hw
    tauto
  have hl : ∃ n, x.b = .reg n := by
    rcases hb : x.b with n | y
    · exact ⟨n, rfl⟩
    · simp [Instr.wf, VArgs.elt, VArgs.unary, VArgs.wide, VArgs.red, VArgs.special, VArgs.mask, cvtOk, VArgs.noB, VArgs.noLit, VArgs.gB, hb] at hw
  obtain ⟨h1, h2⟩ := encV_fields 0x2C x false (by decide) hr (.inr hl)
  show parseVOp _ _ _ = _
  rw [h1]
  exact congrArg (fun x => some (Instr.vcomp x)) h2
theorem vdrop (x : VArgs) (y : BitVec 32) : Statement (.vdrop x y) := by
  intro hw e he
  cases he
  refine decodeSlot_of_parse hw rfl ?_
  have hr : x.ranges = true := by
    simp only [Instr.wf, Bool.and_eq_true] at hw
    tauto
  have hl : ∃ n, x.b = .reg n := by
    rcases hb : x.b with n | z
    · exact ⟨n, rfl⟩
    · simp [Instr.wf, VArgs.gB, hb] at hw
  obtain ⟨hp, hty, hvd, hva, hk, hrm, hb⟩ := ranges_parts hr
  have hs := bit_lt x.s2
  obtain ⟨h1, h2, h3, h4, h5, h6, h7, h8, h9, -⟩ := bits_packV (op := 0x2D) (f := x.rm + 4 * bit x.s2 + 8)
    hp (by decide) x.ty.code_lt hvd hva hb hk (by omega)
  show parseVOp _ _ _ = _
  rw [h2]
  show some (Instr.vdrop (rdV _ _ false) _) = _
  simp only [rdV, h1, h3, h4, h5, h6, h7, h8, h9, Bool.false_and, VType.ofCode_code, Option.getD_some]
  rw [show (x.rm + 4 * bit x.s2 + 8) % 4 = x.rm by omega, show (x.rm + 4 * bit x.s2 + 8) / 4 % 2 = bit x.s2 by omega, bit_eq]
  obtain ⟨n, hn⟩ := hl
  obtain ⟨p, ty, vd, va, b, k, s2, rm⟩ := x
  subst hn
  rfl
theorem vrand (x : VArgs) : Statement (.vrand x) := by
  intro hw e he
  cases he
  refine decodeSlot_of_parse hw rfl ?_
  have hr : x.ranges = true := by
    simp only [Instr.wf, VArgs.elt, VArgs.unary, VArgs.wide, VArgs.red, VArgs.special, VArgs.mask, cvtOk, Bool.and_eq_true] at hw
    tauto
  have hl : ∃ n, x.b = .reg n := by
    rcases hb : x.b with n | y
    · exact ⟨n, rfl⟩
    · simp [Instr.wf, VArgs.elt, VArgs.unary, VArgs.wide, VArgs.red, VArgs.special, VArgs.mask, cvtOk, VArgs.noB, VArgs.noLit, VArgs.gB, hb] at hw
  obtain ⟨h1, h2⟩ := encV_fields 0x2E x false (by decide) hr (.inr hl)
  show parseVOp _ _ _ = _
  rw [h1]
  exact congrArg (fun x => some (Instr.vrand x)) h2
theorem kand (x : VArgs) : Statement (.kand x) := by
  intro hw e he
  cases he
  refine decodeSlot_of_parse hw rfl ?_
  have hr : x.ranges = true := by
    simp only [Instr.wf, VArgs.elt, VArgs.unary, VArgs.wide, VArgs.red, VArgs.special, VArgs.mask, cvtOk, Bool.and_eq_true] at hw
    tauto
  have hl : ∃ n, x.b = .reg n := by
    rcases hb : x.b with n | y
    · exact ⟨n, rfl⟩
    · simp [Instr.wf, VArgs.elt, VArgs.unary, VArgs.wide, VArgs.red, VArgs.special, VArgs.mask, cvtOk, VArgs.noB, VArgs.noLit, VArgs.gB, hb] at hw
  obtain ⟨h1, h2⟩ := encV_fields 0x30 x false (by decide) hr (.inr hl)
  show parseVOp _ _ _ = _
  rw [h1]
  exact congrArg (fun x => some (Instr.kand x)) h2
theorem kor (x : VArgs) : Statement (.kor x) := by
  intro hw e he
  cases he
  refine decodeSlot_of_parse hw rfl ?_
  have hr : x.ranges = true := by
    simp only [Instr.wf, VArgs.elt, VArgs.unary, VArgs.wide, VArgs.red, VArgs.special, VArgs.mask, cvtOk, Bool.and_eq_true] at hw
    tauto
  have hl : ∃ n, x.b = .reg n := by
    rcases hb : x.b with n | y
    · exact ⟨n, rfl⟩
    · simp [Instr.wf, VArgs.elt, VArgs.unary, VArgs.wide, VArgs.red, VArgs.special, VArgs.mask, cvtOk, VArgs.noB, VArgs.noLit, VArgs.gB, hb] at hw
  obtain ⟨h1, h2⟩ := encV_fields 0x31 x false (by decide) hr (.inr hl)
  show parseVOp _ _ _ = _
  rw [h1]
  exact congrArg (fun x => some (Instr.kor x)) h2
theorem kxor (x : VArgs) : Statement (.kxor x) := by
  intro hw e he
  cases he
  refine decodeSlot_of_parse hw rfl ?_
  have hr : x.ranges = true := by
    simp only [Instr.wf, VArgs.elt, VArgs.unary, VArgs.wide, VArgs.red, VArgs.special, VArgs.mask, cvtOk, Bool.and_eq_true] at hw
    tauto
  have hl : ∃ n, x.b = .reg n := by
    rcases hb : x.b with n | y
    · exact ⟨n, rfl⟩
    · simp [Instr.wf, VArgs.elt, VArgs.unary, VArgs.wide, VArgs.red, VArgs.special, VArgs.mask, cvtOk, VArgs.noB, VArgs.noLit, VArgs.gB, hb] at hw
  obtain ⟨h1, h2⟩ := encV_fields 0x32 x false (by decide) hr (.inr hl)
  show parseVOp _ _ _ = _
  rw [h1]
  exact congrArg (fun x => some (Instr.kxor x)) h2
theorem knot (x : VArgs) : Statement (.knot x) := by
  intro hw e he
  cases he
  refine decodeSlot_of_parse hw rfl ?_
  have hr : x.ranges = true := by
    simp only [Instr.wf, VArgs.elt, VArgs.unary, VArgs.wide, VArgs.red, VArgs.special, VArgs.mask, cvtOk, Bool.and_eq_true] at hw
    tauto
  have hl : ∃ n, x.b = .reg n := by
    rcases hb : x.b with n | y
    · exact ⟨n, rfl⟩
    · simp [Instr.wf, VArgs.elt, VArgs.unary, VArgs.wide, VArgs.red, VArgs.special, VArgs.mask, cvtOk, VArgs.noB, VArgs.noLit, VArgs.gB, hb] at hw
  obtain ⟨h1, h2⟩ := encV_fields 0x33 x false (by decide) hr (.inr hl)
  show parseVOp _ _ _ = _
  rw [h1]
  exact congrArg (fun x => some (Instr.knot x)) h2
theorem kcnt (x : VArgs) : Statement (.kcnt x) := by
  intro hw e he
  cases he
  refine decodeSlot_of_parse hw rfl ?_
  have hr : x.ranges = true := by
    simp only [Instr.wf, VArgs.elt, VArgs.unary, VArgs.wide, VArgs.red, VArgs.special, VArgs.mask, cvtOk, Bool.and_eq_true] at hw
    tauto
  have hl : ∃ n, x.b = .reg n := by
    rcases hb : x.b with n | y
    · exact ⟨n, rfl⟩
    · simp [Instr.wf, VArgs.elt, VArgs.unary, VArgs.wide, VArgs.red, VArgs.special, VArgs.mask, cvtOk, VArgs.noB, VArgs.noLit, VArgs.gB, hb] at hw
  obtain ⟨h1, h2⟩ := encV_fields 0x34 x false (by decide) hr (.inr hl)
  show parseVOp _ _ _ = _
  rw [h1]
  exact congrArg (fun x => some (Instr.kcnt x)) h2
theorem ldv (p v g : Nat) (imm : BitVec 14) : Statement (.ldv p v g imm) := by
  intro hw e he
  cases he
  refine decodeSlot_of_parse hw rfl ?_
  simp only [Instr.wf, guardOk, gOk, Bool.and_eq_true, Bool.or_eq_true, bne_iff_ne, beq_iff_eq, decide_eq_true_eq] at hw
  have hb := imm.isLt
  obtain ⟨h1, h2, h3, h4, h5, h6, h7, h8⟩ := bits_packC (op := 0x01) (p := p) (a := 0) (v := v) (g := g) (imm := imm.toNat) (f := 0)
    (by omega) (by decide) (by omega) (by omega) (by omega) (by omega)
  simp only [parseSlot, parseC, imm14, h1, h2, h3, h4, h5, h6, h7, h8, BitVec.ofNat_toNat, BitVec.setWidth_eq]
  rfl
theorem ldvZ (p v g : Nat) (imm : BitVec 14) : Statement (.ldvZ p v g imm) := by
  intro hw e he
  cases he
  refine decodeSlot_of_parse hw rfl ?_
  simp only [Instr.wf, guardOk, gOk, Bool.and_eq_true, Bool.or_eq_true, bne_iff_ne, beq_iff_eq, decide_eq_true_eq] at hw
  have hb := imm.isLt
  obtain ⟨h1, h2, h3, h4, h5, h6, h7, h8⟩ := bits_packC (op := 0x01) (p := p) (a := 0) (v := v) (g := g) (imm := imm.toNat) (f := 1)
    (by omega) (by decide) (by omega) (by omega) (by omega) (by omega)
  simp only [parseSlot, parseC, imm14, h1, h2, h3, h4, h5, h6, h7, h8, BitVec.ofNat_toNat, BitVec.setWidth_eq]
  rfl
theorem stv (p v g : Nat) (imm : BitVec 14) : Statement (.stv p v g imm) := by
  intro hw e he
  cases he
  refine decodeSlot_of_parse hw rfl ?_
  simp only [Instr.wf, guardOk, gOk, Bool.and_eq_true, Bool.or_eq_true, bne_iff_ne, beq_iff_eq, decide_eq_true_eq] at hw
  have hb := imm.isLt
  obtain ⟨h1, h2, h3, h4, h5, h6, h7, h8⟩ := bits_packC (op := 0x02) (p := p) (a := 0) (v := v) (g := g) (imm := imm.toNat) (f := 0)
    (by omega) (by decide) (by omega) (by omega) (by omega) (by omega)
  simp only [parseSlot, parseC, imm14, h1, h2, h3, h4, h5, h6, h7, h8, BitVec.ofNat_toNat, BitVec.setWidth_eq]
theorem scfg (p a g : Nat) (imm : BitVec 14) : Statement (.scfg p a g imm) := by
  intro hw e he
  cases he
  refine decodeSlot_of_parse hw rfl ?_
  simp only [Instr.wf, guardOk, gOk, Bool.and_eq_true, Bool.or_eq_true, bne_iff_ne, beq_iff_eq, decide_eq_true_eq] at hw
  have hb := imm.isLt
  obtain ⟨h1, h2, h3, h4, h5, h6, h7, h8⟩ := bits_packC (op := 0x03) (p := p) (a := a) (v := 0) (g := g) (imm := imm.toNat) (f := 0)
    (by omega) (by decide) (by omega) (by omega) (by omega) (by omega)
  simp only [parseSlot, parseC, imm14, h1, h2, h3, h4, h5, h6, h7, h8, BitVec.ofNat_toNat, BitVec.setWidth_eq]
theorem sld (p v a : Nat) : Statement (.sld p v a) := by
  intro hw e he
  cases he
  refine decodeSlot_of_parse hw rfl ?_
  simp only [Instr.wf, guardOk, gOk, Bool.and_eq_true, Bool.or_eq_true, bne_iff_ne, beq_iff_eq, decide_eq_true_eq] at hw
  obtain ⟨h1, h2, h3, h4, h5, h6, h7, h8⟩ := bits_packC (op := 0x04) (p := p) (a := a) (v := v) (g := 0) (imm := 0) (f := 0)
    (by omega) (by decide) (by omega) (by omega) (by omega) (by omega)
  simp only [parseSlot, parseC, imm14, h1, h2, h3, h4, h5, h6, h7, h8, BitVec.ofNat_toNat, BitVec.setWidth_eq]
theorem sst (p v a : Nat) : Statement (.sst p v a) := by
  intro hw e he
  cases he
  refine decodeSlot_of_parse hw rfl ?_
  simp only [Instr.wf, guardOk, gOk, Bool.and_eq_true, Bool.or_eq_true, bne_iff_ne, beq_iff_eq, decide_eq_true_eq] at hw
  obtain ⟨h1, h2, h3, h4, h5, h6, h7, h8⟩ := bits_packC (op := 0x05) (p := p) (a := a) (v := v) (g := 0) (imm := 0) (f := 0)
    (by omega) (by decide) (by omega) (by omega) (by omega) (by omega)
  simp only [parseSlot, parseC, imm14, h1, h2, h3, h4, h5, h6, h7, h8, BitVec.ofNat_toNat, BitVec.setWidth_eq]
theorem sgath (p v a : Nat) : Statement (.sgath p v a) := by
  intro hw e he
  cases he
  refine decodeSlot_of_parse hw rfl ?_
  simp only [Instr.wf, guardOk, gOk, Bool.and_eq_true, Bool.or_eq_true, bne_iff_ne, beq_iff_eq, decide_eq_true_eq] at hw
  obtain ⟨h1, h2, h3, h4, h5, h6, h7, h8⟩ := bits_packC (op := 0x06) (p := p) (a := a) (v := v) (g := 0) (imm := 0) (f := 0)
    (by omega) (by decide) (by omega) (by omega) (by omega) (by omega)
  simp only [parseSlot, parseC, imm14, h1, h2, h3, h4, h5, h6, h7, h8, BitVec.ofNat_toNat, BitVec.setWidth_eq]
theorem sscat (p v a : Nat) : Statement (.sscat p v a) := by
  intro hw e he
  cases he
  refine decodeSlot_of_parse hw rfl ?_
  simp only [Instr.wf, guardOk, gOk, Bool.and_eq_true, Bool.or_eq_true, bne_iff_ne, beq_iff_eq, decide_eq_true_eq] at hw
  obtain ⟨h1, h2, h3, h4, h5, h6, h7, h8⟩ := bits_packC (op := 0x07) (p := p) (a := a) (v := v) (g := 0) (imm := 0) (f := 0)
    (by omega) (by decide) (by omega) (by omega) (by omega) (by omega)
  simp only [parseSlot, parseC, imm14, h1, h2, h3, h4, h5, h6, h7, h8, BitVec.ofNat_toNat, BitVec.setWidth_eq]
theorem samo (p v a op : Nat) : Statement (.samo p v a op) := by
  intro hw e he
  cases he
  refine decodeSlot_of_parse hw rfl ?_
  simp only [Instr.wf, guardOk, gOk, Bool.and_eq_true, Bool.or_eq_true, bne_iff_ne, beq_iff_eq, decide_eq_true_eq] at hw
  obtain ⟨h1, h2, h3, h4, h5, h6, h7, h8⟩ := bits_packC (op := 0x08) (p := p) (a := a) (v := v) (g := 0) (imm := 0) (f := op)
    (by omega) (by decide) (by omega) (by omega) (by omega) (by omega)
  simp only [parseSlot, parseC, imm14, h1, h2, h3, h4, h5, h6, h7, h8, BitVec.ofNat_toNat, BitVec.setWidth_eq]
  rw [show op % 4 = op by omega]
theorem sadv (p a g : Nat) : Statement (.sadv p a g) := by
  intro hw e he
  cases he
  refine decodeSlot_of_parse hw rfl ?_
  simp only [Instr.wf, guardOk, gOk, Bool.and_eq_true, Bool.or_eq_true, bne_iff_ne, beq_iff_eq, decide_eq_true_eq] at hw
  obtain ⟨h1, h2, h3, h4, h5, h6, h7, h8⟩ := bits_packC (op := 0x0A) (p := p) (a := a) (v := 0) (g := g) (imm := 0) (f := 0)
    (by omega) (by decide) (by omega) (by omega) (by omega) (by omega)
  simp only [parseSlot, parseC, imm14, h1, h2, h3, h4, h5, h6, h7, h8, BitVec.ofNat_toNat, BitVec.setWidth_eq]
theorem stasht (p g : Nat) (imm : BitVec 14) (op : Nat) : Statement (.stasht p g imm op) := by
  intro hw e he
  cases he
  refine decodeSlot_of_parse hw rfl ?_
  simp only [Instr.wf, guardOk, gOk, Bool.and_eq_true, Bool.or_eq_true, bne_iff_ne, beq_iff_eq, decide_eq_true_eq] at hw
  have hb := imm.isLt
  obtain ⟨h1, h2, h3, h4, h5, h6, h7, h8⟩ := bits_packC (op := 0x09) (p := p) (a := 0) (v := 0) (g := g) (imm := imm.toNat) (f := op)
    (by omega) (by decide) (by omega) (by omega) (by omega) (by omega)
  simp only [parseSlot, parseC, imm14, h1, h2, h3, h4, h5, h6, h7, h8, BitVec.ofNat_toNat, BitVec.setWidth_eq]
  rw [show op % 4 = op by omega]
theorem mcall (p n g : Nat) : Statement (.mcall p n g) := by
  intro hw e he
  cases he
  refine decodeSlot_of_parse hw rfl ?_
  simp only [Instr.wf, guardOk, gOk, Bool.and_eq_true, Bool.or_eq_true, bne_iff_ne, beq_iff_eq, decide_eq_true_eq] at hw
  obtain ⟨h1, h2, h3, h4, h5⟩ := bits_packM (op := 0x1) (p := p) (n := n) (g := g) (by omega) (by decide) (by omega) (by omega)
  simp only [parseSlot, parseM, h1, h2, h3, h4, h5]
theorem mpar (p i g : Nat) : Statement (.mpar p i g) := by
  intro hw e he
  cases he
  refine decodeSlot_of_parse hw rfl ?_
  simp only [Instr.wf, guardOk, gOk, Bool.and_eq_true, Bool.or_eq_true, bne_iff_ne, beq_iff_eq, decide_eq_true_eq] at hw
  obtain ⟨h1, h2, h3, h4, h5⟩ := bits_packM (op := 0x2) (p := p) (n := i) (g := g) (by omega) (by decide) (by omega) (by omega)
  simp only [parseSlot, parseM, h1, h2, h3, h4, h5]
  rw [show i % 8 = i by omega]
theorem mpload (p n g : Nat) : Statement (.mpload p n g) := by
  intro hw e he
  cases he
  refine decodeSlot_of_parse hw rfl ?_
  simp only [Instr.wf, guardOk, gOk, Bool.and_eq_true, Bool.or_eq_true, bne_iff_ne, beq_iff_eq, decide_eq_true_eq] at hw
  obtain ⟨h1, h2, h3, h4, h5⟩ := bits_packM (op := 0x3) (p := p) (n := n) (g := g) (by omega) (by decide) (by omega) (by omega)
  simp only [parseSlot, parseM, h1, h2, h3, h4, h5]
theorem mdrain (p g : Nat) : Statement (.mdrain p g) := by
  intro hw e he
  cases he
  refine decodeSlot_of_parse hw rfl ?_
  simp only [Instr.wf, guardOk, gOk, Bool.and_eq_true, Bool.or_eq_true, bne_iff_ne, beq_iff_eq, decide_eq_true_eq] at hw
  obtain ⟨h1, h2, h3, h4, h5⟩ := bits_packM (op := 0x4) (p := p) (n := 0) (g := g) (by omega) (by decide) (by omega) (by omega)
  simp only [parseSlot, parseM, h1, h2, h3, h4, h5]
theorem mstat (p g : Nat) : Statement (.mstat p g) := by
  intro hw e he
  cases he
  refine decodeSlot_of_parse hw rfl ?_
  simp only [Instr.wf, guardOk, gOk, Bool.and_eq_true, Bool.or_eq_true, bne_iff_ne, beq_iff_eq, decide_eq_true_eq] at hw
  obtain ⟨h1, h2, h3, h4, h5⟩ := bits_packM (op := 0x5) (p := p) (n := 0) (g := g) (by omega) (by decide) (by omega) (by omega)
  simp only [parseSlot, parseM, h1, h2, h3, h4, h5]
theorem xexp (p d a : Nat) : Statement (.xexp p d a) := by
  intro hw e he
  cases he
  refine decodeSlot_of_parse hw rfl ?_
  simp only [Instr.wf, guardOk, gOk, Bool.and_eq_true, Bool.or_eq_true, bne_iff_ne, beq_iff_eq, decide_eq_true_eq] at hw
  obtain ⟨h1, h2, h3, h4, h5, h6, h7, h8, h9, h10, h11, h12⟩ := bits_packX (op := 0x1) (p := p) (d := d) (a := a) (q := 0)
    (by omega) (by decide) (by omega) (by omega) (by omega)
  simp only [parseSlot, parseX, h1, h2, h3, h4, h5, h6, h7, h8, h9, h10, h11, h12]
theorem xpak (p d a : Nat) : Statement (.xpak p d a) := by
  intro hw e he
  cases he
  refine decodeSlot_of_parse hw rfl ?_
  simp only [Instr.wf, guardOk, gOk, Bool.and_eq_true, Bool.or_eq_true, bne_iff_ne, beq_iff_eq, decide_eq_true_eq] at hw
  obtain ⟨h1, h2, h3, h4, h5, h6, h7, h8, h9, h10, h11, h12⟩ := bits_packX (op := 0x2) (p := p) (d := d) (a := a) (q := 0)
    (by omega) (by decide) (by omega) (by omega) (by omega)
  simp only [parseSlot, parseX, h1, h2, h3, h4, h5, h6, h7, h8, h9, h10, h11, h12]
theorem xtrn (p d a e : Nat) : Statement (.xtrn p d a e) := by
  intro hw e he
  cases he
  refine decodeSlot_of_parse hw rfl ?_
  simp only [Instr.wf, guardOk, gOk, Bool.and_eq_true, Bool.or_eq_true, bne_iff_ne, beq_iff_eq, decide_eq_true_eq] at hw
  obtain ⟨h1, h2, h3, h4, h5, h6, h7, h8, h9, h10, h11, h12⟩ := bits_packX (op := 0x3) (p := p) (d := d) (a := a) (q := e)
    (by omega) (by decide) (by omega) (by omega) (by omega)
  simp only [parseSlot, parseX, h1, h2, h3, h4, h5, h6, h7, h8, h9, h10, h11, h12]
  rw [show e % 4 = e by omega]
theorem xcvt (p d a src dst rm : Nat) : Statement (.xcvt p d a src dst rm) := by
  intro hw e he
  cases he
  refine decodeSlot_of_parse hw rfl ?_
  simp only [Instr.wf, guardOk, gOk, Bool.and_eq_true, Bool.or_eq_true, bne_iff_ne, beq_iff_eq, decide_eq_true_eq] at hw
  obtain ⟨h1, h2, h3, h4, h5, h6, h7, h8, h9, h10, h11, h12⟩ := bits_packX (op := 0x4) (p := p) (d := d) (a := a) (q := (src + 4 * dst + 16 * rm))
    (by omega) (by decide) (by omega) (by omega) (by omega)
  simp only [parseSlot, parseX, h1, h2, h3, h4, h5, h6, h7, h8, h9, h10, h11, h12]
  rw [show (src + 4 * dst + 16 * rm) % 4 = src by omega, show (src + 4 * dst + 16 * rm) / 4 % 4 = dst by omega, show (src + 4 * dst + 16 * rm) / 16 % 4 = rm by omega]
theorem xqnt (p d a w src : Nat) : Statement (.xqnt p d a w src) := by
  intro hw e he
  cases he
  refine decodeSlot_of_parse hw rfl ?_
  simp only [Instr.wf, guardOk, gOk, Bool.and_eq_true, Bool.or_eq_true, bne_iff_ne, beq_iff_eq, decide_eq_true_eq] at hw
  obtain ⟨h1, h2, h3, h4, h5, h6, h7, h8, h9, h10, h11, h12⟩ := bits_packX (op := 0x5) (p := p) (d := d) (a := a) (q := (w + 8 * src))
    (by omega) (by decide) (by omega) (by omega) (by omega)
  simp only [parseSlot, parseX, h1, h2, h3, h4, h5, h6, h7, h8, h9, h10, h11, h12]
  rw [show (w + 8 * src) % 8 = w by omega, show (w + 8 * src) / 8 % 4 = src by omega]
theorem xdqn (p d a w dst rm : Nat) : Statement (.xdqn p d a w dst rm) := by
  intro hw e he
  cases he
  refine decodeSlot_of_parse hw rfl ?_
  simp only [Instr.wf, guardOk, gOk, Bool.and_eq_true, Bool.or_eq_true, bne_iff_ne, beq_iff_eq, decide_eq_true_eq] at hw
  obtain ⟨h1, h2, h3, h4, h5, h6, h7, h8, h9, h10, h11, h12⟩ := bits_packX (op := 0x6) (p := p) (d := d) (a := a) (q := (w + 8 * dst + 32 * rm))
    (by omega) (by decide) (by omega) (by omega) (by omega)
  simp only [parseSlot, parseX, h1, h2, h3, h4, h5, h6, h7, h8, h9, h10, h11, h12]
  rw [show (w + 8 * dst + 32 * rm) % 8 = w by omega, show (w + 8 * dst + 32 * rm) / 8 % 4 = dst by omega, show (w + 8 * dst + 32 * rm) / 32 = rm by omega]
theorem xacc (p d i ty rm : Nat) : Statement (.xacc p d i ty rm) := by
  intro hw e he
  cases he
  refine decodeSlot_of_parse hw rfl ?_
  simp only [Instr.wf, guardOk, gOk, Bool.and_eq_true, Bool.or_eq_true, bne_iff_ne, beq_iff_eq, decide_eq_true_eq] at hw
  obtain ⟨h1, h2, h3, h4, h5, h6, h7, h8, h9, h10, h11, h12⟩ := bits_packX (op := 0x7) (p := p) (d := d) (a := i) (q := (ty + 16 * rm))
    (by omega) (by decide) (by omega) (by omega) (by omega)
  simp only [parseSlot, parseX, h1, h2, h3, h4, h5, h6, h7, h8, h9, h10, h11, h12]
  rw [show i % 8 = i by omega, show (ty + 16 * rm) % 16 = ty by omega, show (ty + 16 * rm) / 16 % 4 = rm by omega]
theorem mxldb (i first count plane : Nat) : Statement (.mxldb i first count plane) := by
  intro hw e he
  cases he
  refine decodeSlot_of_parse hw rfl ?_
  simp only [Instr.wf, Bool.and_eq_true, decide_eq_true_eq] at hw
  obtain ⟨h1, h2, h3, h4, h5, h6, h7, h8, h9, h10, h11, h12, h13⟩ := bits_packU (op := 0x01) (r := i * 2 ^ 24 + first * 2 ^ 18 + count * 2 ^ 12 + plane * 2 ^ 10) (by decide) (by omega)
  simp only [parseSlot, parseU, h1, h2, h3, h4, h5, h6, h7, h8, h9, h10, h11, h12, h13]
  rw [show (i * 2 ^ 24 + first * 2 ^ 18 + count * 2 ^ 12 + plane * 2 ^ 10) / 2 ^ 24 = i by omega, show (i * 2 ^ 24 + first * 2 ^ 18 + count * 2 ^ 12 + plane * 2 ^ 10) / 2 ^ 18 % 64 = first by omega, show (i * 2 ^ 24 + first * 2 ^ 18 + count * 2 ^ 12 + plane * 2 ^ 10) / 2 ^ 12 % 64 = count by omega, show (i * 2 ^ 24 + first * 2 ^ 18 + count * 2 ^ 12 + plane * 2 ^ 10) / 2 ^ 10 % 4 = plane by omega]
theorem mxstream (i w blocks : Nat) : Statement (.mxstream i w blocks) := by
  intro hw e he
  cases he
  refine decodeSlot_of_parse hw rfl ?_
  simp only [Instr.wf, Bool.and_eq_true, decide_eq_true_eq] at hw
  obtain ⟨h1, h2, h3, h4, h5, h6, h7, h8, h9, h10, h11, h12, h13⟩ := bits_packU (op := 0x02) (r := i * 2 ^ 24 + w * 2 ^ 21 + blocks * 2 ^ 8) (by decide) (by omega)
  simp only [parseSlot, parseU, h1, h2, h3, h4, h5, h6, h7, h8, h9, h10, h11, h12, h13]
  rw [if_neg (by omega), show (i * 2 ^ 24 + w * 2 ^ 21 + blocks * 2 ^ 8) / 2 ^ 24 = i by omega, show (i * 2 ^ 24 + w * 2 ^ 21 + blocks * 2 ^ 8) / 2 ^ 21 % 8 = w by omega, show (i * 2 ^ 24 + w * 2 ^ 21 + blocks * 2 ^ 8) / 2 ^ 8 % 256 = blocks by omega]
theorem mxstreamS (j w blocks : Nat) : Statement (.mxstreamS j w blocks) := by
  intro hw e he
  cases he
  refine decodeSlot_of_parse hw rfl ?_
  simp only [Instr.wf, Bool.and_eq_true, decide_eq_true_eq] at hw
  obtain ⟨h1, h2, h3, h4, h5, h6, h7, h8, h9, h10, h11, h12, h13⟩ := bits_packU (op := 0x02) (r := w * 2 ^ 21 + 2 ^ 20 + j * 2 ^ 16 + blocks * 2 ^ 8) (by decide) (by omega)
  simp only [parseSlot, parseU, h1, h2, h3, h4, h5, h6, h7, h8, h9, h10, h11, h12, h13]
  rw [if_pos (by omega), show (w * 2 ^ 21 + 2 ^ 20 + j * 2 ^ 16 + blocks * 2 ^ 8) / 2 ^ 16 % 16 = j by omega, show (w * 2 ^ 21 + 2 ^ 20 + j * 2 ^ 16 + blocks * 2 ^ 8) / 2 ^ 21 % 8 = w by omega, show (w * 2 ^ 21 + 2 ^ 20 + j * 2 ^ 16 + blocks * 2 ^ 8) / 2 ^ 8 % 256 = blocks by omega]
theorem mxacc (i first count : Nat) : Statement (.mxacc i first count) := by
  intro hw e he
  cases he
  refine decodeSlot_of_parse hw rfl ?_
  simp only [Instr.wf, Bool.and_eq_true, decide_eq_true_eq] at hw
  obtain ⟨h1, h2, h3, h4, h5, h6, h7, h8, h9, h10, h11, h12, h13⟩ := bits_packU (op := 0x03) (r := i * 2 ^ 24 + first * 2 ^ 18 + count * 2 ^ 12) (by decide) (by omega)
  simp only [parseSlot, parseU, h1, h2, h3, h4, h5, h6, h7, h8, h9, h10, h11, h12, h13]
  rw [show (i * 2 ^ 24 + first * 2 ^ 18 + count * 2 ^ 12) / 2 ^ 24 = i by omega, show (i * 2 ^ 24 + first * 2 ^ 18 + count * 2 ^ 12) / 2 ^ 18 % 64 = first by omega, show (i * 2 ^ 24 + first * 2 ^ 18 + count * 2 ^ 12) / 2 ^ 12 % 64 = count by omega]
theorem mxclr (i rows : Nat) : Statement (.mxclr i rows) := by
  intro hw e he
  cases he
  refine decodeSlot_of_parse hw rfl ?_
  simp only [Instr.wf, Bool.and_eq_true, decide_eq_true_eq] at hw
  obtain ⟨h1, h2, h3, h4, h5, h6, h7, h8, h9, h10, h11, h12, h13⟩ := bits_packU (op := 0x04) (r := i * 2 ^ 24 + rows) (by decide) (by omega)
  simp only [parseSlot, parseU, h1, h2, h3, h4, h5, h6, h7, h8, h9, h10, h11, h12, h13]
  rw [show (i * 2 ^ 24 + rows) / 2 ^ 24 = i by omega, show (i * 2 ^ 24 + rows) % 4096 = rows by omega]
theorem mxloopImm (n : Nat) : Statement (.mxloopImm n) := by
  intro hw e he
  cases he
  refine decodeSlot_of_parse hw rfl ?_
  simp only [Instr.wf, Bool.and_eq_true, decide_eq_true_eq] at hw
  obtain ⟨h1, h2, h3, h4, h5, h6, h7, h8, h9, h10, h11, h12, h13⟩ := bits_packU (op := 0x05) (r := 2 ^ 23 + n) (by decide) (by omega)
  simp only [parseSlot, parseU, h1, h2, h3, h4, h5, h6, h7, h8, h9, h10, h11, h12, h13]
  rw [if_pos (by omega), show (2 ^ 23 + n) % 65536 = n by omega]
theorem mxloopReg (i : Nat) : Statement (.mxloopReg i) := by
  intro hw e he
  cases he
  refine decodeSlot_of_parse hw rfl ?_
  simp only [Instr.wf, Bool.and_eq_true, decide_eq_true_eq] at hw
  obtain ⟨h1, h2, h3, h4, h5, h6, h7, h8, h9, h10, h11, h12, h13⟩ := bits_packU (op := 0x05) (r := i * 2 ^ 24) (by decide) (by omega)
  simp only [parseSlot, parseU, h1, h2, h3, h4, h5, h6, h7, h8, h9, h10, h11, h12, h13]
  rw [if_neg (by omega), show (i * 2 ^ 24) / 2 ^ 24 = i by omega]
theorem mxend : Statement .mxend := by
  intro hw e he
  cases he
  exact decodeSlot_of_parse hw rfl (by decide)
theorem mxwaitb : Statement .mxwaitb := by
  intro hw e he
  cases he
  exact decodeSlot_of_parse hw rfl (by decide)
theorem mxarr : Statement .mxarr := by
  intro hw e he
  cases he
  exact decodeSlot_of_parse hw rfl (by decide)
theorem mxskip : Statement .mxskip := by
  intro hw e he
  cases he
  exact decodeSlot_of_parse hw rfl (by decide)
theorem mxpar (i j : Nat) : Statement (.mxpar i j) := by
  intro hw e he
  cases he
  refine decodeSlot_of_parse hw rfl ?_
  simp only [Instr.wf, Bool.and_eq_true, decide_eq_true_eq] at hw
  obtain ⟨h1, h2, h3, h4, h5, h6, h7, h8, h9, h10, h11, h12, h13⟩ := bits_packU (op := 0x0A) (r := i * 2 ^ 24 + j * 2 ^ 21) (by decide) (by omega)
  simp only [parseSlot, parseU, h1, h2, h3, h4, h5, h6, h7, h8, h9, h10, h11, h12, h13]
  rw [show (i * 2 ^ 24 + j * 2 ^ 21) / 2 ^ 24 = i by omega, show (i * 2 ^ 24 + j * 2 ^ 21) / 2 ^ 21 % 8 = j by omega]
theorem mxaddp (i : Nat) (imm : BitVec 24) : Statement (.mxaddp i imm) := by
  intro hw e he
  cases he
  refine decodeSlot_of_parse hw rfl ?_
  simp only [Instr.wf, Bool.and_eq_true, decide_eq_true_eq] at hw
  have hb := imm.isLt
  obtain ⟨h1, h2, h3, h4, h5, h6, h7, h8, h9, h10, h11, h12, h13⟩ := bits_packU (op := 0x0B) (r := i * 2 ^ 24 + imm.toNat) (by decide) (by omega)
  simp only [parseSlot, parseU, h1, h2, h3, h4, h5, h6, h7, h8, h9, h10, h11, h12, h13]
  rw [show (i * 2 ^ 24 + imm.toNat) / 2 ^ 24 = i by omega, show (i * 2 ^ 24 + imm.toNat) % 2 ^ 24 = imm.toNat by omega]
  simp
theorem mxsync : Statement .mxsync := by
  intro hw e he
  cases he
  exact decodeSlot_of_parse hw rfl (by decide)
theorem mcallRun (c : Nat) : Statement (.mcallRun c) := fun _ _ h => nomatch h
theorem mploadInstall (c : Nat) : Statement (.mploadInstall c) := fun _ _ h => nomatch h
theorem mdrainArrive (c : Nat) : Statement (.mdrainArrive c) := fun _ _ h => nomatch h
theorem engineStallRelease (c : Nat) : Statement (.engineStallRelease c) := fun _ _ h => nomatch h
theorem engineFetchFault (c : Nat) : Statement (.engineFetchFault c) := fun _ _ h => nomatch h
theorem lateDataArrive (id : Nat) : Statement (.lateDataArrive id) := fun _ _ h => nomatch h
theorem landingBufferRelease (c x : Nat) : Statement (.landingBufferRelease c x) := fun _ _ h => nomatch h
theorem watermarkRelease (c x : Nat) : Statement (.watermarkRelease c x) := fun _ _ h => nomatch h
theorem acquireHoldRelease (c x : Nat) : Statement (.acquireHoldRelease c x) := fun _ _ h => nomatch h
theorem drainComplete (c x : Nat) : Statement (.drainComplete c x) := fun _ _ h => nomatch h
theorem feWaiterServed (c : Nat) : Statement (.feWaiterServed c) := fun _ _ h => nomatch h
theorem feWaiterRefuse (c i : Nat) : Statement (.feWaiterRefuse c i) := fun _ _ h => nomatch h
theorem feWaiterRetry (id : Nat) : Statement (.feWaiterRetry id) := fun _ _ h => nomatch h
theorem barwaitRelease (c x : Nat) : Statement (.barwaitRelease c x) := fun _ _ h => nomatch h
theorem bankacqGrant (c x : Nat) : Statement (.bankacqGrant c x) := fun _ _ h => nomatch h
theorem tlwaitRelease (c x : Nat) : Statement (.tlwaitRelease c x) := fun _ _ h => nomatch h
theorem waitevRelease (c x : Nat) : Statement (.waitevRelease c x) := fun _ _ h => nomatch h
theorem mQueueRoom (c x : Nat) : Statement (.mQueueRoom c x) := fun _ _ h => nomatch h
theorem opgoQueueRoom (c x : Nat) : Statement (.opgoQueueRoom c x) := fun _ _ h => nomatch h
theorem eventDrain (c : Nat) : Statement (.eventDrain c) := fun _ _ h => nomatch h
theorem machineCheck (c x : Nat) : Statement (.machineCheck c x) := fun _ _ h => nomatch h
theorem translationMiss (c : Nat) : Statement (.translationMiss c) := fun _ _ h => nomatch h
theorem pageWalk (b : Nat) : Statement (.pageWalk b) := fun _ _ h => nomatch h
theorem shadowService (c : Nat) : Statement (.shadowService c) := fun _ _ h => nomatch h
theorem shadowServiceTimeout (c : Nat) : Statement (.shadowServiceTimeout c) := fun _ _ h => nomatch h
theorem xlinvVa (va : Nat) : Statement (.xlinvVa va) := fun _ _ h => nomatch h
theorem xlinvAsid : Statement .xlinvAsid := fun _ _ h => nomatch h
theorem xlinvAll : Statement .xlinvAll := fun _ _ h => nomatch h
theorem xlinvComplete : Statement .xlinvComplete := fun _ _ h => nomatch h
theorem stashFillComplete (i : Nat) : Statement (.stashFillComplete i) := fun _ _ h => nomatch h
theorem directoryRequest (b : Nat) : Statement (.directoryRequest b) := fun _ _ h => nomatch h
theorem snoop (b d line : Nat) (inval : Bool) : Statement (.snoop b d line inval) := fun _ _ h => nomatch h
theorem writeBack (i : Nat) : Statement (.writeBack i) := fun _ _ h => nomatch h
theorem releaseNotice (b d region : Nat) : Statement (.releaseNotice b d region) := fun _ _ h => nomatch h
theorem remoteAccess (id : Nat) : Statement (.remoteAccess id) := fun _ _ h => nomatch h
theorem detAddPerform (b : Nat) : Statement (.detAddPerform b) := fun _ _ h => nomatch h
theorem llcCounterClr (b : Nat) : Statement (.llcCounterClr b) := fun _ _ h => nomatch h
theorem llcRetire (b : Nat) : Statement (.llcRetire b) := fun _ _ h => nomatch h
theorem copyStart (c x n : Nat) (word : BitVec 64) : Statement (.copyStart c x n word) := fun _ _ h => nomatch h
theorem copyArm (c x n : Nat) : Statement (.copyArm c x n) := fun _ _ h => nomatch h
theorem courseEncoderGrant (b : Nat) : Statement (.courseEncoderGrant b) := fun _ _ h => nomatch h
theorem copyLand (c x n : Nat) : Statement (.copyLand c x n) := fun _ _ h => nomatch h
theorem copyFault (c x n : Nat) : Statement (.copyFault c x n) := fun _ _ h => nomatch h
theorem launchRelease (l : Nat) : Statement (.launchRelease l) := fun _ _ h => nomatch h
theorem unitEnd (u : Nat) : Statement (.unitEnd u) := fun _ _ h => nomatch h
theorem tileBatchClaim (b l : Nat) : Statement (.tileBatchClaim b l) := fun _ _ h => nomatch h
theorem launchStarvation (l : Nat) : Statement (.launchStarvation l) := fun _ _ h => nomatch h
theorem cancel (record : Nat) : Statement (.cancel record) := fun _ _ h => nomatch h
theorem swapOut (u : Nat) : Statement (.swapOut u) := fun _ _ h => nomatch h
theorem swapRestore (u : Nat) : Statement (.swapRestore u) := fun _ _ h => nomatch h
theorem haltRequest (c x : Nat) : Statement (.haltRequest c x) := fun _ _ h => nomatch h
theorem haltRelease (c x : Nat) : Statement (.haltRelease c x) := fun _ _ h => nomatch h
theorem debugStep (c x : Nat) : Statement (.debugStep c x) := fun _ _ h => nomatch h
theorem breakpoint (c x : Nat) : Statement (.breakpoint c x) := fun _ _ h => nomatch h
theorem queueArm (q : Nat) : Statement (.queueArm q) := fun _ _ h => nomatch h
theorem queueDeregister (q : Nat) : Statement (.queueDeregister q) := fun _ _ h => nomatch h
theorem qdb (q w : Nat) : Statement (.qdb q w) := fun _ _ h => nomatch h
theorem qpubDoorbell (i : Nat) : Statement (.qpubDoorbell i) := fun _ _ h => nomatch h
theorem packetNop (q : Nat) : Statement (.packetNop q) := fun _ _ h => nomatch h
theorem packetLaunch (q : Nat) : Statement (.packetLaunch q) := fun _ _ h => nomatch h
theorem packetCoded (q : Nat) : Statement (.packetCoded q) := fun _ _ h => nomatch h
theorem packetGraph (q : Nat) : Statement (.packetGraph q) := fun _ _ h => nomatch h
theorem packetBarrierAnd (q : Nat) : Statement (.packetBarrierAnd q) := fun _ _ h => nomatch h
theorem packetSignal (q : Nat) : Statement (.packetSignal q) := fun _ _ h => nomatch h
theorem packetPhaseEnd (q : Nat) : Statement (.packetPhaseEnd q) := fun _ _ h => nomatch h
theorem barrierAndEvaluate (q : Nat) : Statement (.barrierAndEvaluate q) := fun _ _ h => nomatch h
theorem graphAdmit (g : Nat) : Statement (.graphAdmit g) := fun _ _ h => nomatch h
theorem nodeFire (g n : Nat) : Statement (.nodeFire g n) := fun _ _ h => nomatch h
theorem slotTimeslice (q : Nat) : Statement (.slotTimeslice q) := fun _ _ h => nomatch h
theorem workerTimeout (q : Nat) : Statement (.workerTimeout q) := fun _ _ h => nomatch h
theorem lockstepMismatch : Statement .lockstepMismatch := fun _ _ h => nomatch h
theorem energyCharge (q uj : Nat) : Statement (.energyCharge q uj) := fun _ _ h => nomatch h
theorem accountingPeriod : Statement .accountingPeriod := fun _ _ h => nomatch h
theorem operatorOpen : Statement .operatorOpen := fun _ _ h => nomatch h
theorem taskReturn (u : Nat) : Statement (.taskReturn u) := fun _ _ h => nomatch h
theorem graceExpiry (n : Nat) : Statement (.graceExpiry n) := fun _ _ h => nomatch h
theorem tmaxExpiry (n : Nat) : Statement (.tmaxExpiry n) := fun _ _ h => nomatch h
theorem repointingDecode (n : Nat) : Statement (.repointingDecode n) := fun _ _ h => nomatch h
theorem redgo (pa : Nat) : Statement (.redgo pa) := fun _ _ h => nomatch h
theorem redgoAdmit : Statement .redgoAdmit := fun _ _ h => nomatch h
theorem reductionStreamArrive (p tag : Nat) (data : List Byte) : Statement (.reductionStreamArrive p tag data) := fun _ _ h => nomatch h
theorem reductionComplete : Statement .reductionComplete := fun _ _ h => nomatch h
theorem reductionStreamTimeout (p tag : Nat) : Statement (.reductionStreamTimeout p tag) := fun _ _ h => nomatch h
theorem linkReplay (p : Nat) (ok : Bool) : Statement (.linkReplay p ok) := fun _ _ h => nomatch h
theorem portTrained (p peer : Nat) : Statement (.portTrained p peer) := fun _ _ h => nomatch h
theorem linkTimeout (p : Nat) : Statement (.linkTimeout p) := fun _ _ h => nomatch h
theorem portWake (d p : Nat) : Statement (.portWake d p) := fun _ _ h => nomatch h
theorem portWakeTimeout (d p : Nat) : Statement (.portWakeTimeout d p) := fun _ _ h => nomatch h
theorem heartbeat (b : Nat) : Statement (.heartbeat b) := fun _ _ h => nomatch h
theorem dieLost (b : Nat) : Statement (.dieLost b) := fun _ _ h => nomatch h
theorem windowMarker (d h : Nat) : Statement (.windowMarker d h) := fun _ _ h => nomatch h
theorem windowClose (h d : Nat) : Statement (.windowClose h d) := fun _ _ h => nomatch h
theorem windowAnnounce (h d : Nat) : Statement (.windowAnnounce h d) := fun _ _ h => nomatch h
theorem stretchClr (d : Nat) : Statement (.stretchClr d) := fun _ _ h => nomatch h
theorem tadj (off : BitVec 64) : Statement (.tadj off) := fun _ _ h => nomatch h
theorem ptpSync (off : BitVec 64) (locked : Bool) : Statement (.ptpSync off locked) := fun _ _ h => nomatch h
theorem powerSample (watts : Nat) : Statement (.powerSample watts) := fun _ _ h => nomatch h
theorem thermalTrip : Statement .thermalTrip := fun _ _ h => nomatch h
theorem thermalWarning (b deg : Nat) : Statement (.thermalWarning b deg) := fun _ _ h => nomatch h
theorem droopAlarm (c : Nat) : Statement (.droopAlarm c) := fun _ _ h => nomatch h
theorem droopStretchEnd (c : Nat) : Statement (.droopStretchEnd c) := fun _ _ h => nomatch h
theorem droopWindowEnd (c : Nat) : Statement (.droopWindowEnd c) := fun _ _ h => nomatch h
theorem hostRead (pa n : Nat) : Statement (.hostRead pa n) := fun _ _ h => nomatch h
theorem hostWrite (pa : Nat) (data : List Byte) : Statement (.hostWrite pa data) := fun _ _ h => nomatch h
theorem bootStart : Statement .bootStart := fun _ _ h => nomatch h
theorem bootVerifyDone : Statement .bootVerifyDone := fun _ _ h => nomatch h
theorem attgo : Statement .attgo := fun _ _ h => nomatch h
theorem attestationDone : Statement .attestationDone := fun _ _ h => nomatch h
theorem coldReset : Statement .coldReset := fun _ _ h => nomatch h
theorem registerWrite (off : Nat) (value : BitVec 64) : Statement (.registerWrite off value) := fun _ _ h => nomatch h
theorem mortarPortLowPower (d p : Nat) : Statement (.mortarPortLowPower d p) := fun _ _ h => nomatch h

end Laws.Coding

end Sys2Proof
end

