-- ==== Sys2Proof/Tests/Slice0.lean ====
section
/-! SUPPORT. The package's own tests: ill-formed instructions refused, words of the spec decoded, the spec's worked examples
executed, and for every statement with hypotheses a witness that meets them. -/

set_option linter.all false
set_option Elab.async false

namespace Sys2Proof.Tests

open Sys2Proof.Machine

-- ## Ill-formed instructions are refused (R69, R75, R83, R87, R90 to R101)

/-- A guard of 0x10 (R83), a guard past 5 bits, and register numbers past their files. -/
theorem test_wf_scalar_ranges : ∀ i ∈ [Instr.nop 16, .add ⟨16, 1, 1, .reg 1, false⟩, .add ⟨32, 1, 1, .reg 1, false⟩,
    .add ⟨0, 64, 1, .reg 1, false⟩, .sub ⟨0, 1, 64, .reg 1, false⟩, .mul ⟨0, 1, 1, .reg 64, false⟩, .clz 16 1 1 false,
    .bfx 0 64 1 (.reg 1), .bfi 0 1 1 (.reg 64), .sext 0 1 1 64, .zext 0 1 1 64, .cmp 0 16 0 1 (.reg 1) false,
    .cmp 0 1 4 1 (.reg 1) false, .cmpi 0 1 4 1 0, .pand 0 16 0 false 0 false, .por 0 1 16 false 0 false,
    .pxor 0 1 0 false 16 false, .addi 0 64 0 0, .andi 0 0 64 0, .shli 0 1 1 64 false, .movi 0 64 0, .movhi 0 1 64 0,
    .lit 0 64 0, .pnot 0 1 16, .pget 0 64, .pset 0 16 true], i.wf = false := by decide

theorem test_wf_control_and_memory : ∀ i ∈ [Instr.br 16 0, .call 16 0, .ret 16, .loop 16 0, .loopR 16 0, .rotb 16, .halt 16,
    .xret 16, .jmpi 0 64, .calli 0 64, .evack 0 64, .bararr 0 64, .opgo 0 64, .trap 0 256, .waitev 0 64 0,
    .ld ⟨0, 1, 1, 0, 4⟩, .st ⟨0, 64, 1, 0, 3⟩, .ldf 0 64 1 0, .feset 0 64 0, .lda ⟨0, 1, 1, 0, 4, 3⟩, .stl ⟨0, 1, 1, 0, 0, 4⟩,
    .amoadd ⟨0, 1, 1, 1, 4⟩, .amofadd ⟨0, 1, 1, 64, 0⟩, .amoaddC 0 1 64], i.wf = false := by decide

/-- System registers that R75 does not list, a DRAIN scope past window, and NXTILE outside g48 to g63 (R101). -/
theorem test_wf_system : ∀ i ∈ [Instr.mfs 0 1 0, .mfs 0 1 8, .mts 0 1 0x45, .mfs 0 1 0x65, .mts 0 1 0x150, .mfs 0 1 0x181,
    .mfs 0 1 0x204, .drain 0 5, .tstamp 0 64, .nxtile 0 47, .nxtile 0 64, .bankrel 16 0, .tlwait 0 16 1, .tladv 0 16 1,
    .tlread 0 1 16, .barinit 0 1 (.reg 64), .qpub 0 64 (.reg 1)], i.wf = false := by decide

/-- Types outside an opcode's set, fields it does not use, a literal where vb may hold none, and pairs and quads off their
alignment (R69, R91 to R95). -/
theorem test_wf_vector : ∀ i ∈ [Instr.vadd ⟨0, .res13, 1, 1, .reg 1, 0, false, 0⟩, .vadd ⟨0, .i8, 1, 1, .reg 1, 0, false, 1⟩,
    .vadd ⟨0, .f32, 1, 1, .reg 1, 0, true, 0⟩, .vadd ⟨0, .i8, 256, 1, .reg 1, 0, false, 0⟩,
    .vadd ⟨0, .i8, 1, 1, .reg 1, 16, false, 0⟩, .vmul ⟨0, .a64, 1, 1, .reg 1, 0, false, 0⟩,
    .vmulh ⟨0, .f32, 1, 1, .reg 1, 0, false, 0⟩, .vfma ⟨0, .i8, 1, 1, .reg 1, 0, false, 0⟩,
    .vmin ⟨0, .i8, 1, 1, .reg 1, 0, true, 0⟩, .vabs ⟨0, .n8, 1, 1, .reg 0, 0, false, 0⟩,
    .vneg ⟨0, .i8, 1, 1, .reg 1, 0, false, 0⟩, .vand ⟨0, .f16, 1, 1, .reg 1, 0, false, 0⟩,
    .vcmp ⟨0, .i8, 16, 1, .reg 1, 0, false, 0⟩, .vcmp ⟨0, .i8, 1, 1, .reg 1, 0, true, 2⟩,
    .vcmp ⟨0, .f32, 1, 1, .reg 1, 0, true, 3⟩, .vsel ⟨0, .i8, 1, 1, .reg 1, 0, true, 0⟩,
    .vmov ⟨0, .i8, 1, 1, .lit 0, 0, false, 0⟩, .vsplat ⟨0, .i8, 1, 1, .reg 1, 0, false, 0⟩,
    .vbcast ⟨0, .i8, 1, 1, .reg 64, 0, false, 0⟩, .vperm ⟨0, .i8, 1, 1, .lit 0, 0, false, 0⟩,
    .vslide ⟨0, .i8, 1, 1, .reg 1, 0, false, 2⟩, .vext ⟨0, .i8, 64, 1, .reg 1, 0, false, 0⟩,
    .vins ⟨0, .i8, 1, 64, .reg 1, 0, false, 0⟩, .vcvt ⟨0, .i8, 1, 1, .reg 0, 0, false, 0⟩,
    .vcvt ⟨0, .i8, 1, 1, .reg 0x8A, 0, false, 0⟩, .vwadd ⟨0, .i64, 2, 1, .reg 1, 0, false, 0⟩,
    .vwmul ⟨0, .i8, 1, 1, .reg 1, 0, false, 0⟩, .vwfma ⟨0, .i8, 2, 1, .reg 1, 0, true, 0⟩,
    .vnarr ⟨0, .i8, 2, 1, .reg 0, 0, false, 0⟩, .vdot ⟨0, .i32, 1, 1, .reg 1, 0, false, 0⟩,
    .vredadd ⟨0, .i8, 1, 1, .reg 1, 0, false, 0⟩, .vscan ⟨0, .a64, 1, 1, .reg 0, 0, false, 0⟩,
    .vexp2 ⟨0, .i8, 1, 1, .reg 0, 0, false, 0⟩, .vclz ⟨0, .f32, 1, 1, .reg 0, 0, false, 0⟩,
    .viota ⟨0, .i8, 1, 1, .reg 0, 0, false, 0⟩, .vcomp ⟨0, .i8, 1, 1, .reg 0, 0, false, 1⟩,
    .vdrop ⟨0, .i8, 16, 1, .reg 1, 0, false, 0⟩ 0, .vrand ⟨0, .i8, 1, 1, .reg 1, 0, false, 0⟩,
    .kand ⟨0, .i16, 1, 1, .reg 1, 0, false, 0⟩, .knot ⟨0, .i8, 1, 1, .reg 1, 0, false, 0⟩,
    .kcnt ⟨0, .i8, 64, 1, .reg 0, 0, false, 0⟩], i.wf = false := by decide

theorem test_wf_c_m_x : ∀ i ∈ [Instr.ldv 0 256 1 0, .ldvZ 16 1 1 0, .stv 0 1 64 0, .scfg 0 16 1 0, .sld 0 256 1, .sst 0 1 16,
    .sgath 16 1 1, .sscat 0 1 16, .samo 0 1 1 4, .sadv 0 16 1, .stasht 0 1 0 3, .mcall 0 256 1, .mpar 0 8 1, .mpload 0 63 1,
    .mdrain 0 64, .mstat 16 1, .xexp 0 256 1, .xpak 16 1 1, .xtrn 0 1 1 4, .xcvt 0 1 1 1 1 0, .xcvt 0 1 1 3 0 0, .xqnt 0 1 1 7 0,
    .xdqn 0 1 1 0 3 0, .xacc 0 1 8 0 0, .xacc 0 1 1 3 0, .xacc 0 1 1 0 1], i.wf = false := by decide

theorem test_wf_micro_ops_and_rows : ∀ i ∈ [Instr.mxldb 8 0 0 0, .mxldb 0 63 1 0, .mxldb 0 0 0 3, .mxstream 0 7 0,
    .mxstreamS 16 0 0, .mxacc 0 63 1, .mxclr 0 2560, .mxloopImm 65536, .mxloopReg 8, .mxpar 0 8, .mxaddp 8 0, .mcallRun 256,
    .drainComplete 0 3, .copyStart 0 0 16 0, .copyArm 256 0 0, .pageWalk 8, .snoop 8 0 0 true, .tileBatchClaim 8 0,
    .xlinvVa (2 ^ 56), .queueArm 4096, .qdb 0 (2 ^ 32), .energyCharge 4096 0, .graceExpiry 64, .reductionStreamArrive 12 0 [],
    .linkReplay 12 true, .portTrained 0 256, .portWake 9 0, .windowMarker 9 0, .windowClose 0 9, .stretchClr 9,
    .thermalWarning 8 0, .redgo (2 ^ 56), .cancel (2 ^ 56), .hostRead (2 ^ 48) 8, .registerWrite (2 ^ 32) 0,
    .feWaiterRefuse 256 0], i.wf = false := by decide

-- ## Words of the spec (the worked encodings of the instructions' entries, and sums of the fields of R84 to R99)

/-- The bundles that 04, 12, 13, 16 and 17 write out for S slots. -/
theorem test_decode_s_bundles :
    decodeOne false [0x01, 0x00, 0x80, 0x30, 0x04, 0x02] = some (.mulh ⟨0, 3, 1, .reg 2, false⟩) ∧
    decodeOne false [0x81, 0x00, 0x80, 0x53, 0x0F, 0x80, 0xE8, 0x03, 0x00, 0x00] = some (.cmp 0 5 3 3 (.lit 1000) false) ∧
    decodeOne false [0x01, 0x00, 0x40, 0x2C, 0x00, 0x00] = some (.drain 0 2) ∧
    decodeOne false [0x01, 0x00, 0x00, 0x4C, 0x38, 0x04] = some (.mfs 0 4 0x10E) ∧
    decodeOne false [0x01, 0x00, 0x00, 0x19, 0x10, 0xC2] = some (.stl ⟨0, 1, 4, 0, 2, 3⟩) ∧
    decodeOne false [0x01, 0x00, 0x00, 0x07, 0x00, 0x05] = some (.trap 0 5) ∧
    decodeOne false [0x01, 0x00, 0x40, 0x47, 0x14, 0x00] = some (.waitev 0 4 5) ∧
    decodeOne false [0x01, 0x00, 0x20, 0x07, 0x00, 0x00] = some (.xret 0) ∧
    decodeOne false [0x01, 0x00, 0xC0, 0x0D, 0x1C, 0x00] = some (.opgo 0 7) ∧
    decodeOne false [0x01, 0x00, 0xE0, 0x0D, 0x28, 0x0B] = some (.qpub 0 10 (.reg 11)) ∧
    decodeOne false [0x01, 0x00, 0x20, 0xE8, 0x20, 0xC8] = some (.st ⟨0, 14, 8, 8, 3⟩) ∧
    decodeOne false [0x00, 0x07] = some (.nop 7) := by decide +kernel

/-- The bundles that 17 to 20 write out for V, M, C and X slots. -/
theorem test_decode_vmcx_bundles :
    decodeOne false [0x82, 0x00, 0x20, 0x40, 0x03, 0x04, 0x00, 0xC2, 0xC8, 0x00, 0x00, 0x00] =
      some (.vadd ⟨0, .n8, 3, 4, .lit 200, 2, true, 0⟩) ∧
    decodeOne false [0x02, 0x00, 0x40, 0x03, 0x04, 0x05, 0x4A, 0x00] = some (.vcvt ⟨0, .i8, 4, 5, .reg 0x4A, 0, false, 0⟩) ∧
    decodeOne false [0x02, 0x00, 0xE0, 0x03, 0x1E, 0x1F, 0x20, 0x00] = some (.vdot ⟨0, .i8, 30, 31, .reg 32, 0, false, 0⟩) ∧
    decodeOne false [0x02, 0x00, 0xA0, 0xA0, 0x08, 0x09, 0x0A, 0x03] = some (.vfma ⟨0, .f32, 8, 9, .reg 10, 3, false, 0⟩) ∧
    decodeOne false [0x02, 0x00, 0x80, 0x03, 0x0A, 0x14, 0x15, 0x00] = some (.vwmul ⟨0, .i8, 10, 20, .reg 21, 0, false, 0⟩) ∧
    decodeOne false [0x08, 0x00, 0x20, 0x80, 0x0A, 0x00] = some (.mcall 0 64 5) ∧
    decodeOne false [0x10, 0x00, 0x80, 0x10, 0x14, 0x00, 0x00, 0x00] = some (.sld 0 20 1) ∧
    decodeOne false [0x10, 0x00, 0x20, 0x00, 0x0B, 0x06, 0x02, 0x00] = some (.ldv 0 11 6 8) ∧
    decodeOne false [0x40, 0x00, 0xE0, 0x50, 0x04, 0x14] = some (.xacc 0 40 2 10 0) := by decide +kernel

/-- S slots as the sums of their fields (R84, R87 to R90). -/
theorem test_decode_s_fields : ∀ e ∈ [
    (0x01 * 2 ^ 5 + 1 * 2 ^ 12 + 2 * 2 ^ 18 + 2 ^ 31, Instr.add ⟨0, 1, 2, .lit 9, false⟩),
    (0x17 * 2 ^ 5 + 1 * 2 ^ 12 + 2 * 2 ^ 18 + 2 ^ 30, .popc 0 1 2 true),
    (0x18 * 2 ^ 5 + 1 * 2 ^ 12 + 2 * 2 ^ 18 + 2 ^ 31, .bfx 0 1 2 (.lit 9)),
    (0x1A * 2 ^ 5 + 1 * 2 ^ 12 + 2 * 2 ^ 18 + 31 * 2 ^ 24, .sext 0 1 2 31),
    (0x1D * 2 ^ 5 + 3 * 2 ^ 12 + (4 + 32) * 2 ^ 18 + 5 * 2 ^ 24, .pand 0 3 4 true 5 false),
    (0x24 * 2 ^ 5 + 1 * 2 ^ 12 + 2 * 2 ^ 18 + (31 + 64) * 2 ^ 24, .shli 0 1 2 31 true),
    (0x27 * 2 ^ 5 + (3 + 16 * 2) * 2 ^ 12 + 2 * 2 ^ 18 + 0xFF * 2 ^ 24, .cmpi 0 3 2 2 (-1)),
    (0x29 * 2 ^ 5 + 1 * 2 ^ 12 + 2 * 2 ^ 18 + 2 ^ 31, .movhi 0 1 2 9),
    (0x2A * 2 ^ 5 + 1 * 2 ^ 12 + 2 ^ 31, .lit 0 1 9),
    (0x30 * 2 ^ 5 + 0xFFFFF * 2 ^ 12, .br 0 (-1)), (0x33 * 2 ^ 5 + 2 * 2 ^ 18, .calli 0 2),
    (0x35 * 2 ^ 5 + 0x7FFFD * 2 ^ 13, .loop 0 (-3)), (0x37 * 2 ^ 5 + 0x11, .halt 0x11),
    (0x40 * 2 ^ 5 + 1 * 2 ^ 12 + 2 * 2 ^ 18 + 0x3F * 2 ^ 24 + 3 * 2 ^ 30, .ld ⟨0, 1, 2, -1, 3⟩),
    (0x42 * 2 ^ 5 + 1 * 2 ^ 12 + 2 * 2 ^ 18 + 1 * 2 ^ 24 + 3 * 2 ^ 30, .ldf 0 1 2 1),
    (0x45 * 2 ^ 5 + 2 * 2 ^ 18 + 1 * 2 ^ 24 + 3 * 2 ^ 30, .feset 0 2 1),
    (0x47 * 2 ^ 5 + 1 * 2 ^ 12 + 2 * 2 ^ 18 + 3 * 2 ^ 24 + 0xF * 2 ^ 26 + 2 * 2 ^ 30, .lda ⟨0, 1, 2, -1, 3, 2⟩),
    (0x57 * 2 ^ 5 + 1 * 2 ^ 12 + 2 * 2 ^ 18 + 5 * 2 ^ 24 + 3 * 2 ^ 30, .amocas ⟨0, 1, 2, 5, 3⟩),
    (0x5F * 2 ^ 5 + 2 * 2 ^ 18 + 5 * 2 ^ 24, .amofaddC 0 2 5),
    (0x66 * 2 ^ 5 + 0x801 * 2 ^ 18, .bankrel 0 0x801), (0x68 * 2 ^ 5 + 15 * 2 ^ 12 + 2 * 2 ^ 18, .tlwait 0 15 2),
    (0x6B * 2 ^ 5 + 2 * 2 ^ 18 + 2 ^ 31, .barinit 0 2 (.lit 9))],
    decodeSlot .s e.1 9 = some e.2 := by decide +kernel

/-- V slots as the sums of their fields (R91 to R95). -/
theorem test_decode_v_fields_1 : ∀ e ∈ [
    (0x11 * 2 ^ 5 + 10 * 2 ^ 12 + 1 * 2 ^ 16 + 2 * 2 ^ 24 + 3 * 2 ^ 32 + 4 * 2 ^ 40 + 6 * 2 ^ 44,
    Instr.vcmp ⟨0, .f32, 1, 2, .reg 3, 4, true, 2⟩),
    (0x14 * 2 ^ 5 + 7 * 2 ^ 12 + 1 * 2 ^ 16 + 8 * 2 ^ 44, .vsplat ⟨0, .n64, 1, 0, .lit 9, 0, false, 0⟩),
    (0x17 * 2 ^ 5 + 1 * 2 ^ 12 + 1 * 2 ^ 16 + 2 * 2 ^ 24 + 3 * 2 ^ 32 + 1 * 2 ^ 44, .vslide ⟨0, .i16, 1, 2, .reg 3, 0, false, 1⟩)],
    decodeSlot .v e.1 9 = some e.2 := by decide +kernel

/-- V slots as the sums of their fields (R91 to R95). -/
theorem test_decode_v_fields_2 : ∀ e ∈ [
    (0x1B * 2 ^ 5 + 4 * 2 ^ 16 + 2 * 2 ^ 24 + 3 * 2 ^ 32 + 4 * 2 ^ 44, .vwadd ⟨0, .i8, 4, 2, .reg 3, 0, true, 0⟩),
    (0x22 * 2 ^ 5 + 5 * 2 ^ 12 + 1 * 2 ^ 16 + 2 * 2 ^ 24 + 15 * 2 ^ 40, .vredmin ⟨0, .n16, 1, 2, .reg 0, 15, false, 0⟩),
    (0x24 * 2 ^ 5 + 9 * 2 ^ 12 + 1 * 2 ^ 16 + 2 * 2 ^ 24, .vexp2 ⟨0, .bf16, 1, 2, .reg 0, 0, false, 0⟩),
    (0x2D * 2 ^ 5 + 6 * 2 ^ 12 + 1 * 2 ^ 16 + 2 * 2 ^ 24 + 3 * 2 ^ 32 + 8 * 2 ^ 44, .vdrop ⟨0, .n32, 1, 2, .reg 3, 0, false, 0⟩ 9),
    (0x30 * 2 ^ 5 + 1 * 2 ^ 16 + 2 * 2 ^ 24 + 3 * 2 ^ 32, .kand ⟨0, .i8, 1, 2, .reg 3, 0, false, 0⟩)],
    decodeSlot .v e.1 9 = some e.2 := by decide +kernel

/-- M slots as the sums of their fields (R96 to R98). -/
theorem test_decode_m_fields : ∀ e ∈ [(2 * 2 ^ 5 + 2 * 2 ^ 9 + 2 * 2 ^ 17, Instr.mpar 0 2 2), (3 * 2 ^ 5 + 64 * 2 ^ 9 + 1 * 2 ^ 17, .mpload 0 64 1),
        (4 * 2 ^ 5, .mdrain 0 0), (5 * 2 ^ 5 + 3 * 2 ^ 17, .mstat 0 3)], decodeSlot .m e.1 0 = some e.2 := by decide +kernel

/-- C slots as the sums of their fields (R96 to R98). -/
theorem test_decode_c_fields : ∀ e ∈ [(0x01 * 2 ^ 5 + 1 * 2 ^ 16 + 2 * 2 ^ 24 + 1 * 2 ^ 30 + 1 * 2 ^ 44, Instr.ldvZ 0 1 2 1),
        (0x02 * 2 ^ 5 + 1 * 2 ^ 16 + 2 * 2 ^ 24 + 0x3FFF * 2 ^ 30, .stv 0 1 2 (-1)),
        (0x03 * 2 ^ 5 + 5 * 2 ^ 12 + 2 * 2 ^ 24, .scfg 0 5 2 0), (0x06 * 2 ^ 5 + 5 * 2 ^ 12 + 1 * 2 ^ 16, .sgath 0 1 5),
        (0x08 * 2 ^ 5 + 5 * 2 ^ 12 + 1 * 2 ^ 16 + 3 * 2 ^ 44, .samo 0 1 5 3), (0x09 * 2 ^ 5 + 2 * 2 ^ 24 + 2 * 2 ^ 44, .stasht 0 2 0 2),
        (0x0A * 2 ^ 5 + 5 * 2 ^ 12 + 2 * 2 ^ 24, .sadv 0 5 2)], decodeSlot .c e.1 0 = some e.2 := by decide +kernel

/-- X slots as the sums of their fields (R96 to R98). -/
theorem test_decode_x_fields : ∀ e ∈ [(1 * 2 ^ 5 + 1 * 2 ^ 9 + 2 * 2 ^ 17, Instr.xexp 0 1 2), (3 * 2 ^ 5 + 1 * 2 ^ 9 + 2 * 2 ^ 17 + 3 * 2 ^ 25, .xtrn 0 1 2 3),
        (4 * 2 ^ 5 + 1 * 2 ^ 9 + 2 * 2 ^ 17 + (0 + 1 * 4 + 1 * 16) * 2 ^ 25, .xcvt 0 1 2 0 1 1),
        (5 * 2 ^ 5 + 1 * 2 ^ 9 + 2 * 2 ^ 17 + (6 + 2 * 8) * 2 ^ 25, .xqnt 0 1 2 6 2),
        (6 * 2 ^ 5 + 1 * 2 ^ 9 + 2 * 2 ^ 17 + (0 + 2 * 8 + 3 * 32) * 2 ^ 25, .xdqn 0 1 2 0 2 3)], decodeSlot .x e.1 0 = some e.2 := by decide +kernel

/-- Micro-op words as the sums of their fields (R99). -/
theorem test_decode_micro_ops : ∀ e ∈ [
    (1 * 2 ^ 27 + 1 * 2 ^ 24 + 2 * 2 ^ 18 + 2 * 2 ^ 12 + 1 * 2 ^ 10, Instr.mxldb 1 2 2 1),
    (2 * 2 ^ 27 + 2 * 2 ^ 24 + 6 * 2 ^ 21 + 255 * 2 ^ 8, .mxstream 2 6 255), (2 * 2 ^ 27 + 6 * 2 ^ 21 + 2 ^ 20 + 5 * 2 ^ 16, .mxstreamS 5 6 0),
    (3 * 2 ^ 27 + 63 * 2 ^ 18, .mxacc 0 63 0), (4 * 2 ^ 27 + 7 * 2 ^ 24 + 2559, .mxclr 7 2559), (5 * 2 ^ 27 + 2 ^ 23 + 3, .mxloopImm 3),
    (5 * 2 ^ 27 + 4 * 2 ^ 24, .mxloopReg 4), (6 * 2 ^ 27, .mxend), (7 * 2 ^ 27, .mxwaitb), (8 * 2 ^ 27, .mxarr), (9 * 2 ^ 27, .mxskip),
    (10 * 2 ^ 27 + 1 * 2 ^ 24 + 6 * 2 ^ 21, .mxpar 1 6), (11 * 2 ^ 27 + 3 * 2 ^ 24 + 0xFFFFFF, .mxaddp 3 (-1)), (12 * 2 ^ 27, .mxsync)],
    decodeMicro e.1 = some e.2 := by decide +kernel

/-- Encodings that break a rule are refused: an unused field, MPLOAD of a routine below 64, a reserved type (R101). -/
theorem test_decode_refuses : decodeSlot .s (0x34 * 2 ^ 5 + 2 ^ 12) 0 = none ∧ decodeSlot .m (3 * 2 ^ 5 + 63 * 2 ^ 9) 0 = none ∧
    decodeSlot .v (0x01 * 2 ^ 5 + 13 * 2 ^ 12) 0 = none ∧ decodeMicro (6 * 2 ^ 27 + 1) = none := by decide +kernel

-- ## The spec's worked examples, one slot each (16 to 19, 05)

/-- Context A of core 0, changed, with a bundle of two slots in issue at the first. -/
def at2 (f : Context → Context) : State :=
  let s := State.reset.upd f
  { s with iss := { s.iss with left := 2 } }

/-- The results that a slot adds: file, register, value and the BT at which each is readable. -/
def adds (i : Instr) (s : State) : List (RFile × Nat × Nat × Nat) :=
  match exec i s with
  | .next t => t.cur.inflight.map (fun e => (e.file, e.reg, (e.val &&& e.mask).toNat, e.due))
  | _ => []

def withG (l : List (Nat × Word)) (t : Context) : Context := { t with g := l }

def withV (l : List (Nat × VReg)) (t : Context) : Context := { t with v := l }

/-- 16, the example after R334: DIV.W at BT 50 under p2. -/
theorem test_div_w : adds (.div ⟨2, 7, 8, .reg 9, true⟩)
    (at2 fun t => { withG [(8, 0xFFFFFFFF80000000), (9, 0x00000001FFFFFFFF)] t with p := [(2, true)], bt := 50 }) =
    [(.g, 7, 0xFFFFFFFF80000000, 70)] := by decide +kernel

/-- 17, the example of MULH, MULHN and MUL on 2^63 and 3: Floor(-1.5), Floor(1.5) and 2^63. -/
theorem test_mulh : let s := at2 (withG [(1, 0x8000000000000000), (2, 3)])
    adds (.mulh ⟨0, 3, 1, .reg 2, false⟩) s = [(.g, 3, 0xFFFFFFFFFFFFFFFE, 3)] ∧
    adds (.mulhn ⟨0, 3, 1, .reg 2, false⟩) s = [(.g, 3, 1, 3)] ∧
    adds (.mul ⟨0, 3, 1, .reg 2, false⟩) s = [(.g, 3, 0x8000000000000000, 3)] := by decide +kernel

/-- 16, the example of BFX and BFI. -/
theorem test_bit_fields : adds (.bfx 0 2 1 (.lit 0x804)) (at2 (withG [(1, 0xABCD1234)])) = [(.g, 2, 0x123, 1)] ∧
    adds (.bfi 0 3 2 (.lit 0x810)) (at2 (withG [(2, 0x123)])) = [(.g, 3, 0x01230000, 1)] := by decide +kernel

/-- 16, the example of CMP.LTN at BT 8. -/
theorem test_cmp_ltn : adds (.cmp 0 5 3 3 (.lit 1000) false) (at2 fun t => { withG [(3, 999)] t with bt := 8 }) =
    [(.p, 5, 1, 9)] := by decide +kernel

/-- 00, its example: MUL g5 at BT 100 is readable from BT 103. -/
theorem test_mul_latency : adds (.mul ⟨0, 5, 1, .reg 2, false⟩) (at2 fun t => { withG [(1, 7), (2, 6), (5, 9)] t with bt := 100 }) =
    [(.g, 5, 42, 103)] := by decide +kernel

/-- R333: zero divisors, and R352: the remainder takes the dividend's sign. -/
theorem test_division_corners : adds (.div ⟨0, 1, 2, .reg 0, false⟩) (at2 (withG [(2, 5)])) = [(.g, 1, 0xFFFFFFFFFFFFFFFF, 20)] ∧
    adds (.mod ⟨0, 1, 2, .lit 3, false⟩) (at2 (withG [(2, -7)])) = [(.g, 1, 0xFFFFFFFFFFFFFFFF, 20)] := by decide +kernel

/-- 18, the example of VADD.N8.S with lit(200) under k2: a lane of 100 becomes 255, the next is not enabled. -/
theorem test_vadd_n8_s : adds (.vadd ⟨0, .n8, 3, 4, .lit 200, 2, true, 0⟩)
    (at2 fun t => { withV [(4, 0x6464)] t with k := [(2, 1)] }) = [(.v, 3, 0xFF, 2)] := by decide +kernel

/-- 18, the example of VCVT.I8.F32.S at BT 60. -/
theorem test_vcvt_i8_f32 : adds (.vcvt ⟨0, .i8, 4, 5, .reg 0x4A, 0, false, 0⟩)
    (at2 fun t => { withV [(5, 0xFF8000007FC0000043480000C060000040200000)] t with bt := 60 }) =
    [(.v, 4, 0x80007FFC02, 64)] := by decide +kernel

/-- 18, the example of VDOT.I8. -/
theorem test_vdot_i8 : adds (.vdot ⟨0, .i8, 30, 31, .reg 32, 0, false, 0⟩)
    (at2 (withV [(31, 0x0107FE03), (32, 0x0AFF0504)])) = [(.v, 30, 5, 8)] := by decide +kernel

/-- 18, the example of VFMA.F32: one rounding, 2^-11 + 2^-24. -/
theorem test_vfma_f32 : adds (.vfma ⟨0, .f32, 8, 9, .reg 10, 3, false, 0⟩)
    (at2 fun t => { withV [(8, 0xBF800000), (9, 0x3F800800), (10, 0x3F800800)] t with k := [(3, 1)] }) =
    [(.v, 8, 0x3A000400, 4)] := by decide +kernel

/-- R401: an exact zero of VFMS takes its sign from the product and -c: with c = +0 and a product of -0 it is -0. -/
theorem test_vfms_zero : adds (.vfms ⟨0, .f32, 8, 9, .reg 10, 3, false, 0⟩)
    (at2 fun t => { withV [(8, 0), (9, 0x80000000), (10, 0x3F800000)] t with k := [(3, 1)] }) =
    [(.v, 8, 0x80000000, 4)] := by decide +kernel

/-- 19, the example of VWMUL.I8 at BT 90: even products to v10 and odd ones to v11. -/
theorem test_vwmul_i8 : adds (.vwmul ⟨0, .i8, 10, 20, .reg 21, 0, false, 0⟩)
    (at2 fun t => { withV [(20, 0x807FFD64), (21, 0x80800764)] t with bt := 90 }) =
    [(.v, 10, 0xC0802710, 94), (.v, 11, 0x4000FFEB, 94)] := by decide +kernel

/-- 18, the example of VIOTA.I16 under k5. -/
theorem test_viota_i16 : adds (.viota ⟨0, .i16, 7, 0, .reg 0, 5, false, 0⟩) (at2 fun t => { t with k := [(5, 0xF)] }) =
    [(.v, 7, 0x0003000200010000, 2)] := by decide +kernel

/-- 05, the example of XQNT.BX4.F32: mantissas 7, 2, -8, 1 with E = 0x81 at byte 504. -/
theorem test_xqnt_bx4 : adds (.xqnt 0 3 4 2 0) (at2 (withV [(4, 0x3EA00000C08000003FA0000040600000)])) =
    [(.v, 3, 0x1827 + 0x81 * 2 ^ 4032, 8)] := by decide +kernel

/-- 05, its example of a BX4 block that reads as 2.0, 0.0, -2.0 and 1.0. -/
theorem test_xdqn_bx4 : adds (.xdqn 0 3 4 2 0 0) (at2 (withV [(4, 0x1E02 + 0x82 * 2 ^ 4032)])) =
    [(.v, 3, 0x3F800000C00000000000000040000000, 4)] := by decide +kernel

/-- 19, the example of XACC.F32 at row 100 with X 16: -4,768 gives 0xBD950000. -/
theorem test_xacc_f32 : adds (.xacc 0 40 2 10 0) (let s := at2 (fun t => { t with m := [(2, 0x0000001000600064)] })
    s.setArch (s.arch.mapCore 0 (fun k => { k with engine := { k.engine with acc := [(6400, BitVec.ofInt 64 (-4768))] } }))) =
    [(.v, 40, 0xBD950000, 6)] := by decide +kernel

/-- R386 to R390 and R402 to R412 on lane 0: a saturating sum, a slide, a reduction, a scan. -/
theorem test_vector_moves : adds (.vredadd ⟨0, .i32, 1, 2, .reg 0, 1, false, 0⟩)
      (at2 fun t => { withV [(2, 0x000000030000000200000001)] t with k := [(1, 5)] }) = [(.v, 1, 4, 6)] ∧
    adds (.vins ⟨0, .i64, 1, 2, .reg 3, 0, false, 0⟩) (at2 (withG [(2, 1), (3, 9)])) = [(.v, 1, 9 * 2 ^ 64, 3)] ∧
    adds (.vext ⟨0, .i8, 3, 4, .reg 5, 0, false, 0⟩) (at2 fun t => { withV [(4, 0x80FF)] t with g := [(5, 1)] }) =
      [(.g, 3, 0xFFFFFFFFFFFFFF80, 3)] := by decide +kernel

/-- 17, the encoded MFS of WM.3, register 0x10E, reads the channel's watermark with a latency of 2. -/
theorem test_mfs_wm : adds (.mfs 0 4 0x10E) (at2 fun t => { t with chans := [(3, { Chan.reset with wm := 0xFE00000000004140 })] }) =
    [(.g, 4, 0xFE00000000004140, 2)] := by decide +kernel


-- ## Witnesses: states that meet the hypotheses of each statement

def z : State := State.reset

/-- Core 0 changed; context A of core 0 changed; and the same with the first 2 MiB of the address space mapped to the stack
of Brick 0. -/
def coreA (f : Core → Core) : State := z.setArch (z.arch.mapCore 0 f)

def ctxA (f : Context → Context) : State := coreA fun k => { k with ctxs := [(0, f Context.reset)] }

def mapped (f : Context → Context) : State :=
  coreA fun k => { k with tlb := [⟨0, false, 0, 0, true, true⟩], ctxs := [(0, f Context.reset)] }

/-- One register set. -/
def g1 (x : Word) : Context → Context := withG [(1, x)]

theorem wit_ScalarArithmetic : Runs z 0 ∧ Runs z 31 ∧ Runs (ctxA fun t => { t with p := [(15, true)] }) 15 := by
  unfold Runs; decide +kernel

theorem wit_BitFields : Runs (at2 (withG [(1, 0xABCD1234), (2, 0x3F3F)])) 0 := by
  unfold Runs; decide +kernel

theorem wit_ImmediatesAndConstants : Runs z 0 ∧ 0 < 64 ∧ 63 < 64 := by
  unfold Runs; decide +kernel

theorem wit_ComparesAndPredicates : Runs (ctxA fun t => { t with p := [(3, true), (5, true)] }) 5 := by
  unfold Runs; decide +kernel

theorem wit_TransfersBranch : Runs z 0 ∧ z.iss.follow = none ∧
    (∀ b ∈ [Branch.none, .to 0x3FFFE 2, .halt, .xret], let s := z.setIss { z.iss with follow := some b }
      s.iss.trapped = false ∧ s.iss.follow = some b) := by
  unfold Runs; decide +kernel

theorem wit_LoopsRotateAndProgramsEnd :
    (let s := ctxA fun t => { t with lc := 1 }; Runs s 0 ∧ s.iss.follow = none ∧ s.rd.lc ≠ 0) ∧
    (let s := ctxA fun t => { t with ec := 1 }; Runs s 0 ∧ s.iss.follow = none ∧ s.rd.lc = 0 ∧ s.rd.ec ≠ 0) ∧
    (Runs z 0 ∧ z.iss.follow = none ∧ z.rd.lc = 0 ∧ z.rd.ec = 0) ∧
    (let s := ctxA fun t => { t with trap := { t.trap with tmode := true } }
     Runs s 0 ∧ s.iss.follow = none ∧ s.rd.trap.tmode = true) := by
  unfold Runs; decide +kernel

theorem wit_SystemRegisters : Runs z 0 ∧ (0x1FF < 0x200 ∧ 0x1FF ≠ 3) ∧ (0 < 0x200 ∧ 0 ≠ 3) ∧ 0 < 16 ∧ 15 < 16 := by
  unfold Runs; decide +kernel

/-- Bits of EVLOST that hardware has set in this step: the read and the write of it leave them. -/
theorem wit_SystemRegisters_raced :
    (let s := z.setArch { z.arch with raced := [.lost 0 0, .count 0 0, .dfault 255 1] }
     Runs s 0 ∧ s.arch.raced.length < 2 ^ 32 ∧ s.arch.raced.count (.count s.iss.core s.iss.ctx) = 1 ∧
      s.arch.raced.contains (.lost s.iss.core s.iss.ctx) = true ∧ s.arch.raced.contains (.dfault s.iss.core s.iss.ctx) = false) ∧
    (0x064 = 0x064 ∧ z.arch.raced = []) ∧ 0x063 ≠ 0x064 := by
  unfold Runs; decide +kernel

theorem wit_ClocksWaitsAndDrain :
    (let s := ctxA fun t => { g1 5 t with tl := [(15, 5)] }; Runs s 0 ∧ (s.rd.readG 1).toNat ≤ (s.rd.readTl 15).toNat) ∧
    (let s := ctxA fun t => { g1 5 t with tl := [(15, 4)] }; Runs s 0 ∧ (s.rd.readTl 15).toNat < (s.rd.readG 1).toNat) ∧
    (let s := ctxA fun t => { g1 16 t with ring := { t.ring with evsize := 8, evhead := 16 } }
     Runs s 0 ∧ min ((s.rd.readG 1).toNat % 2 ^ 32) (2 ^ s.rd.ring.evsize.toNat / 16) ≤ (s.rd.ring.evhead - s.rd.ring.evtail).toNat) ∧
    (let s := ctxA fun t => { g1 1 t with ring := { t.ring with evsize := 8 } }
     Runs s 0 ∧ (s.rd.ring.evhead - s.rd.ring.evtail).toNat < min ((s.rd.readG 1).toNat % 2 ^ 32) (2 ^ s.rd.ring.evsize.toNat / 16)) ∧
    (let s := coreA fun k => { k with owner := [(11, .b)] }
     Runs s 0 ∧ (0x800 : BitVec 12).getLsbD 11 = true ∧ SMap.get Owner.free (s.arch.core s.iss.core).owner 11 ≠ .free ∧
      SMap.get Owner.free (s.arch.core s.iss.core).owner 11 ≠ ownerOf s.iss.ctx) ∧
    (let mine (r : Req) : Bool := r.core == z.iss.core && r.ctx == z.iss.ctx
     z.view.reqs.all (fun r => !mine r) = true ∧
      z.view.writeBacks.all (fun w => !(w.core == z.iss.core && w.ctx == z.iss.ctx)) = true ∧ z.rd.sent = 0) ∧
    -- the window after the last write's: closed from its end on, and open one nanosecond before
    (let s (clock : Nat) := z.setArch { (ctxA fun t => { t with sent := 1 }).arch with clock := clock }
     let ends := 2 * 2 ^ z.view.time.wlog2.toNat
     Runs (s (3 * ends)) 0 ∧ (s (3 * ends)).rd.sent ≠ 0 ∧ ((s (3 * ends)).rd.sent + 1) * 2 ^ (s (3 * ends)).view.time.wlog2.toNat ≤ (s (3 * ends)).view.now ∧
      (s (3 * ends - 3)).rd.sent ≠ 0 ∧ (s (3 * ends - 3)).view.now < ((s (3 * ends - 3)).rd.sent + 1) * 2 ^ (s (3 * ends - 3)).view.time.wlog2.toNat) ∧
    (let s := z.setArch { z.arch with nextId := 1, reqs := [z.req .st false 0 8 7] }
     s.view.reqs.any (fun r => (r.core == s.iss.core && r.ctx == s.iss.ctx) && decide (r.id < s.view.nextId) && r.st != .withdrawn) = true) := by
  unfold Runs; decide +kernel

/-- A BANKACQ of B that takes nothing: A waits for one of its groups, or A's store to the group, which A has freed, is under way. -/
def acqB (f : Context → Context) (g : Core → Core) (reqs : List Req) : State :=
  ((coreA fun k => g { k with ctxs := [(0, f Context.reset)] }).setIss { z.iss with ctx := 1 }).setArch
    { (coreA fun k => g { k with ctxs := [(0, f Context.reset)] }).arch with reqs := reqs }

/-- A free group that no context has left is open to every context. -/
theorem wit_free {a : Arch} {c : Nat} (x g : Nat) (hp : (a.core c).prev = []) (ho : SMap.get Owner.free (a.core c).owner g = .free) :
    a.touchable c x g ∧ a.acquirable c x g := by
  have no : ∀ y t, SMap.get none (a.core c).prev g ≠ some (y, t) := fun y t h => by rw [hp] at h; exact absurd h (by simp [SMap.get])
  have ht : a.touchable c x g := .inr ⟨ho, fun y t h => absurd h (no y t)⟩
  exact ⟨ht, .inr ⟨ht, fun y t o h => absurd h (no y t)⟩⟩

theorem wit_BanksAcquired :
    ((∀ g, (0xFFF : BitVec 12).getLsbD g = true → z.arch.acquirable z.iss.core z.iss.ctx g) ∧
      ¬ z.arch.leavesToA z.iss.core z.iss.ctx (0xFFF : BitVec 12).toNat) ∧
    (let s := acqB (fun t => { t with status := .running, wait := some ⟨.bankacq, 0, 0x801, false, 0⟩ }) id []
     Runs s 0 ∧ s.arch.leavesToA s.iss.core s.iss.ctx (0x800 : BitVec 12).toNat) ∧
    (let s := acqB id (fun k => { k with prev := [(11, some (0, 7))] }) [{ z.req .st true (0x0F0000000000 + 0x5FFF8) 8 5 with time := 7 }]
     Runs s 0 ∧ (0x800 : BitVec 12).getLsbD 11 = true ∧ ¬ s.arch.acquirable s.iss.core s.iss.ctx 11) := by
  refine ⟨⟨fun g _ => (wit_free _ _ rfl rfl).2, fun h => absurd h.1 (by decide)⟩, ⟨by unfold Runs; decide +kernel, rfl, by decide +kernel,
    _, rfl, rfl, by decide +kernel, fun g _ _ => (wit_free _ _ rfl rfl).2⟩, ⟨by unfold Runs; decide +kernel, by decide, fun h => ?_⟩⟩
  rcases h with h | h
  · exact absurd h (by decide +kernel)
  · exact absurd (h.2 0 7 0x5FFF8 (by decide +kernel) (by decide) _ (by decide +kernel : { z.req .st true (0x0F0000000000 + 0x5FFF8) 8 5 with time := 7 } ∈ _)
      (by decide +kernel) (by decide +kernel) (by decide +kernel) (by decide +kernel) (by decide +kernel)) (by decide +kernel)

/-- A released persistent launch of 3 by 2 by 1 tiles. -/
def aLaunch : Launch :=
  ⟨none, none, BitVec.ofNat 2048 (2 * 2 ^ 448 + 1 * 2 ^ 468), 0, ⟨0, 0, 0, 0⟩, [], [], true, none, none, 0, false, none, 0, false⟩

/-- 02, its example of NXTILE: index 4 gives x = 1 and y = 1, readable 24 later. -/
def tiling : State :=
  let s := at2 (fun t => { t with tile := some 0, bt := 10 })
  s.setArch ({ s.arch with launches := [(0, some aLaunch)] }.mapBrick 0 (fun b => { b with batches := [(0, [4])] }))

theorem test_nxtile : adds (.nxtile 0 50) tiling = [(.g, 50, 1 + 2 ^ 20, 34)] := by decide +kernel

theorem wit_TilesAndRequests :
    (Runs tiling 0 ∧ tiling.gangTile = none ∧ tiling.rd.tile = some 0 ∧ tiling.arch.launch 0 = some aLaunch ∧
      aLaunch.drained = false ∧ (tiling.arch.brick (tiling.iss.core / 32)).tileq = [] ∧
      SMap.get [] (tiling.arch.brick (tiling.iss.core / 32)).batches 0 = [4]) ∧
    (Runs z 0 ∧ z.gangTile = none ∧ z.rd.tile = none) ∧
    -- an empty batch, before the last index is claimed, after it, and once the launch is drained
    (∀ e ∈ [(5, false), (6, false), (0, true)],
      let v := { aLaunch with tiles := e.1, drained := e.2 }
      let s := (at2 fun t => { t with tile := some 0 }).setArch { (at2 fun t => { t with tile := some 0 }).arch with launches := [(0, some v)] }
      let d := v.desc.toNat
      let n := (d / 2 ^ 448 % 2 ^ 20 + 1) * (d / 2 ^ 468 % 2 ^ 20 + 1) * (d / 2 ^ 488 % 2 ^ 20 + 1)
      s.iss.trapped = false ∧ s.guard 0 = true ∧ s.gangTile = none ∧ s.rd.tile = some 0 ∧ s.arch.launch 0 = some v ∧
        (s.arch.brick (s.iss.core / 32)).tileq = [] ∧ SMap.get [] (s.arch.brick (s.iss.core / 32)).batches 0 = [] ∧
        s.arch.routeSleeps (s.iss.core / 32) (v.base / 32) = false ∧ s.arch.routeSleeps (v.base / 32) (s.iss.core / 32) = false ∧
        (e = (5, false) → v.drained = false ∧ v.tiles < n) ∧ (e = (6, false) → n ≤ v.tiles) ∧ (e = (0, true) → v.drained = true)) ∧
    (let s := mapped (g1 0x1FFF80)
     Runs s 0 ∧ s.iss.ctx ≠ 2 ∧ (s.rd.readG 1).toNat % 128 = 0 ∧ (s.rd.readG 1).toNat < 2 ^ 56 ∧
      s.globalRange (s.rd.readG 1).toNat 128 true false false = .ok ⟨false, [(0x1FFF80, 128)]⟩) := by
  unfold Runs; decide +kernel

/-- An empty batch in Brick 1, whose ports sleep, of a launch of Brick 0; and a gang whose lead has just got its record. -/
theorem wit_TilesAndRequests_late :
    (let s := ((z.setArch ({ z.arch with launches := [(0, some aLaunch)], lowPort := (upTo 64).map (fun p => (p, 1)) }.mapCtx 32 0
        (fun t => { t with tile := some 0 }))).setIss { z.iss with core := 32 })
     Runs s 0 ∧ s.gangTile = none ∧ s.rd.tile = some 0 ∧ s.arch.launch 0 = some aLaunch ∧ (s.arch.brick 1).tileq = [] ∧
      SMap.get [] (s.arch.brick 1).batches 0 = [] ∧ s.arch.routeSleeps 1 (aLaunch.base / 32) = true ∧ aLaunch.drained = false ∧
      (s.arch.brick (aLaunch.base / 32)).lost = false) ∧
    (let e : ExecUnit := ⟨0, [0, 1], 0, none, 0, 0, false, [], false, []⟩
     let q : Pend := ⟨.g, 50, full4096, 7, 0, 24, 0, 0, 0, false⟩
     let s := (z.setArch ((({ z.arch with units := [(1, some e)] } : Arch).mapCtx 0 0 (fun t =>
        { t with unit := some 1, inflight := [q], ord := 1, bt := 1 })).mapCtx 1 0 (fun t => { t with unit := some 1 }))).setIss
          { z.iss with core := 1, follow := some .none }
     Runs s 0 ∧ s.gangTile = some (0, q) ∧ q.parts = 0) := by
  unfold Runs; decide +kernel

-- Scalar memory

def spad0 : Nat := 0x0F0000000000

/-- Base addresses of the core-local space, of the copy aperture, and its last channel word. -/
theorem wit_LoadsAndStores :
    (let s := ctxA (g1 0xFE0000000005FFF8); let x : MemArgs := ⟨0, 2, 1, 0, 3⟩; let ea := addrOf (s.rd.readG x.a) x.off (2 ^ x.sz)
     Runs s x.p ∧ apertureOf ea = none ∧ s.range ea 8 8 true false true = .ok ⟨true, [(spad0 + 0x5FFF8, 8)]⟩ ∧
      s.range ea 8 8 false true true = .ok ⟨true, [(spad0 + 0x5FFF8, 8)]⟩) ∧
    (let s := mapped (g1 0x1FFFFF); let x : ScopeArgs := ⟨0, 2, 1, 0, 0, 3⟩; let ea := addrOf (s.rd.readG x.a) x.off (2 ^ x.sz)
     Runs s x.p ∧ apertureOf ea = none ∧ s.range ea 1 1 true false false = .ok ⟨false, [(0x1FFFFF, 1)]⟩ ∧
      s.range ea 1 1 false true false = .ok ⟨false, [(0x1FFFFF, 1)]⟩) ∧
    (let s := ctxA (g1 0xFE00000000100000); let x : MemArgs := ⟨0, 2, 1, 0, 3⟩
     Runs s x.p ∧ s.iss.ctx < 2 ∧ x.sz = 3 ∧ addrOf (s.rd.readG x.a) x.off 8 = 0xFE00000000100000 + 64 * 0 + 8 * 0) ∧
    (let s := ctxA (g1 0xFE000000001003C0); let x : MemArgs := ⟨0, 2, 1, 7, 3⟩
     Runs s x.p ∧ s.iss.ctx < 2 ∧ x.sz = 3 ∧ addrOf (s.rd.readG x.a) x.off 8 = 0xFE00000000100000 + 64 * 15 + 8 * 7) := by
  unfold Runs; decide +kernel

theorem wit_ScratchpadWordsComplete :
    (let s := ctxA (withG [(1, 0xFE00000000000000), (2, 0x80000000)]); let r : Range := ⟨true, [(spad0, 8)]⟩
     Runs s 0 ∧ s.wordRange (addrOf (s.rd.readG 1) (0 : BitVec 6) 8) true false = .ok r ∧
      s.wordRange (addrOf (s.rd.readG 1) (0 : BitVec 6) 8) false true = .ok r ∧ s.wordRange (s.rd.readG 1).toNat true true = .ok r ∧
      (0 < (s.src (.lit 1)).toNat ∧ (s.src (.lit 0x7FFFFFFF)).toNat < 2 ^ 31 ∧ 0 < (s.src (.lit 0x7FFFFFFF)).toNat) ∧
      (s.src (.reg 0)).toNat = 0 ∧ 2 ^ 31 ≤ (s.src (.reg 2)).toNat) ∧
    (let s := coreA fun k => { k with tlb := [⟨0, false, 0x7800000, spad0, true, true⟩], ctxs := [(0, g1 (BitVec.ofNat 64 (0x7800000 * 0x200000 + 8)) Context.reset)] }
     Runs s 0 ∧ s.wordRange (s.rd.readG 1).toNat true false = .ok ⟨false, [(spad0 + 8, 8)]⟩) := by
  unfold Runs; decide +kernel

/-- No exact add waits at a slice. -/
theorem wit_noExactAdds (f : Context → Context) : (∀ b, ((ctxA f).view.brick b).detq.length ≤ Config.requestRoom) ∧
    ∀ b, ((mapped f).view.brick b).detq.length ≤ Config.requestRoom :=
  ⟨fun _ => Nat.zero_le _, fun _ => Nat.zero_le _⟩

/-- One exact add more than there is room for waits at the slice of Brick 0. -/
theorem wit_AtomicsWait :
    let s := (mapped (g1 0)).setArch { (mapped (g1 0)).arch with
      bricks := [(0, { Brick.reset with detq := List.replicate (Config.requestRoom + 1) 0 })] }
    let x : AmoArgs := ⟨0, 2, 1, 3, 3⟩
    Runs s x.p ∧ x.ord < 4 ∧ s.view.place 0 = .stack 0 0 ∧ Config.requestRoom < (s.view.brick 0).detq.length ∧
      s.range (s.rd.readG x.a).toNat 8 8 true true false = .ok ⟨false, [(0, 8)]⟩ ∧
      s.range (s.rd.readG x.a).toNat 4 4 true true false = .ok ⟨false, [(0, 4)]⟩ := by
  refine ⟨by unfold Runs; decide +kernel, by decide, by decide +kernel, ?_, by decide +kernel, by decide +kernel⟩
  show Config.requestRoom < (List.replicate (Config.requestRoom + 1) 0).length
  simp

theorem wit_AtomicsAsk :
    (let s := ctxA (g1 0xFE0000000005FFF8); let x : AmoArgs := ⟨0, 2, 1, 3, 3⟩
     Runs s x.p ∧ x.ord < 4 ∧ s.range (s.rd.readG x.a).toNat 8 8 true true false = .ok ⟨true, [(spad0 + 0x5FFF8, 8)]⟩ ∧
      s.range (s.rd.readG x.a).toNat 4 4 true true false = .ok ⟨true, [(spad0 + 0x5FFF8, 4)]⟩) ∧
    (let s := mapped (g1 0)
     Runs s 0 ∧ s.range (s.rd.readG 1).toNat 8 8 true true false = .ok ⟨false, [(0, 8)]⟩ ∧
      s.range (s.rd.readG 1).toNat 4 4 true true false = .ok ⟨false, [(0, 4)]⟩) := by
  unfold Runs; decide +kernel

/-- A request for the doubleword at scratchpad offset `o` of core 0. -/
def nearReq (op : MemOp) (o data cmp : Nat) : Req := { z.req op true (spad0 + o) 8 data with cmp := cmp }

theorem wit_BanksAct :
    (let a := Arch.reset; let r := nearReq (.amo .cas) 0x300 7 0
     a.place r.pa = .spad 0 0x300 ∧ r.near = true ∧ SMap.get none (a.core 0).window (0x300 / 0x8000) = none ∧ r.len = 8 ∧ r.data < 2 ^ 64) ∧
    (let a := Arch.reset; let r := { nearReq .ld 0x5FFF8 0 0 with near := false }
     a.place r.pa = .spad 0 0x5FFF8 ∧ (a.brick (0 / 32)).lost = false) ∧
    (let a := (coreA fun k => { k with full := [(1, true)] }).arch
     a.place (nearReq .ldf 8 0 0).pa = .spad 0 8 ∧ (nearReq .ldf 8 0 0).len = 8 ∧ SMap.get false (a.core 0).full (8 / 8) = true ∧
      SMap.get false (a.core 0).full (0 / 8) = false) ∧
    (let a : Arch := { Arch.reset with mem := Memory.write [] spad0 8 (barOf 2 3 1) }
     a.place (nearReq .barArr 0 0 0).pa = .spad 0 0 ∧ Memory.read a.mem (nearReq .barArr 0 0 0).pa 8 = barOf 2 3 1 ∧
      1 < 2 ∧ 2 ≤ 3 ∧ 3 < 2 ^ 31 ∧ 1 < 2) ∧
    (let a : Arch := { Arch.reset with mem := Memory.write [] spad0 8 (barOf 1 (2 ^ 31 - 1) 0) }
     Memory.read a.mem (nearReq .barWait 0 0 0).pa 8 = barOf 1 (2 ^ 31 - 1) 0 ∧ 0 < 2 ^ 31 - 1 ∧ (nearReq .barWait 0 0 0).cmp = 0) ∧
    (nearReq .barInit 0 (2 ^ 31 - 1) 0).data = 2 ^ 31 - 1 := by decide +kernel

/-- An exclusive step of R162: LDF takes a full doubleword and leaves it empty. -/
theorem test_ldf_empties : (match (coreA fun k => { k with full := [(1, true)] }).arch.performAt (nearReq .ldf 8 0 0) with
    | .done a v => v == 0 && SMap.get false (a.core 0).full 1 == false
    | _ => false) = true := by decide +kernel

/-- 16, the example of AMOCAS: the CAS finds 0 and writes 7; the add then writes 8 and answers 7. -/
theorem test_amocas : (match Arch.reset.performAt (nearReq (.amo .cas) 0x300 7 0) with
    | .done a v => v == 0 && (match a.performAt (nearReq (.amo .add) 0x300 1 0) with
      | .done b w => w == 7 && Memory.read b.mem (spad0 + 0x300) 8 == 8
      | _ => false)
    | _ => false) = true := by decide +kernel

/-- 07, its example: BARINIT with 3 and one arrival. -/
theorem test_barrier : (match Arch.reset.performAt (nearReq .barInit 0x200 3 0) with
    | .done a _ => Memory.read a.mem (spad0 + 0x200) 8 == 0x0000000300000003 &&
      (match a.performAt (nearReq .barArr 0x200 0 0) with | .done b _ => Memory.read b.mem (spad0 + 0x200) 8 == 0x0000000300000002 | _ => false)
    | _ => false) = true := by decide +kernel

/-- BANKACQ of context B of a gang member that does not lead it takes nothing within the slot. -/
theorem wit_BanksAcquired_follower : let e : ExecUnit := ⟨0, [0, 1], 1, none, 0, 0, false, [], false, []⟩
    let s := (z.setArch (({ z.arch with units := [(1, some e)] } : Arch).mapCtx 1 1 (fun t => { t with unit := some 1 }))).setIss
      { z.iss with core := 1, ctx := 1 }
    Runs s 0 ∧ s.iss.ctx = 1 ∧ s.arch.leadOf s.iss.core 1 ≠ s.iss.core := by
  unfold Runs; decide +kernel

/-- Groups that a core-local access may touch, and one that the other context has freed in this very cycle. -/
theorem wit_RangesAreChecked_groups : (∀ g, z.view.touchable z.iss.core z.iss.ctx g) ∧
    ¬ (z.setArch { (coreA fun k => { k with prev := [(11, some (1, 9))] }).arch with clock := 9 }).view.touchable 0 0 11 ∧
    (coreA fun k => { k with prev := [(11, some (1, 8))] }).view.touchable 0 0 11 := by
  refine ⟨fun g => (wit_free _ _ rfl rfl).1, fun h => ?_, .inr ⟨by decide +kernel, fun y t h => .inr ?_⟩⟩
  · rcases h with h | h
    · exact absurd h (by decide +kernel)
    · rcases h.2 1 9 (by decide +kernel) with h | h <;> exact absurd h (by decide +kernel)
  · have e : some (1, 8) = some (y, t) := h
    obtain ⟨rfl, rfl⟩ := Prod.mk.inj (Option.some.inj e)
    decide +kernel

theorem wit_RangesAreChecked :
    (let va := 0xFE00000000000000 + 0x5FFFF; va % 2 ≠ 0 ∧ 0x5FFFF < 0x60000 ∧ 0 < 2) ∧
    (let va := 0xFE00000000000000 + 0x5FFFF; va % 1 = 0 ∧ 0x60000 < 0x5FFFF + 2) ∧
    (let k := ((coreA fun k => { k with owner := [(1, .b)] }).view.core 0)
     (0xFE00000000000000 + 0x7FFC) % 4 = 0 ∧ 0x7FFC + 8 ≤ 0x60000 ∧ SMap.get Owner.free k.owner ((0x7FFC + 8 - 1) / 0x8000) ≠ .free ∧
      SMap.get Owner.free k.owner ((0x7FFC + 8 - 1) / 0x8000) ≠ ownerOf 0) ∧
    (let k := z.view.core z.iss.core
     (0xFE00000000000000 + 0x5FE00) % 64 = 0 ∧ 0x5FE00 + 512 ≤ 0x60000 ∧ SMap.get Owner.free k.owner ((0x5FE00 + 512 - 1) / 0x8000) = .free ∧
      z.rd.chans = [] ∧ k.window = [] ∧ z.rd.acqs = []) ∧
    (let s := coreA fun k => { k with tlb := [⟨0, false, 0, 0, true, false⟩] }
     s.view.lookup s.iss.core (.ctx s.iss.ctx) s.rd.asid.toNat 8 false true = .fault 7) ∧
    z.view.lookup z.iss.core (.ctx z.iss.ctx) z.rd.asid.toNat (2 ^ 56 - 8) true false = .miss ∧
    (let s := mapped id; let look := s.view.lookup s.iss.core (.ctx s.iss.ctx) s.rd.asid.toNat 0x1FFE00 true false
     look = .phys 0x1FFE00 ∧ s.view.place 0x1FFE00 = .stack 0 0x1FFE00 ∧ s.view.place (0x1FFE00 + 512 - 1) = .stack 0 (0x1FFE00 + 512 - 1) ∧
      s.rd.chans = [] ∧ s.rd.acqs = [] ∧ 0x1FFE00 % 512 = 0 ∧ 512 = 2 ^ 9) ∧
    (let s := coreA fun k => { k with tlb := [⟨0, true, 0, 0x0C00000000, true, true⟩] }
     s.view.lookup s.iss.core (.ctx s.iss.ctx) s.rd.asid.toNat 0 true false = .phys 0x0C00000000 ∧
      s.view.place 0x0C00000000 = .reserved) := by decide +kernel

theorem wit_MemoryTrapsAndHolds :
    (let s := ctxA (g1 1); let x : MemArgs := ⟨0, 2, 1, 0, 3⟩
     Runs s 0 ∧ apertureOf (addrOf (s.rd.readG x.a) x.off (2 ^ x.sz)) = none ∧
      s.range (addrOf (s.rd.readG x.a) x.off (2 ^ x.sz)) (2 ^ x.sz) (2 ^ x.sz) true false (x.sz == 3) = .trap 4 1 0) ∧
    (let s := ctxA fun t => { g1 0xFE00000000000000 t with
        chans := [(2, { Chan.reset with state := .active, wm := 0xFE00000000000000, wmlim := 0xFE00000000000008 })] }
     Runs s 0 ∧ s.wordRange (addrOf (s.rd.readG 1) (0 : BitVec 6) 8) true false = .hold (.watermark 0xFE00000000000000 8)) ∧
    (let s := ctxA (g1 8)
     Runs s 0 ∧ s.range (s.rd.readG 1).toNat 8 8 true true false = .stall .clock (s.view.addMiss 0 (.ctx 0) 0 0 8 true true)) ∧
    -- words of the copy aperture that are no aligned doubleword, and a doubleword of it for LD.A
    (∀ e ∈ [(0xFE00000000100004, 3), (0xFE000000001003F8, 2)], let s := ctxA (g1 e.1); let x : MemArgs := ⟨0, 2, 1, 0, e.2⟩
     let ea := addrOf (s.rd.readG x.a) x.off (2 ^ x.sz)
     s.iss.trapped = false ∧ s.guard 0 = true ∧ apertureOf ea ≠ none ∧ (x.sz ≠ 3 ∨ ea % 8 ≠ 0)) ∧
    (let s := ctxA (g1 0xFE00000000100000); let x : ScopeArgs := ⟨0, 2, 1, 0, 0, 3⟩
     Runs s 0 ∧ apertureOf (addrOf (s.rd.readG x.a) x.off (2 ^ x.sz)) ≠ none) ∧
    -- an entry of a stash without its line
    (let s := coreA fun k => { k with tlb := [⟨0, false, 0, 0, true, true⟩], ctxs := [(0, g1 0xFE00000000018080 Context.reset)], window := [(3, some 0x8000)] }
     let x : ScopeArgs := ⟨0, 2, 1, 0, 0, 3⟩; let ea := addrOf (s.rd.readG x.a) x.off (2 ^ x.sz)
     Runs s 0 ∧ apertureOf ea = none ∧
      (match s.range ea 8 8 true false true with | .stall .stash _ => true | _ => false) = true) := by
  unfold Runs; decide +kernel

/-- The checks of a pattern, of a vector and of a descriptor that a context may not reach. -/
theorem wit_StreamsTrapAndHold :
    (∀ size ∈ [2, 3, 6], let s := ctxA fun t => { t with a := [(1, BitVec.ofNat 256 (0xFE0000000005FFFF + size * 2 ^ 224))] }
     let a := (s.rd.readA 1).toNat
     s.iss.trapped = false ∧ s.guard 0 = true ∧ a / 2 ^ 224 % 8 = size ∧ a / 2 ^ 224 % 8 ≠ 7 ∧ a / 2 ^ 230 % 4 = 0 ∧ a / 2 ^ 251 % 32 = 0 ∧
      (match s.elements a (a / 2 ^ 227 % 2 == 1) true true (s.uses 1) none [] with | .trap 4 _ _ => true | _ => false) = true) ∧
    (let s := ctxA fun t => { t with
        a := [(1, BitVec.ofNat 256 (0xFE00000000001000 + 2 * 2 ^ 224))]
        chans := [(2, { Chan.reset with state := .active, wm := 0xFE00000000001000, wmlim := 0xFE00000000001040 })] }
     (match s.elements (s.rd.readA 1).toNat false true false (s.uses 1) none [] with | .hold (.watermark _ _) => true | _ => false) = true) ∧
    (let s := ctxA fun t => { t with a := [(1, BitVec.ofNat 256 (0x1000 + 2 * 2 ^ 224))] }
     (match s.elements (s.rd.readA 1).toNat false true false (s.uses 1) none [] with | .stall .clock _ => true | _ => false) = true) ∧
    (let s := ctxA (g1 0xFE0000000005FE40); let ea := addrOf (s.rd.readG 1) (0 : BitVec 14) 64
     Runs s 0 ∧ ea / 2 ^ 56 = 0xFE ∧ (match s.range ea 512 64 true false false with | .trap 4 _ _ => true | _ => false) = true) ∧
    (let s := ctxA (g1 64); Runs s 0 ∧ s.iss.ctx ≠ 2 ∧ (s.rd.readG 1).toNat % 128 ≠ 0) ∧
    (let s := ctxA (g1 0x100000000000000); Runs s 0 ∧ s.iss.ctx ≠ 2 ∧ 2 ^ 56 ≤ (s.rd.readG 1).toNat) ∧
    (let s := ctxA (g1 128)
     Runs s 0 ∧ (s.rd.readG 1).toNat % 128 = 0 ∧ (s.rd.readG 1).toNat < 2 ^ 56 ∧
      (match s.globalRange (s.rd.readG 1).toNat 128 true false false with | .stall .clock _ => true | _ => false) = true) := by
  unfold Runs; decide +kernel

-- The V, C and X slots

/-- Well-formed instances of every V opcode, of integer, float, A64 and literal forms, at the ends of the register files. -/
theorem wit_VectorLanes : Runs z 0 ∧ ∀ i ∈ [Instr.vadd ⟨0, .i8, 255, 255, .reg 255, 15, true, 0⟩, .vadd ⟨0, .f32, 1, 2, .reg 3, 0, false, 3⟩,
    .vadd ⟨0, .a64, 1, 2, .reg 3, 0, false, 0⟩, .vadd ⟨0, .n64, 1, 2, .lit 0x80000000, 0, false, 0⟩, .vsub ⟨0, .n4, 1, 2, .reg 3, 0, true, 0⟩,
    .vmul ⟨0, .bf16, 1, 2, .reg 3, 0, false, 1⟩, .vmulh ⟨0, .n32, 1, 2, .reg 3, 0, false, 0⟩, .vfma ⟨0, .f16, 1, 2, .reg 3, 0, false, 2⟩,
    .vfms ⟨0, .f32, 1, 2, .lit 1, 0, false, 0⟩, .vmin ⟨0, .f32, 1, 2, .reg 3, 0, false, 0⟩, .vmax ⟨0, .a64, 1, 2, .reg 3, 0, false, 0⟩,
    .vabs ⟨0, .i64, 1, 2, .reg 0, 0, true, 0⟩, .vneg ⟨0, .f16, 1, 2, .reg 0, 0, false, 0⟩, .vand ⟨0, .i4, 1, 2, .lit 1, 0, false, 0⟩,
    .vor ⟨0, .n16, 1, 2, .reg 3, 0, false, 0⟩, .vxor ⟨0, .i32, 1, 2, .reg 3, 0, false, 0⟩, .vshl ⟨0, .i8, 1, 2, .lit 9, 0, false, 0⟩,
    .vshr ⟨0, .n8, 1, 2, .reg 3, 0, false, 0⟩, .vsar ⟨0, .i64, 1, 2, .reg 3, 0, false, 0⟩, .vclz ⟨0, .n4, 1, 2, .reg 0, 0, false, 0⟩,
    .vpopc ⟨0, .i64, 1, 2, .reg 0, 0, false, 0⟩, .viota ⟨0, .i16, 7, 0, .reg 0, 5, false, 0⟩], i.wf = true := by
  unfold Runs; decide +kernel

theorem wit_VectorMoves : Runs z 0 ∧ ∀ i ∈ [Instr.vmov ⟨0, .f32, 1, 2, .reg 0, 0, false, 0⟩, .vsplat ⟨0, .i8, 1, 0, .reg 63, 0, false, 0⟩,
    .vsplat ⟨0, .n64, 1, 0, .lit 9, 0, false, 0⟩, .vsel ⟨0, .a64, 1, 2, .reg 3, 15, false, 0⟩, .vbcast ⟨0, .i4, 1, 2, .reg 63, 0, false, 0⟩,
    .vperm ⟨0, .i8, 1, 2, .reg 3, 0, false, 0⟩, .vslide ⟨0, .i16, 1, 2, .reg 3, 0, false, 1⟩, .vslide ⟨0, .i16, 1, 2, .reg 3, 0, false, 0⟩,
    .vins ⟨0, .f32, 1, 2, .reg 3, 0, false, 0⟩, .vcomp ⟨0, .n16, 1, 2, .reg 0, 3, false, 0⟩, .vext ⟨0, .i8, 3, 4, .reg 5, 0, false, 0⟩],
    i.wf = true := by
  unfold Runs; decide +kernel

theorem wit_VectorConversions : Runs z 0 ∧ ∀ i ∈ [Instr.vcvt ⟨0, .i8, 4, 5, .reg 0x4A, 0, false, 0⟩, .vcvt ⟨0, .f32, 4, 5, .reg 0x30, 0, false, 0⟩,
    .vexp2 ⟨0, .f32, 1, 2, .reg 0, 0, false, 0⟩, .vlog2 ⟨0, .f16, 1, 2, .reg 0, 0, false, 0⟩, .vrcp ⟨0, .bf16, 1, 2, .reg 0, 0, false, 0⟩,
    .vrsq ⟨0, .f32, 1, 2, .reg 0, 0, false, 0⟩, .vtanh ⟨0, .f16, 1, 2, .reg 0, 15, false, 0⟩], i.wf = true := by
  unfold Runs; decide +kernel

theorem wit_VectorWideAndReduced : Runs z 0 ∧
    (∀ i ∈ [Instr.vwadd ⟨0, .i8, 4, 2, .reg 3, 0, true, 0⟩, .vwmul ⟨0, .f16, 2, 3, .reg 4, 0, false, 1⟩, .vwfma ⟨0, .n16, 2, 1, .reg 1, 0, false, 0⟩,
      .vnarr ⟨0, .i8, 1, 4, .reg 0, 0, true, 0⟩, .vnarr ⟨0, .bf16, 1, 4, .reg 0, 0, false, 2⟩, .vdot ⟨0, .n4, 1, 2, .reg 3, 0, false, 0⟩,
      .vdot ⟨0, .bf16, 1, 2, .reg 3, 0, false, 3⟩, .vredadd ⟨0, .f32, 1, 2, .reg 0, 0, false, 1⟩, .vredmax ⟨0, .i64, 1, 2, .reg 0, 0, false, 0⟩,
      .vredmin ⟨0, .n16, 1, 2, .reg 0, 15, false, 0⟩, .vscan ⟨0, .i32, 1, 2, .reg 0, 0, false, 0⟩], i.wf = true) ∧
    VType.i8.widen true = some .i32 ∧ VType.f16.widen false = some .f32 ∧ 0 < 128 ∧ 127 < 128 := by
  unfold Runs; decide +kernel

theorem wit_MasksAndHashes : Runs z 0 ∧ ∀ i ∈ [Instr.vcmp ⟨0, .f32, 0, 2, .reg 3, 4, true, 2⟩, .vcmp ⟨0, .n4, 15, 2, .reg 3, 0, false, 0⟩,
    .vdrop ⟨0, .n32, 1, 2, .reg 3, 0, false, 0⟩ 9, .vrand ⟨0, .n64, 1, 2, .reg 3, 0, false, 0⟩], i.wf = true := by
  unfold Runs; decide +kernel

/-- SCFG's pattern of 17: BASE at scratchpad offset 0x1000, 4 by 4 elements of 64 bytes. -/
def pat17 : BitVec 256 := BitVec.ofNat 256 (0xFE00000000001000 + 3 * 2 ^ 64 + 3 * 2 ^ 80 + 64 * 2 ^ 128 + 1024 * 2 ^ 152 + 6 * 2 ^ 224)

theorem wit_VectorMemoryAndStash :
    (let s := ctxA (g1 0xFE0000000005FE00); let ea := addrOf (s.rd.readG 1) (0 : BitVec 14) 64
     Runs s 0 ∧ s.range ea 512 64 true false false = .ok ⟨true, [(spad0 + 0x5FE00, 512)]⟩ ∧ ea / 2 ^ 56 = 0xFE ∧
      s.range ea 512 64 false true false = .ok ⟨true, [(spad0 + 0x5FE00, 512)]⟩ ∧
      s.range (addrOf (s.rd.readG 1) (0 : BitVec 14) 32) 32 32 true false false = .ok ⟨true, [(spad0 + 0x5FE00, 32)]⟩) ∧
    (let s := mapped (g1 0); Runs s 0 ∧ addrOf (s.rd.readG 1) (0 : BitVec 14) 64 / 2 ^ 56 ≠ 0xFE) ∧
    (let s := mapped (g1 0x8000); let ea := addrOf (s.rd.readG 1) (0 : BitVec 14) 128
     Runs s 0 ∧ ea / 2 ^ 56 = 0 ∧ (s.view.core s.iss.core).entryAt ea = none ∧ 2 < 3) ∧
    (let s := coreA fun k => { k with tlb := [⟨0, false, 0, 0, true, true⟩], ctxs := [(0, g1 0x8080 Context.reset)], window := [(3, some 0x8000)]
                                      stash := [(3 * 256 + 2, .dirty)] }
     let ea := addrOf (s.rd.readG 1) (0 : BitVec 14) 128
     Runs s 0 ∧ (s.view.core s.iss.core).entryAt ea = some (3 * 256 + 1) ∧
      SMap.get StashState.invalid (s.arch.core s.iss.core).stash (3 * 256 + 1) = .invalid ∧
      s.view.xlate s.iss.core s.iss.ctx (ea / 128 * 128) false true = .phys 0x8080 ∧ s.view.place 0x8080 = .stack 0 0x8080 ∧
      (s.view.core s.iss.core).entryAt (addrOf (s.rd.readG 1) (1 : BitVec 14) 128) = some (3 * 256 + 2) ∧
      SMap.get StashState.invalid (s.arch.core s.iss.core).stash (3 * 256 + 2) = .dirty) := by
  unfold Runs; decide +kernel

theorem wit_StashWriteBacksAct : ∀ st ∈ [StashState.dirty, .owned], ∀ inv : Bool,
    let a := (coreA fun k => { k with window := [(3, some 0x8000)], stash := [(770, st)], stashLine := [(770, 0x101)] }).arch
    let r := { nearReq (.stashBack inv) 0x18100 0 0 with len := 128 }
    a.place r.pa = .spad 0 0x18100 ∧ r.near = true ∧ SMap.get none (a.core 0).window (0x18100 / 0x8000) = some 0x8000 ∧
      SMap.get StashState.invalid (a.core 0).stash (0x18100 / 128) = st := by decide +kernel

/-- 07: WBINV of a DIRTY entry sends its line home and leaves the entry INVALID. -/
theorem test_wbinv : (match (coreA fun k => { k with window := [(3, some 0x8000)], stash := [(770, .dirty)], stashLine := [(770, 0x101)] }).arch.performAt
      { nearReq (.stashBack true) 0x18100 0 0 with len := 128 } with
    | .done a _ => (SMap.get StashState.invalid (a.core 0).stash 770, a.writeBacks.map WriteBack.pa)
    | _ => (.dirty, [])) = (.invalid, [0x8080]) := by decide +kernel

theorem wit_StreamsAndPatterns :
    (let s := ctxA fun t => { t with a := [(1, pat17)] }
     Runs s 0 ∧ ¬ ((s.rd.readA 1).toNat / 2 ^ 224 % 8 = 7) ∧ patTotal (s.rd.readA 1).toNat = 16 ∧
      (∃ rs, s.elements (s.rd.readA 1).toNat false true false (s.uses 1) none [] = .ok rs ∧ rs.length = 8 ∧
        s.elements (s.rd.readA 1).toNat false false true (s.uses 1) none [] = .ok rs) ∧ 15 < patTotal (s.rd.readA 1).toNat) ∧
    (let s := ctxA fun t => { t with a := [(1, BitVec.ofNat 256 (7 * 2 ^ 224))] }; (s.rd.readA 1).toNat / 2 ^ 224 % 8 = 7) ∧
    (let s := ctxA fun t => { t with a := [(1, BitVec.ofNat 256 (0xFE00000000001000 + 2 * 2 ^ 224))] }
     (s.rd.readA 1).toNat / 2 ^ 224 % 8 = 2 ∧ ∃ rs, s.elements (s.rd.readA 1).toNat false true true (s.uses 1) none [] = .ok rs ∧ rs.length = 1) ∧
    -- an exact add more than there is room for waits at the home of the pattern's one element
    (let s := (mapped fun t => { t with a := [(1, BitVec.ofNat 256 (2 * 2 ^ 224))] }).setArch
       { (mapped fun t => { t with a := [(1, BitVec.ofNat 256 (2 * 2 ^ 224))] }).arch with
         bricks := [(0, { Brick.reset with detq := List.replicate (Config.requestRoom + 1) 0 })] }
     s.elements (s.rd.readA 1).toNat false true true (s.uses 1) none [] = .ok [(0, ⟨false, [(0, 4)]⟩)] ∧
      s.view.place (Range.pa ⟨false, [(0, 4)]⟩) = .stack 0 0 ∧ Config.requestRoom < (s.view.brick 0).detq.length) := by
  unfold Runs
  refine ⟨⟨by decide +kernel, by decide +kernel, by decide +kernel, ⟨_, rfl, by decide +kernel, by decide +kernel⟩, by decide +kernel⟩,
    by decide +kernel, ⟨by decide +kernel, _, rfl, by decide +kernel⟩,
    by decide +kernel, by decide +kernel, ?_⟩
  show Config.requestRoom < (List.replicate (Config.requestRoom + 1) 0).length
  simp

/-- 17, the example of SLD: eight elements of 64 bytes, the second one at offset 0x1040, the fifth at 0x1400. -/
theorem test_sld_walk : (patAddr pat17.toNat 1 0xFE00000000001000 none, patAddr pat17.toNat 4 0xFE00000000001000 none) =
    (0xFE00000000001040, 0xFE00000000001400) := by decide +kernel

theorem wit_TransformsAndQuantizers : Runs z 0 ∧ (0 < 3 ∧ 2 < 3 ∧ 0 ≠ 2 ∧ 3 < 4) ∧ 6 < 7 ∧ (Instr.xacc 0 255 7 0 0).wf = true ∧
    (Instr.xacc 0 1 0 10 3).wf = true := by
  unfold Runs; decide +kernel

-- The M slot and the engine

def aCmd : Cmd := ⟨.call, 0, 0, 64, none, 0, 0, [], [], [], 0, 0⟩

/-- A call with these parameters, at the first word of an empty routine. -/
def aCall (m : SMap Word) : Call := ⟨{ aCmd with m := m }, [], 0, [], false, [], none, 0, 0, [], [], [], (0, 0), false⟩

/-- Core 0 with this engine. -/
def engineA (f : Engine → Engine) : State := coreA fun k => { k with engine := f k.engine }

def running (r : Call) : State := engineA fun e => { e with run := some r }

theorem wit_MSlotsComplete :
    (let e := (z.view.core z.iss.core).engine
     z.iss.trapped = false ∧ z.guard 0 = true ∧ z.guard 16 = false ∧ e.queue.length + 0 < 8 ∧ e.run = none) ∧
    (let s := engineA fun e => { e with queue := List.replicate 7 aCmd, run := some (aCall []) }
     let e := (s.view.core s.iss.core).engine
     8 ≤ (e.queue.filter (fun q => q.side == s.iss.ctx)).length + (if e.run.any (fun r => r.cmd.side == s.iss.ctx) then 1 else 0)) ∧
    (let s := engineA fun e => { e with queue := List.replicate 7 aCmd }
     let e := (s.view.core s.iss.core).engine
     (e.queue.filter (fun q => q.side == s.iss.ctx)).length + (if e.run.any (fun r => r.cmd.side == s.iss.ctx) then 1 else 0) < 8) := by
  decide +kernel

/-- MSTAT where nothing is set at the same time, and where MPLOAD's result is. -/
theorem wit_MSlotsComplete_raced : z.guard 0 = true ∧ z.iss.trapped = false ∧ z.arch.raced = [] ∧
    (z.setArch { z.arch with raced := [.load 0 0 2] }).arch.raced = [.load z.iss.core z.iss.ctx 2] := by decide +kernel

/-- A barrier object in group 11, which MXWAITB and MXARR may touch. -/
theorem wit_ControlAndBarrierMicroOps_group : let r := { aCall [] with cmd := { aCmd with ga := some 0xFE0000000005FFF8 } }
    (running r).runs r ∧ (running r).arch.touchable 0 r.cmd.ctx (0x5FFF8 / 0x8000) ∧
    (running r).arch.nearStalls 0 0x5FFF8 8 = false :=
  ⟨rfl, (wit_free _ _ rfl rfl).1, by decide +kernel⟩

theorem wit_ControlAndBarrierMicroOps :
    ((running (aCall [(3, 1)])).runs (aCall [(3, 1)]) ∧ 0 < ((aCall [(3, 1)]).parm 3).toNat % 2 ^ 16 ∧
      ((aCall [(3, 0x10000)]).parm 3).toNat % 2 ^ 16 = 0 ∧ (aCall []).loops = []) ∧
    (let r := { aCall [] with loops := [(3, 2)] }; (running r).runs r ∧ r.loops = [(3, 2)] ∧ 1 < 2) ∧
    (let r := aCall [(2, 2559)]; (running r).runs r ∧ (r.parm 2).toNat % 2 ^ 12 + 0 + 1 ≤ 2560 ∧ 2560 < (r.parm 2).toNat % 2 ^ 12 + 1 + 1) ∧
    (aCall []).cmd.ga = none ∧
    (let ga : Word := 0xFE0000000005FFF9; let r := { aCall [] with cmd := { aCmd with ga := some ga } }; let s := running r; let o := 0x5FFF8
     s.runs r ∧ r.cmd.ga = some ga ∧ ga.toNat / 8 * 8 = 0xFE00000000000000 + o ∧ o + 8 ≤ 0x60000 ∧
      SMap.get none (s.arch.core 0).window (o / 0x8000) = none ∧ SMap.get Owner.free (s.arch.core 0).owner (o / 0x8000) = .free ∧
      (∀ q ∈ s.arch.reqs, q.st ≠ .parked) ∧ s.arch.nearStalls 0 o 8 = false ∧
      Memory.read s.arch.mem (s.arch.spadPa 0 o) 8 / 2 ^ 63 % 2 ≠ ga.toNat % 2) ∧
    -- a store from Brick 1, sent in window 0, is still on its way in window 3
    (let ga : Word := 0xFE0000000005FFF8; let r := { aCall [] with cmd := { aCmd with ga := some ga } }
     let a : Arch := { (running r).arch with
       clock := 3 * 4 * 2 ^ z.arch.time.wlog2.toNat, reqs := [{ z.req .st false 128 8 7 with core := 32, win := some 0 }] }
     (z.setArch a).runs r ∧ (∀ q ∈ a.reqs, q.st ≠ .parked) ∧ a.nearStalls 0 0x5FFF8 8 = true ∧ r.sat = false) ∧
    (let ga : Word := 0xFE0000000005FFF8; let r := { aCall [] with cmd := { aCmd with ga := some ga } }; let s := running r
     s.runs r ∧ Memory.read s.arch.mem (s.arch.spadPa 0 0x5FFF8) 8 / 2 ^ 63 % 2 = ga.toNat % 2 ∧ r.sat = false ∧
      (running { r with sat := true }).runs { r with sat := true }) ∧
    barOperand 0xFE00000000060000 = none := by
  unfold State.runs; decide +kernel

/-- An MXLOOP that finds a count of 1 goes once, and MXADDP adds a sign-extended 24-bit value (R145, R366). -/
theorem test_mxaddp : (match exec (.mxaddp 3 (-1)) (running (aCall [(3, 5)])) with
    | .next t => (t.arch.core 0).engine.run.map (fun r => (r.parm 3, r.pos))
    | _ => none) = some (4, 1) := by decide +kernel

theorem wit_FetchMicroOps :
    (let r := aCall [(1, 0xFE00000000000007)]; let s := running r; let d := (r.parm 1).toNat
     s.runs r ∧ d / 8 % 8 = 0 ∧ d % 8 + 0 < 8 ∧
      s.arch.engineFetch s.iss.core r.cmd (d / 64 * 64) (4224 * (0 + 1)) = .ok s.arch 0) ∧
    (let r := aCall [(1, 0x5FFFF00000000)]; let s := running r; let d := (r.parm 1).toNat; let W := 0 + 2; let a := s.arch
     let mo := d % 2 ^ 19; let eo := d / 2 ^ 32 % 2 ^ 19
     s.runs r ∧ r.got.length ≤ 0 + 1 ∧ r.row.length + 0 + 1 ≤ 256 ∧ d / 2 ^ 19 % 2 ^ 13 = 0 ∧ d / 2 ^ 51 = 0 ∧
      mo + 4 * W * (0 + 1) ≤ 0x60000 ∧ eo + 0 + 1 ≤ 0x60000 ∧
      a.engineFetch s.iss.core r.cmd (0xFE00000000000000 + (mo + 4 * W * 0)) (4 * W) = .ok a 0 ∧
      a.engineFetch s.iss.core r.cmd (0xFE00000000000000 + (eo + 0)) 1 = .ok a 0) ∧
    (let r := { aCall [] with cmd := { aCmd with a := [(1, pat17)] } }; let s := running r
     let pat := (SMap.get (0 : BitVec 256) r.cmd.a 1).toNat; let e := elemBytes pat
     let parts := (takeBytes e 0 0 9 (9 + 1)).1
     s.runs r ∧ ¬ (pat / 2 ^ 224 % 8 = 7 ∨ pat / 2 ^ 230 % 4 ≠ 0 ∨ pat / 2 ^ 251 % 32 ≠ 0) ∧ SMap.get 0 r.offs 1 < e ∧
      (∀ q ∈ parts, q.1 < patTotal pat) ∧ s.arch.fetchParts s.iss.core r.cmd pat parts 0 0 = .ok s.arch 0) := by
  unfold State.runs
  refine ⟨⟨by decide +kernel, by decide +kernel, by decide +kernel, by decide +kernel⟩,
    ⟨by decide +kernel, by decide +kernel, by decide +kernel, by decide +kernel, by decide +kernel, by decide +kernel, by decide +kernel, by decide +kernel,
     by decide +kernel⟩,
    ⟨by decide +kernel, by decide +kernel, by decide +kernel, by decide +kernel, by decide +kernel⟩⟩

/-- Row 2559, F 1, one plane, WB 0, anchor 16: a row of four blocks against two groups of two macros. -/
theorem wit_AccumulateMicroOp :
    (let r := { aCall [(2, 0x00000010000009FF)] with row := List.replicate 4 ⟨0, 0, 2, false⟩ }; let s := running r
     let d := (r.parm 2).toNat; let F := 2 ^ (d / 2 ^ 12 % 8); let n := 1 + 1
     s.runs r ∧ d % 2 ^ 12 < 2560 ∧ d / 2 ^ 12 % 8 < 7 ∧ d / 2 ^ 15 % 4 < 3 ∧ d / 2 ^ 20 % 8 < 7 ∧ d / 2 ^ 23 % 2 ^ 9 = 0 ∧ d / 2 ^ 43 = 0 ∧
      n % F = 0 ∧ d / 2 ^ 17 % 8 + d / 2 ^ 15 % 4 < 8 ∧ r.anchor = none ∧ 4 * F ≤ r.row.length ∧
      d % 2 ^ 12 + (32 * n + 64 * F - 1) / (64 * F) ≤ 2560 ∧ r.rows + (32 * n + 64 * F - 1) / (64 * F) ≤ 2048) := by
  unfold State.runs; decide +kernel

-- Holds, waits and homes

/-- Context A of core 0 runs and waits. -/
def waitsOn (w : Wait) (f : Context → Context) : State := ctxA fun t => f { t with status := .running, wait := some w }

theorem wit_HoldsAndWaitsEnd :
    (let s := ctxA fun t => { t with hold := some .landingBuffer }
     (s.arch.ctx 0 0).hold = some .landingBuffer ∧ (s.arch.core 0).landing < 3072) ∧
    (let s := ctxA fun t => { t with hold := some (.watermark 8 8), chans := [(2, { Chan.reset with state := .active, wm := 16, wmlim := 24 })] }
     (s.arch.ctx 0 0).hold = some (.watermark 8 8) ∧ watermark (s.arch.ctx 0 0).chans 8 8 ≠ .hold) ∧
    (let s := ctxA fun t => { t with hold := some .acquire }; (s.arch.ctx 0 0).hold = some .acquire ∧ (s.arch.ctx 0 0).acqs = []) ∧
    (let s := coreA fun k => { k with ctxs := [(0, { Context.reset with hold := some .engineQueue })],
                                      engine := { k.engine with queue := List.replicate 7 aCmd } }
     (s.arch.ctx 0 0).hold = some .engineQueue ∧ (s.arch.core 0).engine.commands 0 < 8) ∧
    (let w : Wait := ⟨.drain, 0, 3, false, 5⟩; let s := waitsOn w id
     (s.arch.ctx 0 0).status = .running ∧ (s.arch.ctx 0 0).wait = some w ∧ w.kind = .drain ∧ w.operand < 4 ∧ s.arch.reqs = [] ∧ s.arch.writeBacks = []) ∧
    (let w : Wait := ⟨.drain, 1, 4, false, 5⟩; let r := { z.req .st false (2 ^ 36) 8 7 with id := 4, win := some 1 }
     let s := z.setArch { (waitsOn w fun t => { t with sent := 1 }).arch with
       clock := 3 * 32768, reqs := [r], writeBacks := [⟨3, 0, 0, 128, [], some 1⟩] }
     (s.arch.ctx 0 0).wait = some w ∧ w.operand = 4 ∧ r.early = false ∧ (1 + 1) * 2 ^ s.arch.time.wlog2.toNat ≤ s.arch.now ∧
      (w.addr + 1) * 2 ^ s.arch.time.wlog2.toNat ≤ s.arch.now) ∧
    (let w : Wait := ⟨.tlwait, 15, 7, false, 0⟩; let s := waitsOn w fun t => { t with tl := [(15, 7)] }
     (s.arch.ctx 0 0).wait = some w ∧ w.kind = .tlwait ∧ w.operand ≤ ((s.arch.ctx 0 0).readTl w.addr).toNat) ∧
    (let w : Wait := ⟨.opgo, 0, 0, false, 0⟩
     let s := z.setArch { (waitsOn w id).arch with opq := List.replicate 257 ⟨0, 0, ⟨0, 0, 0, 0⟩, some (1, 0, 0), none, none, none, 0, false⟩ }
     (s.arch.ctx 0 0).wait = some w ∧ w.kind = .opgo ∧ (s.arch.opq.drop 256).map OpReq.src = [some (1, 0, 0)]) ∧
    (let w : Wait := ⟨.barwait, 0, 0, true, 0⟩; let s := waitsOn w id
     (s.arch.ctx 0 0).wait = some w ∧ w.kind = .barwait ∧ w.sat = true) ∧
    (let w : Wait := ⟨.waitev, 0, 1, false, 0⟩; let s := waitsOn w fun t => { t with ring := { t.ring with evsize := 20, evhead := 1 } }
     let r := (s.arch.ctx 0 0).ring
     (s.arch.ctx 0 0).wait = some w ∧ w.kind = .waitev ∧ 8 ≤ r.evsize.toNat ∧ r.evsize.toNat ≤ 20 ∧ w.operand ≤ (r.evhead - r.evtail).toNat) := by decide +kernel

/-- The groups that a BANKACQ waits for: free, and another context's. -/
theorem wit_HoldsAndWaitsEnd_bankacq : let w : Wait := ⟨.bankacq, 0, 0x801, false, 0⟩
    (let s := waitsOn w id
     (s.arch.ctx 0 0).status = .running ∧ (s.arch.ctx 0 0).wait = some w ∧ (∀ g, g < 12 → w.operand.testBit g = true → s.arch.acquirable 0 0 g) ∧
      ¬ s.arch.leavesToA 0 0 w.operand) ∧
    (let s := z.setArch ((waitsOn w id).arch.mapCore 0 (fun k => { k with owner := [(11, .b)] }))
     (s.arch.ctx 0 0).wait = some w ∧ w.operand.testBit 11 = true ∧ ¬ s.arch.acquirable 0 0 11) := by
  refine ⟨⟨rfl, rfl, fun g _ _ => (wit_free _ _ rfl rfl).2, fun h => absurd h.1 (by decide)⟩, ⟨rfl, by decide, fun h => ?_⟩⟩
  rcases h with h | h
  · exact absurd h (by decide +kernel)
  · rcases h.1 with h | h
    · exact absurd h (by decide +kernel)
    · exact absurd h.1 (by decide +kernel)

/-- The module with one access in flight, numbered 7. -/
def flying (r : Req) : State := z.setArch { z.arch with nextId := 8, reqs := [{ r with id := 7 }] }

/-- An access that has joined again since its translation was named, and one named that has not been withdrawn since; a core whose
clock is stopped, with a result due there. -/
theorem wit_AccessesArePerformed_named :
    (let r := { z.req .ldf false spad0 8 0 with id := 7, named := true }; let s := z.setArch { z.arch with reqs := [r] }
     s.arch.reqs.find? (fun q => q.id == 7) = some r ∧ r.st = .flight ∧ ¬ (r.named = false ∨ r.leaf.isSome = true)) ∧
    (let r := { z.req .ldf false (spad0 + 8) 8 0 with id := 7, named := true, leaf := some ⟨0, false, 0, 0, true, true⟩ }
     let s := z.setArch { (coreA fun k => { k with full := [(1, true)] }).arch with reqs := [r] }
     s.arch.reqs.find? (fun q => q.id == 7) = some r ∧ r.st = .flight ∧ (r.named = false ∨ r.leaf.isSome = true) ∧
      s.arch.leaves r = false ∧ s.arch.blocked r = false) ∧
    (let r := { nearReq .ld 0 0 0 with id := 7 }
     let s := z.setArch { (coreA fun k => { k with stretchLeft := 2 }).arch with reqs := [r] }
     s.arch.reqs.find? (fun q => q.id == 7) = some r ∧ (s.arch.core r.core).stopped = true) := by decide +kernel

theorem wit_AccessesArePerformed :
    (let r := { nearReq .st 0 5 0 with id := 7 }; let s := flying r
     s.arch.reqs.find? (fun q => q.id == 7) = some r ∧ r.st = .flight ∧ r.named = false ∧ s.arch.leaves r = false ∧ s.arch.blocked r = false) ∧
    (let r := { z.req .st false (2 ^ 36) 8 7 with id := 7 }; let s := z.setArch { z.arch with reqs := [r] }
     s.arch.reqs.find? (fun q => q.id == 7) = some r ∧ r.st = .flight ∧ s.arch.leaves r = true) ∧
    (let r := { nearReq .ld 0 0 0 with id := 7 }
     let s := z.setArch { z.arch with reqs := [{ nearReq .st 0 5 0 with id := 6 }, r] }
     s.arch.reqs.find? (fun q => q.id == 7) = some r ∧ r.st = .flight ∧ s.arch.leaves r = false ∧ s.arch.blocked r = true) ∧
    (let r := { nearReq .ld 0 0 0 with id := 7, tag := some 3 }; let p : Pend := ⟨.g, 1, full4096, 0, 1, 0, 0, 3, 0, false⟩
     let s := (ctxA fun t => { t with inflight := [p] }).setArch { (ctxA fun t => { t with inflight := [p] }).arch with reqs := [r] }
     let t := s.arch.ctx 0 0
     s.arch.reqs.find? (fun q => q.id == 7) = some r ∧ s.arch.leaves r = false ∧ s.arch.blocked r = false ∧ r.named = false ∧ (s.arch.core r.core).stopped = false ∧ r.tag = some 3 ∧ p ∈ t.inflight ∧ p.tag = 3 ∧ p.parts ≠ 0 ∧
      t.inflight.any (fun p => some p.tag == r.tag && p.parts != 0 && decide (p.due ≤ t.time)) = true ∧ s.arch.performAt r = .done s.arch 0) ∧
    (let r := { nearReq .ldf 8 0 0 with id := 7, st := .parked }
     let a := (coreA fun k => { k with full := [(1, true)], parked := [7] }).arch; let s := z.setArch { a with reqs := [r] }
     (s.arch.core 0).parked = 7 :: [] ∧ (s.arch.core 0).stopped = false ∧ s.arch.reqs.find? (fun q => q.id == 7 && q.st == .parked && s.arch.waiterReady q) = some r) ∧
    (let r := { z.req (.amo .fadd) false 0 4 0 with id := 7, comm := true, det := true }
     let s := z.setArch ({ z.arch with reqs := [r] }.mapBrick 0 (fun b => { b with detq := [7] }))
     (s.arch.brick 0).detq = 7 :: [] ∧ s.arch.reqs.find? (fun q => q.id == 7) = some r ∧ (s.arch.brick 0).dets.length < 4096) ∧
    (let r := { nearReq .ldf 8 0 0 with id := 7, near := false, core := 1, st := .parked }
     let s := z.setArch { (coreA fun k => { k with parked := [7] }).arch with reqs := [r] }
     (s.arch.core 0).parked[0]? = some 7 ∧ (s.arch.core 0).stopped = false ∧ s.arch.reqs.find? (fun q => q.id == 7) = some r ∧ r.st = .parked ∧ r.core ≠ 0) := by
  decide +kernel

/-- The image of 06's example: its eight words install and decode. -/
def rowskip : List Nat := [0x38000000, 0x48000000, 0x2B000000, 0x11400300, 0x1A03F000, 0x30000000, 0x40000000, 0x30000000]

theorem test_image : imageOk 0 rowskip = true ∧ rowskip.map decodeMicro = [some Instr.mxwaitb, some .mxskip, some (.mxloopReg 3),
    some (.mxstream 1 2 3), some (.mxacc 2 0 63), some .mxend, some .mxarr, some .mxend] := by decide +kernel

theorem wit_EngineActs :
    (let s := engineA fun e => { e with queue := [aCmd], routines := [(64, rowskip)] }; let e := (s.arch.core 0).engine
     (s.arch.core 0).stopped = false ∧ e.run = none ∧ e.queue = aCmd :: [] ∧ e.code aCmd.routine = some rowskip) ∧
    (let s := engineA fun e => { e with queue := [aCmd] }; let e := (s.arch.core 0).engine
     e.run = none ∧ e.queue = aCmd :: [] ∧ e.code aCmd.routine = none) ∧
    (let cmd := { aCmd with kind := .load, ga := some 0xFE00000000000000 }
     let mem := Memory.write (Memory.write [] spad0 8 1) (spad0 + 8) 4 0x30000000
     let s := z.setArch { (engineA fun e => { e with queue := [cmd] }).arch with mem := mem }
     (s.arch.core 0).engine.queue = cmd :: [] ∧ (0xFE00000000000000 : Word).toNat % 8 = 0 ∧ 0 < 1 ∧ 1 ≤ 4096 ∧
      s.arch.engineFetch 0 cmd 0xFE00000000000000 8 = .ok s.arch 1 ∧
      s.arch.engineFetch 0 cmd 0xFE00000000000008 (4 * 1) = .ok s.arch 0x30000000 ∧
      imageOk 0 (toLanes 32 1 0x30000000) = true) ∧
    (let cmd := { aCmd with kind := .drain, ga := some 0xFE0000000005FFF8 }; let s := engineA fun e => { e with queue := [cmd] }
     (s.arch.core 0).engine.queue = cmd :: [] ∧ barOperand 0xFE0000000005FFF8 = some 0x5FFF8 ∧ (s.arch.core 0).stashKey 0x5FFF8 = none ∧
      s.arch.nearStalls 0 0x5FFF8 8 = false ∧ s.arch.reqs = []) ∧
    -- a core whose clock is stopped
    (let s := coreA fun k => { k with stretchLeft := 2, engine := { k.engine with queue := [aCmd], run := some (aCall []) } }
     (s.arch.core 0).stopped = true ∧ (s.arch.core 0).engine.run = some (aCall [])) ∧
    (let r := { aCall [] with code := rowskip }; let s := running r
     (s.arch.core 0).engine.run = some r ∧ decodeMicro (r.code.getD r.pos 0) = some .mxwaitb) ∧
    (let r := { aCall [(0, 0xFE00000000000000)] with code := [0x08000000] }; let s := running r; let d := (r.parm 0).toNat
     (s.arch.core 0).engine.run = some r ∧ decodeMicro (r.code.getD r.pos 0) = some (.mxldb 0 0 0 0) ∧ d / 8 % 8 = 0 ∧ d % 8 + 0 < 8 ∧
      s.arch.engineFetch 0 r.cmd (d / 64 * 64) (4224 * (0 + 1)) = .ok s.arch 0) ∧
    (let m : Miss := ⟨.engine 0, 0, 0, 0, true, false, .ended .access, 0, 0, 0, false, false, false, 0⟩
     let r := { aCall [] with code := [0x08000000] }
     let s := coreA fun k => { k with engine := { k.engine with run := some r }, misses := [m] }
     (s.arch.core 0).engine.run = some r ∧ decodeMicro (r.code.getD r.pos 0) = some (.mxldb 0 0 0 0) ∧ r.cmd.ctx < 2 ∧
      m ∈ (s.arch.core 0).misses ∧ m.agent = .engine r.cmd.ctx ∧ m.stage = .ended .access ∧
      s.arch.engineFetch 0 r.cmd 0 (4224 * (0 + 1)) = .fault s.arch 0) := by
  refine ⟨by decide +kernel, by decide +kernel, ⟨by decide +kernel, by decide +kernel, by decide +kernel, by decide +kernel, by decide +kernel, by decide +kernel, by decide +kernel⟩,
    by decide +kernel, by decide +kernel, by decide +kernel, ⟨by decide +kernel, by decide +kernel, by decide +kernel, by decide +kernel, by decide +kernel⟩,
    by decide +kernel⟩

/-- Claims of a batch: by the Brick of the launch's unit, by one that takes no part, and with an NXTILE that waits. -/
theorem wit_TilesEventsAndChecks_claims : let v := { aLaunch with tiles := 5 }
    let e : ExecUnit := ⟨0, [33], 0, none, 0, 0, false, [], false, []⟩
    let s := z.setArch ({ z.arch with launches := [(0, some v)], units := [(1, some e)] } : Arch)
    s.arch.launch 0 = some v ∧ v.drained = false ∧ (e.launch = 0 ∧ e.fate = none ∧ (1, some e) ∈ s.arch.units) ∧
      (s.arch.routeSleeps 1 (v.base / 32) = false ∧ s.arch.routeSleeps (v.base / 32) 1 = false) ∧ 0 < min 32 (3 * 2 * 1 - v.tiles) ∧
      SMap.get [] (s.arch.brick 1).batches 0 = [] ∧ (33 / 32 = 1 ∧ 33 ∈ e.cores) ∧ (s.arch.brick 1).tileq = [] ∧
      -- Brick 7 takes no part
      (∀ x ∈ s.arch.units, ∀ u, x.2 = some u → u.launch = 0 → u.fate = none → ∀ c ∈ u.cores, c / 32 ≠ 7) ∧
      (s.arch.routeSleeps 7 (v.base / 32) = false ∧ s.arch.routeSleeps (v.base / 32) 7 = false) ∧
      ((s.arch.mapBrick 1 (fun k => { k with tileq := [⟨0, [(33, 0, 4)]⟩] })).brick 1).tileq = [⟨0, [(33, 0, 4)]⟩] := by
  refine ⟨rfl, rfl, ⟨rfl, rfl, by decide⟩, by decide +kernel, by decide, rfl, by decide, rfl, fun x hx u hu _ _ c hc => ?_, by decide +kernel, by decide +kernel⟩
  have hx : x = (1, some ⟨0, [33], 0, none, 0, 0, false, [], false, []⟩) := by simpa using hx
  subst hx
  obtain rfl := Option.some.inj hu
  have hc : c = 33 := by simpa using hc
  omega

/-- Machine checks on a die whose way to the host sleeps: on a context that runs, one that fails and one whose program has ended. -/
theorem wit_TilesEventsAndChecks_asleep : ∀ st ∈ [Status.running, .failing, .idle],
    let a := { z.arch with lowPort := (upTo 64).map (fun p => (p, 1)), units := [(1, some ⟨0, [32], 0, none, 0, 0, false, [], false, []⟩)] }
    let s := z.setArch (a.mapCtx 32 0 (fun t => { t with status := st, unit := some 1 }))
    s.arch.routeSleeps (32 / 32) 8 = true ∧ (s.arch.ctx 32 0).status = st ∧ s.arch.members 32 0 = [32] ∧ (s.arch.unit 1).isSome = true := by
  decide +kernel

theorem wit_TilesEventsAndChecks :
    (let e : Event := ⟨0x10, 0, 40, 9⟩
     let s := coreA fun k => { k with drainable := true, evq := [e], ctxs := [(0, { Context.reset with ring := { RingRegs.reset with evbase := 0xFE0000000005FF00, evsize := 8, evhead := 15 } })] }
     let r := (s.arch.ctx 0 e.ctx).ring; let size := 2 ^ r.evsize.toNat / 16
     (s.arch.core 0).drainable = true ∧ (s.arch.core 0).evq = e :: [] ∧ s.arch.reqs = [] ∧ 8 ≤ r.evsize.toNat ∧ r.evsize.toNat ≤ 20 ∧ r.stopped = false ∧ e.ctx < 2 ∧ r.acks = [] ∧
      (r.evhead - r.evtail).toNat ≠ size ∧ r.evbase.toNat + 16 * (r.evhead.toNat % size) = 0xFE00000000000000 + 0x5FFF0 ∧
      0x5FFF0 + 16 ≤ 0x60000 ∧ SMap.get Owner.free (s.arch.core 0).owner (0x5FFF0 / 0x8000) = .free ∧ (s.arch.core 0).prev = [] ∧ (s.arch.core 0).window = []) ∧
    (let a := (ctxA fun t => { t with status := .running }).arch
     (a.ctx 0 0).status ≠ .idle ∧ (a.ctx 0 0).status ≠ .failing ∧ a.members 0 0 = [0]) ∧
    (let e : ExecUnit := ⟨0, [0, 1], 0, none, 0, 0, false, [], false, []⟩
     let s := z.setArch (({ z.arch with units := [(1, some e)] } : Arch).mapCtx 1 0 (fun t => { t with status := .running, unit := some 1 }))
     (s.arch.ctx 1 0).status = .running ∧ 1 ∈ s.arch.members 1 0 ∧ (s.arch.members 1 0).Nodup) ∧
    ((ctxA fun t => { t with status := .failing }).arch.ctx 0 0).status = .failing ∧
    (let s := z.setArch (({ z.arch with units := [(1, some ⟨0, [0], 0, none, 0, 0, false, [], false, []⟩)] } : Arch).mapCtx 0 0 (fun t => { t with unit := some 1 }))
     (s.arch.ctx 0 0).status = .idle ∧ (s.arch.ctx 0 0).unit = some 1 ∧ (s.arch.unit 1).isSome = true) ∧
    (let e : ExecUnit := ⟨0, [0, 255], 1, none, 0, 0, true, [], false, []⟩; let s := z.setArch { z.arch with units := [(1, some e)] }
     s.arch.unit 1 = some e ∧ e.swapped = true ∧ e.fate = none ∧ e.cores.Nodup) := by decide +kernel

/-- The event entry of 05 lands at the ring's head. -/
theorem test_event_drain : (match exec (.eventDrain 0) (coreA fun k => { k with drainable := true, evq := [⟨0x10, 0, 40, 9⟩], ctxs := [(0, { Context.reset with ring := { RingRegs.reset with evbase := 0xFE00000000000800, evsize := 8, evhead := 3 } })] }) with
    | .next t => (Memory.read t.arch.mem (spad0 + 0x830) 16, (t.arch.ctx 0 0).ring.evhead)
    | _ => (0, 0)) = (0x10 + 2 ^ 32 * 40 + 2 ^ 64 * 9, 4) := by decide +kernel

-- Translation and coherence

/-- Nodes at 0x1000, 0x2000 and 0x3000 that map the first GiB of virtual addresses to the first GiB of Brick 0's stack. -/
def tables : Memory := Memory.write (Memory.write (Memory.write [] 0x1000 8 0x2001) 0x2000 8 0x3001) 0x3000 8 0xF

def withTables (a : Arch) : State := z.setArch { a with mem := tables }

def aMiss (st : MissStage) : Miss := ⟨.ctx 0, 0x1234, 0, 1, true, true, st, 0, 0, 0, false, false, false, 0⟩

theorem test_walk : ((withTables Arch.reset).arch.walkFrom 0 0 0x1234 4 0x1000).1 = .leaf true 0 true true := by decide +kernel

theorem wit_TranslationActs :
    (let m := aMiss .core; let s := z.setArch ((coreA fun k => { k with misses := [m] }).arch.mapBrick 0 (fun b =>
        { b with stb := [⟨0, true, 0, 0, true, true⟩] }))
     (s.arch.core 0).misses.find? (fun m => m.stage == .core) = some m ∧ findLeaf (s.arch.core 0).tlb m.asid m.va = none ∧
      findLeaf (s.arch.brick 0).stb m.asid m.va = some ⟨0, true, 0, 0, true, true⟩) ∧
    (let m := aMiss .core; let s := coreA fun k => { k with misses := [m] }
     (s.arch.core 0).misses.find? (fun m => m.stage == .core) = some m ∧ findLeaf (s.arch.brick 0).stb m.asid m.va = none ∧
      (s.arch.brick 0).walkq.length < 544) ∧
    (let m := aMiss .walker; let s := withTables ((coreA fun k => { k with misses := [m] }).arch.mapBrick 0 (fun b => { b with walkq := [(0, .ctx 0)] }))
     (s.arch.brick 0).walkq = [(0, m.agent)] ∧ (s.arch.core 0).miss m.agent = some m ∧ m.stage = .walker ∧
      s.arch.walkStart 0 m.asid m.va (m.root * 2 ^ 12) = (4, m.root * 2 ^ 12) ∧
      (s.arch.walkFrom 0 m.asid m.va 4 (m.root * 2 ^ 12)).2.cores = s.arch.cores ∧
      (s.arch.walkFrom 0 m.asid m.va 4 (m.root * 2 ^ 12)).1 = .leaf true 0 true true) ∧
    -- the entry of the second level, which the walker has kept, leads to the third
    (let s := withTables (z.arch.mapBrick 0 (fun b => { b with nodeCache := [⟨0, 3, 0, 0x2000⟩] }))
     (s.arch.walkStart 0 0 0x1234 0x1000).1 = 3) ∧
    -- a walk from a root in the stack of Brick 1, behind sleeping ports, waits
    (let m := { aMiss .walker with root := 2 ^ 24 }
     let s := z.setArch { ((coreA fun k => { k with misses := [m] }).arch.mapBrick 0 (fun b => { b with walkq := [(0, .ctx 0)] })) with
       lowPort := (upTo 8).map (fun p => (p, 1)) }
     (s.arch.core 0).miss m.agent = some m ∧ s.arch.place (m.root * 2 ^ 12) = .stack 1 0 ∧
      (s.arch.walkFrom 0 m.asid m.va 4 (m.root * 2 ^ 12)).1 = .wait) ∧
    (let m := { aMiss .walker with root := 0xC00000 }
     let s := withTables ((coreA fun k => { k with misses := [m] }).arch.mapBrick 0 (fun b => { b with walkq := [(0, .ctx 0)] }))
     (s.arch.brick 0).walkq = [(0, m.agent)] ∧ (s.arch.core 0).miss m.agent = some m ∧
      (s.arch.walkFrom 0 m.asid m.va 4 (m.root * 2 ^ 12)).1 = .fault .format) ∧
    (let m := aMiss .shadow; let s := coreA fun k => { k with misses := [m] }
     (s.arch.core 0).misses.find? (fun m => m.stage == .shadow) = some m ∧ (s.arch.ctx 0 2).status = .idle ∧
      ∀ n ∈ (s.arch.core 0).misses, n.stage ≠ .service) ∧
    -- a walk that is repeated starts at the root again
    ({ aMiss .walker with repeated := true }.repeated = true) ∧
    (let m := aMiss .service; let s := z.setArch { (coreA fun k => { k with misses := [m] }).arch with clock := 300000 }
     (s.arch.core 0).misses.find? (fun m => m.stage == .service) = some m ∧ m.since + 300000 ≤ s.arch.clock ∧ (s.arch.ctx 0 2).wait = none) ∧
    (SMap.wf Core.reset z.arch.cores = true ∧ SMap.wf Brick.reset z.arch.bricks = true ∧ z.arch.xlinv.busy = false) ∧
    -- accesses of another leaf, withdrawn ones and ones that have joined again are not waited for; one of the leaf is
    (let far : Req := { z.req .ld false 0 8 0 with id := 7 }; let l : Leaf := ⟨0, false, 0, 0, true, true⟩
     let s := z.setArch { z.arch with
       xlinv := ⟨0, true, 8⟩, fills := [⟨5, 0, 3, 2, 128, true, .sent, 0, false, some l, false⟩]
       opq := [⟨0x5000, 0x5000, ⟨0, 0, 0, 0⟩, some (0, 0, 9), none, none, none, 6, false⟩]
       reqs := [{ far with leaf := some l }, { far with id := 4, named := true, leaf := some l, st := .withdrawn }, { far with id := 5, named := true }] }
     s.arch.xlinv.busy = true ∧ (∀ r ∈ s.arch.reqs, ¬ (r.named = true ∧ r.leaf.isSome = true ∧ r.st ≠ .withdrawn)) ∧ s.arch.bricks = [] ∧
      (∀ f ∈ s.arch.fills, f.named = false) ∧ s.arch.writeBacks = [] ∧ (∀ q ∈ s.arch.opq, q.named = false)) ∧
    (let l : Leaf := ⟨0, false, 0, 0, true, true⟩
     let s := z.setArch { z.arch with xlinv := ⟨0, true, 8⟩, reqs := [{ z.req .ld false 0 8 0 with id := 7, named := true, leaf := some l }] }
     s.arch.xlinv.busy = true ∧ (∃ r ∈ s.arch.reqs, r.named = true ∧ r.leaf.isSome = true ∧ r.st ≠ .withdrawn)) ∧
    -- a withdrawn access of a context that resumes
    (let r : Req := { z.req .ldf false spad0 8 0 with id := 7, named := true, leaf := some ⟨0, false, 0, spad0, true, true⟩, st := .withdrawn }
     let s := z.setArch { z.arch with reqs := [r] }
     s.arch.reqs = [r] ∧ s.arch.rejoins 0 0 r = true ∧ r.named = true) := by
  refine ⟨by decide +kernel, by decide +kernel,
    ⟨by decide +kernel, by decide +kernel, by decide +kernel, by decide +kernel, by decide +kernel, by decide +kernel⟩, by decide +kernel,
    by decide +kernel, ⟨by decide +kernel, by decide +kernel, by decide +kernel⟩, by decide +kernel, rfl, by decide +kernel, by decide +kernel,
    by decide +kernel, by decide +kernel, by decide +kernel⟩

/-- A fill of line 1 (physical 128) for entry 2 of group 3 of core 0. -/
def aFill (st : FillStage) (owner : Bool) : Fill := ⟨5, 0, 3, 2, 128, owner, st, 0, false, none, false⟩

theorem wit_CoherenceActs :
    (let f := aFill .granted true
     let s := z.setArch ({ (coreA fun k => { k with window := [(3, some 0x8000)] }).arch with fills := [f] }.mapBrick 0 (fun b => { b with regions := [(0, .priv 0)] }))
     let a := s.arch
     a.fills.find? (fun f => f.id == 5) = some f ∧ f.stage = .granted ∧ (a.ctx f.core (a.fillCtx f)).detm = false ∧ (a.brick 0).lost = false ∧ (a.core f.core).stopped = false ∧ (∀ m ∈ a.snoops, m.fill ≠ 5) ∧ a.homeBrick f.pa = some 0 ∧
      a.routeSleeps 0 (f.core / 32) = false ∧ a.windowStalls 0 (f.core / 32) (a.window + 1) = false ∧
      (a.brick 0).covers (lineOf f.pa) (f.core / 32) f.owner = true ∧ f.entry < 256 ∧
      SMap.get none (a.core f.core).window f.group = some 0x8000 ∧ a.readable f.pa 128 = true) ∧
    (∀ v ∈ [Region.absent, .priv 0, .shared 2], let f := aFill .sent false
      let a := ({ z.arch with fills := [f] } : Arch).mapBrick 0 (fun b => { b with regions := SMap.set .absent [] (regionOf (lineOf f.pa)) v })
      a.fills = [f] ∧ f.stage = .sent ∧ a.homeBrick f.pa = some 0 ∧ (a.brick 0).lost = false ∧
        a.routeSleeps (f.core / 32) 0 = false ∧ (a.brick 0).region (regionOf (lineOf f.pa)) = v ∧ f.owner = false) ∧
    (∀ inval : Bool, let m : SnoopMsg := ⟨0, 0, 1, inval, 5, false, 0⟩
      let s := z.setArch { (coreA fun k => { k with stash := [(770, .owned)], stashLine := [(770, 1)] }).arch with snoops := [m] }
      s.arch.snoops = [m] ∧ s.arch.writeBacks = [] ∧ s.arch.routeSleeps m.home m.die = false ∧ s.arch.routeSleeps m.die m.home = false ∧ (s.arch.brick m.die).lost = false ∧
        0 ∈ s.arch.cores.map Prod.fst ∧ 770 ∈ (s.arch.core 0).holders m.line) ∧
    (let w : WriteBack := ⟨5, 0, 0, 128, List.replicate 128 1, none⟩; let s := z.setArch { z.arch with writeBacks := [w] }
     s.arch.writeBacks = [w] ∧ w.id = 5 ∧ s.arch.place w.pa = .stack 0 128 ∧ w.pa % 128 = 0 ∧ (s.arch.brick 0).lost = false ∧
      s.arch.routeSleeps (w.core / 32) 0 = false ∧ w.core / 32 = 0 ∧ s.arch.queues = []) ∧
    (let s := z.setArch (z.arch.mapBrick 0 (fun b => { b with dets := [⟨0x8000, 1, false, false, false, false, false⟩] }))
     (s.arch.brick 0).dets.length = 1 ∧ (∀ d ∈ (s.arch.brick 0).dets, s.arch.poisoned (d.pa / 128) = false) ∧ s.arch.queues = [] ∧
      SMap.wf Brick.reset s.arch.bricks = true ∧ ∀ e ∈ s.arch.bricks, ∀ d ∈ e.2.dets, s.arch.place d.pa = .stack e.1 0x8000) ∧
    (let a := z.arch.mapBrick 0 (fun b => { b with regions := [(0, .shared 3), (1, .priv 1)] })
     a.dieLines 1 0 = [] ∧ a.fills = [] ∧ a.routeSleeps 1 0 = false ∧ (a.brick 0).region 1 = .priv 1 ∧ (a.brick 0).region 0 = .shared 3 ∧
      (3 : BitVec 8) &&& ~~~BitVec.ofNat 8 (2 ^ 1) ≠ 0) := by decide +kernel

/-- A write-back to a stack whose die is lost. -/
theorem wit_CoherenceActs_lost : let w : WriteBack := ⟨5, 0, 0, 128, List.replicate 128 1, none⟩
    let s := z.setArch ({ z.arch with writeBacks := [w] }.mapBrick 0 (fun b => { b with lost := true }))
    s.arch.writeBacks = [w] ∧ w.id = 5 ∧ s.arch.place w.pa = .stack 0 128 ∧ (s.arch.brick 0).lost = true ∧ 0 < 8 ∧ w.core / 32 = 0 := by
  decide +kernel

/-- SnoopsTakeTheLine's premise that the step answers a next state. -/
theorem wit_SnoopsTakeTheLine : let s := z.setArch { (coreA fun k => { k with stash := [(770, .owned)], stashLine := [(770, 1)] }).arch with
      snoops := [⟨0, 0, 1, true, 5, false, 0⟩] }
    (match exec (.snoop 0 0 1 true) s with | .next t => SMap.get StashState.invalid (t.arch.core 0).stash 770 | _ => .owned) = .invalid := by
  decide +kernel

-- Copies

/-- Template 5 of 10's example. -/
def tmpl5 : BitVec 1024 := BitVec.ofNat 1024 (3 * 2 ^ 64 + 64 * 2 ^ 128 + 6 * 2 ^ 224 + 2 ^ 256 * (3 * 2 ^ 64 + 128 * 2 ^ 128 + 6 * 2 ^ 224))

/-- Channel 2 of 10's example, from scratchpad offset 0x2000 to 0x4000. -/
def chan2 : Chan := { Chan.reset with src := 0xFE00000000002000, dst := 0xFE00000000004000 }

/-- The context waits for its start of template 5 to be armed. -/
def starting (cnt : BitVec 13) : State := coreA fun k => { k with
  tmplCache := [(128 * 5, some tmpl5)]
  ctxs := [(0, { Context.reset with status := .running, tmplcnt := cnt, wait := some ⟨.start, 0, 2, false, 2⟩
                                    chans := [(2, { chan2 with start := some 5 })] })] }

def copying (f : Chan → Chan) : State := coreA fun k => { k with
  ctxs := [(0, { Context.reset with status := .running, chans := [(2, f { chan2 with state := .active, tmpl := tmpl5, lsrc := chan2.src, ldst := chan2.dst, wm := chan2.dst, wmbase := chan2.dst, wmlim := 0xFE000000000041C0 })] })] }

theorem wit_CopiesRun :
    (let s := ctxA fun t => { t with status := .running, chans := [(2, chan2)] }
     (s.arch.ctx 0 0).status = .running ∧ (s.arch.ctx 0 0).wait = none ∧ ((s.arch.ctx 0 0).chan 2).start = none) ∧
    (∀ st ∈ [Status.swapping, .debugHalted, .halting, .running],
      let a := (coreA fun k => { k with dbg := { k.dbg with stopch := true }, ctxs := [(0, { Context.reset with status := st, chans := [(2, { chan2 with start := some 5 })] })] }).arch
      (a.pausing 0 0 = true ↔ st ≠ .running) ∧ ((a.ctx 0 0).chan 2).start = some 5) ∧
    (let s := starting 6; let k := s.arch.ctx 0 0; let h := k.chan 2; let w : Word := 5
     (s.arch.core 0).stopped = false ∧ s.arch.pausing 0 0 = false ∧ h.start = some w ∧ h.state ≠ .active ∧ (k.wait.map (fun q => (q.kind, q.req))) = some (.start, 2) ∧ w.toNat % 2 ^ 12 < k.tmplcnt.toNat ∧
      SMap.get none (s.arch.core 0).tmplCache (k.asid.toNat * 2 ^ 64 + (k.tmplbase.toNat * 128 + 128 * (w.toNat % 2 ^ 12))) = some tmpl5 ∧
      s.arch.armCheck 0 0 { h with lsrc := h.src, ldst := h.dst, lctl := h.ctl, tmpl := tmpl5 } = none) ∧
    (let s := z.setArch (((starting 6).arch).mapCore 0 (fun k => { k with owner := [(0, .b)] })); let h := (s.arch.ctx 0 0).chan 2
     s.arch.armCheck 0 0 { h with lsrc := h.src, ldst := h.dst, lctl := h.ctl, tmpl := tmpl5 } = some 5) ∧
    (let s := starting 5; let k := s.arch.ctx 0 0; k.tmplcnt.toNat ≤ (5 : Word).toNat % 2 ^ 12 ∧ (k.chan 2).start = some 5) ∧
    (let s := copying fun h => { h with start := some 5 }; let h := (s.arch.ctx 0 0).chan 2; h.start = some 5 ∧ h.state = .active) ∧
    (let s := z.setArch ((copying id).arch.mapBrick 0 (fun b => { b with encq := [(0, 0, 2)] }))
     (s.arch.brick 0).encq = [(0, 0, 2)] ∧ ((s.arch.ctx 0 0).chan 2).enc = false ∧ s.arch.encoders 0 < 4) ∧
    (let s := copying fun h => { h with di := 3 }; let h := (s.arch.ctx 0 0).chan 2; let t := h.tmpl.toNat
     ((s.arch.core 0).stopped = false ∧ h.state = .active ∧ h.stop = none ∧ h.cancel = false ∧ tmplMode t = 0 ∧ patInd (tmplSrc t) = false ∧ h.srclim = 0 ∧
      patEsz (tmplSrc t) = patEsz (tmplDst t) ∧ (h.serial = true ∨ h.lineRun = 1) ∧ s.arch.reqs = [] ∧
       s.arch.writeBacks = [] ∧ s.arch.lowPort = []) ∧
      patAddr (tmplSrc t) h.di h.sbase none = Int.ofNat (spadVa + 0x20C0) ∧ 0x20C0 + 2 ^ patEsz (tmplDst t) ≤ spadSize ∧
      patAddr (tmplDst t) h.di h.dbase none = Int.ofNat (spadVa + 0x4180) ∧ 0x4180 + 2 ^ patEsz (tmplDst t) ≤ spadSize ∧
      h.di + 1 = patTotal (tmplDst t) ∧ h.arr = false ∧ h.badcnt = 0) ∧
    (let s := copying fun h => { h with lsrc := 2 ^ 63 }; let h := (s.arch.ctx 0 0).chan 2
     patAddr (tmplSrc h.tmpl.toNat) h.di h.sbase none = Int.ofNat (2 ^ 63) ∧ 2 ^ 63 / 2 ^ 56 ≠ 0 ∧ 2 ^ 63 / 2 ^ 56 ≠ 0xFE ∧
      (h.serial = true ∨ h.lineRun = 1)) := by decide +kernel

/-- 10, its example: arming sets the footprint 0x4000 to 0x41C0, and element 0 lands with WM at 0x4040. -/
theorem test_copy : (match exec (.copyArm 0 0 2) (starting 6) with
      | .next t => (((t.arch.ctx 0 0).chan 2).wmbase, ((t.arch.ctx 0 0).chan 2).wmlim)
      | _ => (0, 0)) = (0xFE00000000004000, 0xFE000000000041C0) ∧
    (match exec (.copyLand 0 0 2) (copying id) with | .next t => ((t.arch.ctx 0 0).chan 2).wm | _ => 0) = 0xFE00000000004040 := by
  decide +kernel

-- Launches, units, swaps and the debugger

/-- An unreleased launch of one unit on context A of core 0, with group 3 and entry 0x40; a unit of it. -/
def unit1 : Launch := { aLaunch with level := some 7, desc := BitVec.ofNat 2048 (2 ^ 8 + 2 ^ 28 + 2 ^ 128 * (0x40 * 2 ^ 37)), released := false }

def aUnit : ExecUnit := ⟨0, [0], 0, none, 0, 0, false, [], false, []⟩

def aLevel (kind : LevelKind) (pending record : Nat) : Level :=
  ⟨kind, none, none, 0, 3, 0, 0, pending, 0, 0, .running, false, 0, 0, record, 0, none, false, false, false, false⟩

def mod (f : Arch → Arch) : State := z.setArch (f z.arch)

/-- The front end runs. -/
def running_ (a : Arch) : Arch := { a with boot := { a.boot with state := .running } }

/-- The same launch once its release message has been sent, and the state at a time, with the time of its release. -/
def sentUnit : Launch := { unit1 with sent := some (6, [([0], 0)]) }
def sentAt (clock : Nat) (due : Option Nat) : State := mod fun a => { running_ a with
  clock := clock, launches := [(0, some { sentUnit with due := due })] }

theorem wit_UnitsAndLevelsRun :
    (let s := mod fun a => { running_ a with launches := [(0, some unit1)] }
     s.arch.launch 0 = some unit1 ∧ unit1.released = false ∧ s.arch.mayRelease unit1 = true ∧ s.arch.placeUnits unit1 = some [([0], 0)] ∧ s.arch.outranked 0 unit1 [(0, 0)] = false ∧
      s.arch.promised 0 unit1 [(0, 0)] = false ∧ s.arch.deaf [0] = false ∧ s.arch.reqs = [] ∧ unit1.sent = none) ∧
    -- two gangs of two
    (let v := { unit1 with desc := BitVec.ofNat 2048 (2 ^ 8 * 2 + 2 ^ 17 + 2 ^ 28 + 2 ^ 128 * (0x40 * 2 ^ 37)) }
     let s := mod fun a => { running_ a with launches := [(0, some v)] }; let us := [([0, 1], 0), ([2, 3], 0)]
     s.arch.launch 0 = some v ∧ s.arch.mayRelease v = true ∧ s.arch.placeUnits v = some us ∧ ((takes us).map Prod.fst).Nodup ∧
      s.arch.outranked 0 v (takes us) = false ∧ s.arch.promised 0 v (takes us) = false) ∧
    (let s := sentAt 102 (some 102); let v := { sentUnit with due := some 102 }
     s.arch.launch 0 = some v ∧ v.released = false ∧ s.arch.mayRelease v = true ∧ s.arch.coresFree v [0] 0 = true ∧ 102 ≤ s.arch.clock ∧
      (s.arch.mapCtx 0 0 (fun t => { t with unit := some 9 })).coresFree v [0] 0 = false ∧
      (ldBanks v.desc.toNat).testBit 3 = true ∧ SMap.get Owner.free (s.arch.core 0).owner 3 = .free) ∧
    ((sentAt 6 none).arch.launch 0 = some sentUnit ∧ sentUnit.due = none ∧ (sentAt 6 none).arch.mayRelease sentUnit = true ∧
      (sentAt 101 (some 102)).arch.clock < 102) ∧
    (let w := { aLevel .launch 1 0 with unit := some 4, state := .waiting }
     let s := mod fun a => { running_ a with clock := 300000000, launches := [(0, some unit1)], levels := [(7, some w)] }
     s.arch.launch 0 = some unit1 ∧ s.arch.mayRelease unit1 = true ∧ unit1.level = some 7 ∧ s.arch.level 7 = some w ∧ w.unit.isSome = true ∧
      w.state = .waiting ∧ s.arch.starvedBefore 7 = false ∧ unit1.waitingSince + 300000000 ≤ s.arch.clock) ∧
    (let e := { aUnit with fate := some .complete }; let v := { unit1 with released := true, level := none }
     let s := mod fun a => { a with launches := [(0, some v)], units := [(1, some e)] }
     s.arch.unit 1 = some e ∧ e.fate = some .complete ∧ s.arch.unitQuiet 1 e = true ∧ s.arch.launch e.launch = some v ∧ v.task = none) ∧
    (let v := aLevel .job 1 0; let a := (mod fun a => { a with levels := [(7, some v)] }).arch
     a.level 7 = some v ∧ v.record = 0) ∧
    (let v := aLevel .launch 0 0; let a := (mod fun a => { a with levels := [(7, some v)] }).arch
     a.levels = [(7, some v)] ∧ v.state.live = true ∧ v.pending = 0 ∧ v.isOpen = false) ∧
    (let v := { aLevel .launch 1 0x4000 with desc := BitVec.ofNat 1024 (2 ^ 128 * 0x1000) }
     let s := z.setArch { (withTables Arch.reset).arch with cancels := [0x4000], levels := [(7, some v)], launches := [(0, some unit1)] }
     s.arch.cancels = [0x4000] ∧ s.arch.levels = [(7, some v)] ∧ v.state.live = true ∧ v.cancelled = false ∧ v.kind = .launch ∧ v.record ≠ 0 ∧
      (({ s.arch with cancels := [] } : Arch).feXlate (queueRegs v.desc) v.record false true).1 = some 0x4000 ∧
      s.arch.launch 0 = some unit1 ∧ unit1.released = false) ∧
    dw (z.arch.queue 3).desc.toNat 0x38 63 0 = 0 ∧ z.arch.lowPort = [] ∧ z.arch.reqs = [] ∧ z.arch.writeBacks = [] := by
  refine ⟨by decide +kernel, by decide +kernel, by decide +kernel, by decide +kernel⟩

/-- R36: the time of the release is 64 fabric cycles after its message, on a fabric cycle that is a multiple of 4; then the unit runs
from ENTRY. -/
theorem test_release :
    (match exec (.launchRelease 0) (sentAt 6 none) with | .next t => (t.arch.launch 0).map Launch.due | _ => none) = some (some 102) ∧
    (match exec (.launchRelease 0) (sentAt 102 (some 102)) with | .next t => ((t.arch.ctx 0 0).status, (t.arch.ctx 0 0).pc) | _ => (.idle, 0)) =
      (.running, 0x40) := by
  decide +kernel

/-- A module whose Bricks are as after reset, and whose cores' stashes are empty, has everything at home. -/
theorem wit_allHome (a : Arch) (h : a.bricks = [] ∧ a.writeBacks = [] ∧ a.lowPort = [] ∧ ∀ e ∈ a.cores, e.2.stashLine = []) : a.allHome := by
  obtain ⟨hb, hw, hl, hc⟩ := h
  have hk : ∀ b, a.brick b = Brick.reset := fun b => by simp only [Arch.brick, hb]; rfl
  refine ⟨hw, hc, fun b => by rw [hk]; rfl, hl, fun l => ?_⟩
  unfold Arch.poisoned
  split <;> simp only [hk] <;> rfl

theorem wit_SwapsSaveAndRestore :
    (let s := mod fun a => ({ a with units := [(1, some aUnit)] } : Arch).mapCtx 0 0 (fun t => { t with status := .running, unit := some 1 })
     let frozen := (s.arch.swapBegin aUnit).swapPause aUnit
     s.arch.unit 1 = some aUnit ∧ aUnit.cores = [0] ∧ aUnit.ctx < 2 ∧ aUnit.fate = none ∧ aUnit.swapped = false ∧
      (s.arch.ctx 0 aUnit.ctx).atBoundary = true ∧ frozen.swapReady aUnit = true ∧ frozen.swapError aUnit = none ∧
      (frozen.swapHeld aUnit).isNone = true ∧ s.arch.deaf [0] = false ∧ s.arch.reqs = [] ∧ (s.arch.core 0).stashOf 0 = [] ∧
      s.arch.place (s.arch.saveArea 0 0) = .stack 0 0x0BF8000000) ∧
    -- a gang of two
    (let e := { aUnit with cores := [0, 1] }; let on (t : Context) : Context := { t with status := .running, unit := some 1 }
     let s := mod fun a => (({ a with units := [(1, some e)] } : Arch).mapCtx 0 0 on).mapCtx 1 0 on
     let frozen := (s.arch.swapBegin e).swapPause e
     s.arch.unit 1 = some e ∧ e.cores.Nodup ∧ e.cores ≠ [] ∧ (∀ c ∈ e.cores, (s.arch.ctx c e.ctx).atBoundary = true) ∧
      s.arch.deaf e.cores = false ∧ frozen.swapReady e = true ∧ frozen.swapError e = none ∧ (frozen.swapHeld e).isNone = true) ∧
    (let s := mod fun a => ({ a with units := [(1, some aUnit)], reqs := [nearReq .ld 0 0 0] } : Arch).mapCtx 0 0 (fun t => { t with status := .running, unit := some 1 })
     (s.arch.ctx 0 aUnit.ctx).atBoundary = true ∧ ((s.arch.swapBegin aUnit).swapPause aUnit).swapReady aUnit = false) ∧
    (let e := { aUnit with swapped := true, kept := [(0, Context.reset)] }; let v := { unit1 with released := true }
     let s := mod fun a => { a with units := [(1, some e)], launches := [(0, some v)] }
     s.arch.unit 1 = some e ∧ e.swapped = true ∧ e.kept = [(0, Context.reset)] ∧ s.arch.launch e.launch = some v ∧ s.arch.canRestore e = true ∧
      (∀ p ∈ s.arch.launches, ∀ w ∈ p.2, w.released = true) ∧ s.arch.reqs = [] ∧ s.arch.writeBacks = [] ∧ s.arch.cores = [] ∧
      s.arch.bricks = [] ∧ s.arch.lowPort = [] ∧ s.arch.modnum = z.arch.modnum ∧ s.arch.place (s.arch.saveArea 0 e.ctx) = .stack 0 0x0BF8000000 ∧ s.arch.savedGroups 0 e.ctx = 0) ∧
    (0 < 63 ∧ 63 < 64 ∧ 255 < 256) := by decide +kernel

theorem wit_DebuggerHaltsAndResumes :
    (let s := coreA fun k => { k with dbg := { k.dbg with hreqa := true }, ctxs := [(0, { Context.reset with status := .running })] }
     s.arch.members 0 0 = [0] ∧ s.arch.bricks = [] ∧ s.arch.writeBacks = [] ∧ s.arch.lowPort = [] ∧ (∀ e ∈ s.arch.cores, e.2.stashLine = []) ∧
      (s.arch.ctx 0 0).atBoundary = true ∧ (s.arch.ctx 0 0).stepOnce = false ∧ (s.arch.ctx 0 0).chans = [] ∧
      s.arch.reqs = [] ∧ (s.arch.core 0).dbg.hreq 0 = true) ∧
    (let s := coreA fun k => { k with dbg := { k.dbg with bpb := 0x3FFFF }, ctxs := [(1, { Context.reset with status := .running, pc := 0x3FFFE })] }
     s.arch.members 0 1 = [0] ∧ (s.arch.ctx 0 1).atBoundary = true ∧ (s.arch.ctx 0 1).wait = none ∧ (s.arch.ctx 0 1).bubbles = 0 ∧ (s.arch.core 0).dbg.bpb.getLsbD 0 = true ∧
      (s.arch.core 0).dbg.bpb.toNat / 2 % 2 ^ 17 = (s.arch.ctx 0 1).pc / 2 % 2 ^ 17) ∧
    (let s := coreA fun k => { k with dbg := { k.dbg with cleara := true }, ctxs := [(0, { Context.reset with status := .debugHalted })] }
     s.arch.members 0 0 = [0] ∧ s.arch.reqs = [] ∧ (s.arch.ctx 0 0).status = .debugHalted ∧ s.arch.writeBacks = [] ∧ (s.arch.core 0).stashLine = [] ∧
      s.arch.place (s.arch.saveArea 0 0) = .stack 0 0x0BF8000000 ∧ (s.arch.core 0).dbg.hreq 0 = false ∧ (s.arch.core 0).dbg.cleared 0 = true) ∧
    (let s := coreA fun k => { k with dbg := { k.dbg with hreqa := true, stepa := true }, ctxs := [(0, { Context.reset with status := .debugHalted })] }
     (s.arch.ctx 0 0).status = .debugHalted ∧ (s.arch.core 0).dbg.hreq 0 = true ∧ (s.arch.core 0).dbg.stepping 0 = true) := by decide +kernel

-- Queues, packets, graphs

/-- A descriptor of R273: a ring of 16 packets at 0x10000, translated by the nodes at 0x1000, EVLOG2 4 and no event ring. -/
def qdesc0 : Nat := 0x10000 + 2 ^ 64 * 4 + 2 ^ 128 * 0x1000 + 2 ^ 512 * 4

def firm (f : Arch → Arch) : State :=
  z.setArch (f { z.arch with boot := { z.arch.boot with state := .running }, mem := tables, qdesc := 0x8000 })

/-- Queue 3 armed with the present descriptor, changed by `f`. -/
def armedQ (f : Queue → Queue) : Arch → Arch := fun a =>
  a.mapQueue 3 (fun k => f { k with desc := BitVec.ofNat 1024 qdesc0, descPa := 0x8000, armed := true, mapped := true })

theorem wit_QueuesTakeDoorbells :
    (let s := firm fun a => { a with mem := Memory.write a.mem 0x8000 128 qdesc0 }
     s.arch.firmware = true ∧ (s.arch.queue 4095).armed = false ∧ s.arch.place s.arch.qdesc.toNat = .stack 0 0x8000 ∧
      s.arch.qdesc.toNat % 128 = 0 ∧ (s.arch.fePhys 0x8000 128).1.map ofBytes = some qdesc0 ∧ (s.arch.fePhys 0x8000 128).2.queueBad qdesc0 = false) ∧
    (let s := firm fun a => { a with qdesc := 0x8040 }; s.arch.firmware = true ∧ s.arch.qdesc.toNat % 128 ≠ 0) ∧
    -- a descriptor that breaks R273, and one in a poisoned line
    (let s := firm id
     s.arch.place s.arch.qdesc.toNat = .stack 0 0x8000 ∧ (s.arch.queue 4095).armed = false ∧ s.arch.qdesc.toNat % 128 = 0 ∧
      (s.arch.fePhys 0x8000 128).1.map (fun bs => (s.arch.fePhys 0x8000 128).2.queueBad (ofBytes bs)) = some true ∧
      ((firm fun a => a.mapBrick 0 (fun b => { b with poison := [(0x100, true)] })).arch.fePhys 0x8000 128).1 = none) ∧
    (let s := firm (armedQ fun k => { k with write := 0xFFFFFFFF, read := 0xFFFFFFFF }); let k := s.arch.queue 3
     let d := (BitVec.ofNat 32 0xF - k.write).toNat
     s.arch.firmware = true ∧ k.armed = true ∧ 0 < d ∧ d < 2 ^ 31 ∧ (BitVec.ofNat 32 0xF - k.read).toNat ≤ 2 ^ dw k.desc.toNat 0x08 4 0 ∧
      2 ^ dw k.desc.toNat 0x08 4 0 < (BitVec.ofNat 32 0x10 - k.read).toNat ∧ 2 ^ 31 ≤ (BitVec.ofNat 32 0x7FFFFFFF - k.write).toNat) ∧
    (let b : Doorbell := ⟨3, 1, 0, 0, none, 0, 9, 0⟩; let s := firm fun a => { a with doorbells := [b] }
     s.arch.doorbells = [b] ∧ s.arch.reqs = [] ∧ s.arch.writeBacks = [] ∧ (s.arch.queue b.queue).armed = false) ∧
    (let b : Doorbell := ⟨3, 1, 0, 0, none, 0, 9, 0⟩; let s := firm fun a => armedQ id { a with doorbells := [b] }
     (s.arch.queue b.queue).armed = true ∧ (s.arch.queue b.queue).desc.getLsbD 71 = false) ∧
    (∀ e ∈ [(1, 0, false), (1, 17, true), (0, 1, false)],
      let b : Doorbell := ⟨3, e.2.1, 0, 0, none, BitVec.ofNat 12 e.1, 9, 0⟩
      let s := firm fun a => armedQ (fun k => { k with desc := BitVec.ofNat 1024 (qdesc0 + 2 ^ 71) }) { a with doorbells := [b] }
      let k := s.arch.queue b.queue
      k.desc.getLsbD 71 = true ∧ (e.1 = 1 → dw k.desc.toNat 0x08 19 8 ≠ b.asid.toNat) ∧
        (e.1 = 0 → dw k.desc.toNat 0x08 19 8 = b.asid.toNat ∧ 0 < (BitVec.ofNat 32 b.w - k.write).toNat ∧
          ¬ 2 ^ dw k.desc.toNat 0x08 4 0 < (BitVec.ofNat 32 b.w - k.read).toNat)) ∧
    (let k := (firm (armedQ id)).arch.queue 3; 2 ^ dw k.desc.toNat 0x08 4 0 < (BitVec.ofNat 32 17 - k.read).toNat) := by decide +kernel

/-- The phase of the queue's open job. -/
def phaseL : Level := { aLevel .phase 0 0 with parent := some 7, isOpen := true }

/-- Queue 3 with one packet in its ring, and the doublewords of a launch descriptor, a graph node and a signal. -/
def queued (raw : Nat) : State := firm fun a =>
  armedQ (fun k => { k with write := 1, job := some 7, phase := some 8 })
    { a with mem := Memory.write (Memory.write (Memory.write a.mem 0x4000 256 (2 ^ 8 + 2 ^ 64 * 0x4200 + 2 ^ 128 * 2)) 0x6000 8 5) 0x10000 64 raw
             levels := [(7, some { aLevel .job 0 0 with isOpen := true }), (8, some phaseL)] }

def pk (raw : Nat) : Packet := ⟨0, BitVec.ofNat 512 raw, .waiting, none, none, some 8, BitVec.ofNat 1024 qdesc0, false, [], []⟩

/-- The module once READ has moved on. -/
def taken (raw : Nat) : Arch :=
  (((queued raw).arch.nextPacket 3).2.mapQueue 3 Queue.pass).mirror 3

theorem takes_of (raw t : Nat) (h : (queued raw).arch.mayParse 3 = true ∧ dw (pk raw).raw.toNat 0 7 0 = t ∧
    packetBad (pk raw).raw.toNat = false ∧ ((queued raw).arch.nextPacket 3).1 = some (pk raw).raw.toNat ∧
    (taken raw).phaseOf 3 = some (8, phaseL) ∧ pktAchain (pk raw).raw = false ∧ (taken raw).packetDepth (pk raw) < 16 ∧
    (queued raw).arch.opq.length < 256 ∧ (let k := (queued raw).arch.queue 3; k.read.toNat = 0 ∧ k.pubs = [] ∧ k.desc = (pk raw).desc ∧ k.dead = [] ∧ k.phase = some 8)) :
    (queued raw).arch.takes 3 t (pk raw) (taken raw) := by
  obtain ⟨h1, h2, h3, h4, h5, h6, h7, h8, h9, h10, h11, h12, h13⟩ := h
  refine ⟨h1, h2, h3, by simp [h12], ?_, ⟨((queued raw).arch.nextPacket 3).2, Prod.ext h4 rfl, rfl⟩, .inr ⟨_, _, h5, rfl⟩, by simp [h6], h7, h8⟩
  simp only [h9, h10, h11, h13]; rfl

/-- Packets NOP, SIGNAL (0x6000, ADD 1), LAUNCH (0x4000), CODED (0x5000), GRAPH (one node at 0x5000), PHASE_END with LAST
and without, and BARRIER_AND of 0x6000. -/
def rawOf (t b0 b1 b2 : Nat) : Nat := t + 2 ^ 192 * b0 + 2 ^ 256 * b1 + 2 ^ 320 * b2

theorem wit_PacketsAct :
    ((queued (rawOf 1 0 0 0)).arch.takes 3 1 (pk (rawOf 1 0 0 0)) (taken (rawOf 1 0 0 0))) ∧
    ((queued (rawOf 6 0x6000 1 0)).arch.takes 3 6 (pk (rawOf 6 0x6000 1 0)) (taken (rawOf 6 0x6000 1 0))) ∧
    (let r := rawOf 2 0x4000 0 0; (queued r).arch.takes 3 2 (pk r) (taken r) ∧
      ((taken r).readLaunch (queueRegs (pk r).desc) (pktBody (pk r).raw.toNat 0)).1.isSome = true ∧
      (((taken r).readLaunch (queueRegs (pk r).desc) (pktBody (pk r).raw.toNat 0)).2.queue 3).phase = ((taken r).queue 3).phase) ∧
    (let r := rawOf 3 0x5000 0 0; (queued r).arch.takes 3 3 (pk r) (taken r) ∧
      ((taken r).feXlate (queueRegs (pk r).desc) (pktBody (pk r).raw.toNat 0) true false).1 = some 0x5000) ∧
    (let r := rawOf 4 0x5000 1 0; (queued r).arch.takes 3 4 (pk r) (taken r) ∧
      (((taken r).readNodes (queueRegs (pk r).desc) (pktBody (pk r).raw.toNat 0) 1 1).1.map graphOk) = some true) ∧
    (let r := rawOf 7 0 1 0; (queued r).arch.takes 3 7 (pk r) (taken r) ∧ ((taken r).queue 3).job = some 7 ∧ ((taken r).level 7).isSome = true ∧
      pktBody (pk r).raw.toNat 1 = 1) ∧
    (let r := rawOf 7 0x6000 0 0; (queued r).arch.takes 3 7 (pk r) (taken r) ∧ pktBody (pk r).raw.toNat 1 = 0) ∧
    (z.arch.writeBacks = [] ∧ z.arch.cores = [] ∧ (∀ b ∈ z.arch.bricks, b.2.dets = []) ∧ 0x6000 % 8 = 0 ∧ z.arch.place 0x6000 = .stack 0 0x6000) := by
  refine ⟨takes_of _ _ (by decide +kernel), takes_of _ _ (by decide +kernel), ⟨takes_of _ _ (by decide +kernel), by decide +kernel, by decide +kernel⟩,
    ⟨takes_of _ _ (by decide +kernel), by decide +kernel⟩, ⟨takes_of _ _ (by decide +kernel), by decide +kernel⟩,
    ⟨takes_of _ _ (by decide +kernel), by decide +kernel, by decide +kernel, by decide +kernel⟩, ⟨takes_of _ _ (by decide +kernel), by decide +kernel⟩,
    by decide +kernel⟩

/-- SIGNAL ADD reaches its signal: 5 + 1. -/
theorem test_signal : Memory.read ((taken (rawOf 6 0x6000 1 0)).signalAtomic 0x6000 0 1).mem 0x6000 8 = 6 := by decide +kernel

/-- A graph of one node of queue 3's level 8. -/
def graph1 (n : Node) (admitted : Bool) : Arch → Arch := fun a => { a with graphs := [(2, some ⟨8, 3, [n], admitted⟩)] }

theorem wit_BarriersAndGraphs :
    (let r := rawOf 5 0x6000 0 0; (queued r).arch.takes 3 5 (pk r) (taken r) ∧
      (let q := ((taken r).keepPacket 3 { pk r with progress := .started }).namedSignals (queueRegs (pk r).desc)
         (((upTo 5).map (pktBody (pk r).raw.toNat)).filter (fun v => v != 0))
       q.1 = some [0x6000] ∧ { pk r with progress := .started } ∈ (q.2.queue 3).packets)) ∧
    (let p := { pk (rawOf 5 0x6000 0 0) with progress := .started, named := [0x6000], evals := [[0]] }
     let s := firm (armedQ fun k => { k with packets := [p] })
     let q := s.arch.namedSignals (queueRegs p.desc) (((upTo 5).map (pktBody p.raw.toNat)).filter (fun v => v != 0))
     s.arch.firmware = true ∧ (s.arch.queue 3).packets = [p] ∧ p.progress = .started ∧ p.level = none ∧ p.evals = [0] :: [] ∧
      q.1 = some [0x6000] ∧ (q.2.queue 3).packets = [p]) ∧
    (let p := { pk (rawOf 5 (2 ^ 60) 0 0) with progress := .started, named := [0x6000], evals := [[0]] }
     let s := firm (armedQ fun k => { k with packets := [p] })
     let q := s.arch.namedSignals (queueRegs p.desc) (((upTo 5).map (pktBody p.raw.toNat)).filter (fun v => v != 0))
     q.1 = none ∧ (q.2.queue 3).packets = [p]) ∧
    (let n : Node := ⟨true, 0x5000, 0, [], 0, .waiting, none, 0⟩
     let s := z.setArch ((graph1 n false (queued 0).arch).mapBrick 0 (fun b => { b with nodes := 1023 }))
     s.arch.firmware = true ∧ s.arch.graph 2 = some ⟨8, 3, [n], false⟩ ∧ (∀ e ∈ s.arch.graphs, e.1 < 2 → e.2.map Graph.admitted ≠ some false) ∧
      (∀ b, b < 8 → (s.arch.brick b).nodes + ([n].filter (fun k => k.slice == b && !k.progress.ended)).length ≤ 1024)) ∧
    (let n : Node := ⟨true, 0x5000, 0, [], 0, .waiting, none, 0⟩; let w := { phaseL with desc := BitVec.ofNat 1024 qdesc0 }
     let s := z.setArch { graph1 n true (queued 0).arch with levels := [(8, some w)] }
     s.arch.graph 2 = some ⟨8, 3, [n], true⟩ ∧ n.progress = .waiting ∧ n.preds = 0 ∧ s.arch.level 8 = some w ∧ w.cancelled = false ∧
      n.coded = true ∧ n.desc % 128 = 0 ∧ (s.arch.feXlate (queueRegs w.desc) n.desc true false).1 = some 0x5000 ∧ s.arch.opq.length < 256 ∧
      (s.arch.feXlate (queueRegs w.desc) n.desc true false).2.graph 2 = some ⟨8, 3, [n], true⟩) ∧
    (let n : Node := ⟨false, 0x4000, 0, [], 0, .waiting, none, 0⟩; let w := { phaseL with desc := BitVec.ofNat 1024 qdesc0 }
     let s := z.setArch { graph1 n true (queued 0).arch with levels := [(8, some w)] }
     (s.arch.readLaunch (queueRegs w.desc) n.desc).1.isSome = true ∧
      (s.arch.readLaunch (queueRegs w.desc) n.desc).2.graph 2 = some ⟨8, 3, [n], true⟩) := by
  refine ⟨⟨takes_of _ _ (by decide +kernel), by decide +kernel⟩, by decide +kernel, by decide +kernel, by decide +kernel, by decide +kernel,
    by decide +kernel⟩

theorem wit_SlotsWorkersAndEnergy :
    (let s := firm fun a => armedQ id { a with readyList := [5], clock := 300000 }
     s.arch.firmware = true ∧ s.arch.readyList = 5 :: [] ∧ 5 ≠ 3 ∧ (s.arch.queue 3).mapped = true ∧ (s.arch.queue 3).mappedAt + 300000 ≤ s.arch.clock) ∧
    (queued (rawOf 1 0 0 0)).arch.mayParse 3 = true ∧
    (let s := firm (armedQ fun k => { k with desc := BitVec.ofNat 1024 (qdesc0 + 2 ^ (512 + 16) * 100), charge := 90 }); let k := s.arch.queue 3
     let budget := dw k.desc.toNat 0x40 47 16
     s.arch.firmware = true ∧ budget ≠ 0 ∧ k.armed = true ∧ k.charge + 9 < budget ∧ budget ≤ k.charge + 10 ∧ k.throttled = false) ∧
    (let s := firm fun a => { a with clock := 3000000 }; s.arch.firmware = true ∧ s.arch.periodStart < s.arch.now / 1000000) := by decide +kernel

-- Coded operators, reductions

/-- A descriptor of one data task on Brick 0, with its record at 0x7000 and its image and slot in the stack. -/
def opd : Nat := 2 ^ 8 * 0 + 2 ^ 128 * 0x9000 + 2 ^ 192 * 2 + 2 ^ 256 * 0xA000 + 2 ^ (8 * 0x38) * 0x7000

def opState (f : Arch → Arch) : State := firm fun a => f { a with mem := Memory.write a.mem 0x5000 128 opd }

def opRegs : XlRegs := ⟨1, 0, 0, 0⟩

def anOp (st : OpState) : OpSet :=
  ⟨BitVec.ofNat 1024 opd, opRegs, none, none, none, none, 512, st,
    [⟨.running, none, 0⟩, ⟨.running, none, 0⟩], 0, 0, 0, 0, 0, 0, 0, 0, 0, 0, none, none⟩

theorem wit_OperatorsOpenAndClose :
    (let r : OpReq := ⟨0x5000, 0x5000, opRegs, none, none, none, none, 0, false⟩; let s := opState fun a => { a with opq := [r] }
     let q := s.arch.fePhys r.pa 128; let a : Arch := { q.2 with opq := [] }
     let tile := a.opTile opd; let record := tile.2.recordAt r.regs opd
     s.arch.firmware = true ∧ s.arch.opq = r :: [] ∧ s.arch.opReady r = true ∧ (upTo 64).find? (fun i => (s.arch.op i).isNone) = some 0 ∧
      q.1.map ofBytes = some opd ∧ opOuter opd = false ∧ opBad opd = false ∧ record.1 = some 0x7000 ∧ opBar opd = 0 ∧
      (record.2.opSpace r.regs opd tile.1).1 = true ∧ (∀ b ∈ a.bricks, b.2.lost = false)) ∧
    (let r : OpReq := ⟨0x0C00000000, 0x5000, opRegs, some (0, 0, 9), none, none, none, 0, false⟩; let s := opState fun a => { a with opq := [r] }
     s.arch.opq = r :: [] ∧ s.arch.opReady r = true ∧ (s.arch.fePhys r.pa 128).1 = none ∧ r.src = some (0, 0, 9) ∧ r.outer = none ∧ r.level = none ∧
      (s.arch.fePhys r.pa 128).2.deaf [0] = false) ∧
    -- a barrier in the scratchpad of core 0, at a virtual address of 1 GiB
    (let d := opd + 2 ^ (8 * 0x40) * 2 ^ 30; let a := (opState fun a => { a with mem := Memory.write a.mem 0x3008 8 0x0F000000000F }).arch
     opBad d = false ∧ opBar d ≠ 0 ∧ (a.opBarAt opRegs d).1 = some spad0) ∧
    (let e := { aUnit with fate := some .complete }; let v := { unit1 with task := some (0, 1), released := true, level := none }; let o := anOp .opened
     let s := opState fun a => { a with ops := [(0, some o)], units := [(1, some e)], launches := [(0, some v)] }
     s.arch.op 0 = some o ∧ o.state = .opened ∧ o.closed = none ∧ o.overdue s.arch.clock = false ∧ s.arch.unit 1 = some e ∧ s.arch.launch e.launch = some v ∧ v.task = some (0, 1) ∧
      e.fate = some .complete ∧ s.arch.unitQuiet 1 e = true ∧ (s.arch.brick 0).lost = false ∧ (s.arch.ctx 0 e.ctx).exact = false ∧
      1 < o.tasks.length ∧ (o.tasks[0]?.map Task.state) = some .running ∧ (s.arch.slotReach o 1 true).1.isSome = true ∧
      (s.arch.slotReach o 1 true).2.op 0 = some o) ∧
    (let o := { anOp .opened with tk := some 0, tasks := [⟨.usable, none, 0⟩] }; let s := opState fun a => { a with ops := [(0, some o)], clock := 2 }
     s.arch.op 0 = some o ∧ o.closed = none ∧ o.tk = some 0 ∧ 2 * (0 + o.desc.toNat / 2 ^ 384 % 2 ^ 32 * 3000) / 3 < 2 * s.arch.clock / 3 ∧ opK o.desc.toNat ≤ o.usables) ∧
    (let o := { anOp .opened with desc := BitVec.ofNat 1024 (opd + 2 ^ 416) }; let s := opState fun a => { a with ops := [(0, some o)], clock := 3002 }
     let tmax := o.desc.toNat / 2 ^ 416 % 2 ^ 32
     tmax ≠ 0 ∧ o.usables < opK o.desc.toNat ∧ 2 * (o.opened + tmax * 3000) / 3 < 2 * s.arch.clock / 3) ∧
    (let o := { anOp .opened with closed := some 3 }; let s := opState fun a => { a with ops := [(0, some o)] }
     s.arch.op 0 = some o ∧ o.state = .opened ∧ o.closed.isSome = true ∧ s.arch.unitFree o = true) ∧
    (let o := { anOp .decoding with usable := 1 }; let s := opState fun a => { a with ops := [(0, some o)] }
     o.state = .decoding ∧ s.arch.ops = [(0, some o)] ∧ opR o.desc.toNat = 0 ∧ o.usable = BitVec.ofNat 8 (2 ^ opK o.desc.toNat - 1)) := by
  refine ⟨by decide +kernel, by decide +kernel, by decide +kernel, by decide +kernel, by decide +kernel, by decide +kernel, by decide +kernel⟩

theorem wit_MissingTilesAreRebuilt : let x : Nat → Int := fun m => if m = 0 then -2 ^ 63 else 2 ^ 63 - 1
    [0, 7].Nodup ∧ [0, 2].Nodup ∧ [0, 2].length = [0, 7].length ∧ (∀ m ∈ [0, 7], m < 8) ∧ (∀ p ∈ [0, 2], p < 3) ∧
    (∀ m ∈ [0, 7], -2 ^ 63 ≤ x m ∧ x m ≤ 2 ^ 63 - 1) := by decide +kernel

/-- 12, its example of k = 3 and r = 2: from P0 = 10 and P1 = 22, with D0 = 5 known, D1 = -2 and D2 = 7. -/
theorem test_rebuild : solveElem [1, 2] [0, 1] [10 - 5, 22 - 5] = some [-2, 7] := by decide +kernel

/-- A descriptor of the reduction engine: 8 bytes of I64 from 0x4000 to 0x6000, from port 2 (RX) and to port 3 (TX), tag 9. -/
def redd (len : Nat) : Nat := 0x4000 + 2 ^ 64 * 0x6000 + 2 ^ 128 * (len + 2 ^ 32 * 3 + 2 ^ 38 * 4) + 2 ^ 192 * (8 + 2 ^ 12 * 9)

def reducing (len : Nat) (held : List Stream) : State := mod fun a => { a with
  links := { a.links with port := [(2, { Link.reset with state := .up }), (3, { Link.reset with state := .up })] }
  red := { a.red with queue := [⟨BitVec.ofNat 512 (redd len), 0, none⟩], held := held } }

theorem wit_ReductionsRun :
    (0x8000 % 2 ^ 56 % 64 = 0 ∧ z.arch.place 0x8000 = .stack 0 0x8000 ∧ z.arch.readable 0x8000 64 = true ∧ z.arch.red.queue.length < 16 ∧
      (z.arch.reachHeld 8 0x8000 64 false).isNone = true ∧ 0x8008 % 2 ^ 56 % 64 ≠ 0) ∧
    -- the descriptor is behind sleeping ports
    (let a : Arch := { z.arch with lowPort := (upTo 64).map (fun p => (p, 1)) }
     a.red.queue.length < 16 ∧ a.place 0x8000 = .stack 0 0x8000 ∧ (a.reachHeld 8 0x8000 64 false).isSome = true) ∧
    (let r := { z.req .st false 0x0E0000004000 8 0x8000 with id := 4 }; let s := mod fun a => { a with reqs := [r] }
     s.arch.redWaiter = some r ∧ s.arch.red.queue.length < 16) ∧
    ((reducing 8 []).arch.link 2).state = .up ∧
    -- the operand lies in module 1, reached over port 2: not asked for yet, and unanswered for as long as TMO says
    (∀ t ∈ [none, some 0],
      let w : Stream := ⟨2, 9, toBytes 8 5, 0⟩
      let s := mod fun a => { (reducing 8 [w]).arch with
        clock := 12000000, links := { (reducing 8 [w]).arch.links with route := [(1, 0x12)] }
        red := { a.red with queue := [⟨BitVec.ofNat 512 (redd 8 + 2 ^ 48), 0, t⟩], held := [w] } }
      (match s.arch.redNext with | .go d _ _ _ => s.arch.redFar d == [2] && (s.arch.redHolds d false).isNone | _ => false) = true ∧
        s.arch.red.askedAt = t ∧ 0 + s.arch.links.tmo.toNat * 3000000 ≤ s.arch.clock) ∧
    (let w : Stream := ⟨2, 9, [1], 0⟩
     let s := mod fun a => { a with clock := 12000001, red := { a.red with held := [w] } }
     s.arch.red.stream 2 9 = some w ∧ w.since + s.arch.links.tmo.toNat * 3000000 < s.arch.clock ∧ s.arch.red.queue = []) ∧
    (let w : Stream := ⟨2, 9, toBytes 8 5, 0⟩
     let a := (reducing 8 [w]).arch
     a.redNext = .go (redd 8) 0x4000 0x6000 [w] ∧ a.redFar (redd 8) = [] ∧ (a.redHolds (redd 8) true).isNone = true ∧ a.reqs = []) ∧
    ((reducing 4 []).arch.redNext = .fail (redd 4) 1 ∧ 1 < 256 ∧ ((reducing 4 []).arch.redHolds (redd 4) false).isNone = true) := by decide +kernel

-- Links, windows, time, power, host, boot

/-- A start whose template lies in module 1, asked for over port 2, and unanswered for as long as TMO says. -/
theorem wit_LinksWindowsAndTime_start :
    let s := coreA fun k => { k with
      tlb := [⟨0, false, 0, 2 ^ 48, true, true⟩]
      ctxs := [(0, { Context.reset with status := .running, tmplcnt := 6, wait := some ⟨.start, 0, 2, false, 2⟩
                                        chans := [(2, { chan2 with start := some 5, asked := some 0 })] })] }
    let a : Arch := { s.arch with clock := 12000000, links := { s.arch.links with port := [(2, { Link.reset with state := .up })], route := [(1, 0x12)] } }
    a.ops = [] ∧ a.red.queue = [] ∧ a.startChans = [(0, 0, 2)] ∧ a.activeChans = [] ∧ 0 + a.links.tmo.toNat * 3000000 ≤ a.clock ∧
      (match (a.readTemplate 0 0 2 ((a.ctx 0 0).templateVa 5)).1 with | .fault _ => true | _ => false) = false ∧
      (match ((a.without 2).readTemplate 0 0 2 ((a.ctx 0 0).templateVa 5)).1 with | .fault _ => true | _ => false) = true := by
  decide +kernel

theorem wit_LinksWindowsAndTime :
    (z.arch.links.enable.getLsbD 11 = true ∧ (z.arch.link 11).state ≠ .up) ∧
    (let s := mod fun a => { a with links := { a.links with port := [(2, { Link.reset with state := .up, failsInRow := 63 })] } }
     (s.arch.link 2).state = .up ∧ (s.arch.link 2).failsInRow = 63) ∧
    (let s := copying fun h => { h with lsrc := 0x8000, asked := some 0 }
     let a : Arch := { s.arch with clock := 12000000, cores := s.arch.cores.map (fun (e : Nat × Core) => (e.1, { e.2 with tlb := [⟨0, false, 0, 2 ^ 48, true, true⟩] })), links := { s.arch.links with port := [(2, { Link.reset with state := .up })], route := [(1, 0x12)] } }
     a.ops = [] ∧ a.red.queue = [] ∧ a.startChans = [] ∧ a.activeChans = [(0, 0, 2)] ∧ (a.linkFault 2 0 0 2).isSome = true ∧ ((a.ctx 0 0).chan 2).cancel = false ∧
      ((a.ctx 0 0).chan 2).asked = some 0 ∧ 0 + a.links.tmo.toNat * 3000000 ≤ a.clock) ∧
    ((∀ e ∈ z.arch.cores, ∀ x ∈ e.2.ctxs, x.2.detm = false) ∧ SMap.get 0 z.arch.lowPort (7 * 8 + 1) = 0) ∧
    (let m : SnoopMsg := ⟨0, 1, 1, true, 5, false, 0⟩; let s := mod fun a => { a with clock := 30000, lowPort := [(0, 1)], snoops := [m] }
     SMap.get 0 s.arch.lowPort (0 * 8 + 0) = 1 ∧ ∃ p, p < 4 ∧ m.crosses 0 p = true ∧ m.since + 30000 ≤ s.arch.clock) ∧
    (let s := mod fun a => { a with clock := 3000000 }; (s.arch.brick 7).lost = false ∧ s.arch.routeSleeps 7 8 = false ∧ (s.arch.brick 7).lastBeat + 3000000 ≤ s.arch.clock) ∧
    ({ z.arch with lowPort := (upTo 64).map (fun p => (p, 1)) } : Arch).routeSleeps 7 8 = true ∧
    -- an interrupt of die 7 waits for ports that sleep, and for one
    ((z.arch.syncq = [] ∧ ({ z.arch with syncq := [(7, 1)] } : Arch).syncq = [(7, 1)]) ∧ ∀ p, p < 9 →
      (({ z.arch with syncq := [(7, 1)], lowPort := SMap.set 0 [(7 * 8 + p, 1)] (7 * 8 + p) 0 } : Arch).routeSleeps 7 8 = false)) ∧
    (z.arch.routeSleeps 8 0 = false ∧ z.arch.routeSleeps 0 8 = false ∧ z.arch.reqs = [] ∧ z.arch.writeBacks = [] ∧
      (∀ e, e < 8 → (z.arch.brick e).lost = false)) ∧
    (let q := { nearReq .st 0 0 0 with win := some 4 }; let s := mod fun a => { a with reqs := [q] }
     s.arch.reqs = [q] ∧ s.arch.writeBacks = [] ∧ q.op.writes = true ∧ (s.arch.place q.hpa).home = 0 ∧ q.core / 32 = 0 ∧ q.win = some (3 + 1)) ∧
    ((∀ q ∈ z.arch.queues, q.2.armed = false) ∧ 0 ≤ (0 : BitVec 64).toInt ∧ (-1 : BitVec 64).toInt < 0) ∧
    (let s := firm (armedQ id); ∃ q ∈ s.arch.queues, q.2.armed = true) ∧
    (z.arch.time.gm = false ∧ (mod fun a => { a with time := { a.time with gm := true } }).arch.time.gm = true) := by decide +kernel

theorem wit_PowerAndHost :
    (2047 < 2048 ∧ z.arch.power.tripped = false ∧ (mod fun a => { a with power := { a.power with tripped := true } }).arch.power.tripped = true ∧ 255 < 256) ∧
    ((z.arch.brick 0).health.en = true ∧ z.arch.routeSleeps 0 8 = false ∧ (z.arch.core 31).stretchLeft ≤ 1 ∧
      ((mod fun a => a.mapBrick 0 (fun b => { b with health := { b.health with en := false } })).arch.brick 0).health.en = false) ∧
    ((coreA fun k => { k with stretchLeft := 1 }).arch.core 0).stretchLeft = 1 ∧ ((coreA fun k => { k with halfLeft := 1 }).arch.core 0).halfLeft = 1 ∧
    (placeInModule 0x0E0000005000 = .quoin 0x5000 ∧ (z.arch.quoinPeek 0x5000).isSome = true ∧ 0x5001 % 8 ≠ 0 ∧
      placeInModule 0x0E0000005001 = .quoin 0x5001 ∧ 109 < 110 ∧ 110 ≤ 110) ∧
    (placeInModule (0x0F0000000000 + 0x7FFF) = .spad 0 0x7FFF ∧ 0 < 1 ∧ 0x7FFF % 0x8000 + 1 ≤ 0x8000 ∧ (z.arch.brick 0).lost = false ∧
      SMap.get none (z.arch.core 0).window (0x7FFF / 0x8000) = none ∧ (z.arch.hostHeld (0x0F0000000000 + 0x7FFF) 1 false).isNone = true ∧
      (z.arch.hostHeld (0x0F0000000000 + 0x7FFF) 1 true).isNone = true) ∧
    (placeInModule 0x0E00FFFFFFF8 = .quoin 0xFFFFFFF8 ∧ z.arch.quoinPeek 0xFFFFFFF8 = none ∧ placeInModule 0x0E0000000100 = .quoin 0x100) ∧ 255 < 256 := by
  decide +kernel

theorem wit_BootAndReset :
    ((mod fun a => { a with boot := { a.boot with state := .verifying } }).arch.boot.state = .verifying ∧ z.arch.boot.busy = false ∧
      (mod fun a => { a with boot := { a.boot with busy := true } }).arch.boot.busy = true) ∧
    -- An image outside a stack is none, so no field of it is.
    (let a := (mod fun a => { a with boot := { a.boot with state := .verifying, img := 0x0C00000000 } }).arch
     a.bootImage.1.bind Config.imageFields = none) := by
  refine ⟨by decide +kernel, rfl⟩

-- Traps, commits, frames, steps, encodings

/-- The TVEC that turns a handler at 0x100 on. -/
def vecOn : TrapRegs := { TrapRegs.reset with tvec := 0x101 }

theorem wit_TrapsAreTaken :
    (let a := (ctxA fun t => { t with status := .running, trap := vecOn }).arch; let t := a.ctx 0 0
     (a.ctx (a.leadOf 0 0) 0).trap.tvec.getLsbD 0 = true ∧ t.trap.tmode = false ∧ 0x0E ≠ 0x0D) ∧
    (let a := z.arch; (a.ctx (a.leadOf 0 0) 0).trap.tvec.getLsbD 0 = false) ∧
    (let a := (mod fun a => ({ a with units := [(1, aUnit)] } : Arch).mapCtx 0 0 (fun t => { t with status := .failing, unit := some 1 })).arch
     a.unit 1 = some aUnit ∧ aUnit.cores = [0] ∧ aUnit.ctx < 2 ∧ aUnit.fate = none ∧ (a.ctx 0 aUnit.ctx).status = .failing ∧ (a.ctx 0 aUnit.ctx).wait = none ∧
      (∀ r ∈ a.reqs, r.core = 0 → r.ctx = aUnit.ctx → r.tag = none) ∧
      (a.saveHeld 0 aUnit.ctx (maskOf ((a.core 0).stashOf aUnit.ctx))).isNone = true) := by decide +kernel

/-- R302 and R304: TRAP 5 in slot S at pc 0x40 gives TCAUSE 0x0500000E. -/
theorem test_raise : let u := ((ctxA fun t => { t with status := .running, trap := vecOn, pc := 0x40 }).arch.raise 0 0 0x0E 0 0 5 0 0).ctx 0 0
    (u.trap.tcause, u.trap.tbundle, u.pc, u.trap.tmode) = (0x0500000E, 0x40, 0x100, true) := by decide +kernel

theorem wit_VoidedAndGuardedSlots :
    ((Instr.add ⟨16, 1, 1, .reg 1, false⟩).enc.isSome = true ∧ (z.setIss { z.iss with trapped := true }).iss.trapped = true) ∧
    (∀ i ∈ [Instr.halt 31, .mcall 31 64 5, .ldv 31 11 6 8, .vmov ⟨31, .f32, 1, 2, .reg 0, 0, false, 0⟩, .xexp 31 1 2],
      let s := ctxA fun t => { t with p := [(15, true)] }
      i.wf = true ∧ s.iss.trapped = false ∧ s.iss.follow = none ∧
        (match i.enc with | some e => decide (e.kind ≠ .u) && !s.guard (bits e.word 4 0) | none => false) = true) := by decide +kernel

theorem bare_reset : Bare z := ⟨by decide, rfl, rfl, rfl, by decide +kernel⟩

theorem wit_SoftwareTrapsAndReturns :
    (let s := (ctxA fun t => { t with trap := vecOn }).setIss { z.iss with trapAfter := some 255 }
     Bare s ∧ s.iss.trapAfter = some 255 ∧ 255 < 256 ∧ s.iss.branch = .none ∧ s.iss.rep = 0 ∧ s.cur.owed = none ∧ s.iss.ctx < 2 ∧ s.cur.trap.tmode = false ∧
      (s.arch.ctx (s.arch.leadOf s.iss.core s.iss.ctx) s.iss.ctx).trap.tvec.getLsbD 0 = true ∧
      s.cur.inflight.all (fun e => decide (s.cur.bt + 1 < e.due) || e.parts == 0) = true) ∧
    (let late : Pend := ⟨.g, 1, full4096, 0, 1, 0, 0, 0, 0, false⟩
     let s := ctxA fun t => { t with inflight := [late] }
     s.cur.inflight.all (fun e => decide (s.cur.bt + 1 < e.due) || e.parts == 0) = false) ∧
    (let late : Pend := ⟨.g, 1, full4096, 0, 1, 3, 0, 0, 0, false⟩
     ((ctxA fun t => { t with inflight := [late] }).arch.ctx 0 0).inflight.any (fun e => decide (e.parts ≠ 0)) = true) ∧
    (let t := (ctxA fun t => { t with inflight := [⟨.g, 1, full4096, 0, 0, 3, 0, 0, 0, false⟩], trap := { t.trap with repleft := 2 } }).arch.ctx 0 0
     t.inflight.all (fun e => decide (e.parts = 0)) = true ∧ t.trap.repleft ≠ 0) ∧
    (z.arch.ctx 0 0).trap.repleft = 0 ∧
    ((z.arch.members 0 0).length ≤ 1 ∧
      1 < ((mod fun a => ({ a with units := [(1, some { aUnit with cores := [0, 1] })] } : Arch).mapCtx 0 0 (fun t => { t with unit := some 1 })).arch.members 0 0).length) ∧
    -- members of a gang in XRET: one with a result still to come, one that runs on, and one with none
    (let late : Pend := ⟨.g, 1, full4096, 0, 1, 3, 0, 0, 0, false⟩
     let w : Wait := ⟨.xret, 0, 0, false, 0⟩
     ((waitsOn w fun t => { t with inflight := [late] }).arch.ctx 0 0).inflight.any (fun e => decide (e.parts ≠ 0)) = true ∧
      (z.arch.ctx 0 0).wait.map Wait.kind ≠ some .xret ∧
      (let t := (waitsOn w id).arch.ctx 0 0
       t.status = .running ∧ t.wait.map Wait.kind = some .xret ∧ t.inflight.all (fun e => decide (e.parts = 0)) = true)) := by
  refine ⟨⟨⟨by decide, rfl, rfl, rfl, by decide +kernel⟩, by decide +kernel⟩, by decide +kernel, by decide +kernel, by decide +kernel, by decide +kernel,
    by decide +kernel, by decide +kernel⟩

theorem wit_CommitsAdvanceOneContext :
    (Bare z ∧ z.iss.trapAfter = none ∧ z.cur.trap.tmode = false ∧ z.iss.branch = .none ∧ z.cur.owed.getD (z.iss.rep + 1) = 1) ∧
    (let s := z.setIss { z.iss with rep := 1 }; Bare s ∧ 1 < s.cur.owed.getD (s.iss.rep + 1)) ∧
    (let s := z.setIss { z.iss with branch := .to 0x40 2 }; Bare s ∧ s.iss.branch = .to 0x40 2) ∧
    (let e : Pend := ⟨.g, 1, full4096, 7, 0, 1, 0, 0, 0, false⟩; let s := ctxA fun t => { t with inflight := [e] }; let t := s.cur
     Bare s ∧ t.inflight = [] ++ e :: [] ∧ landsOn t .g e.reg e = true ∧ e.reg ≠ 0 ∧ t.inflight.any (landsOn t .g 2) = false ∧
      t.inflight.all (fun q => decide (t.bt + 1 < q.due) || q.parts == 0) = true) := by
  refine ⟨⟨bare_reset, by decide +kernel⟩, ⟨⟨by decide, rfl, rfl, rfl, by decide +kernel⟩, by decide +kernel⟩,
    ⟨⟨by decide, rfl, rfl, rfl, by decide +kernel⟩, by decide +kernel⟩, ⟨⟨by decide, rfl, rfl, rfl, by decide +kernel⟩, by decide +kernel⟩⟩

/-- Results of each file that land at a commit: the last of each register, and of a mask and a vector register the last that takes a
lane; a descriptor, and from SADV a walk position after it. -/
theorem wit_CommitsAdvanceOneContext_lands :
    let pend (f : RFile) (r : Nat) (mask val : BitVec 4096) : Pend := ⟨f, r, mask, val, 0, 1, 0, 0, 0, false⟩
    let pos := pend .a 15 0 9
    let tail : List Pend := [pend .k 15 1 0, pend .v 255 0xFF 0, { pend .v 0 full4096 7 with expand := true }, pos]
    let ps : List Pend := [pend .p 15 full4096 1, pend .k 15 3 3, pend .v 255 0xFFFF 0xABCD, pend .m 7 full4096 5, pend .a 15 full4096 6] ++ tail
    let s := ctxA fun t => { t with inflight := ps }; let t := s.cur
    t.inflight = ps ∧ t.inflight.all (fun q => decide (t.bt + 1 < q.due) || q.parts == 0) = true ∧
      (landsOn t .p 15 (pend .p 15 full4096 1) = true ∧ (ps.drop 1).any (landsOn t .p 15) = false) ∧
      (landsOn t .m 7 (pend .m 7 full4096 5) = true ∧ (ps.drop 4).any (landsOn t .m 7) = false) ∧
      ((3 : BitVec 4096).getLsbD 1 = true ∧ (ps.drop 2).all (fun q => !landsOn t .k 15 q || !q.mask.getLsbD 1) = true) ∧
      ((0xFFFF : BitVec 4096).getLsbD 15 = true ∧ (ps.drop 3).all (fun q => !landsOn t .v 255 q || !q.mask.getLsbD 15) = true) ∧
      (full4096.getLsbD 4095 = true ∧ (ps.drop 8).any (landsOn t .v 0) = false) ∧
      (landsOn t .a 15 pos = true ∧ [].any (landsOn t .a 15) = false) ∧
      (full4096 ≠ 0 ∧ (ps.drop 5).all (fun q => !landsOn t .a 15 q || q.mask == 0) = true) ∧
      -- lane 31 of v255 and lane 2 of k15 are no result's
      ps.all (fun q => !landsOn t .v 255 q || !q.mask.getLsbD 31) = true ∧ ps.all (fun q => !landsOn t .k 15 q || !q.mask.getLsbD 2) = true := by
  decide +kernel

theorem wit_CommitsAdvanceOneContext_bare : let pend (f : RFile) (r : Nat) : Pend := ⟨f, r, full4096, 1, 0, 1, 0, 0, 0, false⟩
    let s := ctxA fun t => { t with inflight := [pend .p 15, pend .k 15, pend .v 255, pend .m 7, pend .a 15] }
    Bare s ∧ s.iss.trapAfter = none ∧ s.cur.trap.tmode = false ∧ s.iss.branch = .none :=
  ⟨⟨by decide, rfl, rfl, rfl, by decide +kernel⟩, by decide +kernel⟩

theorem wit_SlotFrames :
    (let i := Instr.add ⟨0, 63, 1, .reg 2, false⟩; let s := at2 id
     i.registerOnly = true ∧ i.wf = true ∧ s.iss.trapped = false ∧ 2 ≤ s.iss.left ∧ ∃ t, exec i s = .next t) ∧
    (let i := Instr.st ⟨0, 2, 1, 0, 3⟩; let s := (at2 (g1 0xFE00000000000000)).setIss { (at2 id).iss with pre := some (at2 (g1 0xFE00000000000000)).arch }
     i.enc.isSome = true ∧ s.iss.ctx < 2 ∧ 2 ≤ s.iss.left ∧ s.iss.pre = some s.arch ∧ ∃ t, exec i s = .next t) := by
  refine ⟨⟨by decide, by decide, by decide, by decide, ⟨_, rfl⟩⟩, ⟨by decide +kernel, by decide, by decide, rfl, ⟨_, rfl⟩⟩⟩

/-- The highest doubleword, from context B of the last core. -/
def nearEnd : State :=
  let a := Arch.reset.setCore 255 { Core.reset with ctxs := [(1, g1 0xFE0000000005FFF8 Context.reset)] }
  ⟨a, { Issue.reset with core := 255, ctx := 1, left := 1, len := 6, pre := some a }, [], 0⟩

theorem wit_NearAccessesArePerformedAtCommit : QuietNear nearEnd 0 3 0x5FFF8 ∧
    addrOf (nearEnd.rd.readG 1) (0 : BitVec 6) (2 ^ 3) = 0xFE00000000000000 + 0x5FFF8 := by
  refine ⟨⟨by unfold Runs; decide +kernel, ⟨by decide, rfl, rfl, rfl, by decide +kernel⟩, rfl, by decide +kernel, by decide +kernel, by decide +kernel,
    by decide +kernel, by decide +kernel, (wit_free _ _ rfl rfl).1, by decide +kernel⟩, by decide +kernel⟩

/-- The machine about to step core 0, whose context A runs at pc 0 over these bytes of instruction memory. -/
def program (bs : List Byte) : State :=
  { (coreA fun k => { k with imem := Memory.writeBytes [] 0 bs, ctxs := [(0, { Context.reset with status := .running })] }) with tape := [.core 0] }

/-- Two slots: ADD g5 := g1 + lit(100000), and VADD.F32. -/
def twoSlots : List Byte := [0x83, 0x00, 0x20, 0x50, 0x04, 0x80, 0x20, 0xA0, 0x0A, 0x0B, 0x0C, 0x00, 0xA0, 0x86, 0x01, 0x00]

theorem wit_StepsRunExec :
    (let s := program twoSlots; let s1 := ({ s with tape := [] } : State).setArch (((s.arch.drainCycle 0).edge 0).serveTiles (0 / 32)); let k := s1.arch.core 0
     s.tape = .core 0 :: [] ∧ s.arch.dueCore 0 = 0 ∧ s.arch.releaseBy (s.arch.edgeAt 0) = none ∧ (s1.arch.brick (0 / 32)).lost = false ∧ s1.arch.power.tripped = false ∧ k.stretchLeft ≤ 1 ∧
      k.permits s1.arch.power.clamp.toNat = true ∧ k.clockHeld = false ∧ s1.arch.members 0 0 = [0] ∧
      (let s2 := s1.setArch (s1.arch.begin 0 0)
       s2.arch.ready 0 0 = .issue ∧ (match s2.arch.fetch 0 0 with
        | .bundle b => b.slots.map Slot.instr == [some (.add ⟨0, 5, 1, .lit 100000, false⟩), some (.vadd ⟨0, .f32, 10, 11, .reg 12, 0, false, 0⟩)] &&
            (b.slots.find? ((s2.begin 0 0 2 b.len b.rep none).rd.slotFails 0)).isNone
        | _ => false) = true)) ∧
    (({ z with arch := (running { aCall [] with code := rowskip }).arch, tape := [.engine 0] } : State).tape = [.engine 0] ∧
      decodeMicro (({ aCall [] with code := rowskip } : Call).code.getD 0 0) = some .mxwaitb) ∧
    ((engineA fun e => { e with queue := [aCmd] }).arch.core 0).engine.head = some aCmd ∧
    z.arch.clocked 0 = true ∧ (z.arch.core 0).stopped = false ∧ z.arch.power.tripped = false ∧ z.arch.nextEdge = none ∧ z.arch.releaseBy 1000 = none ∧
    ((sentAt 0 (some 0)).arch.releaseBy ((sentAt 0 (some 0)).arch.edgeAt ((sentAt 0 (some 0)).arch.dueCore 0)) = some (0, 0)) ∧
    ((Instr.heartbeat 7).wf = true ∧ (Instr.heartbeat 7).enc = none) := by decide +kernel

/-- In the step of `wit_StepsRunExec` context B asks for nothing. -/
theorem wit_StepsRunExec_alone :
    let s := program twoSlots
    ((({ s with tape := [] } : State).setArch (((s.arch.drainCycle 0).edge 0).serveTiles (0 / 32))).offer 0 1).occ = none := by decide +kernel

/-- A step of that program: bundle time 1, pc 16, and the sum due one bundle time later. -/
theorem test_step : (match step (program twoSlots) with
    | .next t => ((t.arch.ctx 0 0).pc, (t.arch.ctx 0 0).bt, SMap.get 0 (t.arch.ctx 0 0).g 5, t.iss == t.iss.rest)
    | _ => (0, 0, 0, false)) = (16, 1, 100000, true) := by decide +kernel

/-- A bundle for each check of R104, which passes the checks before it: V1 guarded with 0x10; V0 with a literal that is not there; TRAP
under REP 15; MOVI and VEXT of one g register. -/
theorem test_bundle_checks : ∀ e ∈ [
    ([0x01, 0x00, 0x00, 0x00, 0x00, 0x00], 0x3FFFC, Decoded.reject .length 0x01),
    ([0x80, 0x00, 0x00, 0x00, 0x00, 0x00], 0, .reject .header 0x80), ([0x00, 0x10], 0, .reject .header 0x1000),
    ([0x04, 0x00, 0x30, 0x00, 0x00, 0x00, 0x00, 0x00], 0x3FFF8, .reject .guard 0x04),
    ([0x02, 0x00, 0x20, 0x00, 0x00, 0x00, 0x00, 0x80], 0, .reject .literal 0x02),
    ([0x01, 0x0F, 0x00, 0x07, 0x00, 0x05], 0, .reject .repTransfer 0x0F01),
    ([0x03, 0x00, 0x00, 0x35, 0x08, 0x00, 0x00, 0x03, 0x03, 0x04, 0x05, 0x00], 0, .reject .sameDestination 0x03)],
    decodeBundle e.2.1 e.1 = e.2.2 := by decide +kernel

theorem wit_IllegalBundlesTrap :
    (0x40000 < 0x3FFFE + bundleLen 1 ∧ 0x1000 / 2 ^ 12 % 16 ≠ 0 ∧ (0x0080 % 128 = 0 ∧ (0x0080).testBit 7 = true) ∧ 0 + bundleLen 0x1000 ≤ 0x40000) ∧
    -- a guard in V1 after no other slot, a literal of V0, a transfer of S, and an S and a V slot with one destination
    (let bs : List Byte := [0x04, 0x00, 0x30, 0x00, 0x00, 0x00, 0x00, 0x00]; let h := leNat (bs.take 2)
     0x3FFF8 + bundleLen h ≤ 0x40000 ∧ h / 2 ^ 12 % 16 = 0 ∧ h % 128 ≠ 0 ∧ h.testBit 2 = true ∧ slotBits bs h 2 % 32 = 0x10) ∧
    (let bs : List Byte := [0x02, 0x00, 0x20, 0x00, 0x00, 0x00, 0x00, 0x80]; let h := leNat (bs.take 2)
     h / 2 ^ 12 % 16 = 0 ∧ h % 128 = 2 ∧ h.testBit 7 = false ∧ slotBits bs h 1 % 32 ≠ 0x10 ∧ selectsLit (slotKind 1) (slotBits bs h 1) = true) ∧
    (let bs : List Byte := [0x01, 0x0F, 0x00, 0x07, 0x00, 0x05]; let h := leNat (bs.take 2)
     h / 2 ^ 12 % 16 = 0 ∧ h % 128 = 1 ∧ slotBits bs h 0 % 32 ≠ 0x10 ∧ selectsLit .s (slotBits bs h 0) = false ∧
      h / 2 ^ 8 % 16 ≠ 0 ∧ slotBits bs h 0 / 32 % 128 ∈ noRepOpcodes) ∧
    (let bs : List Byte := [0x03, 0x00, 0x00, 0x35, 0x08, 0x00, 0x00, 0x03, 0x03, 0x04, 0x05, 0x00]; let h := leNat (bs.take 2)
     h / 2 ^ 12 % 16 = 0 ∧ h / 2 ^ 8 % 16 = 0 ∧ h % 128 = 3 ∧ h.testBit 7 = false ∧ slotBits bs h 0 % 32 ≠ 0x10 ∧ slotBits bs h 1 % 32 ≠ 0x10 ∧
      selectsLit .s (slotBits bs h 0) = false ∧ selectsLit .v (slotBits bs h 1) = false ∧
      (parseSlot .s (slotBits bs h 0) 0).map (fun i => i.dests.contains (.g, 3)) = some true ∧
      (parseSlot .v (slotBits bs h 1) 0).map (fun i => i.dests.contains (.g, 3)) = some true) ∧
    (leNat [0x00, 0x0F] / 2 ^ 12 % 16 = 0 ∧ leNat [0x00, 0x0F] % 128 = 0 ∧ 0x3FFFE + bundleLen (leNat [0x00, 0x0F]) ≤ 0x40000) ∧
    (0xFFFFFFFF / 32 % 128 ∉ [1, 2, 3, 6, 0x0A, 0x14, 0x18, 0x19, 0x1C, 0x29, 0x6B, 0x6D, 0x6F] ∧ (0x6F * 32) / 32 % 128 = 0x6F ∧
      (0x2D * 32 + 2 ^ 47) / 32 % 128 = 0x2D ∧ (.g, 3) ∈ (Instr.movi 0 3 2).dests) ∧
    ((z.arch.ctx 0 0).owed = none ∧ 1 < 2) ∧
    (let q : Slot := ⟨0, 0x27 * 2 ^ 5 + 2 ^ 5 * 0, none⟩; [q].find? ((z.arch.ctx 0 0).slotFails 0) = some q) := by decide +kernel

theorem wit_WordsDecode : bits 0 11 5 = 0x00 ∧ bits 0xFE0 11 5 = 0x7F ∧ bits 0x6A0 11 5 = 0x35 ∧ bits 0xF8000000 31 27 = 0x1F := by decide

theorem wit_DecodingInvertsEncoding : (Instr.loopR 31 (-(2 ^ 18))).wf = true ∧ (Instr.loopR 31 (-(2 ^ 18))).enc.isSome = true ∧
    (Instr.nop 15).wf = true := by decide +kernel

theorem wit_StepsLeaveNoBundleOpen : let s : State := { z with tape := [.elapse 3] }
    s.iss = s.iss.rest ∧ ∃ t, step s = .next t := ⟨rfl, ⟨_, rfl⟩⟩

theorem wit_StepsKeepMemoryCanonical : let s : State := { z with arch := { z.arch with mem := [(5, 1), (7, 2)] }, tape := [.elapse 3] }
    Memory.wf s.arch.mem = true ∧ ∃ t, step s = .next t := ⟨by decide, ⟨_, rfl⟩⟩

/-- `withFetchWord` places an instruction that the very next step runs from reset. -/
theorem test_fetch_word : (match step (State.reset.withFetchWord 32 (0x23 * 2 ^ 5 + 3 * 2 ^ 12 + 9 * 2 ^ 24)) with
    | .next t => (t.arch.ctx 0 0).bt
    | _ => 0) = 1 := by decide +kernel

end Sys2Proof.Tests
end

section
/-! Every step keeps memory canonical (O59; R9, log entry 1). Each function of the model that takes a module or a state to another has
one lemma `Canon.f`, in the order of the model; what an instruction does, what a bundle and a cycle do, and the step follow from them. -/

namespace Sys2Proof.Machine

/-- Memory is in its canonical form (R9, log entry 1). -/
def Arch.Canon (a : Arch) : Prop := Memory.wf a.mem = true

/-- Memory is in its canonical form, and in what the bundle in issue began from, to which a hold or trap returns (R74). -/
structure State.Canon (s : State) : Prop where
  arch : s.arch.Canon
  pre : ∀ p ∈ s.iss.pre, p.Canon

-- The same for what an answer of the model's operations carries.

def Perf.Canon : Perf → Prop
  | .done a _ | .wait a | .check a => a.Canon

def SlotR.Canon : SlotR → Prop
  | .ok s => s.Canon
  | .stall _ a => a.Canon
  | .trap .. | .hold _ => True

def RangeR.Canon : RangeR → Prop
  | .stall _ a => a.Canon
  | .ok _ | .trap .. | .hold _ => True

def RangesR.Canon : RangesR → Prop
  | .stall _ a => a.Canon
  | .ok _ | .trap .. | .hold _ => True

def Fetch.Canon : Fetch → Prop
  | .ok a _ | .wait a | .fault a _ | .check a => a.Canon

def Micro.Canon : Micro → Prop
  | .go a _ | .wait a | .finish a | .stop a _ | .fault a _ | .check a => a.Canon

def CopyAt.Canon : CopyAt → Prop
  | .wait a => a.Canon
  | .ok _ | .fault _ => True

def CopyR.Canon : CopyR → Prop
  | .bytes a _ | .wait a | .fault a _ _ => a.Canon

def DrainAt.Canon : DrainAt → Prop
  | .wait a => a.Canon
  | .at .. | .fault => True

def AreaR.Canon : AreaR → Prop
  | .ok a | .wait a => a.Canon
  | .error .. => True

def Bell.Canon : Bell → Prop
  | .applied a => a.Canon
  | .behind | .overflow => True

variable {a : Arch} {s : State}

theorem of_ite {α : Type} {P : α → Prop} {x y : α} {p : Prop} [Decidable p] (hx : P x) (hy : P y) : P (if p then x else y) := by
  split <;> assumption

theorem ite_eq_elim {α : Type} {x y z : α} {p P : Prop} [Decidable p] (e : (if p then x else y) = z) (hx : x = z → P)
    (hy : y = z → P) : P := by
  split at e
  · exact hx e
  · exact hy e

theorem Arch.Canon.of_mem {b : Arch} (h : a.Canon) (e : b.mem = a.mem) : b.Canon := by rwa [Arch.Canon, e]

theorem Arch.Canon.ite {b : Arch} {p : Prop} [Decidable p] (ha : a.Canon) (hb : b.Canon) : (if p then a else b).Canon := by
  split <;> assumption

theorem Arch.Canon.snd_ite {α : Type} {x y : α × Arch} {p : Prop} [Decidable p] (hx : x.2.Canon) (hy : y.2.Canon) :
    (if p then x else y).2.Canon := by
  split <;> assumption

theorem Arch.Canon.foldl {β : Type} {f : Arch → β → Arch} {l : List β} (h : a.Canon)
    (hf : ∀ a x, a.Canon → (f a x).Canon) : (l.foldl f a).Canon := by
  induction l generalizing a with
  | nil => exact h
  | cons x l ih => exact ih (hf a x h)

theorem Arch.Canon.write {p n x : Nat} (h : a.Canon) : Arch.Canon { a with mem := Memory.write a.mem p n x } :=
  Memory.wf_write _ _ _ _ h

theorem Arch.Canon.writeBytes {p : Nat} {bs : List Byte} (h : a.Canon) :
    Arch.Canon { a with mem := Memory.writeBytes a.mem p bs } := Memory.wf_writeBytes _ _ _ h

theorem Arch.Canon.copyMem {p q n : Nat} (h : a.Canon) : Arch.Canon { a with mem := Machine.copyMem a.mem p q n } :=
  Memory.wf_copyMem _ _ _ _ h

theorem State.Canon.ite {t : State} {p : Prop} [Decidable p] (hs : s.Canon) (ht : t.Canon) : (if p then s else t).Canon := by
  split <;> assumption

theorem State.Canon.view (h : s.Canon) : s.view.Canon := by
  unfold State.view
  cases hp : s.iss.pre with
  | none => exact h.arch
  | some p => exact h.pre p hp

theorem State.Canon.setArch (h : s.Canon) (ha : a.Canon) : (s.setArch a).Canon := ⟨ha, h.pre⟩

/-- A change of the bundle cursor that keeps what the bundle began from. -/
theorem State.Canon.setIss {i : Issue} (h : s.Canon) (hi : ∀ p ∈ i.pre, p.Canon) : (s.setIss i).Canon := ⟨h.arch, hi⟩

theorem Arch.Canon.getD {o : Option Arch} (ho : ∀ b, o = some b → b.Canon) (h : a.Canon) : (o.getD a).Canon := by
  cases o with
  | none => exact h
  | some b => exact ho b rfl

theorem Perf.Canon.ite {x y : Perf} {p : Prop} [Decidable p] (hx : x.Canon) (hy : y.Canon) : (if p then x else y).Canon := by
  split <;> assumption

theorem SlotR.Canon.ite {x y : SlotR} {p : Prop} [Decidable p] (hx : x.Canon) (hy : y.Canon) : (if p then x else y).Canon := by
  split <;> assumption

theorem State.Canon.foldl {β : Type} {f : State → β → State} {l : List β} (h : s.Canon) (hf : ∀ s x, s.Canon → (f s x).Canon) :
    (l.foldl f s).Canon := List.foldlRecOn _ _ h fun s hs x _ => hf s x hs

theorem CopyAt.Canon.of_wait {q : CopyAt} {b : Arch} (hq : q.Canon) (e : q = .wait b) : b.Canon := by
  subst e; exact hq

theorem DrainAt.Canon.of_wait {q : DrainAt} {b : Arch} (hq : q.Canon) (e : q = .wait b) : b.Canon := by
  subst e; exact hq

theorem Fetch.Canon.of_eq {q r : Fetch} (hq : q.Canon) (e : q = r) : r.Canon := e ▸ hq

-- ## Base

theorem Arch.Canon.mapCore {c : Nat} {f : Core → Core} (h : a.Canon) : (a.mapCore c f).Canon := h

theorem Arch.Canon.setCtx {c x : Nat} {t : Context} (h : a.Canon) : (a.setCtx c x t).Canon := h

theorem Arch.Canon.mapCtx {c x : Nat} {f : Context → Context} (h : a.Canon) : (a.mapCtx c x f).Canon := h

theorem Arch.Canon.mapChan {c x n : Nat} {f : Chan → Chan} (h : a.Canon) : (a.mapChan c x n f).Canon := h

theorem Arch.Canon.mapBrick {b : Nat} {f : Brick → Brick} (h : a.Canon) : (a.mapBrick b f).Canon := h

theorem Arch.Canon.mapQueue {q : Nat} {f : Queue → Queue} (h : a.Canon) : (a.mapQueue q f).Canon := h

theorem Arch.Canon.mapLevel {l : Nat} {f : Level → Level} (h : a.Canon) : (a.mapLevel l f).Canon := by
  unfold Arch.mapLevel
  split <;> exact h

theorem Arch.Canon.setLaunch {l : Nat} {v : Launch} (h : a.Canon) : (a.setLaunch l v).Canon := h

theorem Arch.Canon.mapLaunch {l : Nat} {f : Launch → Launch} (h : a.Canon) : (a.mapLaunch l f).Canon := by
  unfold Arch.mapLaunch
  split <;> exact h

theorem Arch.Canon.setUnit {u : Nat} {v : ExecUnit} (h : a.Canon) : (a.setUnit u v).Canon := h

theorem Arch.Canon.mapUnit {u : Nat} {f : ExecUnit → ExecUnit} (h : a.Canon) : (a.mapUnit u f).Canon := by
  unfold Arch.mapUnit
  split <;> exact h

theorem Arch.Canon.setGraph {g : Nat} {v : Graph} (h : a.Canon) : (a.setGraph g v).Canon := h

theorem Arch.Canon.setOp {n : Nat} {v : Option OpSet} (h : a.Canon) : (a.setOp n v).Canon := h

theorem Arch.Canon.mapLink {p : Nat} {f : Link → Link} (h : a.Canon) : (a.mapLink p f).Canon := h

theorem Arch.Canon.elapse {n : Nat} (h : a.Canon) : (a.elapse n).Canon := h

theorem Arch.Canon.sets {r : Raced} (h : a.Canon) : (a.sets r).Canon := h

theorem Arch.Canon.setAgain {r : Raced} (h : a.Canon) : (a.setAgain r).Canon := by
  unfold Arch.setAgain
  split <;> exact h

theorem Arch.Canon.setsWin (h : a.Canon) : a.setsWin.Canon := .foldl h fun _ _ h => .setAgain h

theorem Arch.Canon.post {c : Nat} {e : Event} (h : a.Canon) : (a.post c e).Canon := by
  unfold Arch.post
  split <;> exact h

theorem Arch.Canon.setPending {v : Nat} {b : Bool} (h : a.Canon) : (a.setPending v b).Canon := h

theorem Arch.Canon.interrupt {v : Nat} (h : a.Canon) : (a.interrupt v).Canon := .ite h h

-- ## Quoin

theorem Arch.Canon.quoinClear {o : Nat} (h : a.Canon) : (a.quoinClear o).Canon := .ite (.setsWin h) (.ite h (.ite (.setsWin h) h))

theorem Arch.Canon.quoinRead {o v : Nat} {b : Arch} (h : a.Canon) (e : a.quoinRead o = some (v, b)) : b.Canon := by
  obtain ⟨_, _, e⟩ := Option.map_eq_some_iff.mp e
  cases e
  exact .quoinClear h

-- ## Home

theorem Arch.Canon.syncArrive (h : a.Canon) : a.syncArrive.Canon := .foldl h fun _ _ h => .interrupt h

theorem Arch.Canon.interruptFrom {b v : Nat} (h : a.Canon) : (a.interruptFrom b v).Canon := .ite h (.interrupt h)

theorem Arch.Canon.wakeAll (h : a.Canon) : a.wakeAll.Canon := .syncArrive h

theorem Arch.Canon.touchLine {write : Bool} {line : Nat} (h : a.Canon) : (a.touchLine write line).Canon := by
  unfold Arch.touchLine
  split <;> exact h

theorem Arch.Canon.fillLine {pa len line : Nat} (h : a.Canon) : (a.fillLine pa len line).Canon := .ite h (.touchLine h)

theorem Arch.Canon.cure {line : Nat} (h : a.Canon) : (a.cure line).Canon := by
  unfold Arch.cure
  split <;> exact h

theorem Arch.Canon.noteSignals {pa len : Nat} (h : a.Canon) : (a.noteSignals pa len).Canon := by
  unfold Arch.noteSignals
  split <;> exact h

theorem Arch.Canon.retireOne {d : DetAcc} (h : a.Canon) : (a.retireOne d).Canon := .ite h (.touchLine (.write (.touchLine h)))

theorem Arch.Canon.noteAll {ds : List DetAcc} (h : a.Canon) : (a.noteAll ds).Canon := .foldl h fun _ _ h => .noteSignals h

theorem Arch.Canon.retireAll {p : DetAcc → Bool} (h : a.Canon) : (a.retireAll p).Canon :=
  .ite h (.noteAll (.foldl h fun _ _ h => .retireOne h))

theorem Arch.Canon.retireRange {pa len : Nat} (h : a.Canon) : (a.retireRange pa len).Canon := by
  unfold Arch.retireRange
  split
  · exact .ite (.retireAll h) h
  · exact h

theorem Arch.Canon.retire {b : Nat} (h : a.Canon) : (a.retire b).Canon := .retireAll h

theorem Arch.Canon.signalsWritten {pa len : Nat} (h : a.Canon) : (a.signalsWritten pa len).Canon := by
  unfold Arch.signalsWritten
  split
  · exact h
  · exact .noteSignals (.retireAll h)

theorem Arch.Canon.lineHome {line : Nat} {bs : List Byte} (h : a.Canon) : (a.lineHome line bs).Canon := by
  unfold Arch.lineHome
  split
  · exact .ite h (.touchLine (.cure (.signalsWritten (.writeBytes h))))
  · exact h

theorem Arch.Canon.snoopEntry {c i line : Nat} {inval : Bool} (h : a.Canon) : (a.snoopEntry c i line inval).Canon :=
  .ite (.lineHome h) h

theorem Arch.Canon.snoopCores {line : Nat} {inval : Bool} {pick : Nat → Bool} (h : a.Canon) :
    (a.snoopCores line inval pick).Canon :=
  .foldl h fun _ _ h => .ite (.foldl h fun _ _ h => .snoopEntry h) h

theorem Arch.Canon.backLands {w : WriteBack} (h : a.Canon) : (a.backLands w).Canon := .mapCtx (.lineHome h)

theorem Arch.Canon.landBacks {line : Nat} (h : a.Canon) : (a.landBacks line).Canon := .foldl h fun _ _ h => .backLands h

theorem Arch.Canon.fineSnooped {line : Nat} {inval : Bool} (h : a.Canon) : (a.fineSnooped line inval).Canon := by
  unfold Arch.fineSnooped
  (repeat' split) <;> exact h

theorem Arch.Canon.snoopLine {line : Nat} {inval : Bool} (h : a.Canon) : (a.snoopLine line inval).Canon :=
  .fineSnooped (.snoopCores (.landBacks h))

theorem Arch.Canon.sendWaiting {pa len : Nat} {inval : Bool} {key : Nat} (h : a.Canon) : (a.sendWaiting pa len inval key).Canon :=
  .ite h h

theorem Arch.Canon.homeRead {pa len : Nat} (h : a.Canon) : (a.homeRead pa len).2.Canon :=
  .foldl (.retireRange (.foldl h fun _ _ h => .snoopLine h)) fun _ _ h => .touchLine h

theorem Arch.Canon.homeWrite {pa len x : Nat} (h : a.Canon) : (a.homeWrite pa len x).Canon :=
  .foldl (.signalsWritten (.write (.foldl (.retireRange (.foldl h fun _ _ h => .snoopLine h)) fun _ _ h => .fillLine h)))
  fun _ _ h => .touchLine (.ite (.cure h) h)

theorem Arch.Canon.barWake {pa : Nat} (h : a.Canon) : (a.barWake pa).Canon := h

theorem Arch.Canon.barWakeAll {pa len : Nat} (h : a.Canon) : (a.barWakeAll pa len).Canon := h

theorem Arch.Canon.setFull {c o : Nat} {b : Bool} (h : a.Canon) : (a.setFull c o b).Canon := h

theorem Arch.Canon.bankPerform {r : Req} {c o : Nat} (h : a.Canon) : (a.bankPerform r c o).Canon := by
  unfold Arch.bankPerform
  split
  · exact h
  · exact .barWakeAll (.write h)
  · exact .ite h (.barWakeAll (.write h))
  · exact .ite (.setFull h) h
  · exact .ite h (.barWakeAll (.setFull (.write h)))
  · exact h
  · exact .setFull h
  · exact .setFull h
  · exact .barWake (.write h)
  · exact .barWake (.write h)
  · exact .ite h h
  · exact h

theorem Arch.Canon.setStash {c key : Nat} {st : StashState} (h : a.Canon) : (a.setStash c key st).Canon := h

theorem Arch.Canon.stashBack {c x id key : Nat} {inv : Bool} (h : a.Canon) : (a.stashBack c x id key inv).Canon :=
  .ite (.setStash (.ite h h)) (.ite h h)

theorem Arch.Canon.stashPerform {r : Req} {c o key : Nat} (h : a.Canon) : (a.stashPerform r c o key).Canon := by
  unfold Arch.stashPerform
  split
  · exact .stashBack h
  · refine .ite ?_ h
    have hp := h.bankPerform (r := r) (c := c) (o := o)
    generalize a.bankPerform r c o = p at hp ⊢
    cases p with
    | done b v => exact Arch.Canon.ite (.signalsWritten (.foldl hp fun _ _ h => .mapCore h)) hp
    | wait b => exact hp
    | check b => exact hp

theorem Arch.Canon.detPerform {r : Req} {b : Nat} (h : a.Canon) : (a.detPerform r b).Canon :=
  .ite h (.ite (.mapBrick (.snoopLine h)) (.mapBrick (.touchLine (.snoopLine h))))

theorem Arch.Canon.slicePerform {r : Req} {b : Nat} (h : a.Canon) : (a.slicePerform r b).Canon := by
  refine .ite (.ite h.detPerform h) ?_
  split
  · exact .ite h.homeRead h
  · exact .ite h.homeWrite h
  · exact .ite (Arch.Canon.ite (.foldl h.homeRead fun _ _ h => .snoopLine h) (.homeWrite h.homeRead)) h
  · exact h

theorem Arch.Canon.noteStretch {d w : Nat} (h : a.Canon) : (a.noteStretch d w).Canon := by
  unfold Arch.noteStretch
  split <;> exact h

theorem Arch.Canon.reachHeld {d pa len : Nat} {w : Bool} {b : Arch} (h : a.Canon) (e : a.reachHeld d pa len w = some b) :
    b.Canon := by
  unfold Arch.reachHeld at e
  split at e
  · cases e
  · refine ite_eq_elim e (fun e => nomatch e) fun e => ite_eq_elim e (fun e => ?_) fun e => ite_eq_elim e (fun e => ?_) fun e =>
      ite_eq_elim e (fun e => nomatch e) fun e => ?_ <;> cases e
    · exact .noteStretch h
    · exact h
    · exact .sendWaiting h

theorem Arch.Canon.rmwHeld {d pa len : Nat} {b : Arch} (h : a.Canon) (e : a.rmwHeld d pa len = some b) : b.Canon := by
  unfold Arch.rmwHeld at e
  split at e
  · next e' => cases e; exact .reachHeld h e'
  · exact .reachHeld h e

theorem Arch.Canon.redHeld {x : Nat} {b : Arch} (h : a.Canon) (e : a.redHeld x = some b) : b.Canon := by
  simp only [Arch.redHeld] at e
  split at e
  · split at e
    · exact .reachHeld h e
    · cases e
  · cases e

theorem Arch.Canon.redStore {x : Nat} (h : a.Canon) : (a.redStore x).Canon := by
  refine .ite h ?_
  split
  · exact .ite h.homeRead h
  · exact h

theorem Arch.Canon.redTake {x : Nat} (h : a.Canon) : (a.redTake x).Canon := .getD (fun _ e => .redHeld h e) (.redStore h)

theorem Arch.Canon.quoinPerform {r : Req} {o : Nat} (h : a.Canon) : (a.quoinPerform r o).Canon := by
  unfold Arch.quoinPerform
  split
  · split
    · next e => exact h.quoinRead e
    · exact h
  · refine .ite h (.ite (.ite ?_ h) h)
    split
    · next e => exact h.redHeld e
    · exact h.redStore

theorem Arch.Canon.performAt {r : Req} (h : a.Canon) : (a.performAt r).Canon := by
  unfold Arch.performAt
  split
  · refine .ite h ?_
    split
    · exact h.stashPerform
    · exact h.bankPerform
  · exact h.slicePerform
  · exact h.quoinPerform
  · exact h

-- ## Translate

theorem Arch.Canon.keepNode {b asid va lvl node : Nat} (h : a.Canon) : (a.keepNode b asid va lvl node).Canon := by
  unfold Arch.keepNode
  split <;> exact h

theorem Arch.Canon.walkFrom {b asid va : Nat} {n1 : Nat} {n2 : Nat} (h : a.Canon) : (a.walkFrom b asid va n1 n2).2.Canon := by
  induction n1 generalizing a n2 with
  | zero => exact h
  | succ lvl ih =>
    unfold Arch.walkFrom
    split
    · dsimp only
      split
      · next e => exact .reachHeld h e
      · split_ifs
        · exact h
        · exact h.homeRead
        · exact h.homeRead
        · exact h.homeRead
        · exact ih (.keepNode h.homeRead)
        · exact h.homeRead
        · exact h.homeRead
        · exact h.homeRead
    · exact h

theorem Arch.Canon.bufferCore {c : Nat} {l : Leaf} (h : a.Canon) : (a.bufferCore c l).Canon := h

theorem Arch.Canon.bufferBrick {b : Nat} {l : Leaf} (h : a.Canon) : (a.bufferBrick b l).Canon := h

theorem Arch.Canon.mapMiss {c : Nat} {ag : Agent} {f : Miss → Miss} (h : a.Canon) : (a.mapMiss c ag f).Canon := h

theorem Arch.Canon.dropMiss {c : Nat} {ag : Agent} (h : a.Canon) : (a.dropMiss c ag).Canon := h

theorem Arch.Canon.resolve {c : Nat} {m : Miss} {l : Leaf} (h : a.Canon) : (a.resolve c m l).Canon := by
  unfold Arch.resolve
  split <;> exact h

theorem Arch.Canon.walked {c : Nat} {m : Miss} {w : Walk} (h : a.Canon) : (a.walked c m w).Canon := by
  unfold Arch.walked
  split
  · split <;> [exact .resolve h; exact h]
  · split <;> exact h
  · exact h
  · exact h

theorem Arch.Canon.missMoves {c : Nat} {m : Miss} {b : Arch} (h : a.Canon) (e : a.missMoves c m = some b) : b.Canon := by
  unfold Arch.missMoves at e
  dsimp only at e
  split at e
  · cases e; exact .resolve h
  · split at e
    · cases e; exact .resolve h
    · split_ifs at e
      cases e; exact .mapMiss (.mapBrick h)

theorem Arch.Canon.missStep {c : Nat} (h : a.Canon) : (a.missStep c).Canon :=
  .getD (fun _ e => have ⟨_, _, e⟩ := List.exists_of_findSome?_eq_some e; .missMoves h e) h

theorem Arch.Canon.walkOf {b : Nat} {q : List (Nat × Agent)} {m : Miss} (h : a.Canon) : (a.walkOf b q m).2.Canon := .walkFrom h

theorem Arch.Canon.walkEnds {b : Nat} {q : List (Nat × Agent)} {m : Miss} {w : Walk × Arch} (hw : w.2.Canon) :
    (a.walkEnds b q m w).Canon := by
  refine .foldl ?_ fun _ _ h => ?_
  · split
    · exact .ite (.bufferBrick (.mapBrick hw)) (.mapBrick hw)
    · exact .mapBrick hw
  · split
    · exact .walked h
    · exact h

theorem Arch.Canon.walkStep {b : Nat} (h : a.Canon) : (a.walkStep b).Canon := by
  unfold Arch.walkStep
  dsimp only
  split
  · exact .mapBrick h
  · refine .getD (fun b e => ?_) h.walkOf
    obtain ⟨m, _, e⟩ := List.exists_of_findSome?_eq_some e
    split_ifs at e
    cases e
    exact .walkEnds h.walkOf

theorem Arch.Canon.serviceStart {c : Nat} (h : a.Canon) : (a.serviceStart c).Canon := by
  unfold Arch.serviceStart
  (repeat' split) <;> exact h

theorem Arch.Canon.declineService {c : Nat} (h : a.Canon) : (a.declineService c).Canon := h

theorem Arch.Canon.serviceEnd {c : Nat} (h : a.Canon) : (a.serviceEnd c).Canon := by
  unfold Arch.serviceEnd
  split
  · exact .setCtx h
  · next m _ =>
    have hr : (a.setCtx c 2 Context.reset).Canon := .setCtx h
    have hd : (Arch.mapMiss (a.setCtx c 2 Context.reset) c m.agent (fun m => { m with stage := .ended .declined })).Canon := hr
    refine .ite (.ite hd (.mapMiss hr)) (.ite (.ite hd (.ite hd (.ite (.mapMiss hr) ?_))) hd)
    split
    · exact .dropMiss (.bufferCore hr)
    · exact hd

theorem Arch.Canon.invalidate {p : Leaf → Bool} (h : a.Canon) : (a.invalidate p).Canon := by
  unfold Arch.invalidate
  split <;> exact h

theorem Arch.Canon.invalidated (h : a.Canon) : a.invalidated.Canon := by
  unfold Arch.invalidated
  split <;> exact h

-- ## Ops

theorem State.Canon.upd {f : Context → Context} (h : s.Canon) : (s.upd f).Canon := ⟨h.arch, h.pre⟩

theorem State.Canon.result {file : RFile} {reg : Nat} {mask val : BitVec 4096} {lat : Nat} (h : s.Canon) :
    (s.result file reg mask val lat).Canon :=
  ⟨h.arch, h.pre⟩

theorem State.Canon.landG {d : Nat} {x : Word} {lat : Nat} (h : s.Canon) : (s.landG d x lat).Canon := by
  unfold State.landG
  split <;> exact ⟨h.arch, h.pre⟩

theorem State.Canon.landP {d : Nat} {x : Bool} {lat : Nat} (h : s.Canon) : (s.landP d x lat).Canon := by
  unfold State.landP
  split <;> exact ⟨h.arch, h.pre⟩

theorem State.Canon.landK {d : Nat} {x : Nat} {lat : Nat} (h : s.Canon) : (s.landK d x lat).Canon := by
  unfold State.landK
  split <;> exact ⟨h.arch, h.pre⟩

theorem State.Canon.landV {d : Nat} {mask : BitVec 4096} {x : Nat} {lat : Nat} (h : s.Canon) : (s.landV d mask x lat).Canon :=
  ⟨h.arch, h.pre⟩

theorem State.Canon.pending {file : RFile} {reg : Nat} {lat parts entries : Nat} {expand : Bool} (h : s.Canon) :
    (s.pending file reg lat parts entries expand).1.Canon :=
  ⟨h.arch, h.pre⟩

theorem SlotR.Canon.bind {r : SlotR} {f : State → SlotR} (hr : r.Canon) (hf : ∀ s, s.Canon → (f s).Canon) : (r.bind f).Canon := by
  cases r with
  | ok s => exact hf s hr
  | stall k a => exact hr
  | _ => trivial

theorem State.Canon.whenOn {p : Nat} {r : SlotR} (h : s.Canon) (hr : r.Canon) : (s.whenOn p r).Canon := .ite hr h

theorem Arch.Canon.addMiss {c : Nat} {ag : Agent} {asid root va : Nat} {r w : Bool} (h : a.Canon) :
    (a.addMiss c ag asid root va r w).Canon := by
  unfold Arch.addMiss
  split <;> exact h

theorem Arch.Canon.askFill {c key pa : Nat} {own touch : Bool} (h : a.Canon) : (a.askFill c key pa own touch).Canon := by
  unfold Arch.askFill
  split <;> exact h

theorem State.Canon.stashAsk {va key wva : Nat} {w : Bool} {q : RangeR} (h : s.Canon) (e : s.stashAsk va key wva w = .inr q) :
    q.Canon := by
  unfold State.stashAsk at e
  dsimp only at e
  split at e
  · split at e <;> cases e
    trivial
  · cases e; trivial
  · cases e; trivial
  · cases e; exact .addMiss h.view
  · cases e; trivial

theorem State.Canon.stashCheck {va off len : Nat} {w : Bool} {q : RangeR} (h : s.Canon) (e : s.stashCheck va off len w = some q) :
    q.Canon := by
  unfold State.stashCheck at e
  dsimp only at e
  split at e
  · next e' =>
    cases e
    obtain ⟨p, hp, e⟩ := List.exists_of_findSome?_eq_some e'
    obtain ⟨k, _, rfl⟩ := List.mem_map.mp hp
    split at e <;> cases e
    next e => exact h.stashAsk e
  · split_ifs at e
    cases e
    refine .foldl h.view fun _ _ h => ?_
    split
    · exact .askFill h
    · exact h

theorem State.Canon.globalRange {va len : Nat} {r w dword : Bool} (h : s.Canon) : (s.globalRange va len r w dword).Canon := by
  unfold State.globalRange
  dsimp only
  split
  · trivial
  · exact .addMiss h.view
  · split
    · trivial
    · split
      · trivial
      · trivial
      · split <;> trivial

theorem State.Canon.nearRange {va off len : Nat} {w : Bool} (h : s.Canon) : (s.nearRange va off len w).Canon := by
  unfold State.nearRange
  dsimp only
  split
  · trivial
  split
  · trivial
  split
  · trivial
  · trivial
  · split
    · next e => exact h.stashCheck e
    · split <;> trivial

theorem State.Canon.range {va len align : Nat} {r w dword : Bool} (h : s.Canon) : (s.range va len align r w dword).Canon := by
  unfold State.range
  split_ifs
  · trivial
  · trivial
  · exact h.globalRange
  · split
    · exact h.nearRange
    · trivial

theorem RangeR.Canon.bind {q : RangeR} {f : Range → SlotR} (hq : q.Canon) (hf : ∀ r, (f r).Canon) : (q.bind f).Canon := by
  cases q with
  | ok r => exact hf r
  | stall k a => exact hq
  | _ => trivial

theorem State.Canon.access {r : Req} (h : s.Canon) : (s.access r).Canon := ⟨h.arch, h.pre⟩

theorem State.Canon.accesses {rs : List Req} (h : s.Canon) : (s.accesses rs).Canon := ⟨h.arch, h.pre⟩

theorem State.Canon.loadRange {r : Range} {file : RFile} {reg lat entries : Nat} {expand : Bool} {acq : Option Nat}
    (h : s.Canon) :
    (s.loadRange r file reg lat entries expand acq).Canon :=
  ⟨h.arch, h.pre⟩

theorem State.Canon.storeRange {r : Range} {x : Nat} {rel : Option Nat} (h : s.Canon) : (s.storeRange r x rel).Canon :=
  ⟨h.arch, h.pre⟩

theorem Arch.Canon.withdraw {c x : Nat} (h : a.Canon) : (a.withdraw c x).Canon := h

theorem Arch.Canon.rejoin {c x : Nat} (h : a.Canon) : (a.rejoin c x).Canon := h

theorem Arch.Canon.raiseAs {c x pc cause slot step arg info left : Nat} {fatal : Bool} (h : a.Canon) :
    (a.raiseAs c x pc cause slot step arg info left fatal).Canon := by
  have hi : (if cause = 0x0D then a.interruptFrom (c / 32) 0 else a).Canon := .ite (.interruptFrom h) h
  exact .ite (.declineService hi) (.ite (.setCtx (.mapCore (.withdraw hi))) (.setCtx (.mapCore (.withdraw hi))))

theorem Arch.Canon.raiseAt {c x pc cause slot step arg info left : Nat} (h : a.Canon) :
    (a.raiseAt c x pc cause slot step arg info left).Canon :=
  .raiseAs h

theorem Arch.Canon.raise {c x cause slot step arg info left : Nat} (h : a.Canon) :
    (a.raise c x cause slot step arg info left).Canon :=
  .raiseAt h

theorem Arch.Canon.leave {c x len : Nat} (h : a.Canon) : (a.leave c x len).Canon := h

theorem Arch.Canon.dropWindow {c x g : Nat} (h : a.Canon) : (a.dropWindow c x g).Canon := .mapCore (.foldl h fun _ _ h => h)

theorem Arch.Canon.freeGroups {c x : Nat} (h : a.Canon) : (a.freeGroups c x).Canon :=
  .foldl h fun _ _ h => .mapCore (.dropWindow h)

theorem Arch.Canon.leaveBehind {c x g : Nat} (h : a.Canon) : (a.leaveBehind c x g).Canon := h

theorem Arch.Canon.endProgram {c x : Nat} {fate : UnitEnd} (h : a.Canon) : (a.endProgram c x fate).Canon := by
  unfold Arch.endProgram
  dsimp only
  split
  · exact .mapUnit (.leaveBehind (.mapCtx (.freeGroups h)))
  · exact .mapCtx (.freeGroups h)

theorem Arch.Canon.noteBlocked {r : Req} (h : a.Canon) : (a.noteBlocked r).Canon :=
  .ite (.noteStretch h) (.ite (.sendWaiting h) h)

theorem Arch.Canon.mapReq {id : Nat} {f : Req → Req} (h : a.Canon) : (a.mapReq id f).Canon := h

theorem Arch.Canon.askAgain {r : Req} {c o : Nat} (h : a.Canon) : (a.askAgain r c o).Canon := by
  unfold Arch.askAgain
  split
  · exact .ite (.askFill h) h
  · exact h

theorem Arch.Canon.park {r : Req} (h : a.Canon) : (a.park r).Canon := by
  unfold Arch.park
  split
  · exact .ite (.ite h (.ite h (.ite h h))) (.askAgain h)
  · exact .ite h h
  · exact h

theorem Arch.Canon.gangTrap {x rep : Nat} {cores : List Nat} {traps : List (Nat × TrapNote)} (h : a.Canon) :
    (a.gangTrap x rep cores traps).Canon :=
  .foldl h fun _ _ h => by dsimp only; split <;> exact .raiseAs h

theorem Arch.Canon.fatalAt {c x cause : Nat} (h : a.Canon) : (a.fatalAt c x cause).Canon := h

theorem Arch.Canon.failHalted {c x u : Nat} (h : a.Canon) : (a.failHalted c x u).Canon :=
  .mapUnit (.interruptFrom (.ite h (.fatalAt h)))

theorem Arch.Canon.checkAt {c x pa slot : Nat} (h : a.Canon) : (a.checkAt c x pa slot).Canon := by
  refine .ite ?_ (.ite (.interruptFrom h) (.gangTrap h))
  split
  · exact .failHalted h
  · exact .interruptFrom h

theorem Arch.Canon.dropReqs {p : Req → Bool} (h : a.Canon) : (a.dropReqs p).Canon := h

theorem Arch.Canon.performReq {r : Req} (h : a.Canon) : (a.performReq r).Canon := by
  unfold Arch.performReq
  have hp := h.performAt (r := r)
  generalize a.performAt r = p at hp ⊢
  cases p with
  | done b v =>
    refine .mapCtx ?_
    split
    · exact .mapCore hp
    · exact .mapBrick hp
    · exact hp
  | wait b => exact .park hp
  | check b =>
    dsimp only
    split
    · exact .mapCtx (.checkAt (.dropReqs hp))
    · exact .checkAt (.dropReqs hp)

theorem Arch.Canon.wakePorts (h : a.Canon) : a.wakePorts.Canon := .ite (.wakeAll h) h

theorem Arch.Canon.serveWords {c pa len : Nat} {n1 : Nat} (h : a.Canon) : (a.serveWords c pa len n1).Canon := by
  induction n1 generalizing a with
  | zero => exact h
  | succ n ih =>
    unfold Arch.serveWords
    split
    · exact ih (.performReq h)
    · exact h

theorem Arch.Canon.bankTurn {pa len : Nat} (h : a.Canon) : (a.bankTurn pa len).Canon := by
  unfold Arch.bankTurn
  split
  · exact .serveWords h
  · exact h

theorem Arch.Canon.runNear {ids : List Nat} (h : a.Canon) : (a.runNear ids).Canon := by
  refine .foldl h fun _ _ h => ?_
  split
  · exact .ite h (.ite (.noteBlocked h) (.performReq h))
  · exact h

theorem Arch.Canon.enqueue {rs : List Req} (h : a.Canon) : (a.enqueue rs).1.Canon := by
  refine List.foldlRecOn (motive := fun q : Arch × List Nat => q.1.Canon) _ _ h fun q hq r _ => ?_
  dsimp only
  split_ifs <;> split <;> exact hq

theorem State.Canon.rollback (h : s.Canon) : s.rollback.Canon := .setArch h h.view

theorem State.Canon.holdNow {h : Hold} (hc : s.Canon) : (s.holdNow h).Canon := .setIss (.upd (.rollback hc)) hc.pre

theorem State.Canon.trapNow {cause slot step arg info : Nat} (h : s.Canon) : (s.trapNow cause slot step arg info).Canon :=
  .setIss (.setArch (.rollback h) (.raise h.view)) h.pre

theorem Arch.Canon.xretLeave {c x : Nat} (h : a.Canon) : (a.xretLeave c x).Canon := by
  refine .ite (.ite (.setCtx h) (.serviceEnd h)) ?_
  split
  · exact .leave (.setCtx h)
  · exact .setCtx h

theorem Arch.Canon.xretIssued {c x : Nat} (h : a.Canon) : (a.xretIssued c x).Canon := .ite (.xretLeave h) (.mapCtx h)

theorem Arch.Canon.gangLeave {x : Nat} {cores : List Nat} (h : a.Canon) : (a.gangLeave x cores).Canon :=
  .ite (.foldl h fun _ _ h => .xretLeave (.mapCtx h)) h

theorem Arch.Canon.softTrap {c x pc n : Nat} (h : a.Canon) : (a.softTrap c x pc n).Canon :=
  .ite h (.ite (.raiseAt h) (.raiseAt h))

theorem State.Canon.commit (h : s.Canon) : s.commit.Canon := by
  unfold State.commit
  extract_lets c x q rows a₁ a₂ a₃ a₄ a₅ a₆
  have h₂ : a₂.Canon := .mapCtx (.ite (.enqueue h.arch) (.mapCore (.enqueue h.arch)))
  have h₄ : a₄.Canon := .mapCtx (.ite h₂ (.runNear h₂))
  have h₅ : a₅.Canon := by
    dsimp only [a₅]
    split
    · exact .endProgram h₄
    · exact .xretIssued h₄
    · exact h₄
  have h₆ : a₆.Canon := by
    dsimp only [a₆]
    split
    · exact .softTrap h₅
    · exact h₅
  exact .ite h.holdNow (.setIss (.setArch h h₆) h.pre)

theorem State.Canon.mpcNext (h : s.Canon) : s.mpcNext.Canon := by
  unfold State.mpcNext
  split <;> exact ⟨h.arch, h.pre⟩

theorem State.Canon.slotDone (h : s.Canon) : s.slotDone.Canon := by
  refine .ite ?_ (.setIss h h.pre)
  split
  · exact .holdNow h
  · exact .commit h

theorem State.Canon.finish {r : SlotR} (h : s.Canon) (hr : r.Canon) : (s.finish r).Canon := by
  refine .ite h ?_
  cases r with
  | ok t => exact .slotDone hr
  | trap => exact .trapNow h
  | hold k => exact .slotDone (.setIss h h.pre)
  | stall k b =>
    have hb : ((s.setArch b).setIss { s.iss with pre := some b }).Canon := ⟨hr, fun _ e => Option.some.inj e ▸ hr⟩
    exact .ite (.slotDone (.setIss hb hb.pre)) (.holdNow hb)

-- ## Operands

theorem State.Canon.landLanes {ty : VType} {vd k : Nat} {xs : List Nat} {lat : Nat} (h : s.Canon) :
    (s.landLanes ty vd k xs lat).Canon :=
  ⟨h.arch, h.pre⟩

theorem State.Canon.landFull {vd x lat : Nat} (h : s.Canon) : (s.landFull vd x lat).Canon := ⟨h.arch, h.pre⟩

-- ## Memory

theorem Arch.Canon.startCopy {c x n : Nat} {w : Word} {bt : Nat} (h : a.Canon) : (a.startCopy c x n w bt).Canon := h

theorem State.Canon.apertureLoad {d o : Nat} (h : s.Canon) : (s.apertureLoad d o).Canon := .landG h

theorem State.Canon.apertureStore {o : Nat} {x : Word} (h : s.Canon) : (s.apertureStore o x).Canon := by
  unfold State.apertureStore
  split <;> exact ⟨h.arch, h.pre⟩

theorem State.Canon.load {d ea sz : Nat} {acq : Option Nat} (h : s.Canon) : (s.load d ea sz acq).Canon := by
  unfold State.load
  split
  · exact .ite h.apertureLoad trivial
  · exact h.range.bind fun _ => h.loadRange

theorem State.Canon.store {g ea sz : Nat} {rel : Option Nat} (h : s.Canon) : (s.store g ea sz rel).Canon := by
  unfold State.store
  dsimp only
  split
  · exact .ite h.apertureStore trivial
  · exact h.range.bind fun _ => h.storeRange

theorem State.Canon.wordGlobal {va : Nat} {r w : Bool} (h : s.Canon) : (s.wordGlobal va r w).Canon := by
  unfold State.wordGlobal
  dsimp only
  split
  · trivial
  · trivial
  · exact .addMiss h.view
  · split
    · split
      · trivial
      · split
        · trivial
        · trivial
        · split <;> trivial
    · trivial
  · trivial

theorem State.Canon.wordRange {va : Nat} {r w : Bool} (h : s.Canon) : (s.wordRange va r w).Canon := by
  refine of_ite trivial (of_ite h.wordGlobal ?_)
  split
  · exact of_ite trivial h.nearRange
  · trivial

theorem State.Canon.wordOp {op : MemOp} {r : Range} {va data : Nat} {acq rel : Option Nat} (h : s.Canon) :
    (s.wordOp op r va data acq rel).Canon :=
  ⟨h.arch, h.pre⟩

theorem State.Canon.wordLoad {op : MemOp} {r : Range} {va d : Nat} {acq : Option Nat} (h : s.Canon) :
    (s.wordLoad op r va d acq).Canon :=
  ⟨h.arch, h.pre⟩

theorem Arch.Canon.retranslate {r : Req} (h : a.Canon) : (a.retranslate r).Canon := by
  unfold Arch.retranslate
  dsimp only
  split
  · split
    · exact .ite (.gangTrap (.mapReq h)) (.mapReq h)
    · exact .gangTrap (.mapReq h)
  · exact .gangTrap (.mapReq h)
  · exact .gangTrap (.mapReq h)
  · exact .addMiss h

theorem Arch.Canon.remoteAccess {id : Nat} (h : a.Canon) : (a.remoteAccess id).Canon := by
  unfold Arch.remoteAccess
  split
  · exact .ite h (.ite (.retranslate h) (.ite (.mapReq h) (.ite (.noteBlocked h) (.performReq h))))
  · exact h

theorem Arch.Canon.lateArrive {id : Nat} (h : a.Canon) : (a.lateArrive id).Canon := by
  unfold Arch.lateArrive
  split
  · exact .ite (.mapCtx (.remoteAccess h)) h
  · exact h

theorem Arch.Canon.serveWaiter {c : Nat} (h : a.Canon) : (a.serveWaiter c).Canon := by
  refine .ite h ?_
  split
  · exact .performReq h
  · exact h

theorem Arch.Canon.refuseWaiter {c i : Nat} (h : a.Canon) : (a.refuseWaiter c i).Canon := by
  unfold Arch.refuseWaiter
  (repeat' split) <;> exact h

theorem Arch.Canon.resend {id : Nat} (h : a.Canon) : (a.resend id).Canon := h

theorem Arch.Canon.detServe {b : Nat} (h : a.Canon) : (a.detServe b).Canon := by
  unfold Arch.detServe
  split
  · exact .ite (.performReq h) h
  · exact h

-- ## Atomic

theorem State.Canon.amo {k : Amo} {x : AmoArgs} (h : s.Canon) : (s.amo k x).Canon :=
  h.range.bind fun _ => .ite trivial (State.Canon.access (.pending h))

theorem State.Canon.amoC {k : Amo} {a b : Nat} (h : s.Canon) : (s.amoC k a b).Canon := h.range.bind fun _ => .ite trivial h.access

-- ## Scalar

theorem State.Canon.alu {x : RArgs} {lat : Nat} {sg : Bool} {f : Nat → Nat → Nat → Nat} (h : s.Canon) :
    (s.alu x lat sg f).Canon :=
  h.whenOn h.landG

theorem State.Canon.alu1 {p d a : Nat} {w : Bool} {f : Nat → Nat → Nat} (h : s.Canon) : (s.alu1 p d a w f).Canon :=
  h.whenOn h.landG

theorem State.Canon.aluI {p d a : Nat} {f : Word → Word} (h : s.Canon) : (s.aluI p d a f).Canon := h.whenOn h.landG

theorem State.Canon.aluShift {p d a n : Nat} {w sg : Bool} {f : Nat → Nat → Nat → Nat} (h : s.Canon) :
    (s.aluShift p d a n w sg f).Canon := by
  unfold State.aluShift
  exact h.aluI

-- ## Predicate

theorem State.Canon.setPred {p pd : Nat} {x : Bool} (h : s.Canon) : (s.setPred p pd x).Canon := h.whenOn h.landP

-- ## Control

theorem State.Canon.transfer {pc bubbles : Nat} (h : s.Canon) : (s.transfer pc bubbles).Canon := by
  unfold State.transfer
  split <;> exact ⟨h.arch, h.pre⟩

theorem State.Canon.jump {p target : Nat} {link : Bool} (h : s.Canon) : (s.jump p target link).Canon :=
  .ite (State.Canon.transfer (.ite h.landG h)) h

theorem State.Canon.landP8 {x : Bool} (h : s.Canon) : (s.landP8 x).Canon := ⟨h.arch, h.pre⟩

theorem State.Canon.copyLoop {rotates : Bool} (h : s.Canon) : (s.copyLoop rotates).Canon := by
  unfold State.copyLoop
  split <;> exact ⟨h.arch, h.pre⟩

theorem State.Canon.loopPlain {target : Nat} (h : s.Canon) : (s.loopPlain target).Canon := .ite h (.transfer (.upd h))

theorem State.Canon.loopRotate {target : Nat} (h : s.Canon) : (s.loopRotate target).Canon :=
  .ite (.transfer (.landP8 (.upd h))) (.ite (.transfer (.landP8 (.upd h))) h)

theorem State.Canon.loopAny {p : Nat} {rotates : Bool} {own : State → State} (h : s.Canon) (ho : (own s).Canon) :
    (s.loopAny p rotates own).Canon := by
  unfold State.loopAny
  split
  · exact h.copyLoop
  · exact h
  · exact h.whenOn ho

theorem State.Canon.xret {p : Nat} (h : s.Canon) : (s.xret p).Canon := by
  unfold State.xret
  split
  · exact h
  · exact .ite trivial (h.setIss h.pre)

theorem State.Canon.waitev {d a : Nat} (h : s.Canon) : (s.waitev d a).Canon := .ite h.landG (State.Canon.upd (.pending h))

theorem Arch.Canon.waitevPass {c x : Nat} (h : a.Canon) : (a.waitevPass c x).Canon := by
  unfold Arch.waitevPass
  dsimp only
  split
  · exact .ite (.setCtx h) h
  · exact h

-- ## Stream

theorem RangesR.Canon.bind {q : RangesR} {f : List (Nat × Range) → SlotR} (hq : q.Canon) (hf : ∀ rs, (f rs).Canon) :
    (q.bind f).Canon := by
  cases q with
  | ok rs => exact hf rs
  | stall k a => exact hq
  | _ => trivial

theorem State.Canon.indexWord {off : Nat} (h : s.Canon) : (s.indexWord off).Canon := by
  refine of_ite trivial ?_
  have hn := h.nearRange (va := 0xFE00000000000000 + off) (off := off) (len := 4) (w := false)
  split
  · exact of_ite trivial trivial
  · exact hn

theorem State.Canon.element {a p : Nat} {ind r w : Bool} (h : s.Canon) : (s.element a p ind r w).Canon := by
  refine of_ite ?_ (of_ite trivial h.range)
  have hw := h.indexWord (off := patWord a p)
  split
  · exact of_ite trivial h.range
  · exact hw

theorem State.Canon.elements {a : Nat} {ind r w : Bool} {es : List (Nat × Nat)} {k : Option Hold} {acc : List (Nat × Range)}
    (h : s.Canon) : (s.elements a ind r w es k acc).Canon := by
  induction es generalizing s k acc with
  | nil =>
    cases k with
    | none => trivial
    | some k => exact of_ite h.view trivial
  | cons e es ih =>
    unfold State.elements
    have he := h.element (a := a) (p := e.2) (ind := ind) (r := r) (w := w)
    generalize s.element a e.2 ind r w = q at he ⊢
    cases q with
    | ok q => exact ih h
    | trap => trivial
    | hold k => exact ih h
    | stall k m => exact of_ite (ih ⟨h.arch, fun _ e => Option.some.inj e ▸ he⟩) he

theorem State.Canon.advancePos {ai : Nat} {ind : Bool} (h : s.Canon) : (s.advancePos ai ind).Canon := ⟨h.arch, h.pre⟩

theorem State.Canon.ldv {v ea : Nat} (h : s.Canon) : (s.ldv v ea).Canon := h.range.bind fun _ => h.loadRange

theorem State.Canon.ldvZ {v ea : Nat} (h : s.Canon) : (s.ldvZ v ea).Canon := .ite trivial (h.range.bind fun _ => h.loadRange)

theorem State.Canon.stv {v ea : Nat} (h : s.Canon) : (s.stv v ea).Canon := h.range.bind fun _ => h.storeRange

theorem State.Canon.scfg {a ea : Nat} (h : s.Canon) : (s.scfg a ea).Canon := h.range.bind fun _ => h.loadRange

theorem State.Canon.sadv {a : Nat} {g : Word} (h : s.Canon) : (s.sadv a g).Canon := ⟨h.arch, h.pre⟩

theorem State.Canon.streamLoad {v ai lat : Nat} {ind : Bool} (h : s.Canon) : (s.streamLoad v ai lat ind).Canon :=
  .ite h.landFull (h.elements.bind fun _ => State.Canon.accesses (.pending (.advancePos h)))

theorem State.Canon.storeElem {r : Range} {x : Nat} (h : s.Canon) : (s.storeElem r x).Canon := ⟨h.arch, h.pre⟩

theorem State.Canon.streamStore {v ai : Nat} {ind : Bool} (h : s.Canon) : (s.streamStore v ai ind).Canon :=
  .ite h (h.elements.bind fun _ => State.Canon.foldl h.advancePos fun _ _ h => h.storeElem)

theorem State.Canon.samo {v ai op : Nat} (h : s.Canon) : (s.samo v ai op).Canon :=
  .ite h (.ite h.advancePos (h.elements.bind fun _ => .ite trivial (State.Canon.accesses (.advancePos h))))

theorem State.Canon.touch {key va : Nat} (h : s.Canon) : (s.touch key va).Canon := by
  refine .ite h ?_
  split
  · split
    · exact h.setArch (.askFill h.arch)
    · exact h
  · exact .addMiss h.view
  · exact h

theorem State.Canon.stasht {ea op : Nat} (h : s.Canon) : (s.stasht ea op).Canon := by
  refine .ite trivial ?_
  split
  · exact h
  · exact .ite h.touch h.access

-- ## Engine

theorem Arch.Canon.mapEngine {c : Nat} {f : Engine → Engine} (h : a.Canon) : (a.mapEngine c f).Canon := h

theorem Fetch.Canon.bind {q : Fetch} {f : Arch → Nat → Fetch} (hq : q.Canon) (hf : ∀ b x, b.Canon → (f b x).Canon) :
    (q.bind f).Canon := by
  cases q with
  | ok b x => exact hf b x hq
  | _ => exact hq

theorem Arch.Canon.engineStash {c va off len : Nat} {cmd : Cmd} {q : Fetch} (h : a.Canon)
    (e : a.engineStash c cmd va off len = some q) : q.Canon := by
  obtain ⟨key, _, e⟩ := List.exists_of_findSome?_eq_some e
  split at e
  · cases e
  · split_ifs at e
    split at e <;> cases e
    · split
      · exact .askFill h
      · exact h
    · exact .addMiss h
    · exact .checkAt h
    · exact h

theorem Arch.Canon.fetchNear {c : Nat} {cmd : Cmd} {va off len : Nat} (h : a.Canon) : (a.fetchNear c cmd va off len).Canon := by
  refine of_ite h (of_ite h ?_)
  split
  · exact h
  · exact h
  · split
    · next e => exact h.engineStash e
    · exact of_ite h (of_ite h.noteStretch h.bankTurn)

theorem Arch.Canon.fetchSegs {ss : List (Nat × Nat)} {x : Nat} {b : Arch} (h : a.Canon) (e : a.fetchSegs ss = some (x, b)) :
    b.Canon := by
  induction ss generalizing a x with
  | nil => cases e; exact h
  | cons p ss ih =>
    unfold Arch.fetchSegs at e
    split_ifs at e
    obtain ⟨y, e', e⟩ := Option.map_eq_some_iff.mp e
    cases e
    refine ih ?_ e'
    split
    · exact h.homeRead
    · exact h.bankTurn

theorem Arch.Canon.fetchGlobal {c : Nat} {cmd : Cmd} {va len : Nat} (h : a.Canon) : (a.fetchGlobal c cmd va len).Canon := by
  unfold Arch.fetchGlobal
  dsimp only
  split
  · split
    · exact .addMiss h
    · exact .checkAt h
    · exact h
  · refine of_ite h ?_
    split
    · exact h
    · exact h
    · refine of_ite h ?_
      split
      · next e =>
        obtain ⟨_, _, e⟩ := List.exists_of_findSome?_eq_some e
        exact h.reachHeld e
      · split
        · next e => exact h.fetchSegs e
        · exact .checkAt h

theorem Arch.Canon.engineFetch {c : Nat} {cmd : Cmd} {va len : Nat} (h : a.Canon) : (a.engineFetch c cmd va len).Canon :=
    of_ite h.fetchGlobal (of_ite h.fetchNear h)

theorem Arch.Canon.fetchAll {c sh acc : Nat} {cmd : Cmd} {rs : List (Nat × Nat)} (h : a.Canon) :
    (a.fetchAll c cmd rs sh acc).Canon := by
  induction rs generalizing a sh acc with
  | nil => exact h
  | cons r rs ih => exact h.engineFetch.bind fun _ _ h => ih h

theorem Arch.Canon.noteErr {c x err routine : Nat} (h : a.Canon) : (a.noteErr c x err routine).Canon := by
  unfold Arch.noteErr
  split <;> exact h

theorem Arch.Canon.inexact {c x : Nat} (h : a.Canon) : (a.inexact c x).Canon := h

theorem Arch.Canon.endCall {c : Nat} {r : Call} (h : a.Canon) : (a.endCall c r).Canon := h

theorem Arch.Canon.stopCall {c : Nat} {r : Call} {err : Nat} (h : a.Canon) : (a.stopCall c r err).Canon :=
  .endCall (.inexact (.noteErr h))

theorem Arch.Canon.fetchFault {c : Nat} {cmd : Cmd} {va : Nat} (h : a.Canon) : (a.fetchFault c cmd va).Canon :=
  .mapCtx (.dropMiss (.mapEngine (.noteErr h)))

theorem Arch.Canon.micro {c : Nat} {f : Arch → Call → Micro} (h : a.Canon) (hf : ∀ r, (f a r).Canon) : (a.micro c f).Canon := by
  unfold Arch.micro
  split
  · exact h
  · next r _ =>
    have hr := hf r
    generalize f a r = m at hr ⊢
    cases m with
    | go b r => exact .mapEngine hr
    | wait b => exact hr
    | finish b => exact .endCall hr
    | stop b err => exact .stopCall hr
    | fault b va => exact .endCall (.inexact (.fetchFault hr))
    | check b => exact .stopCall (.dropMiss hr)

theorem Fetch.Canon.micro {q : Fetch} {f : Arch → Nat → Micro} (hq : q.Canon) (hf : ∀ b x, b.Canon → (f b x).Canon) :
    (q.micro f).Canon := by
  cases q with
  | ok b x => exact hf b x hq
  | _ => exact hq

theorem Arch.Canon.mxldb {c i first count plane : Nat} {r : Call} (h : a.Canon) : (mxldb c i first count plane a r).Canon :=
    of_ite h (of_ite h (h.engineFetch.micro fun _ _ h => h.mapEngine))

theorem Micro.Canon.keep {c : Nat} {r : Call} {got : List Block} {part : Nat × Nat} {m : Micro} (hm : m.Canon) :
    (m.keep c r got part).Canon := by
  cases m <;> exact hm

theorem Arch.Canon.streamNear {c w mo eo i n : Nat} {r : Call} {acc : List Block} {k : Arch → List Block → Micro} (h : a.Canon)
    (hk : ∀ b bs, b.Canon → (k b bs).Canon) : (streamNear c w mo eo a r i acc n k).Canon := by
  induction n generalizing a i acc with
  | zero => exact hk _ _ h
  | succ n ih => exact of_ite (ih h) (of_ite h (h.fetchAll.micro fun _ _ h => ih h).keep)

theorem Arch.Canon.mxstream {c i w blocks : Nat} {r : Call} (h : a.Canon) : (mxstream c i w blocks a r).Canon :=
    of_ite h (of_ite h (h.streamNear fun _ _ h => h))

theorem Arch.Canon.partRange {c : Nat} {cmd : Cmd} {pat : Nat} {part : Nat × Nat × Nat} (h : a.Canon) :
    (a.partRange c cmd pat part).Canon :=
    of_ite (of_ite h (h.engineFetch.bind fun _ _ h => of_ite h h.engineFetch)) (of_ite h h.engineFetch)

theorem Arch.Canon.fetchParts {c pat sh acc : Nat} {cmd : Cmd} {qs : List (Nat × Nat × Nat)} (h : a.Canon) :
    (a.fetchParts c cmd pat qs sh acc).Canon := by
  induction qs generalizing a sh acc with
  | nil => exact h
  | cons q qs ih => exact h.partRange.bind fun _ _ h => ih h

theorem Arch.Canon.streamPat {c w pat i p off n : Nat} {r : Call} {acc : List Block} {k : Arch → List Block → Nat → Nat → Micro}
    (h : a.Canon) (hk : ∀ b bs p off, b.Canon → (k b bs p off).Canon) : (streamPat c w pat a r i p off acc n k).Canon := by
  induction n generalizing a i p off acc with
  | zero => exact hk _ _ _ _ h
  | succ n ih => exact of_ite (ih h) (of_ite h (h.fetchParts.micro fun _ _ h => ih h).keep)

theorem Arch.Canon.mxstreamS {c j w blocks : Nat} {r : Call} (h : a.Canon) : (mxstreamS c j w blocks a r).Canon :=
    of_ite h (of_ite h (h.streamPat fun _ _ _ _ h => h))

theorem Arch.Canon.addTerm {c row j : Nat} {t : Int × Bool} {r : Call} (h : a.Canon) : (a.addTerm c row j t r).1.Canon := by
  refine .ite (.inexact (.post ?_)) ?_ <;> exact .ite (.inexact (.post (.mapEngine h))) (.mapEngine h)

theorem Arch.Canon.mxacc {c i first count : Nat} {r : Call} (h : a.Canon) : (mxacc c i first count a r).Canon := by
  refine of_ite h (of_ite h (of_ite h ?_))
  have hi : (if (a.taskAnchor c r.cmd.ctx).any (fun x => x != sext (bits (r.m i) 42 32) 11) then a.inexact c r.cmd.ctx else a).Canon :=
  .ite (.inexact h) h
  refine of_ite hi (of_ite hi (of_ite hi ?_))
  exact List.foldlRecOn (motive := fun q : Arch × Call => q.1.Canon) _ _ hi fun q hq k _ => hq.addTerm

theorem Arch.Canon.mxclr {c i rows : Nat} {r : Call} (h : a.Canon) : (mxclr c i rows a r).Canon := of_ite h h.mapEngine

theorem Arch.Canon.mxloopImm {n : Nat} {r : Call} (h : a.Canon) : (mxloopImm n a r).Canon := h

theorem Arch.Canon.mxloopReg {i : Nat} {r : Call} (h : a.Canon) : (mxloopReg i a r).Canon := h

theorem Arch.Canon.mxend {r : Call} (h : a.Canon) : (mxend a r).Canon := by
  unfold Machine.mxend
  split
  · exact h
  · exact of_ite h h

theorem Arch.Canon.onBarrier {c : Nat} {r : Call} {f : Nat → Micro} (h : a.Canon) (hf : ∀ o, (f o).Canon) :
    (onBarrier c a r f).Canon := by
  unfold Machine.onBarrier
  split
  · exact h
  · split
    · exact h
    · exact of_ite h (of_ite h (hf _))

theorem Arch.Canon.arrive {pa : Nat} (h : a.Canon) : (a.arrive pa).Canon := .barWake (.write (.bankTurn h))

theorem Arch.Canon.mxwaitb {c : Nat} {r : Call} (h : a.Canon) : (mxwaitb c a r).Canon :=
  h.onBarrier fun _ => of_ite h (of_ite h.noteStretch (of_ite h.bankTurn h.bankTurn))

theorem Arch.Canon.mxarr {c : Nat} {r : Call} (h : a.Canon) : (mxarr c a r).Canon :=
  h.onBarrier fun _ => of_ite h.noteStretch h.arrive

theorem Arch.Canon.mxskip {r : Call} (h : a.Canon) : (mxskip a r).Canon := h

theorem Arch.Canon.mxpar {i j : Nat} {r : Call} (h : a.Canon) : (mxpar i j a r).Canon := h

theorem Arch.Canon.mxaddp {i : Nat} {imm : BitVec 24} {r : Call} (h : a.Canon) : (mxaddp i imm a r).Canon := h

theorem Arch.Canon.mxsync {r : Call} (h : a.Canon) : (mxsync a r).Canon := h

theorem Arch.Canon.microOp {c : Nat} {i : Instr} {f : Arch → Call → Micro} {r : Call} (h : a.Canon) (e : microOp c i = some f) :
    (f a r).Canon := by
  unfold Machine.microOp at e
  split at e <;> cases e
  exacts [h.mxldb, h.mxstream, h.mxstreamS, h.mxacc, h.mxclr, h.mxloopImm, h.mxloopReg, h.mxend, h.mxwaitb, h.mxarr, h.mxskip,
    h.mxpar, h.mxaddp, h.mxsync]

theorem Arch.Canon.engineStep {c : Nat} (h : a.Canon) : (a.engineStep c).Canon := by
  unfold Arch.engineStep
  split
  · exact h
  · refine .ite h ?_
    split
    · next e =>
      obtain ⟨i, _, e⟩ := Option.bind_eq_some_iff.mp e
      exact h.micro fun _ => h.microOp e
    · exact h

-- ## Stash

theorem Arch.Canon.recall {b region : Nat} (h : a.Canon) : (a.recall b region).Canon :=
  .mapBrick (.foldl h fun _ _ h => .snoopLine h)

theorem Arch.Canon.makeRoom {b keep n : Nat} {n1 : Nat} (h : a.Canon) : (a.makeRoom b keep n n1).Canon := by
  induction n1 generalizing a with
  | zero => exact h
  | succ fuel ih =>
    refine .ite h ?_
    split
    · exact ih (.recall h)
    · exact h

theorem Arch.Canon.promote {b line : Nat} {ds : List Nat} (h : a.Canon) : (a.promote b line ds).Canon := .mapBrick (.makeRoom h)

theorem Arch.Canon.sendSnoops {b line fill : Nat} {inval own : Bool} {ds : List Nat} (h : a.Canon) :
    (a.sendSnoops b line fill inval own ds).Canon :=
  h

theorem Arch.Canon.fineStep {b line e fill : Nat} {own : Bool} (h : a.Canon) : (a.fineStep b line e fill own).Canon := by
  have hr : (if (a.brick b).fineOf line = .none then a.makeRoom b (regionOf line) 1 (a.brick b).promoted.length else a).Canon :=
  .ite (.makeRoom h) h
  unfold Arch.fineStep
  dsimp only
  split
  · exact .ite hr (.ite (.mapBrick (.sendSnoops hr)) (.mapBrick (.sendSnoops hr)))
  · exact .ite (.mapBrick (.sendSnoops hr)) (.mapBrick hr)
  · exact .mapBrick hr

theorem Arch.Canon.directory {b line e fill : Nat} {own : Bool} (h : a.Canon) : (a.directory b line e fill own).Canon := by
  unfold Arch.directory
  dsimp only
  split
  · exact .mapBrick h
  · exact .ite h (.ite (.mapBrick h) (.fineStep (.promote h)))
  · exact .ite (.fineStep (.promote h)) (.mapBrick h)
  · exact .fineStep h

theorem Arch.Canon.mapFill {id : Nat} {f : Fill → Fill} (h : a.Canon) : (a.mapFill id f).Canon := h

theorem Arch.Canon.grant {b : Nat} {f : Fill} (h : a.Canon) : (a.grant b f).Canon := .mapFill (.directory h)

theorem Arch.Canon.sendRecalls {b : Nat} {f : Fill} {ws : List (Nat × Nat)} (h : a.Canon) : (a.sendRecalls b f ws).Canon := h

theorem Arch.Canon.directoryStep {b : Nat} (h : a.Canon) : (a.directoryStep b).Canon := by
  unfold Arch.directoryStep
  split
  · exact h
  · split
    · exact .grant h
    · exact .sendRecalls h

theorem Arch.Canon.localSnoop {c key line : Nat} {own : Bool} (h : a.Canon) : (a.localSnoop c key line own).Canon :=
  .foldl h fun _ _ h => .foldl h fun _ _ h => .snoopEntry h

theorem Arch.Canon.fillLands {f : Fill} (h : a.Canon) : (a.fillLands f).Canon :=
  .ite h (.ite (.checkAt h) (.mapCore (.setStash (.copyMem (.touchLine (.retireRange (.localSnoop (.landBacks h))))))))

theorem Arch.Canon.fillStep {id : Nat} (h : a.Canon) : (a.fillStep id).Canon := by
  unfold Arch.fillStep
  split
  · exact h
  · split
    · exact h
    · exact .ite h (.ite (.fillLands h) (.ite h (.ite (.noteStretch h) (.ite (.fillLands h) (.mapFill h)))))

theorem Arch.Canon.snoopArrives {b d line : Nat} {inval : Bool} (h : a.Canon) : (a.snoopArrives b d line inval).Canon := by
  unfold Arch.snoopArrives
  split
  · exact h
  · exact .ite h (.of_mem (.snoopCores (.landBacks h)) rfl)

theorem Arch.Canon.backFails {w : WriteBack} (h : a.Canon) : (a.backFails w).Canon := .checkAt (.backLands h)

theorem Arch.Canon.writeBackArrives {id : Nat} (h : a.Canon) : (a.writeBackArrives id).Canon := by
  unfold Arch.writeBackArrives
  split
  · exact h
  · exact .ite h (.ite h (.ite (.backFails h) (.backLands h)))

theorem Arch.Canon.releaseStep {b d region : Nat} (h : a.Canon) : (a.releaseStep b d region).Canon := by
  unfold Arch.releaseStep
  split <;> exact h

theorem Arch.Canon.wakeFor {r : Req} (h : a.Canon) : (a.wakeFor r).Canon := .ite (.wakeAll h) h

theorem Arch.Canon.pushBacks {r : Req} (h : a.Canon) : (a.pushBacks r).Canon :=
  .ite (.foldl h fun _ _ h => .writeBackArrives (.writeBackArrives h)) h

theorem Arch.Canon.pushReq {id : Nat} (h : a.Canon) : (a.pushReq id).Canon := by
  unfold Arch.pushReq
  dsimp only
  split
  · exact .ite (.resend h) (.remoteAccess (.remoteAccess (.bankTurn (.pushBacks (.wakeFor (.resend h))))))
  · exact .resend h

theorem Arch.Canon.pushUpTo {c x : Nat} {p : Req → Bool} (h : a.Canon) : (a.pushUpTo c x p).Canon :=
  .foldl h fun _ _ h => .pushReq h

theorem Arch.Canon.pushBanks {c : Nat} (h : a.Canon) : (a.pushBanks c).Canon := .foldl h fun _ _ h => .pushUpTo h

-- ## Copies

theorem Arch.Canon.askRemote {c x n pa : Nat} {b : Arch} (h : a.Canon) (e : a.askRemote c x n pa = some b) : b.Canon := by
  unfold Arch.askRemote at e
  split at e
  · split_ifs at e
    cases e
    exact .mapChan h
  · cases e

theorem Arch.Canon.copyReachAs {c x n ord va len : Nat} {w : Bool} (h : a.Canon) : (a.copyReachAs c x n ord va len w).Canon := by
  refine of_ite trivial (of_ite (of_ite trivial (of_ite h ?_)) (of_ite trivial ?_))
  · split
    · next e => exact h.reachHeld e
    · trivial
  · dsimp only
    split
    · exact of_ite (Arch.Canon.addMiss h) trivial
    · split
      · trivial
      · refine of_ite h ?_
        split
        · next e =>
          obtain ⟨_, _, e⟩ := List.exists_of_findSome?_eq_some e
          rcases Option.or_eq_some_iff.mp e with e | ⟨_, e⟩
          · exact h.reachHeld e
          · exact h.askRemote e
        · trivial

theorem Arch.Canon.copyReach {c x n va len : Nat} {w : Bool} (h : a.Canon) : (a.copyReach c x n va len w).Canon := h.copyReachAs

theorem Arch.Canon.copyRead {ss : List (Nat × Nat × Nat)} (h : a.Canon) : (a.copyRead ss).2.Canon := by
  induction ss generalizing a with
  | nil => exact h
  | cons p ss ih =>
    refine ih ?_
    split
    · exact h.homeRead
    · exact h.bankTurn

theorem Arch.Canon.copyWrite {ss : List (Nat × Nat × Nat)} {bs : List Byte} (h : a.Canon) : (a.copyWrite ss bs).Canon := by
  induction ss generalizing a bs with
  | nil => exact h
  | cons p ss ih =>
    refine ih ?_
    split
    · exact .homeWrite h
    · exact .barWakeAll (.writeBytes (.bankTurn h))
    · exact .writeBytes h

theorem Arch.Canon.copyEvent {c x n code info : Nat} (h : a.Canon) : (a.copyEvent c x n code info).Canon := .post h

theorem Arch.Canon.copyEnd {c x n : Nat} {st : CopyState} {code : Nat} (h : a.Canon) : (a.copyEnd c x n st code).Canon := h

theorem Arch.Canon.copyReject {c x n code faddr : Nat} (h : a.Canon) : (a.copyReject c x n code faddr).Canon := by
  unfold Arch.copyReject
  exact .mapCtx (.copyEvent (.mapChan h))

theorem Arch.Canon.copyFaults {c x n code va : Nat} (h : a.Canon) : (a.copyFaults c x n code va).Canon :=
  .ite (.copyEnd h) (.mapCtx (.copyEvent h))

theorem Arch.Canon.arrivalGo {c x n pa : Nat} {b : Arch} (h : a.Canon) (e : (a.arrivalGo c x n pa).2 = some b) : b.Canon :=
  ite_eq_elim e (fun e => Option.some.inj e ▸ h) fun e => h.rmwHeld e

theorem Arch.Canon.arrivalAt {c x n va : Nat} {b : Arch} (h : a.Canon) (e : (a.arrivalAt c x n va).2 = some b) : b.Canon := by
  unfold Arch.arrivalAt at e
  dsimp only at e
  split at e
  · split at e
    · exact h.arrivalGo e
    · cases e
  split at e
  · cases e
  · split at e
    · split at e
      · split at e
        · exact h.arrivalGo e
        · cases e
      · cases e
    · cases e
      exact .addMiss h
    · cases e

theorem Arch.Canon.copyDone {c x n : Nat} (h : a.Canon) : (a.copyDone c x n).Canon := by
  unfold Arch.copyDone
  extract_lets k a₁ a₂
  have h₂ : a₂.Canon := .copyEnd (.ite (.copyEvent h) h)
  refine .ite ?_ h₂
  split
  · exact .arrive (.dropMiss h₂)
  · exact .dropMiss h₂

theorem Arch.Canon.startStep {c x n : Nat} {w : Word} (h : a.Canon) : (a.startStep c x n w).Canon := .ite (.startCopy h) h

theorem Arch.Canon.readTemplate {c x n va : Nat} {t : Option (BitVec 1024)} {b : Arch} (h : a.Canon)
    (e : a.readTemplate c x n va = (.wait b, t)) : b.Canon := by
  unfold Arch.readTemplate at e
  dsimp only at e
  split at e
  · cases e
  · split at e
    · cases e
    · obtain ⟨e, -⟩ := Prod.mk.injEq .. ▸ e
      exact h.copyReachAs.of_wait e

theorem Arch.Canon.cacheTemplate {c x va : Nat} {t : BitVec 1024} (h : a.Canon) : (a.cacheTemplate c x va t).Canon := h

theorem Arch.Canon.wantEncoder {c x n : Nat} (h : a.Canon) : (a.wantEncoder c x n).Canon := .ite h h

theorem Arch.Canon.armWith {c x n : Nat} {t : BitVec 1024} (h : a.Canon) : (a.armWith c x n t).Canon := by
  unfold Arch.armWith
  dsimp only
  split
  · exact .copyReject (.mapChan h)
  · exact .ite (.wantEncoder (.mapChan (.mapChan h))) (.mapChan (.mapChan h))

theorem Arch.Canon.latchStart {c x n : Nat} {w : Word} (h : a.Canon) : (a.latchStart c x n w).Canon := h

theorem Arch.Canon.startFails {c x n : Nat} {w : Word} (h : a.Canon) : (a.startFails c x n w).Canon :=
  .copyReject (.dropMiss (.latchStart h))

theorem Arch.Canon.armCopy {c x n : Nat} (h : a.Canon) : (a.armCopy c x n).Canon := by
  unfold Arch.armCopy
  dsimp only
  split
  · exact h
  · refine .ite h (.ite (.copyReject (.latchStart h)) ?_)
    split
    · exact .armWith (.latchStart h)
    · exact .armWith (.cacheTemplate (.latchStart h.copyRead))
    · next e => exact h.readTemplate e
    · exact .startFails h

theorem Arch.Canon.grantEncoder {b : Nat} (h : a.Canon) : (a.grantEncoder b).Canon := by
  unfold Arch.grantEncoder
  dsimp only
  split
  · exact .mapBrick h
  · exact .ite (.mapChan (.mapBrick h)) h

theorem CopyR.Canon.bind {q : CopyR} {f : Arch → List Byte → CopyR} (hq : q.Canon) (hf : ∀ b bs, b.Canon → (f b bs).Canon) :
    (q.bind f).Canon := by
  cases q with
  | bytes b bs => exact hf b bs hq
  | _ => exact hq

theorem Arch.Canon.readSource {c x n : Nat} {va len upto : Nat} (h : a.Canon) : (a.readSource c x n va len upto).Canon := by
  refine of_ite h ?_
  split
  · exact h.copyRead
  · next e => exact h.copyReach.of_wait e
  · exact h

theorem Arch.Canon.sourceElem {c x n i base upto : Nat} (h : a.Canon) : (a.sourceElem c x n i base upto).Canon := by
  refine of_ite ?_ (of_ite h h.readSource)
  split
  · exact of_ite h.copyRead h.copyRead.readSource
  · next e => exact h.copyReach.of_wait e
  · exact h

theorem Arch.Canon.sourceElems {c x n base extra i k : Nat} {acc : List Byte} (h : a.Canon) :
    (a.sourceElems c x n base extra i k acc).Canon := by
  induction k generalizing a i acc with
  | zero => exact h
  | succ k ih => exact h.sourceElem.bind fun _ _ h => ih h

theorem Arch.Canon.sourceBytes {c x n base extra lo len : Nat} (h : a.Canon) : (a.sourceBytes c x n base extra lo len).Canon :=
  h.sourceElems.bind fun _ _ h => h

theorem Arch.Canon.landRuns {c x n : Nat} {rs : List (Int × Nat)} {bs : List Byte} (h : a.Canon) :
    (a.landRuns c x n rs bs).Canon := by
  induction rs generalizing a bs with
  | nil => exact h
  | cons r rs ih =>
    unfold Arch.landRuns
    split
    · exact ih h.copyWrite
    · next e => exact h.copyReach.of_wait e
    · exact h

theorem Arch.Canon.runsReady {c x n : Nat} {rs : List (Int × Nat)} {b : Arch} (h : a.Canon) (e : a.runsReady c x n rs = some b) :
    b.Canon := by
  obtain ⟨_, _, e⟩ := List.exists_of_findSome?_eq_some e
  split at e <;> cases e
  next e => exact h.copyReach.of_wait e

theorem Arch.Canon.arrivalWaits {c x n upto : Nat} {b : Arch} (h : a.Canon) (e : a.arrivalWaits c x n upto = some b) : b.Canon :=
    ite_eq_elim e (fun e => h.arrivalAt e) fun e => nomatch e

theorem Arch.Canon.landAt {c x n lo : Nat} {bs : List Byte} {after : Chan → Chan} (h : a.Canon) :
    (a.landAt c x n lo bs after).Canon := by
  unfold Arch.landAt
  dsimp only
  split
  · next e => exact h.runsReady e
  · split
    · next e => exact h.arrivalWaits e
    · split
      · exact h
      · exact h.landRuns.bind fun _ _ h => Arch.Canon.ite (.copyDone (.mapChan h)) (.mapChan h)

theorem Arch.Canon.badChunk {c x n idx : Nat} (h : a.Canon) : (a.badChunk c x n idx).Canon := by
  unfold Arch.badChunk
  refine .mapChan (.ite h ?_)
  exact .barWakeAll (.write (.bankTurn h))

theorem Arch.Canon.stepPlain {c x n : Nat} {h : Chan} (hc : a.Canon) : (a.stepPlain c x n h).Canon :=
  hc.sourceBytes.bind fun _ _ h => h.landAt

theorem Arch.Canon.stepConvert {c x n : Nat} {h : Chan} (hc : a.Canon) : (a.stepConvert c x n h).Canon :=
  hc.sourceBytes.bind fun _ _ h => h.landAt

theorem Arch.Canon.zeroChunk {c x n : Nat} {h : Chan} {after : Chan → Chan} (hc : a.Canon) :
    (a.zeroChunk c x n h after).Canon := by
  unfold Arch.zeroChunk
  generalize List.replicate 4096 (0 : Byte) = z
  split
  · next e => exact hc.runsReady e
  · split
    · next e => exact hc.arrivalWaits e
    · exact of_ite hc hc.badChunk.landAt

theorem Arch.Canon.stepExpand {c x n : Nat} {h : Chan} (hc : a.Canon) : (a.stepExpand c x n h).Canon := by
  refine of_ite hc.zeroChunk (hc.readSource.bind fun _ _ h => of_ite h.zeroChunk (h.readSource.bind fun _ _ h => ?_))
  dsimp only
  split
  · exact h.landAt
  · exact h.zeroChunk

theorem Arch.Canon.courseSource {c x n q : Nat} {h : Chan} {n1 : Nat} (hc : a.Canon) : (a.courseSource c x n q h n1).Canon := by
  induction n1 with
  | zero => exact hc
  | succ k ih => exact ih.bind fun _ _ h => h.sourceBytes.bind fun _ _ h => h

theorem Arch.Canon.stepCourse {c x n : Nat} {h : Chan} (hc : a.Canon) : (a.stepCourse c x n h).Canon := by
  unfold Arch.stepCourse
  extract_lets t U pl q lo
  clear_value lo
  refine of_ite hc (hc.courseSource.bind fun b bs hb => ?_)
  extract_lets gs out b'
  have hb' : b'.Canon := .ite (.foldl hb fun _ _ h => .badChunk h) hb
  clear_value b' out
  split
  · next e => exact hb.runsReady e
  · split
    · next e => exact hb.arrivalWaits e
    · exact of_ite hb hb'.landAt

theorem Arch.Canon.stepMode {c x n : Nat} {h : Chan} (hc : a.Canon) : (a.stepMode c x n h).Canon := by
  unfold Arch.stepMode
  split
  · exact hc.stepExpand
  · exact hc.stepConvert
  · exact hc.stepCourse
  · exact hc.stepPlain

theorem Arch.Canon.copyStep {c x n : Nat} (h : a.Canon) : (a.copyStep c x n).Canon := by
  have ends : ((a.dropMiss c (.chan x n)).copyEnd c x n .cancel 0).Canon := .copyEnd h
  refine of_ite h (of_ite (of_ite (of_ite ends h) ?_) h.stepMode)
  have hm := h.stepMode (c := c) (x := x) (n := n) (h := (a.ctx c x).chan n)
  split
  · exact Arch.Canon.ite ends h
  · exact hm

theorem Arch.Canon.copyLands {c x n : Nat} (h : a.Canon) : (a.copyLands c x n).Canon := by
  refine .ite h ?_
  have hs := h.copyStep (c := c) (x := x) (n := n)
  generalize a.copyStep c x n = q at hs ⊢
  cases q with
  | bytes b bs => exact .mapChan hs
  | wait b => exact hs
  | fault b k va => exact h

theorem Arch.Canon.copyFaultStep {c x n : Nat} (h : a.Canon) : (a.copyFaultStep c x n).Canon := by
  refine .ite h ?_
  have hs := h.copyStep (c := c) (x := x) (n := n)
  generalize a.copyStep c x n = q at hs ⊢
  cases q with
  | fault b k va => exact .copyFaults hs
  | _ => exact h

theorem Arch.Canon.stopChan {c x n : Nat} {cancel : Bool} (h : a.Canon) : (a.stopChan c x n cancel).Canon :=
  .ite h (.ite (.copyEnd h) h)

-- ## Events

theorem Arch.Canon.drainNear {c x off : Nat} (h : a.Canon) : (a.drainNear c x off).Canon := by
  refine of_ite trivial (of_ite trivial ?_)
  split
  · trivial
  · refine of_ite trivial ?_
    dsimp only
    split
    · split
      · exact .askFill h
      · trivial
    · exact .addMiss h
    · trivial

theorem Arch.Canon.drainPlace {c x va : Nat} (h : a.Canon) : (a.drainPlace c x va).Canon := by
  refine of_ite h.drainNear (of_ite trivial ?_)
  split
  · exact of_ite trivial trivial
  · exact .addMiss h
  · trivial

theorem Arch.Canon.drainFault {c x : Nat} (h : a.Canon) : (a.drainFault c x).Canon := h

theorem Arch.Canon.drainStore {c x pa : Nat} {near : Bool} {e : Event} (h : a.Canon) : (a.drainStore c x pa near e).Canon := by
  have hw : (Arch.barWakeAll { a.bankTurn pa 16 with mem := Memory.write (a.bankTurn pa 16).mem pa 16 (a.eventWord c e) } pa 16).Canon :=
  .barWakeAll (.write (.bankTurn h))
  exact .ite (.checkAt (.drainFault h)) (.mapCtx (.mapCore
    (.ite (.ite (.signalsWritten (.setStash hw)) hw) (.barWakeAll (.homeWrite (.bankTurn h))))))

theorem Arch.Canon.drainEvent {c : Nat} (h : a.Canon) : (a.drainEvent c).Canon := by
  unfold Arch.drainEvent
  dsimp only
  split
  · exact h
  · split
    · split
      · next e => exact ite_eq_elim e (fun e => nomatch e) fun e => h.reachHeld e
      · exact .drainStore h
    · next e => exact h.drainPlace.of_wait e
    · exact .drainFault h

theorem Arch.Canon.drainCycle {c : Nat} (h : a.Canon) : (a.drainCycle c).Canon := .ite (.mapCore (.drainEvent h)) h

theorem Arch.Canon.lineError {pa : Nat} (h : a.Canon) : (a.lineError pa).Canon := by
  unfold Arch.lineError
  split <;> exact h

theorem Arch.Canon.failSwapped {u c : Nat} (h : a.Canon) : (a.failSwapped u c).Canon := by
  unfold Arch.failSwapped
  split
  · exact .ite (.setUnit (.interruptFrom (.dropReqs (.foldl h fun _ _ h => .fatalAt h)))) h
  · exact h

theorem Arch.Canon.machineCheck {c x : Nat} (h : a.Canon) : (a.machineCheck c x).Canon :=
  .ite (.lineError h) (.ite (.failSwapped h) (.checkAt h))

-- ## Matrix

theorem State.Canon.enqueueCmd {kind : CmdKind} {n g : Nat} (h : s.Canon) : (s.enqueueCmd kind n g).Canon :=
  .ite trivial (h.setArch (.mapEngine h.arch))

theorem State.Canon.mSlot {p : Nat} {r : SlotR} (h : s.Canon) (hr : r.Canon) : (s.mSlot p r).Canon :=
  (h.whenOn hr).bind fun _ h => h.mpcNext

theorem State.Canon.mstat {g : Nat} (h : s.Canon) : (s.mstat g).Canon := .landG (.setArch h (.setsWin h.arch))

theorem Arch.Canon.callStart {c : Nat} (h : a.Canon) : (a.callStart c).Canon := by
  unfold Arch.callStart
  dsimp only
  split
  · refine .ite ?_ h
    split
    · exact .mapEngine (.mapEngine h)
    · exact .stopCall (.mapEngine h)
  · exact h

theorem Arch.Canon.loadDone {c x load : Nat} (h : a.Canon) : (a.loadDone c x load).Canon := h

theorem Arch.Canon.install {c : Nat} {cmd : Cmd} {ws : List Nat} (h : a.Canon) : (a.install c cmd ws).Canon :=
  .ite (.loadDone h) (.ite (.loadDone h) (.loadDone h))

theorem Arch.Canon.loadStep {c : Nat} (h : a.Canon) : (a.loadStep c).Canon := by
  unfold Arch.loadStep
  split
  · next cmd _ =>
    refine .ite h (.ite (.loadDone h) ?_)
    have hq : Fetch.Canon ((a.engineFetch c cmd (cmd.ga.getD 0).toNat 8).bind (fun a k =>
        if k / 2 ^ 16 ≠ 0 ∨ k % 2 ^ 16 = 0 ∨ 4096 < k % 2 ^ 16 then .ok a 0
        else (a.engineFetch c cmd ((cmd.ga.getD 0).toNat + 8) (4 * (k % 2 ^ 16))).bind (fun a x => .ok a (k % 2 ^ 16 + 2 ^ 16 * x)))) :=
      h.engineFetch.bind fun _ _ h => of_ite h (h.engineFetch.bind fun _ _ h => h)
    split
    · next e => exact .install (hq.of_eq e)
    · next e => exact .mapEngine (hq.of_eq e)
    · next e => exact .fetchFault (hq.of_eq e)
    · next e => exact .mapEngine (.noteErr (.dropMiss (hq.of_eq e)))
  · exact h

theorem Arch.Canon.drainStep {c : Nat} (h : a.Canon) : (a.drainStep c).Canon := by
  unfold Arch.drainStep
  split
  · refine .ite h ?_
    dsimp only
    split
    · exact .mapEngine h
    · split
      · exact .noteErr (.mapEngine h)
      · exact .ite (.noteErr (.mapEngine h)) (.ite (.noteStretch h) (.arrive (.mapEngine h)))
  · exact h

theorem Arch.Canon.fetchFails {c : Nat} (h : a.Canon) : (a.fetchFails c).Canon := .ite (.ite (.engineStep h) (.loadStep h)) h

theorem Arch.Canon.queueRoom {c x : Nat} (h : a.Canon) : (a.queueRoom c x).Canon := by
  unfold Arch.queueRoom
  split <;> exact h

-- ## Sync

theorem State.Canon.bankacq {mask : BitVec 12} (h : s.Canon) : (s.bankacq mask).Canon := by
  unfold State.bankacq
  split <;> exact ⟨h.arch, h.pre⟩

theorem Arch.Canon.bankGrant {c x : Nat} (h : a.Canon) : (a.bankGrant c x).Canon := by
  unfold Arch.bankGrant
  (repeat' split) <;> exact h

theorem State.Canon.barinit {a : Nat} {n : Word} (h : s.Canon) : (s.barinit a n).Canon :=
  h.wordRange.bind fun _ => .ite trivial h.wordOp

theorem Arch.Canon.barRelease {c x : Nat} (h : a.Canon) : (a.barRelease c x).Canon := by
  unfold Arch.barRelease
  split
  · refine .ite h ?_
    split
    · exact .performReq h
    · exact h
  · exact h

theorem State.Canon.tlwait {n m : Nat} (h : s.Canon) : (s.tlwait n m).Canon := by
  unfold State.tlwait
  split <;> exact ⟨h.arch, h.pre⟩

theorem Arch.Canon.tlRelease {c x : Nat} (h : a.Canon) : (a.tlRelease c x).Canon := by
  unfold Arch.tlRelease
  (repeat' split) <;> exact h

theorem State.Canon.drain {scope : Nat} (h : s.Canon) : (s.drain scope).Canon := .ite h (.upd h)

theorem Arch.Canon.drainRelease {c x : Nat} (h : a.Canon) : (a.drainRelease c x).Canon := by
  unfold Arch.drainRelease
  (repeat' split) <;> exact h

theorem Arch.Canon.unhold {c x : Nat} (h : a.Canon) : (a.unhold c x).Canon := h

theorem Arch.Canon.watermarkRelease {c x : Nat} (h : a.Canon) : (a.watermarkRelease c x).Canon := by
  unfold Arch.watermarkRelease
  (repeat' split) <;> exact h

-- ## System

theorem State.Canon.updReg {n : Nat} {f : Context → Context} (h : s.Canon) : (s.updReg n f).Canon :=
  .ite (.setArch (.upd h) (.setsWin (.mapCtx h.arch))) (.upd h)

theorem State.Canon.mts {n : Nat} {x : Word} (h : s.Canon) : (s.mts n x).Canon := by
  refine of_ite trivial ?_
  exact State.Canon.ite (State.Canon.setIss h.updReg (State.Canon.updReg h).pre) h.updReg

theorem Arch.Canon.claim {b l : Nat} (h : a.Canon) : (a.claim b l).Canon := by
  unfold Arch.claim
  split
  · exact h
  · exact .ite h h

theorem Arch.Canon.nextTile {b l : Nat} {q : Word × Arch} (h : a.Canon) (e : a.nextTile b l = some q) : q.2.Canon := by
  unfold Arch.nextTile at e
  dsimp only at e
  split at e
  · cases e; exact h
  split at e
  · cases e; exact h
  have hm : (if (SMap.get [] (a.brick b).batches l).isEmpty then a.claim b l else a).Canon := .ite (.claim h) h
  split at e
  · exact ite_eq_elim e (fun e => Option.some.inj e ▸ hm) fun e => nomatch e
  · cases e; exact .mapBrick hm

theorem Arch.Canon.tileArrives {r : TileReq} {w : Word} (h : a.Canon) : (a.tileArrives r w).Canon :=
  .foldl h fun _ _ h => .mapCtx h

theorem Arch.Canon.serveTiles {b : Nat} (h : a.Canon) : (a.serveTiles b).Canon := by
  refine .foldl h fun _ _ h => ?_
  split
  · next e => exact .mapBrick (.tileArrives (h.nextTile e))
  · exact h

theorem Arch.Canon.claimBatch {b l : Nat} (h : a.Canon) : (a.claimBatch b l).Canon := .serveTiles (.ite (.claim h) h)

theorem State.Canon.tileLater {d b : Nat} {ask : Nat × Nat × Nat → List TileReq → List TileReq} (h : s.Canon) :
    (s.tileLater d b ask).Canon :=
  ⟨h.arch, h.pre⟩

theorem State.Canon.nxtile {d : Nat} (h : s.Canon) : (s.nxtile d).Canon := by
  unfold State.nxtile
  split
  · exact .ite h.landG h.tileLater
  · split
    · exact h.landG
    · dsimp only
      split
      · next e => exact ite_eq_elim e (fun e => nomatch e) fun e => State.Canon.landG (h.setArch (h.arch.nextTile e))
      · exact h.tileLater

theorem State.Canon.sendOp {pa va : Nat} (h : s.Canon) : (s.sendOp pa va).Canon :=
  .ite (.upd (.setArch h h.arch)) (.setArch h h.arch)

theorem State.Canon.opgo {ga : Nat} (h : s.Canon) : (s.opgo ga).Canon := .ite trivial (h.globalRange.bind fun _ => h.sendOp)

theorem Arch.Canon.opRoom {c x : Nat} (h : a.Canon) : (a.opRoom c x).Canon := by
  unfold Arch.opRoom
  (repeat' split) <;> exact h

theorem State.Canon.qpub {a : Nat} {b : Word} (h : s.Canon) : (s.qpub a b).Canon := ⟨h.arch, h.pre⟩

-- ## Front

theorem Arch.Canon.anyway (h : a.Canon) : a.anyway.Canon := h

theorem Arch.Canon.feWait (h : a.Canon) : a.feWait.Canon := h

theorem Arch.Canon.unlessHeld {f : Arch → Arch} (h : a.Canon) (hf : (f a).Canon) : (a.unlessHeld f).Canon := .ite h hf

theorem Arch.Canon.feXlate {r : XlRegs} {va : Nat} {rd wr : Bool} (h : a.Canon) : (a.feXlate r va rd wr).2.Canon := by
  refine .snd_ite h ?_
  dsimp only
  split
  · exact h.walkFrom
  · exact .feWait h.walkFrom
  · exact h.walkFrom

theorem Arch.Canon.feReach {r : XlRegs} {va len : Nat} {wr : Bool} (h : a.Canon) : (a.feReach r va len wr).2.Canon := by
  refine .snd_ite h (List.foldlRecOn (motive := fun q : Option (List (Nat × Nat × Nat)) × Arch => q.2.Canon) _ _ h fun q hq e _ => ?_)
  dsimp only
  split
  · next e =>
    obtain ⟨_, _, e⟩ := Option.bind_eq_some_iff.mp e
    exact .feWait (hq.feXlate.reachHeld e)
  · exact hq.feXlate

theorem Arch.Canon.feRead {r : XlRegs} {va len : Nat} (h : a.Canon) : (a.feRead r va len).2.Canon := by
  unfold Arch.feRead
  dsimp only
  split
  · exact h.feReach.copyRead
  · exact h.feReach

theorem Arch.Canon.feWrite {r : XlRegs} {va : Nat} {bs : List Byte} (h : a.Canon) : (a.feWrite r va bs).2.Canon := by
  unfold Arch.feWrite
  dsimp only
  split
  · exact h.feReach.copyWrite
  · exact h.feReach

theorem Arch.Canon.fePhys {pa len : Nat} (h : a.Canon) : (a.fePhys pa len).2.Canon := by
  unfold Arch.fePhys
  split
  · split
    · next e => exact .feWait (h.reachHeld e)
    · exact h.copyRead
  · exact h

theorem Arch.Canon.jobEvent {q code index info : Nat} (h : a.Canon) : (a.jobEvent q code index info).Canon :=
  .mapQueue (.ite h h.feWrite)

theorem Arch.Canon.signalAt {r : XlRegs} {va : Nat} (h : a.Canon) : (a.signalAt r va).2.Canon := by
  refine .snd_ite h ?_
  dsimp only
  split
  · next e =>
    obtain ⟨_, _, e⟩ := Option.bind_eq_some_iff.mp e
    exact .feWait (h.feXlate.rmwHeld e)
  · exact h.feXlate

theorem Arch.Canon.signalAtomic {pa op v : Nat} (h : a.Canon) : (a.signalAtomic pa op v).Canon := .homeWrite h.homeRead

theorem Arch.Canon.signalOp {desc : BitVec 1024} {q index va op v : Nat} (h : a.Canon) :
    (a.signalOp desc q index va op v).2.Canon := by
  unfold Arch.signalOp
  dsimp only
  split
  · exact h.signalAt.signalAtomic
  · exact h.signalAt.jobEvent

theorem Arch.Canon.completeSignal {desc : BitVec 1024} {q index signal : Nat} {vector : Option Nat} {abort : Bool} (h : a.Canon) :
    (a.completeSignal desc q index signal vector abort).Canon := by
  unfold Arch.completeSignal
  dsimp only
  split
  · exact .interrupt (.ite h h.signalOp)
  · exact .ite h h.signalOp

theorem Arch.Canon.writeRecord {l : Nat} (h : a.Canon) : (a.writeRecord l).Canon := by
  unfold Arch.writeRecord
  split
  · exact .ite h h.feWrite
  · exact h

theorem Arch.Canon.updLevel {l : Nat} {f : Level → Level} (h : a.Canon) : (a.updLevel l f).Canon := .writeRecord (.mapLevel h)

theorem Arch.Canon.newLevel {v : Level} (h : a.Canon) : (a.newLevel v).2.Canon := .writeRecord h

theorem Arch.Canon.markLoss {l : Nat} {n1 : Nat} (h : a.Canon) : (a.markLoss l n1).Canon := by
  induction n1 generalizing a l with
  | zero => exact h
  | succ f ih =>
    unfold Arch.markLoss
    split
    · exact h
    · extract_lets a₁ a₂
      have h₁ : a₁.Canon := .ite h (.updLevel h)
      have h₂ : a₂.Canon := by
        dsimp only [a₂]
        split
        · exact ih h₁
        · exact h₁
      split
      · exact ih h₂
      · exact h₂

theorem Arch.Canon.countEnd {l : Nat} {ok : Bool} (h : a.Canon) : (a.countEnd l ok).Canon :=
  .ite (.updLevel h) (.markLoss (.updLevel h))

theorem Arch.Canon.unitChildEnd {u : Nat} {ok : Bool} (h : a.Canon) : (a.unitChildEnd u ok).Canon := by
  unfold Arch.unitChildEnd
  dsimp only
  split
  · exact .markLoss (.mapUnit h)
  · exact .mapUnit h

theorem Arch.Canon.levelStarts {l : Nat} {n1 : Nat} (h : a.Canon) : (a.levelStarts l n1).Canon := by
  induction n1 generalizing a l with
  | zero => exact h
  | succ f ih =>
    unfold Arch.levelStarts
    split
    · exact h
    · dsimp only
      split
      · exact ih (.ite (.updLevel h) h)
      · exact .ite (.updLevel h) h

theorem Arch.Canon.mapGraph {g : Nat} {f : Graph → Graph} (h : a.Canon) : (a.mapGraph g f).Canon := by
  unfold Arch.mapGraph
  split <;> exact h

theorem Arch.Canon.nodeOver {g n : Nat} {p : Progress} (h : a.Canon) : (a.nodeOver g n p).Canon := by
  unfold Arch.nodeOver
  (repeat' split) <;> exact h

theorem Arch.Canon.deadRecord {desc : BitVec 1024} {record : Nat} {st : LevelState} (h : a.Canon) :
    (a.deadRecord desc record st).Canon :=
  .ite h h.feWrite

theorem Arch.Canon.failNodes {g : Nat} {st : LevelState} {l1 : List Nat} {n2 : Nat} (h : a.Canon) :
    (a.failNodes g st l1 n2).Canon := by
  induction n2 generalizing a st l1 with
  | zero => cases l1 <;> exact h
  | succ f ih =>
    cases l1 with
    | nil => exact h
    | cons n ns =>
      unfold Arch.failNodes
      split
      · refine .ite (ih ?_) (ih h)
        split
        · exact .countEnd (.deadRecord (.nodeOver h))
        · exact .nodeOver h
      · exact ih h

theorem Arch.Canon.nodeEnds {l : Nat} {ok : Bool} (h : a.Canon) : (a.nodeEnds l ok).Canon := by
  unfold Arch.nodeEnds
  split
  · exact h
  · exact .ite (.mapGraph (.nodeOver h)) (.failNodes (.nodeOver h))

theorem Arch.Canon.endLevel {l : Nat} {v : Level} {st : LevelState} (h : a.Canon) : (a.endLevel l v st).Canon := by
  unfold Arch.endLevel
  extract_lets a₁ a₂ a₃ a₄ ok a₅ a₆ a₇
  have h₄ : a₄.Canon := .mapQueue (.mapQueue (.completeSignal (.updLevel h)))
  have h₅ : a₅.Canon := by
    dsimp only [a₅]
    split
    · exact .unitChildEnd h₄
    · exact h₄
  have h₆ : a₆.Canon := by
    dsimp only [a₆]
    split
    · exact .countEnd h₅
    · exact h₅
  exact .of_mem (.nodeEnds h₆) rfl

theorem Arch.Canon.settleLevels {n1 : Nat} (h : a.Canon) : (a.settleLevels n1).Canon := by
  induction n1 generalizing a with
  | zero => exact h
  | succ f ih =>
    unfold Arch.settleLevels
    split
    · exact ih (.endLevel h)
    · exact h

theorem Arch.Canon.settled (h : a.Canon) : a.settled.Canon := .settleLevels h

theorem Arch.Canon.nextPacket {q : Nat} (h : a.Canon) : (a.nextPacket q).2.Canon := h.fePhys

theorem Arch.Canon.reslot (h : a.Canon) : a.reslot.Canon := .foldl h fun _ _ h => .mapQueue h

theorem Arch.Canon.frontDone (h : a.Canon) : a.frontDone.Canon :=
  .ite (.reslot (.of_mem (.settled h) rfl)) (.of_mem (.settled h) rfl)

theorem Arch.Canon.readLaunch {r : XlRegs} {va : Nat} (h : a.Canon) : (a.readLaunch r va).2.Canon := by
  refine .snd_ite h ?_
  dsimp only
  split
  · exact h.feRead
  · refine .snd_ite h.feRead ?_
    split
    · exact h.feRead.feRead.feRead
    · exact h.feRead.feRead.feRead

theorem Arch.Canon.sharesOf {r : XlRegs} {va : Nat} {n1 : Nat} {n2 : Nat} (h : a.Canon) : (a.sharesOf r va n1 n2).2.Canon := by
  induction n2 generalizing a va n1 with
  | zero => exact h
  | succ f ih => exact .snd_ite h (ih h.feXlate)

theorem Arch.Canon.inputShares {r : XlRegs} {d : Nat} (h : a.Canon) : (a.inputShares r d).2.Canon :=
  List.foldlRecOn (motive := fun q : List (Nat × Nat) × Arch => q.2.Canon) _ _ h fun _ hq _ _ => hq.sharesOf

theorem Arch.Canon.placement {r : XlRegs} {d slice : Nat} (h : a.Canon) : (a.placement r d slice).2.Canon := h.inputShares

theorem Arch.Canon.addLaunch {id : Nat} {level queue : Option Nat} {r : XlRegs} {d base : Nat} {image : List Byte}
    {presets : List (Nat × Word × Bool)} {task : Option (Nat × Nat)} (h : a.Canon) :
    (a.addLaunch id level queue r d base image presets task).Canon :=
  h

theorem Arch.Canon.preset {c : Nat} {ps : List (Nat × Word × Bool)} (h : a.Canon) : (a.preset c ps).Canon :=
  .foldl h fun _ _ h => .setFull (.write (.bankTurn h))

theorem Arch.Canon.clearGroup {c x g : Nat} (h : a.Canon) : (a.clearGroup c x g).Canon := .ite (.dropWindow h) h

theorem Arch.Canon.clearGrant {c x d : Nat} (h : a.Canon) : (a.clearGrant c x d).Canon := .foldl h fun _ _ h => .clearGroup h

theorem Arch.Canon.loadMember {v : Launch} {c : Nat} (h : a.Canon) : (a.loadMember v c).Canon := .mapCore (.preset h)

theorem Arch.Canon.startMember {v : Launch} {l u x : Nat} {e : Nat × Nat} (h : a.Canon) : (a.startMember v l u x e).Canon :=
  .setCtx (.mapCore (.clearGrant h))

theorem Arch.Canon.startUnit {v : Launch} {l depth : Nat} {e : List Nat × Nat} (h : a.Canon) : (a.startUnit v l depth e).Canon :=
  .foldl h fun _ _ h => .startMember h

theorem Arch.Canon.feTell {cs : List Nat} (h : a.Canon) : (a.feTell cs).Canon := by
  unfold Arch.feTell
  split <;> exact h

theorem Arch.Canon.sendRelease {l : Nat} {v : Launch} (h : a.Canon) : (a.sendRelease l v).Canon := by
  refine .ite h ?_
  split
  · exact h
  · exact .ite h (.foldl (.setLaunch h) fun _ _ h => .loadMember h)

theorem Arch.Canon.startUnits {l : Nat} {v : Launch} {us : List (List Nat × Nat)} (h : a.Canon) :
    (a.startUnits l v us).Canon := by
  refine .ite ?_ (.setLaunch h)
  have hu : ((us.foldl (fun a e => a.startUnit v l (a.launchDepth v) e) (a.setLaunch l { v with released := true })).wakePorts).Canon :=
  .wakePorts (.foldl (.setLaunch h) fun _ _ h => .startUnit h)
  dsimp only
  split
  · exact .levelStarts hu
  · exact hu

theorem Arch.Canon.release {l : Nat} (h : a.Canon) : (a.release l).Canon := by
  unfold Arch.release
  split
  · exact h
  · refine .ite h ?_
    split
    · exact .sendRelease h
    · exact .setLaunch h
    · exact .ite (.startUnits h) h

theorem Arch.Canon.starve {l : Nat} (h : a.Canon) : (a.starve l).Canon := by
  unfold Arch.starve
  split
  · exact .ite (.jobEvent (.setLaunch h)) h
  · exact h

theorem Arch.Canon.stopMember {c x : Nat} {fate : UnitEnd} (h : a.Canon) : (a.stopMember c x fate).Canon := by
  unfold Arch.stopMember
  extract_lets a₁ a₂ a₃
  have h₂ : a₂.Canon := .foldl (.feTell h) fun _ _ h => .mapChan (.stopChan h)
  have h₃ : a₃.Canon := .dropMiss (.mapEngine h₂)
  exact .endProgram (.dropMiss (.withdraw h₃))

theorem Arch.Canon.stopUnit {u : Nat} {fate : UnitEnd} (h : a.Canon) : (a.stopUnit u fate).Canon := by
  unfold Arch.stopUnit
  split
  · exact h
  · exact .ite (.foldl h fun _ _ h => .ite (.dropMiss (.mapEngine h)) h) (.ite (.setUnit (.dropReqs h))
      (.foldl h fun _ _ h => .stopMember h))

theorem Arch.Canon.endUnit {u : Nat} {e : ExecUnit} {fate : UnitEnd} (h : a.Canon) : (a.endUnit u e fate).Canon := by
  unfold Arch.endUnit
  extract_lets a₁ a₂
  have h₁ : a₁.Canon := .foldl h fun _ _ h => .ite (.mapCore (.setCtx h)) h
  have h₂ : a₂.Canon := .of_mem h₁ rfl
  split
  · exact h₂
  · refine .ite (.of_mem h₂ rfl) ?_
    split
    · exact .countEnd h₂
    · exact h₂

-- ## Translation

theorem Arch.Canon.xlinvVa {va : Nat} (h : a.Canon) : (a.xlinvVa va).Canon := .invalidate h

theorem Arch.Canon.xlinvAsid (h : a.Canon) : a.xlinvAsid.Canon := .invalidate h

theorem Arch.Canon.xlinvAll (h : a.Canon) : a.xlinvAll.Canon := .invalidate h

-- ## Save

theorem Arch.Canon.saveCtx {c x stash : Nat} (h : a.Canon) : (a.saveCtx c x stash).Canon :=
  .foldl h fun _ _ h => .ite (.homeWrite h) h

theorem Arch.Canon.saveHeld {c x stash : Nat} {b : Arch} (h : a.Canon) (e : a.saveHeld c x stash = some b) : b.Canon := by
  obtain ⟨_, _, e⟩ := List.exists_of_findSome?_eq_some e
  exact h.reachHeld e

theorem AreaR.Canon.bind {q : AreaR} {f : Arch → AreaR} (hq : q.Canon) (hf : ∀ b, b.Canon → (f b).Canon) : (q.bind f).Canon := by
  cases q with
  | ok b => exact hf b hq
  | wait b => exact hq
  | error => trivial

theorem Arch.Canon.readSpans {c pa : Nat} {es : List (Nat × Nat)} (h : a.Canon) : (a.readSpans c pa es).Canon := by
  induction es generalizing a with
  | nil => exact h
  | cons e es ih =>
    unfold Arch.readSpans
    split
    · next e => exact h.reachHeld e
    · split
      · trivial
      · exact ih h.homeRead

theorem Arch.Canon.readHeads {c pa off : Nat} {n1 : Nat} (h : a.Canon) : (a.readHeads c pa off n1).Canon := by
  induction n1 generalizing a off with
  | zero => exact h
  | succ n ih => exact h.readSpans.bind fun _ h => h.readSpans.bind fun _ h => ih h

theorem Arch.Canon.readArea {c x : Nat} {groups : Bool} (h : a.Canon) : (a.readArea c x groups).Canon := by
  -- The definition is unfolded as a function: unfolded at its arguments, the kernel would evaluate the area's place.
  obtain ⟨f, hf⟩ : ∃ f, f = Arch.readArea := ⟨_, rfl⟩
  rw [← hf]
  delta Arch.readArea at hf
  subst hf
  generalize Memory.read = read, areaRecords = i, areaHandler = j
  dsimp only
  split
  · exact h.readSpans.bind fun _ h => h.readSpans.bind fun _ h => h.readHeads.bind fun _ h => h.readHeads
  · exact h

theorem Arch.Canon.reload {c x : Nat} {t : Context} (h : a.Canon) : (a.reload c x t).Canon := .setCtx h

theorem Arch.Canon.readAreas {x : Nat} {groups : Bool} {cs : List Nat} (h : a.Canon) : (a.readAreas x groups cs).Canon := by
  induction cs generalizing a with
  | nil => exact h
  | cons c cs ih => exact h.readArea.bind fun _ h => ih h

theorem Arch.Canon.detmApply {c x : Nat} (h : a.Canon) : (a.detmApply c x).Canon := by
  unfold Arch.detmApply
  dsimp only
  split
  · exact .ite (.wakePorts (.setCtx h)) h
  · exact h

theorem Arch.Canon.freezeMember {c x : Nat} {st : Status} {pause : Bool} (h : a.Canon) : (a.freezeMember c x st pause).Canon :=
  .ite (.foldl h fun _ _ h => .stopChan h) h

theorem Arch.Canon.swapBegin {e : ExecUnit} (h : a.Canon) : (a.swapBegin e).Canon :=
  .ite (.foldl h fun _ _ h => .freezeMember h) h

theorem Arch.Canon.swapPause {e : ExecUnit} (h : a.Canon) : (a.swapPause e).Canon :=
  .foldl h fun _ _ h => .ite (.foldl h fun _ _ h => .stopChan h) h

theorem Arch.Canon.swapSettle {c x : Nat} (h : a.Canon) : (a.swapSettle c x).2.Canon :=
  .foldl (.mapCtx (.detmApply h)) fun _ _ h => .dropWindow h

theorem Arch.Canon.swapMember {u c x : Nat} (h : a.Canon) : (a.swapMember u c x).Canon :=
  .setCtx (.leaveBehind (.mapCore (.mapBrick (.freeGroups (.mapUnit (.saveCtx h.swapSettle))))))

theorem Arch.Canon.swapHeld {e : ExecUnit} {b : Arch} (h : a.Canon) (e : a.swapHeld e = some b) : b.Canon := by
  obtain ⟨_, _, e⟩ := List.exists_of_findSome?_eq_some e
  obtain ⟨_, _, rfl⟩ := Option.map_eq_some_iff.mp e
  exact .of_mem h rfl

theorem Arch.Canon.swapOut {u : Nat} (h : a.Canon) : (a.swapOut u).Canon := by
  unfold Arch.swapOut
  split
  · exact h
  · refine .ite h (.ite (.swapPause (.swapBegin h)) ?_)
    split
    · exact .checkAt (.swapPause (.swapBegin h))
    · next e => exact .swapHeld (.swapPause (.swapBegin h)) e
    · exact .mapUnit (.foldl (.swapPause (.swapBegin h)) fun _ _ h => .swapMember h)

theorem Arch.Canon.restoreGroups {c x : Nat} {d : Nat} (h : a.Canon) : (a.restoreGroups c x d).Canon :=
  .foldl h fun _ _ h => .mapCore (.foldl (.copyMem (.clearGroup h)) fun _ _ h => .setFull h)

theorem Arch.Canon.restoreMember {u x : Nat} {v : Launch} {e : Nat × Context} (h : a.Canon) :
    (a.restoreMember u x v e).Canon := by
  unfold Arch.restoreMember
  extract_lets c pa missed a₁ late a₂ a₃ a₄ a₅
  have h₁ : a₁.Canon := .restoreGroups h
  have h₃ : a₃.Canon := .mapCtx (.reload (.leaveBehind (.mapCore h₁)))
  have h₄ : a₄.Canon := .foldl h₃ fun _ _ h => .post h
  exact .rejoin (.foldl h₄ fun _ _ h => .ite (.wantEncoder h) h)

theorem Arch.Canon.restoreUnit {u : Nat} {e : ExecUnit} {v : Launch} (h : a.Canon) : (a.restoreUnit u e v).Canon := by
  have hr := h.readAreas (x := e.ctx) (groups := true) (cs := e.kept.map Prod.fst)
  unfold Arch.restoreUnit
  split
  · next hq => rw [hq] at hr; exact .ite (.wakePorts (.setUnit (.foldl hr fun _ _ h => .restoreMember h))) (.setUnit hr)
  · next hq => rw [hq] at hr; exact hr
  · exact .failSwapped h

theorem Arch.Canon.swapRestore {u : Nat} (h : a.Canon) : (a.swapRestore u).Canon := by
  unfold Arch.swapRestore
  split
  · exact h
  · split
    · exact h
    · exact .ite (.setUnit h) (.ite h (.restoreUnit h))

theorem Arch.Canon.failMember {c x : Nat} (h : a.Canon) : (a.failMember c x).Canon :=
  .endProgram (.fatalAt (.mapCtx (.saveCtx (.mapCtx (.detmApply h)))))

theorem Arch.Canon.finishFailing {u : Nat} {e : ExecUnit} (h : a.Canon) : (a.finishFailing u e).Canon := by
  refine .ite ?_ h
  split
  · exact .of_mem h rfl
  · exact .mapUnit (.foldl h fun _ _ h => .failMember h)

theorem Arch.Canon.haltBegin {c x : Nat} (h : a.Canon) : (a.haltBegin c x).Canon :=
  .ite (.foldl h fun _ _ h => .mapCore (.freezeMember h)) h

theorem Arch.Canon.haltFinish {c x : Nat} (h : a.Canon) : (a.haltFinish c x).Canon := by
  unfold Arch.haltFinish
  extract_lets cs save a₁
  have h₁ : a₁.Canon := .ite (.foldl h fun _ _ h => .freezeMember (.detmApply h)) h
  refine .ite h₁ ?_
  split
  · exact .checkAt h₁
  · next e =>
    obtain ⟨_, _, e⟩ := List.exists_of_findSome?_eq_some e
    exact .saveHeld h₁ e
  · exact .foldl h₁ fun _ _ h => .mapCtx (.saveCtx h)

theorem Arch.Canon.haltRequest {c x : Nat} (h : a.Canon) : (a.haltRequest c x).Canon :=
  .ite (.haltFinish (.ite (.haltBegin h) h)) (.ite (.haltBegin h) h)

theorem Arch.Canon.breakpoint {c x : Nat} (h : a.Canon) : (a.breakpoint c x).Canon :=
  .ite (.haltFinish (.ite (.haltBegin h) h)) (.ite (.haltBegin h) h)

theorem Arch.Canon.resume {c x : Nat} {step : Bool} (h : a.Canon) : (a.resume c x step).Canon := by
  unfold Arch.resume
  exact .mapCtx (.mapCore (.rejoin (.reload h)))

theorem Arch.Canon.resumeAll {x : Nat} {cs : List Nat} {step : Bool} (h : a.Canon) : (a.resumeAll x cs step).Canon := by
  have hr := h.readAreas (x := x) (groups := false) (cs := cs)
  unfold Arch.resumeAll
  split
  · next hq => rw [hq] at hr; exact .wakePorts (.foldl hr fun _ _ h => .resume h)
  · next hq => rw [hq] at hr; exact hr
  · exact .checkAt h

theorem Arch.Canon.haltRelease {c x : Nat} (h : a.Canon) : (a.haltRelease c x).Canon := .ite (.resumeAll h) h

theorem Arch.Canon.debugStep {c x : Nat} (h : a.Canon) : (a.debugStep c x).Canon := .ite (.resumeAll h) h

-- ## Operators

theorem Arch.Canon.innerRead {d : Nat} {l1 : List Nat} (h : a.Canon) : (a.innerRead d l1).2.Canon := by
  -- The read is held abstract, or the kernel would evaluate it where it unfolds the recursion.
  obtain ⟨read, hr, hp⟩ : ∃ read, read = Arch.fePhys ∧ ∀ {a : Arch} {pa len : Nat}, a.Canon → (read a pa len).2.Canon :=
  ⟨_, rfl, .fePhys⟩
  obtain ⟨f, hf⟩ : ∃ f, f = Arch.innerRead := ⟨_, rfl⟩
  rw [← hf]
  delta Arch.innerRead Arch.innerRead._f at hf
  rw [← hr] at hf
  subst hf
  induction l1 generalizing a with
  | nil => exact h
  | cons j js ih =>
    dsimp only
    split
    · exact hp h
    · exact ih (hp h)

theorem Arch.Canon.opTile {d : Nat} (h : a.Canon) : (a.opTile d).2.Canon := .snd_ite h.innerRead h

theorem Arch.Canon.slotReach {o : OpSet} {j : Nat} {wr : Bool} (h : a.Canon) : (a.slotReach o j wr).2.Canon := by
  unfold Arch.slotReach
  refine .snd_ite ?_ h.feReach
  split
  · exact h
  · dsimp only
    split
    · next e => exact .feWait (h.reachHeld e)
    · exact h

theorem Arch.Canon.mapOp {n : Nat} {f : OpSet → OpSet} (h : a.Canon) : (a.mapOp n f).Canon := by
  unfold Arch.mapOp
  split <;> exact h

theorem Arch.Canon.opWrite {o : OpSet} (h : a.Canon) : (a.opWrite o).Canon := .feWrite h

theorem Arch.Canon.codedEnds {l : Option Nat} {st : LevelState} (h : a.Canon) : (a.codedEnds l st).Canon := by
  unfold Arch.codedEnds
  split
  · exact h
  · exact .ite (.mapLevel h) (.markLoss (.mapLevel h))

theorem Arch.Canon.outerReturn {s j : Nat} {bs : Option (List Byte)} {cs : Word} (h : a.Canon) :
    (a.outerReturn s j bs cs).Canon := by
  unfold Arch.outerReturn
  split
  · exact h
  · extract_lets t
    split
    · exact .mapOp (.copyWrite h.slotReach)
    · exact .mapOp h

theorem Arch.Canon.innerEnds {o : OpSet} (h : a.Canon) : (a.innerEnds o).Canon := by
  unfold Arch.innerEnds
  split
  · exact h
  · refine .outerReturn (List.foldlRecOn (motive := fun q : Option (List Byte) × Arch => q.2.Canon) _ _ h fun q hq i _ => ?_)
    dsimp only
    split
    · exact hq.slotReach.copyRead
    · exact hq.slotReach

theorem Arch.Canon.opBarAt {r : XlRegs} {d : Nat} (h : a.Canon) : (a.opBarAt r d).2.Canon := h.feXlate

theorem Arch.Canon.opArrive {r : XlRegs} {d : Nat} (h : a.Canon) : (a.opArrive r d).Canon := by
  refine .ite h ?_
  dsimp only
  split
  · split
    · next e => exact .feWait (h.opBarAt.rmwHeld e)
    · exact .arrive h.opBarAt
  · exact h.opBarAt

theorem Arch.Canon.opFinish {n : Nat} {o : OpSet} {st : OpState} {cause : Nat} (h : a.Canon) : (a.opFinish n o st cause).Canon :=
  .opArrive (.innerEnds (.codedEnds (.setOp (.opWrite h))))

theorem Arch.Canon.opDrop {n : Nat} (h : a.Canon) : (a.opDrop n).Canon := by
  refine .of_mem (a := List.foldl _ a _) ?_ rfl
  exact .foldl h fun _ _ h => .stopUnit h

theorem Arch.Canon.opClose {n : Nat} (h : a.Canon) : (a.opClose n).Canon := by
  unfold Arch.opClose
  split
  · exact h
  · refine .ite h (.ite (.opFinish (.opDrop h)) (.opWrite (.setOp ?_)))
    exact .of_mem (.opDrop h) rfl

theorem Arch.Canon.opCheck {n : Nat} (h : a.Canon) : (a.opCheck n).Canon := by
  unfold Arch.opCheck
  split
  · exact .ite (.opClose h) h
  · exact h

theorem Arch.Canon.taskEnds {n j : Nat} {st : TaskState} (h : a.Canon) : (a.taskEnds n j st).Canon := .opCheck (.mapOp h)

theorem Arch.Canon.mixTile {o : OpSet} {j fresh : Nat} {bs : List Byte} (h : a.Canon) : (a.mixTile o j fresh bs).Canon := by
  refine .foldl h fun _ _ h => ?_
  dsimp only
  split
  · exact .copyWrite h.feReach.copyRead
  · exact h.feReach

theorem Arch.Canon.closeOverdue {n : Nat} (h : a.Canon) : (a.closeOverdue n).Canon := by
  unfold Arch.closeOverdue
  split
  · exact .ite (.opClose h) h
  · exact h

theorem Arch.Canon.farReturn {u fresh : Nat} (h : a.Canon) : (a.farReturn u fresh).2.Canon := by
  unfold Arch.farReturn
  extract_lets n j
  split
  · exact h
  · exact .snd_ite h (.snd_ite (.taskEnds (.closeOverdue h)) (.opCheck (.outerReturn (.closeOverdue h))))

theorem Arch.Canon.returnTask {u fresh : Nat} (h : a.Canon) : (a.returnTask u fresh).2.Canon := by
  unfold Arch.returnTask
  split
  · exact h.farReturn
  · split
    · exact h
    · refine .snd_ite h ?_
      dsimp only
      split
      · refine .snd_ite (.endUnit (.closeOverdue h)) ?_
        split
        · exact .taskEnds (.endUnit (.mixTile (.closeOverdue h)))
        · refine .snd_ite (.taskEnds ?_) (.opCheck (.mapOp ?_)) <;> exact .endUnit (.copyWrite h.closeOverdue.slotReach)
      · exact .endUnit (.closeOverdue h)

theorem Arch.Canon.expires {n : Nat} {t : Option Nat} (h : a.Canon) : (a.expires n t).Canon := by
  unfold Arch.expires
  split
  · exact .ite (.opClose h) h
  · exact h

theorem Arch.Canon.graceExpires {n : Nat} (h : a.Canon) : (a.graceExpires n).Canon := .expires h

theorem Arch.Canon.tmaxExpires {n : Nat} (h : a.Canon) : (a.tmaxExpires n).Canon := .expires h

theorem Arch.Canon.opStop {n : Nat} (h : a.Canon) : (a.opStop n).Canon := by
  unfold Arch.opStop
  split
  · split
    · exact .opFinish (.opDrop h)
    · exact .opFinish (.opDrop h)
    · exact h
  · exact h

theorem Arch.Canon.opCancel {n : Nat} (h : a.Canon) : (a.opCancel n).Canon := .foldl h fun _ _ h => .opStop h

theorem Arch.Canon.routeless (h : a.Canon) : a.routeless.Canon := by
  refine .foldl h fun _ _ h => ?_
  split
  · exact .ite (.foldl h fun _ _ h => .taskEnds h) h
  · exact h

theorem Arch.Canon.opSweep (h : a.Canon) : a.opSweep.Canon := by
  refine .foldl (.foldl (.routeless h) fun _ _ h => .opCheck h) fun _ _ h => ?_
  split
  · exact h
  · exact h
  · exact .opCancel h

theorem Arch.Canon.recordAt {r : XlRegs} {d : Nat} (h : a.Canon) : (a.recordAt r d).2.Canon := .snd_ite h h.feXlate

theorem Arch.Canon.inStacks {r : XlRegs} {va len : Nat} (h : a.Canon) : (a.inStacks r va len).2.Canon :=
  List.foldlRecOn (motive := fun q : Bool × Arch => q.2.Canon) _ _ h fun _ hq _ _ => hq.feXlate

theorem Arch.Canon.opSpace {r : XlRegs} {d tile : Nat} (h : a.Canon) : (a.opSpace r d tile).2.Canon :=
  .snd_ite h (List.foldlRecOn (motive := fun q : Bool × Arch => q.2.Canon) _ _ (.feRead h.inStacks) fun _ hq _ _ => hq.inStacks)

theorem Arch.Canon.dispatch {n : Nat} {o : OpSet} {image : List Byte} {j : Nat} (h : a.Canon) :
    (a.dispatch n o image j).Canon := by
  unfold Arch.dispatch
  extract_lets d l a₁
  have h₁ : a₁.Canon := h
  exact .ite (.ite h (.ite h (.taskEnds h))) (.ite (.taskEnds h₁) h₁)

theorem Arch.Canon.opReject {r : OpReq} (h : a.Canon) : (a.opReject r).Canon := by
  unfold Arch.opReject
  extract_lets a₁ a₂
  have h₁ : a₁.Canon := by
    dsimp only [a₁]
    split
    · exact .post (.feTell h)
    · exact h
  have h₂ : a₂.Canon := by
    dsimp only [a₂]
    split
    · exact .taskEnds h₁
    · exact h₁
  split
  · exact .jobEvent (.codedEnds (.mapLevel h₂))
  · exact h₂

theorem Arch.Canon.openOp (h : a.Canon) : a.openOp.Canon := by
  unfold Arch.openOp
  split
  · refine .ite h ?_
    extract_lets x y a₁
    have h₁ : a₁.Canon := .of_mem (b := a₁) h.fePhys rfl
    clear_value a₁
    split
    · exact .opReject h₁
    · extract_lets d tl tile a₂ rec_ a₃ bar space a₄ o o₁ o₂ q im a₅
      have h₃ : a₃.Canon := .recordAt h₁.opTile
      have h₄ : a₄.Canon := .opSpace (.snd_ite h₃ h₃.opBarAt)
      have h₅ : a₅.Canon := .opWrite (.setOp (.snd_ite h₄ h₄.feRead))
      clear_value a₃ a₄ a₅
      split
      · exact .opReject h₃
      · exact .ite (.opArrive (.innerEnds (.codedEnds (.opWrite h₄)))) (.opCheck (.foldl h₅ fun _ _ h => .dispatch h))
  · exact h

theorem Arch.Canon.readTiles {o : OpSet} {l1 : List Nat} (h : a.Canon) : (a.readTiles o l1).2.Canon := by
  induction l1 generalizing a with
  | nil => exact h
  | cons j js ih =>
    unfold Arch.readTiles
    dsimp only
    split
    · exact h.slotReach
    · refine .snd_ite h.slotReach.copyRead ?_
      split
      · exact ih h.slotReach.copyRead
      · exact ih h.slotReach.copyRead

theorem Arch.Canon.verdict {o : OpSet} {l1 : List Nat} {n2 : Nat} (h : a.Canon) : (a.verdict o l1 n2).2.Canon := by
  induction n2 generalizing a l1 with
  | zero => exact h
  | succ f ih =>
    unfold Arch.verdict
    extract_lets d k r n fail ms ds qs ps rd
    have hr : rd.2.Canon := .snd_ite h h.readTiles
    refine .snd_ite h ?_
    split
    · exact ih hr
    · split
      · exact hr
      · refine .snd_ite hr (.snd_ite hr ?_)
        split
        · exact ih hr.readTiles
        · split
          · exact hr.readTiles
          · refine .snd_ite hr.readTiles ?_
            split
            · exact hr.readTiles
            · exact hr.readTiles

theorem Arch.Canon.writeTiles {o : OpSet} {rb : List (Nat × List Int)} (h : a.Canon) : (a.writeTiles o rb).2.Canon := by
  refine List.foldlRecOn (motive := fun q : List Nat × Arch => q.2.Canon) _ _ h fun q hq e _ => ?_
  dsimp only
  split
  · exact .copyWrite hq.slotReach
  · exact hq.slotReach

theorem Arch.Canon.decode {n : Nat} (h : a.Canon) : (a.decode n).Canon := by
  unfold Arch.decode
  split
  · exact h
  · exact .ite (.ite (.opWrite (.setOp h)) h) (.ite h (.opFinish h.verdict.writeTiles))

-- ## Queues

theorem Arch.Canon.mirror {q : Nat} (h : a.Canon) : (a.mirror q).Canon := .homeWrite (.homeWrite h)

theorem Arch.Canon.deregister {q : Nat} (h : a.Canon) : (a.deregister q).Canon := h

theorem Arch.Canon.register {q pa : Nat} {d : BitVec 1024} (h : a.Canon) : (a.register q pa d).Canon := by
  unfold Arch.register
  extract_lets a₁ a₂ j p
  have h₁ : a₁.Canon := .foldl h fun _ _ h => .unitChildEnd h
  have h₂ : a₂.Canon := by
    dsimp only [a₂]
    split
    · exact .mapLevel h₁
    · exact h₁
  exact .mirror (.mapQueue h₂.newLevel.newLevel)

theorem Arch.Canon.arm {q : Nat} (h : a.Canon) : (a.arm q).Canon := by
  refine .ite h ?_
  have h₁ : (if (a.queue q).armed then a.deregister q else a).Canon := .ite (.deregister h) h
  dsimp only
  split
  · refine .ite (.mapQueue h₁) ?_
    split
    · exact .mapQueue h₁.fePhys
    · exact .ite (.mapQueue h₁.fePhys) (.register h₁.fePhys)
  · exact .mapQueue h₁

theorem Arch.Canon.ring {q w : Nat} (h : a.Canon) : (a.ring q w).Canon := of_ite trivial (of_ite trivial (.mirror (.mapQueue h)))

theorem Arch.Canon.hostBell {q w : Nat} (h : a.Canon) : (a.hostBell q w).Canon := by
  have hr := h.ring (q := q) (w := w)
  refine .ite h ?_
  split
  · exact h
  · exact .mapQueue h
  · next hq => rw [hq] at hr; exact hr

theorem Arch.Canon.childPackets {q : Nat} {l1 : BitVec 32} {n2 : Nat} (h : a.Canon) : (a.childPackets q l1 n2).2.Canon := by
  induction n2 generalizing a l1 with
  | zero => exact h
  | succ n ih => exact ih h.fePhys

theorem Arch.Canon.bellRefused {b : Doorbell} {reason : Nat} (h : a.Canon) : (a.bellRefused b reason).Canon := .post (.feTell h)

theorem Arch.Canon.deviceBell {b : Doorbell} (h : a.Canon) : (a.deviceBell b).Canon := by
  have hr := h.ring (q := b.queue) (w := b.w)
  refine .ite (.bellRefused h) (.ite (.bellRefused h) (.ite (.bellRefused h) ?_))
  split
  · exact h
  · exact .bellRefused h
  · next hq =>
    rw [hq] at hr
    split
    · exact hr
    · exact .mapUnit (.mapQueue (Arch.Canon.childPackets hr))

theorem Arch.Canon.bellArrives {i : Nat} (h : a.Canon) : (a.bellArrives i).Canon := by
  unfold Arch.bellArrives
  split
  · exact h
  · exact .ite h (.deviceBell (.of_mem h rfl))

theorem Arch.Canon.keepPacket {q : Nat} {p : Packet} (h : a.Canon) : (a.keepPacket q p).Canon := h

theorem Arch.Canon.joinPhase {q : Nat} (h : a.Canon) : (a.joinPhase q).Canon := by
  unfold Arch.joinPhase
  split
  · exact .updLevel h
  · exact h

theorem Arch.Canon.deadEnd {q : Nat} {p : Packet} {st : LevelState} (h : a.Canon) : (a.deadEnd q p st).Canon := by
  unfold Arch.deadEnd
  dsimp only
  split
  · exact .unitChildEnd (.completeSignal (.deadRecord h))
  · exact .completeSignal (.deadRecord h)

theorem Arch.Canon.deadPassed {q : Nat} {p : Packet} {prog : Progress} {event : Option Nat} (h : a.Canon) :
    (a.deadPassed q p prog event).Canon := by
  unfold Arch.deadPassed
  extract_lets a₁ a₂
  have h₁ : a₁.Canon := by
    refine .ite ?_ h
    split
    · exact .countEnd (.joinPhase h)
    · exact h
  refine .keepPacket ?_
  dsimp only [a₂]
  split
  · exact .jobEvent h₁
  · exact h₁

theorem Arch.Canon.deadPacket {q : Nat} {p : Packet} {st : LevelState} {prog : Progress} {event : Option Nat} (h : a.Canon) :
    (a.deadPacket q p st prog event).Canon :=
  .deadPassed (.deadEnd h)

theorem Arch.Canon.cancelPubs {u : Nat} (h : a.Canon) : (a.cancelPubs u).Canon :=
  .foldl h fun _ _ h => .foldl h fun _ _ h => .mapQueue (.deadEnd h.fePhys)

theorem Arch.Canon.takePacket {q : Nat} {types : Nat → Bool} {body : Arch → Packet → Arch} (h : a.Canon)
    (hb : ∀ b p, b.Canon → (body b p).Canon) : (a.takePacket q types body).Canon := by
  refine .ite h ?_
  extract_lets x r t k p b
  have hx : x.2.Canon := h.nextPacket
  have h₁ : b.Canon := .mirror (.mapQueue hx)
  exact .ite h (.ite (.deadPassed h₁) (.ite (.deadPacket h₁) (.ite (.deadPacket h₁) (.ite (.deadPacket h₁) (hb _ _ h₁)))))

theorem Arch.Canon.plainEnd {q : Nat} {p : Packet} {ok : Bool} (h : a.Canon) : (a.plainEnd q p ok).Canon :=
  .keepPacket (.completeSignal h)

theorem Arch.Canon.packetLevel {q : Nat} {p : Packet} {kind : LevelKind} {pending : Nat} (h : a.Canon) :
    (a.packetLevel q p kind pending).2.Canon :=
  .keepPacket h.joinPhase.newLevel

theorem Arch.Canon.launchBase {r : XlRegs} {d slice : Nat} (h : a.Canon) : (a.launchBase r d slice).2.Canon :=
  .snd_ite (h.placement (slice := slice)) h

theorem Arch.Canon.launchBody {q : Nat} {p : Packet} (h : a.Canon) : (a.launchBody q p).Canon := by
  refine .ite (.deadPacket h) ?_
  dsimp only
  split
  · exact .deadPacket h.readLaunch
  · exact .addLaunch h.readLaunch.packetLevel.launchBase

theorem Arch.Canon.askOperator {q l pa va : Nat} {r : XlRegs} (h : a.Canon) : (a.askOperator q l pa va r).Canon := h

theorem Arch.Canon.codedBody {q : Nat} {p : Packet} (h : a.Canon) : (a.codedBody q p).Canon := by
  refine .ite (.deadPacket h) ?_
  dsimp only
  split
  · exact .deadPacket h.feXlate
  · exact .askOperator h.feXlate.packetLevel

theorem Arch.Canon.readNodes {r : XlRegs} {va n : Nat} {n1 : Nat} (h : a.Canon) : (a.readNodes r va n n1).2.Canon := by
  induction n1 generalizing a with
  | zero => exact h
  | succ f ih =>
    unfold Arch.readNodes
    dsimp only
    split
    · exact h.feRead
    · refine .snd_ite h.feRead ?_
      split
      · exact ih h.feRead.feRead
      · exact ih h.feRead.feRead

theorem Arch.Canon.graphBody {q : Nat} {p : Packet} (h : a.Canon) : (a.graphBody q p).Canon := by
  refine .ite (.deadPacket h) ?_
  dsimp only
  split
  · exact .deadPacket h.readNodes
  · exact .setGraph h.readNodes.packetLevel

theorem Arch.Canon.admitGraph {g : Nat} (h : a.Canon) : (a.admitGraph g).Canon := by
  unfold Arch.admitGraph
  split
  · exact h
  · exact .ite h (.foldl h fun _ _ h => .mapBrick h)

theorem Arch.Canon.fireNode {g n : Nat} (h : a.Canon) : (a.fireNode g n).Canon := by
  unfold Arch.fireNode
  split
  · refine .ite h ?_
    extract_lets r started lev bad x b
    have hb : ∀ a, a.Canon → (bad a).Canon := fun _ h => .jobEvent (.failNodes h)
    refine .ite ?_ ?_
    · have hx : x.2.Canon := .snd_ite h.feXlate h
      split
      · exact hb _ hx
      · exact .ite h (.askOperator (.mapGraph hx.newLevel))
    · split
      · exact hb _ h.readLaunch
      · exact .addLaunch (.mapGraph h.readLaunch.launchBase.newLevel)
  · exact h

theorem Arch.Canon.namedSignals {r : XlRegs} {l1 : List Nat} (h : a.Canon) : (a.namedSignals r l1).2.Canon := by
  induction l1 generalizing a with
  | nil => exact h
  | cons va vs ih => exact ih h.signalAt

theorem Arch.Canon.barrierEnds {q : Nat} {p : Packet} {prog : Progress} (h : a.Canon) : (a.barrierEnds q p prog).Canon :=
  .ite (.jobEvent (.completeSignal (.mapQueue h))) (.completeSignal (.mapQueue h))

theorem Arch.Canon.signalValues {ps : List Nat} (h : a.Canon) : (a.signalValues ps).2.Canon :=
  List.foldlRecOn (motive := fun q : List Word × Arch => q.2.Canon) _ _ h fun _ hq _ _ => hq.homeRead

theorem Arch.Canon.signalTraces {ps : List Nat} (h : a.Canon) : (a.signalTraces ps).Canon :=
  .foldl h fun _ _ h => .touchLine (.snoopLine h)

theorem Arch.Canon.evalPacket {q : Nat} {p : Packet} (h : a.Canon) : (a.evalPacket q p).Canon := by
  unfold Arch.evalPacket
  extract_lets x
  have hx : x.2.Canon := .namedSignals h
  split
  · exact .barrierEnds hx
  · extract_lets n b y
    have hy : y.2.Canon := by
      dsimp only [y]
      split
      · exact .signalTraces (.mapQueue hx)
      · exact .signalValues (.mapQueue hx)
    split
    · exact .barrierEnds hy
    · exact .barrierEnds hy
    · exact hy

theorem Arch.Canon.barrierBody {q : Nat} {p : Packet} (h : a.Canon) : (a.barrierBody q p).Canon := .evalPacket (.keepPacket h)

theorem Arch.Canon.evalQueue {q : Nat} (h : a.Canon) : (a.evalQueue q).Canon := .ite h (.foldl h fun _ _ h => .evalPacket h)

theorem Arch.Canon.signalBody {q : Nat} {p : Packet} (h : a.Canon) : (a.signalBody q p).Canon := .plainEnd h.signalOp

theorem Arch.Canon.phaseBody {q : Nat} {p : Packet} (h : a.Canon) : (a.phaseBody q p).Canon := by
  unfold Arch.phaseBody
  extract_lets r k last a₁ a₂ x a₃
  have h₁ : a₁.Canon := by
    dsimp only [a₁]
    split
    · exact .mapLevel h
    · exact h
  have h₂ : a₂.Canon := by
    dsimp only [a₂]
    split
    · exact .updLevel h₁
    · exact h₁
  refine .plainEnd (.ite ?_ (.mapQueue h₂.newLevel))
  split
  · exact .mapQueue (.mapLevel h₁)
  · exact h₁

theorem Arch.Canon.discard {q : Nat} {all : Bool} {n1 : Nat} (h : a.Canon) : (a.discard q all n1).Canon := by
  induction n1 generalizing a with
  | zero => exact h
  | succ f ih => exact .ite h (.ite h (ih (.mirror (.ite (.deadPassed (.mapQueue h.nextPacket)) (.deadPacket (.mapQueue h.nextPacket))))))

theorem Arch.Canon.cancelQueue {q : Nat} {job : Bool} (h : a.Canon) : (a.cancelQueue q job).Canon := .ite (.discard h) h

theorem Arch.Canon.evalBarriers {q : Nat} {ls : List Nat} {n1 : Nat} (h : a.Canon) : (a.evalBarriers q ls n1).Canon := by
  induction n1 generalizing a with
  | zero => exact h
  | succ f ih =>
    unfold Arch.evalBarriers
    split
    · exact h
    · exact ih (.evalPacket h)

theorem Arch.Canon.endBarriers {q : Nat} {ls : List Nat} (h : a.Canon) : (a.endBarriers q ls).Canon :=
  .foldl (.mapQueue h) fun _ _ h => .barrierEnds h

theorem Arch.Canon.stopBarriers {q : Nat} {ls : List Nat} (h : a.Canon) : (a.stopBarriers q ls).Canon :=
  .endBarriers (.evalBarriers h)

theorem Arch.Canon.cancelLevel {l : Nat} (h : a.Canon) : (a.cancelLevel l).Canon := by
  unfold Arch.cancelLevel
  split
  · exact h
  · extract_lets a₁ a₂ a₃
    have h₁ : a₁.Canon := .updLevel h
    split
    · exact .ite (.cancelQueue (.stopBarriers h₁)) (.stopBarriers h₁)
    · exact .ite (.cancelQueue (.stopBarriers h₁)) (.stopBarriers h₁)
    · split
      · refine .foldl (.ite h₁ (.mapLevel h₁)) fun _ _ h => ?_
        split
        · exact .ite (.countEnd (.deadRecord (.nodeOver h))) h
        · exact h
      · exact h₁
    · split
      · exact .ite (.foldl (.of_mem h₁ rfl) fun _ _ h => .cancelPubs (.stopUnit h)) (.markLoss (.mapLevel (.of_mem h₁ rfl)))
      · exact h₁
    · exact .foldl (.ite (.codedEnds (.of_mem h₁ rfl)) h₁) fun _ _ h => .opCancel h

theorem Arch.Canon.cancelBelow {l : Nat} (h : a.Canon) : (a.cancelBelow l).Canon := .foldl h fun _ _ h => .cancelLevel h

theorem Arch.Canon.cancelChildren {u : Nat} (h : a.Canon) : (a.cancelChildren u).Canon :=
  .foldl (.cancelPubs h) fun _ _ h => .cancelBelow h

theorem Arch.Canon.recordAmong {record : Nat} {l1 : List (Nat × XlRegs × Nat)} (h : a.Canon) :
    (a.recordAmong record l1).2.Canon := by
  induction l1 generalizing a with
  | nil => exact h
  | cons e es ih => exact .snd_ite h.feXlate (ih h.feXlate)

theorem Arch.Canon.cancelAt {record : Nat} (h : a.Canon) : (a.cancelAt record).Canon := by
  unfold Arch.cancelAt
  dsimp only
  split
  · exact .cancelBelow h.recordAmong
  · split
    · exact .opCancel h.recordAmong.recordAmong
    · exact h.recordAmong.recordAmong

theorem Arch.Canon.cancelWrite {record : Nat} (h : a.Canon) : (a.cancelWrite record).Canon :=
  .ite h (.ite (.of_mem h rfl) (.cancelAt (.of_mem h rfl)))

theorem Arch.Canon.unitEnds {u : Nat} (h : a.Canon) : (a.unitEnds u).Canon := by
  unfold Arch.unitEnds
  split
  · exact h
  · next e _ =>
    have h₁ := h.finishFailing (u := u) (e := e)
    dsimp only
    split
    · exact h₁
    · split
      · exact h₁
      · have h₂ : ∀ {p : Prop} [Decidable p], (if p then (a.finishFailing u e).cancelChildren u else a.finishFailing u e).Canon :=
          .ite (.cancelChildren h₁) h₁
        refine .ite h₂ ?_
        split
        · exact .ite (.endUnit h₂) (.ite h₂ (.taskEnds (.endUnit h₂)))
        · exact .endUnit h₂

theorem Arch.Canon.orphans (h : a.Canon) : a.orphans.Canon := by
  refine .foldl h fun _ _ h => ?_
  split
  · exact .ite (.cancelChildren h) h
  · exact h

theorem Arch.Canon.opDone (h : a.Canon) : a.opDone.Canon := .orphans (.opSweep h)

theorem Arch.Canon.timeslice {q : Nat} (h : a.Canon) : (a.timeslice q).Canon := by
  unfold Arch.timeslice
  split
  · exact h
  · exact .ite h h

theorem Arch.Canon.swapQueue {q : Nat} (h : a.Canon) : (a.swapQueue q).Canon := by
  refine .foldl h fun _ _ h => ?_
  split
  · exact .swapBegin h
  · exact h

theorem Arch.Canon.charge {q uj : Nat} (h : a.Canon) : (a.charge q uj).Canon :=
  .ite h (.ite (.mapQueue h) (.ite (.swapQueue (.mapQueue h))
  (.swapQueue (.ite (.mapQueue (.mapQueue h)) (.jobEvent (.mapQueue (.mapQueue h)))))))

theorem Arch.Canon.period (h : a.Canon) : a.period.Canon := .ite h h

-- ## Vector

theorem State.Canon.lanes2 {x : VArgs} {lat : Nat} {f : Nat → Nat → Nat} (h : s.Canon) : (s.lanes2 x lat f).Canon :=
  h.whenOn h.landLanes

theorem State.Canon.lanes1 {x : VArgs} {lat : Nat} {f : Nat → Nat} (h : s.Canon) : (s.lanes1 x lat f).Canon :=
  h.whenOn h.landLanes

theorem State.Canon.fused {x : VArgs} {f : FVal → FVal → FVal → FVal} (h : s.Canon) : (s.fused x f).Canon := h.whenOn h.landLanes

theorem State.Canon.landMask {d mask x lat : Nat} (h : s.Canon) : (s.landMask d mask x lat).Canon := by
  unfold State.landMask
  split <;> exact ⟨h.arch, h.pre⟩

theorem State.Canon.landAllLanes {t : VType} {vd : Nat} {xs : List Nat} {lat : Nat} (h : s.Canon) :
    (s.landAllLanes t vd xs lat).Canon :=
  ⟨h.arch, h.pre⟩

theorem State.Canon.landGroup {x : VArgs} {rs : List Nat} {lat : Nat} (h : s.Canon) : (s.landGroup x rs lat).Canon :=
  .foldl h fun _ _ h => .landV h

theorem State.Canon.widening {x : VArgs} {fi : Int → Int → Int → Int} {ff : FVal → FVal → FVal → FVal} (h : s.Canon) :
    (s.widening x fi ff).Canon :=
  h.whenOn h.landGroup

theorem State.Canon.reduce {x : VArgs} {f : Nat → Nat → Nat} {empty : Nat} (h : s.Canon) : (s.reduce x f empty).Canon :=
  h.whenOn h.landFull

theorem State.Canon.special {x : VArgs} {f : Fmt → FVal → Nat} (h : s.Canon) : (s.special x f).Canon := h.lanes1

theorem State.Canon.maskOp {x : VArgs} {f : BitVec 1024 → BitVec 1024 → BitVec 1024} (h : s.Canon) : (s.maskOp x f).Canon :=
  h.whenOn h.landK

-- ## Reduce

theorem Arch.Canon.redPop (h : a.Canon) : a.redPop.Canon := h

theorem Arch.Canon.redSignalOp {pa : Nat} {abort : Bool} (h : a.Canon) : (a.redSignalOp pa abort).Canon := by
  refine .ite h ?_
  split
  · exact .ite (.signalAtomic h) h
  · exact h

theorem Arch.Canon.redHolds {d : Nat} {reads : Bool} {b : Arch} (h : a.Canon) (e : a.redHolds d reads = some b) : b.Canon := by
  have hr : ∀ {p : Prop} [Decidable p] {c : Arch} {o : Option Arch}, (∀ c, o = some c → c.Canon) → (if p then o else none) = some c →
      c.Canon := fun ho e => ite_eq_elim e (ho _) fun e => nomatch e
  simp only [Arch.redHolds, Option.or_eq_some_iff] at e
  obtain (e | ⟨-, e⟩) | ⟨-, e⟩ := e
  · exact hr (fun _ => h.reachHeld) e
  · exact hr (fun _ => h.reachHeld) e
  · exact hr (fun _ => h.rmwHeld) e

theorem Arch.Canon.redFail {d reason fresh : Nat} (h : a.Canon) : (a.redFail d reason fresh).2.Canon := by
  unfold Arch.redFail
  extract_lets n q b
  have hq : q.2.Canon := by
    dsimp only [q]
    split
    · exact .copyWrite h
    · exact h
  exact .redPop (.of_mem (.redSignalOp hq) rfl)

theorem Arch.Canon.redAsk (h : a.Canon) : a.redAsk.Canon := h

theorem Arch.Canon.redRun {fresh : Nat} (h : a.Canon) : (a.redRun fresh).2.Canon := by
  unfold Arch.redRun
  split
  · split
    · next e => exact .redHolds h e
    · exact .redFail h
  · refine .snd_ite (.redAsk h) ?_
    split
    · next e => exact .redHolds h e
    · exact .redPop (.redSignalOp (.of_mem (.copyWrite h.copyRead) rfl))
  · exact h

-- ## Links

theorem Arch.Canon.linkStart {p tmo : Nat} {e : Nat × Nat × Nat} (h : a.Canon) : (a.linkStart p tmo e).Canon := by
  unfold Arch.linkStart
  dsimp only
  split
  · refine .ite h ?_
    split
    · exact h
    · exact .startFails h
    · exact h
  · exact h

theorem Arch.Canon.linkCopies {p tmo : Nat} (h : a.Canon) : (a.linkCopies p tmo).Canon := by
  refine .foldl (.foldl h fun _ _ h => .linkStart h) fun _ _ h => ?_
  split
  · exact .copyFaults h
  · exact h

theorem Arch.Canon.linkTasks {p tmo : Nat} (h : a.Canon) : (a.linkTasks p tmo).Canon := by
  refine .foldl h fun _ _ h => ?_
  split
  · exact .ite (.foldl h fun _ _ h => .taskEnds h) h
  · exact h

theorem Arch.Canon.linkReduction {p tmo fresh : Nat} (h : a.Canon) : (a.linkReduction p tmo fresh).2.Canon := by
  unfold Arch.linkReduction
  split
  · exact .snd_ite h.redFail h
  · exact h

theorem Arch.Canon.linkFaults {p tmo fresh : Nat} (h : a.Canon) : (a.linkFaults p tmo fresh).2.Canon :=
  .linkCopies (.linkReduction (.linkTasks h))

theorem Arch.Canon.portDown {p fresh : Nat} (h : a.Canon) : (a.portDown p fresh).2.Canon := .interrupt (.mapLink h.linkFaults)

theorem Arch.Canon.replay {p : Nat} {ok : Bool} {fresh : Nat} (h : a.Canon) : (a.replay p ok fresh).2.Canon :=
  .snd_ite h (.snd_ite (.portDown (.sets (.mapLink h))) (.sets (.mapLink h)))

theorem Arch.Canon.setPort {d p v : Nat} (h : a.Canon) : (a.setPort d p v).Canon := h

theorem Arch.Canon.wakeLate {d p : Nat} (h : a.Canon) : (a.wakeLate d p).Canon := by
  unfold Arch.wakeLate
  split <;> exact h

theorem Arch.Canon.lostAccesses {b : Nat} (h : a.Canon) : (a.lostAccesses b).Canon := by
  refine .foldl h fun _ _ h => ?_
  split
  · exact .performReq h
  · exact h

theorem Arch.Canon.lostTasks {b : Nat} (h : a.Canon) : (a.lostTasks b).Canon :=
  .foldl h fun _ _ h => .taskEnds (.ite h (.of_mem h rfl))

theorem Arch.Canon.dieLost {b : Nat} (h : a.Canon) : (a.dieLost b).Canon := by
  have h₃ : ∀ (ms : List SnoopMsg) (k : Arch), k.mem = a.mem → (ms.foldl (fun a m => a.mapBrick m.home fun k =>
      if k.lost then k else k.snoopLoses [m]) k).Canon := fun ms k e => .foldl (.of_mem h e) fun _ _ h => .mapBrick h
  refine .ite h (.lostTasks (.foldl (.lostAccesses (.foldl (.foldl (.dropReqs ?_) fun _ _ h => .backFails h) fun _ _ h =>
    .mapCore h)) fun _ _ h => .mapUnit (.stopUnit h)))
  unfold Arch.Canon
  exact h₃ _ _ rfl

-- ## Windows

theorem Arch.Canon.sendMarker {d h : Nat} (hc : a.Canon) : (a.sendMarker d h).Canon := .ite hc hc

theorem Arch.Canon.closeWindow {h d : Nat} (hc : a.Canon) : (a.closeWindow h d).Canon := hc

theorem Arch.Canon.announce {h d : Nat} (hc : a.Canon) : (a.announce h d).Canon := .ite hc hc

theorem Arch.Canon.clearStretch {d : Nat} (h : a.Canon) : (a.clearStretch d).Canon := h

theorem Arch.Canon.adjust {off owed : Int} (h : a.Canon) : (a.adjust off owed).Canon := by
  unfold Arch.adjust
  split <;> exact h

theorem Arch.Canon.thermalTrip (h : a.Canon) : a.thermalTrip.Canon := by
  refine .ite h (.interrupt (.foldl (.foldl (.of_mem h rfl) fun _ _ h => .stopUnit h) fun _ _ h => ?_))
  split
  · exact .endUnit h
  · exact h

theorem Arch.Canon.heat {b deg : Nat} (h : a.Canon) : (a.heat b deg).Canon := by
  unfold Arch.heat
  extract_lets hot first a₁ a₂
  have h₂ : a₂.Canon := .ite (.interruptFrom (.mapBrick h)) (.mapBrick h)
  exact .ite (.anyway (.frontDone (.opDone (.thermalTrip h₂)))) h₂

theorem Arch.Canon.droop {c : Nat} (h : a.Canon) : (a.droop c).Canon := .ite h (.mapBrick (.mapCore (.sets (.pushBanks h))))

-- ## HostPort

theorem Arch.Canon.debugWrite {c r v : Nat} (h : a.Canon) : (a.debugWrite c r v).Canon := .setsWin h

theorem Arch.Canon.healthWrite {b v : Nat} (h : a.Canon) : (a.healthWrite b v).Canon := h

theorem Arch.Canon.hwinWrite {w hi v : Nat} (h : a.Canon) : (a.hwinWrite w hi v).Canon := h

theorem Arch.Canon.timeWrite {v : Nat} (h : a.Canon) : (a.timeWrite v).Canon := .ite h h

theorem Arch.Canon.lctlWrite {v : Nat} (h : a.Canon) : (a.lctlWrite v).Canon := .foldl h fun _ _ h => .mapLink h

theorem Arch.Canon.msixWrite {o v : Nat} (h : a.Canon) : (a.msixWrite o v).Canon := .ite (.setPending h) h

theorem Arch.Canon.bootWrite {o v : Nat} (h : a.Canon) : (a.bootWrite o v).Canon :=
  .ite (.of_mem h rfl) (.ite (.ite h (.of_mem h rfl)) (.ite (.setsWin h) h))

theorem Arch.Canon.registerSet {o v : Nat} (h : a.Canon) : (a.registerSet o v).Canon :=
  .ite (.ite h h) (.ite h (.ite (.hwinWrite h) (.ite (.timeWrite h) (.ite (.lctlWrite h) (.ite h (.ite h (.ite (.healthWrite h)
  (.ite (.bootWrite h) (.ite (.msixWrite h) (.ite (.debugWrite h) h))))))))))

theorem Arch.Canon.bootStart (h : a.Canon) : a.bootStart.Canon := h

theorem Arch.Canon.bootFails {cause : Nat} (h : a.Canon) : (a.bootFails cause).Canon := h

theorem Arch.Canon.bootImage (h : a.Canon) : a.bootImage.2.Canon := by
  unfold Arch.bootImage
  dsimp only
  split
  · split
    · exact h.fePhys
    · exact h.fePhys.fePhys
  · exact h

theorem Arch.Canon.bootRuns {svn : BitVec 32} {body : List Byte} (h : a.Canon) : (a.bootRuns svn body).Canon :=
  .foldl h fun _ _ h => .mapCore h

theorem Arch.Canon.bootVerified (h : a.Canon) : a.bootVerified.Canon := by
  refine .ite h ?_
  dsimp only
  split
  · exact .bootFails h.bootImage
  · exact .ite (.bootFails h.bootImage) (.ite (.bootFails h.bootImage) (.ite (.bootFails h.bootImage) (.bootRuns h.bootImage)))

theorem Arch.Canon.attgo (h : a.Canon) : a.attgo.Canon := by
  unfold Arch.attgo
  split <;> exact h

theorem Arch.Canon.hostHeld {o n : Nat} {w : Bool} {b : Arch} (h : a.Canon) (e : a.hostHeld o n w = some b) : b.Canon := by
  unfold Arch.hostHeld at e
  split at e
  · exact .reachHeld h e
  · exact .reachHeld h e
  · cases e

theorem Arch.Canon.logUnsupported (h : a.Canon) : a.logUnsupported.Canon := h

theorem Arch.Canon.hostReads {o n : Nat} (h : a.Canon) : (a.hostReads o n).Canon := by
  unfold Arch.hostReads
  split
  · refine .ite ?_ h
    split
    · next e => exact .of_mem (.quoinRead h e) rfl
    · exact h
  · refine .ite h ?_
    split
    · next e => exact .hostHeld h e
    · split
      · exact .of_mem h.copyRead rfl
      · exact h

theorem Arch.Canon.xlinvWrite {v : Nat} (h : a.Canon) : (a.xlinvWrite v).Canon := by
  unfold Arch.xlinvWrite
  split
  · exact .xlinvVa h
  · exact .xlinvAsid h
  · exact .xlinvAll h
  · exact h

theorem Arch.Canon.llcWrite {b v : Nat} (h : a.Canon) : (a.llcWrite b v).Canon :=
  .ite (.retire (.ite (.mapBrick h) h)) (.ite (.mapBrick h) h)

theorem Arch.Canon.quoinWrite {o v : Nat} (h : a.Canon) : (a.quoinWrite o v).Canon :=
  .ite h (.ite (.xlinvWrite h) (.ite (.ite (.arm h) (.deregister h)) (.ite (.hostBell h) (.ite (.adjust h) (.ite (.ite (.redTake h) h)
  (.ite (.ite (.bootStart h) h) (.ite (.ite (.attgo h) h) (.ite (.llcWrite h) (.ite (.ite (.clearStretch h) h) (.registerSet h))))))))))

theorem Arch.Canon.hostWrites {o : Nat} {data : List Byte} (h : a.Canon) : (a.hostWrites o data).Canon := by
  unfold Arch.hostWrites
  split
  · exact .ite (.ite (.logUnsupported h) h) (.ite (.quoinWrite h) (.logUnsupported h))
  · refine .ite h ?_
    split
    · next e => exact .hostHeld h e
    · split
      · exact .copyWrite h
      · exact .logUnsupported h

theorem Arch.Canon.coldReset (h : a.Canon) : a.coldReset.Canon := h

-- ## Transform

theorem State.Canon.postEvent {code info : Nat} (h : s.Canon) : (s.postEvent code info).Canon := .setArch h (.post h.arch)

theorem State.Canon.xform {p d lat : Nat} {x : Nat} (h : s.Canon) : (s.xform p d lat x).Canon := h.whenOn h.landFull

theorem State.Canon.xqnt {d a w src : Nat} (h : s.Canon) : (s.xqnt d a w src).Canon :=
  .landFull (.foldl h fun _ _ h => .postEvent h)

theorem State.Canon.xacc {d i ty rm : Nat} (h : s.Canon) : (s.xacc d i ty rm).Canon :=
  .landFull (.foldl h fun _ _ h => .postEvent h)

-- ## Issue

theorem Arch.Canon.edge {c : Nat} (h : a.Canon) : (a.edge c).Canon := h

theorem Arch.Canon.detArrive {c x : Nat} (h : a.Canon) : (a.detArrive c x).Canon := .ite h (.pushUpTo h)

theorem Arch.Canon.pushOnce {f : Fill} (h : a.Canon) : (a.pushOnce f).Canon := by
  unfold Arch.pushOnce
  split
  · exact h
  · refine .ite h ?_
    extract_lets a₁ a₂ a₃
    have h₂ : a₂.Canon := .foldl (.ite (.wakeAll h) h) fun _ _ h => .ite h (.directoryStep h)
    refine .fillStep (.foldl ?_ fun _ _ h => .snoopArrives h)
    dsimp only [a₃]
    split
    · exact .ite (.grant h₂) h₂
    · exact h₂

theorem Arch.Canon.pushFill {f : Fill} (h : a.Canon) : (a.pushFill f).Canon := by
  unfold Arch.pushFill
  split
  · exact .pushOnce (.pushOnce h)
  · exact .pushOnce h

theorem Arch.Canon.detFill {c x : Nat} (h : a.Canon) : (a.detFill c x).Canon :=
  .ite h (.foldl h fun _ _ h => .foldl h fun _ _ h => .pushFill h)

theorem Arch.Canon.holdLate {c x : Nat} (h : a.Canon) : (a.holdLate c x).Canon := h

theorem Arch.Canon.noteS {occ : Nat} {cores : List Nat} (h : a.Canon) : (a.noteS occ cores).Canon :=
  .ite (.foldl h fun _ _ h => .mapCore h) h

theorem Arch.Canon.gangSoft {x pc : Nat} {cores soft : List Nat} (h : a.Canon) : (a.gangSoft x pc cores soft).Canon :=
  .foldl h fun _ _ h => .ite h (.softTrap h)

theorem Arch.Canon.engineTrapNow {c x : Nat} {p : PendingTrap} (h : a.Canon) : (a.engineTrapNow c x p).Canon := .raise h

theorem Arch.Canon.begin {c x : Nat} (h : a.Canon) : (a.begin c x).Canon := .mapCtx (.detmApply (.detFill (.detArrive h)))

theorem Arch.Canon.tryLeave {c x : Nat} (h : a.Canon) : (a.tryLeave c x).Canon := .xretLeave (.mapCtx h)

theorem Arch.Canon.memberMoves {x : Nat} {m : Nat × Ready} (h : a.Canon) : (a.memberMoves x m).Canon := by
  unfold Arch.memberMoves
  split
  · exact .holdLate h
  · exact .softTrap h
  · exact h

theorem Arch.Canon.gangMoves {x : Nat} {ms : List (Nat × Ready)} (h : a.Canon) : (a.gangMoves x ms).Canon :=
  .gangLeave (.foldl h fun _ _ h => .memberMoves h)

theorem Arch.Canon.noteGang {x occ : Nat} {issued : Bool} {cores : List Nat} (h : a.Canon) :
    (a.noteGang x occ issued cores).Canon :=
  .foldl h fun _ _ h => .mapCore h

theorem Arch.Canon.deferredActs {c : Nat} (h : a.Canon) : (a.deferredActs c).Canon := by
  unfold Arch.deferredActs
  split
  · exact .bankGrant (.runNear h)
  · exact h

-- ## What one instruction does

/-- A state that an event leads to: its memory is canonical, and it opens no bundle. -/
structure State.Leads (s t : State) : Prop where
  arch : t.arch.Canon
  pre : ∀ p ∈ t.iss.pre, p ∈ s.iss.pre

theorem State.Leads.canon {t : State} (h : s.Leads t) (hs : s.Canon) : t.Canon := ⟨h.arch, fun p hp => hs.pre p (h.pre p hp)⟩

/-- An event keeps memory canonical, whatever bundle is open. -/
def Keeps (f : State → Out) : Prop := ∀ s t, s.arch.Canon → f s = .next t → s.Leads t

/-- A slot's instruction finishes with an answer. -/
def Answers (f : State → Out) : Prop := ∀ s, ∃ r, f s = .next (s.finish r) ∧ (s.Canon → r.Canon)

/-- A row of the event table, as `State.actOn` tells it. -/
def isRow (i : Instr) : Bool := i.enc.isNone && (match i with | .nop _ => false | _ => true)

theorem answers {r : State → SlotR} (hr : ∀ s, s.Canon → (r s).Canon) : Answers fun s => .next (s.finish (r s)) :=
  fun s => ⟨r s, rfl, hr s⟩

theorem keeps_event {f : Arch → Arch} (hf : ∀ a, a.Canon → (f a).Canon) : Keeps fun s => s.event f := by
  rintro s _ h ⟨⟩
  exact ⟨hf _ h, fun _ hp => hp⟩

theorem keeps_micro {f : State → Arch → Call → Micro} (hf : ∀ s a r, a.Canon → (f s a r).Canon) :
    Keeps fun s => s.runMicro (f s) := by
  rintro s _ h ⟨⟩
  exact ⟨h.micro fun _ => hf _ _ _ h, fun _ hp => hp⟩

theorem keeps_frontEvent {f : Arch → Arch} (hf : ∀ a, a.Canon → (f a).Canon) : Keeps fun s => s.frontEvent f :=
  keeps_event fun _ h => h.unlessHeld (.frontDone (hf _ h))

theorem keeps_opEvent {f : Arch → Arch} (hf : ∀ a, a.Canon → (f a).Canon) : Keeps fun s => s.opEvent f :=
  keeps_frontEvent fun _ h => .opDone (hf _ h)

theorem keeps_drawEvent {f : Arch → Nat → Nat × Arch} (hf : ∀ a n, a.Canon → (f a n).2.Canon) : Keeps fun s => s.drawEvent f := by
  rintro s _ h ⟨⟩
  exact ⟨hf _ _ h, fun _ hp => hp⟩

theorem keeps_drawFront {f : Arch → Nat → Nat × Arch} (hf : ∀ a n, a.Canon → (f a n).2.Canon) : Keeps fun s => s.drawFront f := by
  rintro s _ h ⟨⟩
  exact ⟨.anyway (.frontDone (.opDone (hf _ _ h))), fun _ hp => hp⟩

theorem keeps_taskReturn {u : Nat} : Keeps (execTaskReturn u) := by
  intro s t h e
  unfold execTaskReturn at e
  extract_lets q at e
  have hq : q.2.Canon := h.returnTask
  clear_value q
  cases e
  exact ⟨h.unlessHeld (.frontDone (.opDone hq)), fun _ hp => hp⟩

theorem keeps_coldReset : Keeps execColdReset := by
  rintro s _ h ⟨⟩
  exact ⟨h.coldReset, fun _ hp => nomatch hp⟩

theorem keeps_shadowServiceTimeout {c : Nat} : Keeps (execShadowServiceTimeout c) := by
  refine keeps_event fun a h => ?_
  split
  · exact .ite (.declineService h) h
  · exact h

theorem keeps_redgoAdmit : Keeps execRedgoAdmit := by
  refine keeps_event fun a h => ?_
  split
  · exact .ite (.performReq h) h
  · exact h

theorem keeps_reductionStreamTimeout {p tag : Nat} : Keeps (execReductionStreamTimeout p tag) := by
  refine keeps_event fun a h => ?_
  split
  · exact .ite h h
  · exact h

theorem keeps_linkReplay {p : Nat} {ok : Bool} : Keeps (execLinkReplay p ok) := keeps_drawFront fun _ _ h => h.replay

theorem keeps_landingBufferRelease {c x : Nat} : Keeps (execLandingBufferRelease c x) :=
  keeps_event fun _ h => .ite (.unhold h) h

theorem keeps_acquireHoldRelease {c x : Nat} : Keeps (execAcquireHoldRelease c x) := keeps_event fun _ h => .ite (.unhold h) h

theorem keeps_directoryRequest {b : Nat} : Keeps (execDirectoryRequest b) := keeps_event fun _ h => .ite h (.directoryStep h)

theorem keeps_llcCounterClr {b : Nat} : Keeps (execLlcCounterClr b) := keeps_event fun _ h => h.mapBrick

theorem keeps_workerTimeout {q : Nat} : Keeps (execWorkerTimeout q) := keeps_frontEvent fun _ h => .ite h h

theorem keeps_lockstepMismatch : Keeps execLockstepMismatch := keeps_frontEvent fun _ h => .ite (.interrupt h) h

theorem keeps_redgo {pa : Nat} : Keeps (execRedgo pa) := keeps_event fun _ h => .ite (.redTake h) h

theorem keeps_reductionStreamArrive {p tag : Nat} {data : List Byte} : Keeps (execReductionStreamArrive p tag data) :=
  keeps_event fun _ h => .ite h h

theorem keeps_portTrained {p peer : Nat} : Keeps (execPortTrained p peer) := keeps_event fun _ h => .ite (.mapLink h) h

theorem keeps_portWake {d p : Nat} : Keeps (execPortWake d p) := keeps_event fun _ h => .syncArrive (.setPort h)

theorem keeps_heartbeat {b : Nat} : Keeps (execHeartbeat b) := keeps_event fun _ h => .ite h (.mapBrick h)

theorem keeps_dieLost {b : Nat} : Keeps (execDieLost b) := keeps_event fun _ h => .anyway (.frontDone (.opDone (.dieLost h)))

theorem keeps_thermalTrip : Keeps execThermalTrip := keeps_event fun _ h => .anyway (.frontDone (.opDone (.thermalTrip h)))

theorem keeps_ptpSync {off : BitVec 64} {locked : Bool} : Keeps (execPtpSync off locked) :=
  keeps_event fun _ h => .ite h (.adjust h)

theorem keeps_powerSample {watts : Nat} : Keeps (execPowerSample watts) := keeps_event fun _ h => h

theorem keeps_droopStretchEnd {c : Nat} : Keeps (execDroopStretchEnd c) := keeps_event fun _ h => h.mapCore

theorem keeps_droopWindowEnd {c : Nat} : Keeps (execDroopWindowEnd c) := keeps_event fun _ h => h.mapCore

theorem keeps_tadj {off : BitVec 64} : Keeps (execTadj off) := keeps_event fun _ h => h.adjust

theorem keeps_registerWrite {off : Nat} {value : BitVec 64} : Keeps (execRegisterWrite off value) :=
  keeps_opEvent fun _ h => .ite (.registerSet h) h

theorem keeps_mortarPortLowPower {d p : Nat} : Keeps (execMortarPortLowPower d p) := keeps_event fun _ h => .ite h (.setPort h)

theorem keeps_linkTimeout {p : Nat} : Keeps (execLinkTimeout p) := keeps_drawFront fun _ _ h => h.linkFaults

theorem keeps_reductionComplete : Keeps execReductionComplete := keeps_drawEvent fun _ _ h => h.redRun

theorem keeps_attestationDone : Keeps execAttestationDone := keeps_drawEvent fun _ _ h => .snd_ite h (.interrupt (.sets h))

/-- Every instruction is an event that keeps memory canonical or a slot's instruction whose answer does. -/
theorem exec_keeps_or_answers (i : Instr) : Keeps (exec i) ∨ Answers (exec i) ∧ isRow i = false := by
  cases i with
  | nop => exact .inr ⟨answers fun _ h => h, rfl⟩
  | add | sub | mul | mulh | mulhn | div | divn | mod | modn | and | or | xor | andn | shl | shr | sar | min | max | minn
  | maxn =>
    exact .inr ⟨answers fun _ h => h.alu, rfl⟩
  | clz | ctz | popc => exact .inr ⟨answers fun _ h => h.alu1, rfl⟩
  | bfx | bfi | sext | zext | movi | lit | pget | cycles | tlread | vext | kcnt =>
    exact .inr ⟨answers fun _ h => h.whenOn h.landG, rfl⟩
  | cmp | pand | por | pxor | cmpi | pnot | pset => exact .inr ⟨answers fun _ h => h.setPred, rfl⟩
  | addi | andi | ori | xori | movhi => exact .inr ⟨answers fun _ h => h.aluI, rfl⟩
  | shli | shri | sari => exact .inr ⟨answers fun _ h => h.aluShift, rfl⟩
  | br | jmpi | call | calli | ret => exact .inr ⟨answers fun _ h => h.jump, rfl⟩
  | loop => exact .inr ⟨answers fun _ h => h.loopAny h.loopPlain, rfl⟩
  | loopR => exact .inr ⟨answers fun _ h => h.loopAny h.loopRotate, rfl⟩
  | rotb | evack | tladv => exact .inr ⟨answers fun _ h => h.whenOn h.upd, rfl⟩
  | halt =>
    refine .inr ⟨answers fun s h => ?_, rfl⟩
    split
    · exact h
    · exact h.whenOn (h.setIss h.pre)
  | trap => exact .inr ⟨answers fun _ h => h.whenOn (h.setIss h.pre), rfl⟩
  | xret => exact .inr ⟨answers fun _ h => h.whenOn h.xret, rfl⟩
  | waitev => exact .inr ⟨answers fun _ h => h.whenOn h.waitev, rfl⟩
  | ld | lda => exact .inr ⟨answers fun _ h => h.whenOn h.load, rfl⟩
  | st | stl => exact .inr ⟨answers fun _ h => h.whenOn h.store, rfl⟩
  | ldf | feget => exact .inr ⟨answers fun _ h => h.whenOn (h.wordRange.bind fun _ => h.wordLoad), rfl⟩
  | ste | feset | feclr | bararr | barwait => exact .inr ⟨answers fun _ h => h.whenOn (h.wordRange.bind fun _ => h.wordOp), rfl⟩
  | amoadd | amoand | amoor | amoxor | amomin | amomax | amoswp | amocas | amofadd =>
    exact .inr ⟨answers fun _ h => h.whenOn h.amo, rfl⟩
  | amoaddC | amoandC | amoorC | amoxorC | amominC | amomaxC | amofaddC => exact .inr ⟨answers fun _ h => h.whenOn h.amoC, rfl⟩
  | mfs => exact .inr ⟨answers fun _ h => h.whenOn (.landG h.updReg), rfl⟩
  | mts => exact .inr ⟨answers fun _ h => h.whenOn h.mts, rfl⟩
  | drain => exact .inr ⟨answers fun _ h => h.whenOn h.drain, rfl⟩
  | tstamp => exact .inr ⟨answers fun _ h => h.whenOn (.landG (h.setArch (.mapCore h.arch))), rfl⟩
  | nxtile => exact .inr ⟨answers fun _ h => h.whenOn h.nxtile, rfl⟩
  | bankrel => exact .inr ⟨answers fun _ h => h.whenOn (h.setArch (.mapCore h.arch)), rfl⟩
  | bankacq => exact .inr ⟨answers fun _ h => h.whenOn h.bankacq, rfl⟩
  | tlwait => exact .inr ⟨answers fun _ h => h.whenOn h.tlwait, rfl⟩
  | barinit => exact .inr ⟨answers fun _ h => h.whenOn h.barinit, rfl⟩
  | opgo => exact .inr ⟨answers fun _ h => h.whenOn h.opgo, rfl⟩
  | qpub => exact .inr ⟨answers fun _ h => h.whenOn h.qpub, rfl⟩
  | vadd | vsub | vmul | vmulh | vmin | vmax | vand | vor | vxor | vshl | vshr | vsar =>
    exact .inr ⟨answers fun _ h => h.lanes2, rfl⟩
  | vfma | vfms => exact .inr ⟨answers fun _ h => h.fused, rfl⟩
  | vabs | vneg | vmov | vclz | vpopc => exact .inr ⟨answers fun _ h => h.lanes1, rfl⟩
  | vcmp => exact .inr ⟨answers fun _ h => h.whenOn h.landMask, rfl⟩
  | vsel | vins | vscan | vcomp => exact .inr ⟨answers fun _ h => h.whenOn h.landAllLanes, rfl⟩
  | vsplat | vbcast | vperm | vslide | vcvt | vnarr | vdot | viota | vrand =>
    exact .inr ⟨answers fun _ h => h.whenOn h.landLanes, rfl⟩
  | vwadd | vwmul | vwfma => exact .inr ⟨answers fun _ h => h.widening, rfl⟩
  | vredadd | vredmax | vredmin => exact .inr ⟨answers fun _ h => h.reduce, rfl⟩
  | vexp2 | vlog2 | vrcp | vrsq | vtanh => exact .inr ⟨answers fun _ h => h.special, rfl⟩
  | vdrop => exact .inr ⟨answers fun _ h => h.whenOn h.landK, rfl⟩
  | kand | kor | kxor | knot => exact .inr ⟨answers fun _ h => h.maskOp, rfl⟩
  | ldv => exact .inr ⟨answers fun _ h => h.whenOn h.ldv, rfl⟩
  | ldvZ => exact .inr ⟨answers fun _ h => h.whenOn h.ldvZ, rfl⟩
  | stv => exact .inr ⟨answers fun _ h => h.whenOn h.stv, rfl⟩
  | scfg => exact .inr ⟨answers fun _ h => h.whenOn h.scfg, rfl⟩
  | sld | sgath => exact .inr ⟨answers fun _ h => h.whenOn h.streamLoad, rfl⟩
  | sst | sscat => exact .inr ⟨answers fun _ h => h.whenOn h.streamStore, rfl⟩
  | samo => exact .inr ⟨answers fun _ h => h.whenOn h.samo, rfl⟩
  | sadv => exact .inr ⟨answers fun _ h => h.whenOn h.sadv, rfl⟩
  | stasht => exact .inr ⟨answers fun _ h => h.whenOn h.stasht, rfl⟩
  | mcall | mpload | mdrain => exact .inr ⟨answers fun _ h => h.mSlot h.enqueueCmd, rfl⟩
  | mpar => exact .inr ⟨answers fun _ h => h.mSlot h.result, rfl⟩
  | mstat => exact .inr ⟨answers fun _ h => h.mSlot h.mstat, rfl⟩
  | xexp | xpak | xtrn | xcvt | xdqn => exact .inr ⟨answers fun _ h => h.xform, rfl⟩
  | xqnt => exact .inr ⟨answers fun _ h => h.whenOn h.xqnt, rfl⟩
  | xacc => exact .inr ⟨answers fun _ h => h.whenOn h.xacc, rfl⟩
  | mxldb => exact .inl (keeps_micro fun _ _ _ h => h.mxldb)
  | mxstream => exact .inl (keeps_micro fun _ _ _ h => h.mxstream)
  | mxstreamS => exact .inl (keeps_micro fun _ _ _ h => h.mxstreamS)
  | mxacc => exact .inl (keeps_micro fun _ _ _ h => h.mxacc)
  | mxclr => exact .inl (keeps_micro fun _ _ _ h => h.mxclr)
  | mxloopImm => exact .inl (keeps_micro fun _ _ _ h => h.mxloopImm)
  | mxloopReg => exact .inl (keeps_micro fun _ _ _ h => h.mxloopReg)
  | mxend => exact .inl (keeps_micro fun _ _ _ h => h.mxend)
  | mxwaitb => exact .inl (keeps_micro fun _ _ _ h => h.mxwaitb)
  | mxarr => exact .inl (keeps_micro fun _ _ _ h => h.mxarr)
  | mxskip => exact .inl (keeps_micro fun _ _ _ h => h.mxskip)
  | mxpar => exact .inl (keeps_micro fun _ _ _ h => h.mxpar)
  | mxaddp => exact .inl (keeps_micro fun _ _ _ h => h.mxaddp)
  | mxsync => exact .inl (keeps_micro fun _ _ _ h => h.mxsync)
  | mcallRun => exact .inl (keeps_event fun _ h => h.callStart)
  | mploadInstall => exact .inl (keeps_event fun _ h => h.loadStep)
  | mdrainArrive => exact .inl (keeps_event fun _ h => h.drainStep)
  | engineStallRelease => exact .inl (keeps_event fun _ h => h.engineStep)
  | engineFetchFault => exact .inl (keeps_event fun _ h => h.fetchFails)
  | lateDataArrive => exact .inl (keeps_event fun _ h => h.lateArrive)
  | landingBufferRelease => exact .inl keeps_landingBufferRelease
  | watermarkRelease => exact .inl (keeps_event fun _ h => h.watermarkRelease)
  | acquireHoldRelease => exact .inl keeps_acquireHoldRelease
  | drainComplete => exact .inl (keeps_event fun _ h => h.drainRelease)
  | feWaiterServed => exact .inl (keeps_event fun _ h => h.serveWaiter)
  | feWaiterRefuse => exact .inl (keeps_event fun _ h => h.refuseWaiter)
  | feWaiterRetry => exact .inl (keeps_event fun _ h => h.resend)
  | barwaitRelease => exact .inl (keeps_event fun _ h => h.barRelease)
  | bankacqGrant => exact .inl (keeps_event fun _ h => h.bankGrant)
  | tlwaitRelease => exact .inl (keeps_event fun _ h => h.tlRelease)
  | waitevRelease => exact .inl (keeps_event fun _ h => h.waitevPass)
  | mQueueRoom => exact .inl (keeps_event fun _ h => h.queueRoom)
  | opgoQueueRoom => exact .inl (keeps_event fun _ h => h.opRoom)
  | eventDrain => exact .inl (keeps_event fun _ h => h.drainCycle)
  | machineCheck => exact .inl (keeps_event fun _ h => h.machineCheck)
  | translationMiss => exact .inl (keeps_event fun _ h => h.missStep)
  | pageWalk => exact .inl (keeps_event fun _ h => h.walkStep)
  | shadowService => exact .inl (keeps_event fun _ h => h.serviceStart)
  | shadowServiceTimeout => exact .inl keeps_shadowServiceTimeout
  | xlinvVa => exact .inl (keeps_event fun _ h => h.xlinvVa)
  | xlinvAsid => exact .inl (keeps_event fun _ h => h.xlinvAsid)
  | xlinvAll => exact .inl (keeps_event fun _ h => h.xlinvAll)
  | xlinvComplete => exact .inl (keeps_event fun _ h => h.invalidated)
  | stashFillComplete => exact .inl (keeps_event fun _ h => h.fillStep)
  | directoryRequest => exact .inl keeps_directoryRequest
  | snoop => exact .inl (keeps_event fun _ h => h.snoopArrives)
  | writeBack => exact .inl (keeps_event fun _ h => h.writeBackArrives)
  | releaseNotice => exact .inl (keeps_event fun _ h => h.releaseStep)
  | remoteAccess => exact .inl (keeps_event fun _ h => h.remoteAccess)
  | detAddPerform => exact .inl (keeps_event fun _ h => h.detServe)
  | llcCounterClr => exact .inl keeps_llcCounterClr
  | llcRetire => exact .inl (keeps_event fun _ h => h.retire)
  | copyStart => exact .inl (keeps_event fun _ h => h.startStep)
  | copyArm => exact .inl (keeps_event fun _ h => h.armCopy)
  | courseEncoderGrant => exact .inl (keeps_event fun _ h => h.grantEncoder)
  | copyLand => exact .inl (keeps_event fun _ h => h.copyLands)
  | copyFault => exact .inl (keeps_event fun _ h => h.copyFaultStep)
  | launchRelease => exact .inl (keeps_frontEvent fun _ h => h.release)
  | unitEnd => exact .inl (keeps_opEvent fun _ h => h.unitEnds)
  | tileBatchClaim => exact .inl (keeps_event fun _ h => h.claimBatch)
  | launchStarvation => exact .inl (keeps_frontEvent fun _ h => h.starve)
  | cancel => exact .inl (keeps_opEvent fun _ h => h.cancelWrite)
  | swapOut => exact .inl (keeps_frontEvent fun _ h => h.swapOut)
  | swapRestore => exact .inl (keeps_frontEvent fun _ h => h.swapRestore)
  | haltRequest => exact .inl (keeps_event fun _ h => h.haltRequest)
  | haltRelease => exact .inl (keeps_event fun _ h => h.haltRelease)
  | debugStep => exact .inl (keeps_event fun _ h => h.debugStep)
  | breakpoint => exact .inl (keeps_event fun _ h => h.breakpoint)
  | queueArm => exact .inl (keeps_frontEvent fun _ h => h.arm)
  | queueDeregister => exact .inl (keeps_frontEvent fun _ h => h.deregister)
  | qdb => exact .inl (keeps_frontEvent fun _ h => h.hostBell)
  | qpubDoorbell => exact .inl (keeps_opEvent fun _ h => h.bellArrives)
  | packetNop => exact .inl (keeps_frontEvent fun _ h => h.takePacket fun _ _ h => h.plainEnd)
  | packetLaunch => exact .inl (keeps_frontEvent fun _ h => h.takePacket fun _ _ h => h.launchBody)
  | packetCoded => exact .inl (keeps_opEvent fun _ h => h.takePacket fun _ _ h => h.codedBody)
  | packetGraph => exact .inl (keeps_frontEvent fun _ h => h.takePacket fun _ _ h => h.graphBody)
  | packetBarrierAnd => exact .inl (keeps_frontEvent fun _ h => h.takePacket fun _ _ h => h.barrierBody)
  | packetSignal => exact .inl (keeps_frontEvent fun _ h => h.takePacket fun _ _ h => h.signalBody)
  | packetPhaseEnd => exact .inl (keeps_frontEvent fun _ h => h.takePacket fun _ _ h => h.phaseBody)
  | barrierAndEvaluate => exact .inl (keeps_frontEvent fun _ h => h.evalQueue)
  | graphAdmit => exact .inl (keeps_frontEvent fun _ h => h.admitGraph)
  | nodeFire => exact .inl (keeps_frontEvent fun _ h => h.fireNode)
  | slotTimeslice => exact .inl (keeps_frontEvent fun _ h => h.timeslice)
  | workerTimeout => exact .inl keeps_workerTimeout
  | lockstepMismatch => exact .inl keeps_lockstepMismatch
  | energyCharge => exact .inl (keeps_frontEvent fun _ h => h.charge)
  | accountingPeriod => exact .inl (keeps_frontEvent fun _ h => h.period)
  | operatorOpen => exact .inl (keeps_opEvent fun _ h => h.openOp)
  | taskReturn => exact .inl keeps_taskReturn
  | graceExpiry => exact .inl (keeps_opEvent fun _ h => h.graceExpires)
  | tmaxExpiry => exact .inl (keeps_opEvent fun _ h => h.tmaxExpires)
  | repointingDecode => exact .inl (keeps_opEvent fun _ h => h.decode)
  | redgo => exact .inl keeps_redgo
  | redgoAdmit => exact .inl keeps_redgoAdmit
  | reductionStreamArrive => exact .inl keeps_reductionStreamArrive
  | reductionComplete => exact .inl keeps_reductionComplete
  | reductionStreamTimeout => exact .inl keeps_reductionStreamTimeout
  | linkReplay => exact .inl keeps_linkReplay
  | portTrained => exact .inl keeps_portTrained
  | linkTimeout => exact .inl keeps_linkTimeout
  | portWake => exact .inl keeps_portWake
  | portWakeTimeout => exact .inl (keeps_event fun _ h => h.wakeLate)
  | heartbeat => exact .inl keeps_heartbeat
  | dieLost => exact .inl keeps_dieLost
  | windowMarker => exact .inl (keeps_event fun _ h => h.sendMarker)
  | windowClose => exact .inl (keeps_event fun _ h => h.closeWindow)
  | windowAnnounce => exact .inl (keeps_event fun _ h => h.announce)
  | stretchClr => exact .inl (keeps_event fun _ h => h.clearStretch)
  | tadj => exact .inl keeps_tadj
  | ptpSync => exact .inl keeps_ptpSync
  | powerSample => exact .inl keeps_powerSample
  | thermalTrip => exact .inl keeps_thermalTrip
  | thermalWarning => exact .inl (keeps_event fun _ h => h.heat)
  | droopAlarm => exact .inl (keeps_event fun _ h => h.droop)
  | droopStretchEnd => exact .inl keeps_droopStretchEnd
  | droopWindowEnd => exact .inl keeps_droopWindowEnd
  | hostRead => exact .inl (keeps_event fun _ h => h.hostReads)
  | hostWrite => exact .inl (keeps_opEvent fun _ h => h.hostWrites)
  | bootStart => exact .inl (keeps_event fun _ h => h.bootStart)
  | bootVerifyDone => exact .inl (keeps_frontEvent fun _ h => h.bootVerified)
  | attgo => exact .inl (keeps_event fun _ h => h.attgo)
  | attestationDone => exact .inl keeps_attestationDone
  | coldReset => exact .inl keeps_coldReset
  | registerWrite => exact .inl keeps_registerWrite
  | mortarPortLowPower => exact .inl keeps_mortarPortLowPower

theorem keeps_of_isRow {i : Instr} (hi : isRow i = true) : Keeps (exec i) :=
  (exec_keeps_or_answers i).resolve_right fun h => Bool.false_ne_true (h.2.symm.trans hi)

theorem State.Canon.exec {i : Instr} {t : State} (h : s.Canon) (e : Machine.exec i s = .next t) : t.Canon := by
  obtain hk | ⟨ha, -⟩ := exec_keeps_or_answers i
  · exact (hk s t h.arch e).canon h
  · obtain ⟨r, hr, hc⟩ := ha s
    cases hr.symm.trans e
    exact h.finish (hc h)

-- ## Bundles and offers

theorem State.Canon.emptySlot {pos : Nat} (h : s.Canon) : (s.emptySlot pos).Canon := .ite h (.ite h.mpcNext.slotDone h.slotDone)

theorem State.Canon.runSlots {qs : List Slot} {t : State} (h : s.Canon) (e : Machine.runSlots s qs = .next t) : t.Canon := by
  induction qs generalizing s with
  | nil => cases e; exact h
  | cons q qs ih =>
    have hq := h.setIss (i := { s.iss with pos := q.pos }) h.pre
    unfold Machine.runSlots at e
    dsimp only at e
    split at e
    · exact ih hq.emptySlot e
    · split at e
      · next he => exact ih (hq.exec he) e
      · exact hq.exec e

theorem State.Canon.begin {c x left len rep : Nat} {follow : Option Branch} (h : s.arch.Canon) :
    (s.begin c x left len rep follow).Canon := ⟨h, fun _ e => Option.some.inj e ▸ h⟩

/-- A bundle starts from the module alone: of the bundle open before it nothing stays. -/
theorem State.Canon.issue {c x : Nat} {d : Decoded} {follow : Option Branch} {t : State} (h : s.arch.Canon)
    (e : s.issue c x d follow = .next t) : t.Canon := by
  unfold State.issue at e
  split at e
  · cases e; exact (State.Canon.begin h).trapNow
  · refine ite_eq_elim e (fun e => ?_) fun e => ?_
    · cases e; exact (State.Canon.begin h).trapNow
    · split at e
      · cases e; exact (State.Canon.begin h).trapNow
      · exact ite_eq_elim e (State.Canon.begin h).exec (State.Canon.begin h).runSlots

/-- Where an offer goes on, memory is canonical. -/
def Offer.Canon (b : Offer) : Prop := ∀ t, b.out = .next t → t.arch.Canon

theorem Offer.Canon.next {t : State} {occ : Option Nat} {fixed : Option Bool} (h : t.arch.Canon) :
    Offer.Canon ⟨.next t, occ, fixed⟩ := fun _ e => Host.Outcome.next.inj e ▸ h

theorem Arch.Canon.stepped {c x : Nat} (h : s.arch.Canon) : (s.stepped c x).arch.Canon :=
  of_ite (P := fun t : State => t.arch.Canon) h.mapCtx h

theorem Arch.Canon.offerOne {c x : Nat} (h : s.arch.Canon) : (s.offerOne c x).Canon := by
  unfold State.offerOne
  dsimp only
  split
  · next e =>
    have ht := (State.Canon.issue h e).arch
    exact of_ite (.next ht) (of_ite (.next (.stepped ht)) (.next (.stepped (.noteS ht))))
  · exact fun t e => (State.Canon.issue h e).arch

theorem Arch.Canon.gangMember {x c : Nat} {d : Decoded} {g : Gang} {follow : Option Branch} (h : g.s.arch.Canon) :
    (gangMember x d g c follow).1.s.arch.Canon := by
  unfold Machine.gangMember
  split
  · next e => exact (State.Canon.issue h e).arch
  · exact h

theorem Arch.Canon.gangIssue {x : Nat} {d : Decoded} {cores : List Nat} (h : s.arch.Canon) :
    (gangIssue s x d cores).s.arch.Canon := by
  cases cores with
  | nil => exact h
  | cons c cs =>
    exact List.foldlRecOn (motive := fun g : Gang => g.s.arch.Canon) _ _ (.gangMember h) fun _ hg _ _ => .gangMember hg

theorem Arch.Canon.offerGang {x : Nat} {cores : List Nat} (h : s.arch.Canon) : (s.offerGang x cores).Canon := by
  unfold State.offerGang
  extract_lets d g done b
  have hd : ∀ a, a.Canon → (done a).Canon := fun a ha => .next (List.foldlRecOn (motive := fun t : State => t.arch.Canon) _ _ ha
    fun _ ht _ _ => .stepped ht)
  split
  · exact fun t e => (State.Canon.issue h e).arch
  · have hb : b.Canon := .gangLeave (.noteS h.gangIssue)
    exact of_ite (hd _ hb) (hd _ hb.gangSoft)
  · exact hd _ h.gangTrap

theorem Arch.Canon.offerAlone {c x : Nat} (h : s.arch.Canon) : (s.offerAlone c x).Canon := by
  unfold State.offerAlone
  extract_lets u
  have hu : u.arch.Canon := h.begin
  clear_value u
  split
  · exact .next hu
  · exact .next hu.mapCtx
  · exact .next hu.holdLate
  · exact .next hu.tryLeave
  · exact .next hu.softTrap
  · exact .next hu.engineTrapNow
  · exact hu.offerOne

theorem Arch.Canon.gangOffer {x : Nat} {cores : List Nat} (h : s.arch.Canon) : (s.gangOffer x cores).Canon := by
  have hb : (cores.foldl (fun a m => a.begin m x) s.arch).Canon := .foldl h fun _ _ h => .begin h
  exact of_ite (.offerGang hb) (of_ite (.next (.foldl hb fun _ _ h => .mapCtx h)) (of_ite (.next (.gangTrap hb)) (.next (.gangMoves hb))))

theorem Arch.Canon.countDenial {c x : Nat} (h : s.arch.Canon) : (s.countDenial c x).arch.Canon :=
  of_ite (P := fun t : State => t.arch.Canon) h.mapCore h

theorem Arch.Canon.tellDenial {c occ : Nat} (h : s.arch.Canon) : (s.tellDenial c occ).arch.Canon :=
  of_ite (P := fun t : State => t.arch.Canon) h.noteGang h

/-- What an outcome that goes on has come from. -/
theorem outBind_eq_next {o : Out} {f : State → Out} {t : State}
    (e : outBind o f = .next t) : ∃ u, o = .next u ∧ f u = .next t := by
  cases o with
  | next u => exact ⟨u, rfl, e⟩
  | fault => cases e
  | refused => cases e

theorem Arch.Canon.offerMembers {x : Nat} {cores : List Nat} (h : s.arch.Canon) : (s.offerMembers x cores).Canon := by
  have ho : (s.gangOffer x cores).Canon := h.gangOffer
  refine of_ite (.next h) ?_
  split
  · exact ho
  · refine of_ite (fun t e => ?_) (.next (.countDenial h.noteGang))
    obtain ⟨u, hu, e⟩ := outBind_eq_next e
    cases e
    exact .noteGang (ho u hu)

theorem Arch.Canon.offer {c x : Nat} (h : s.arch.Canon) : (s.offer c x).Canon := by
  refine of_ite h.offerAlone (of_ite h.offerMembers ?_)
  split
  · exact .next h
  · exact .next h

-- ## Cycles

theorem Arch.Canon.keepHold {b : Offer} {c : Nat} (h : s.arch.Canon) : (s.keepHold b c).arch.Canon := by
  unfold State.keepHold
  split
  · exact List.foldlRecOn (motive := fun t : State => t.arch.Canon) _ _ h fun _ ht _ _ => .mapCtx ht
  · exact h

theorem Offer.Canon.issueBoth {c : Nat} {b : Offer} {t : State} (h : b.Canon) (e : issueBoth c b = .next t) : t.arch.Canon := by
  obtain ⟨u, hu, e⟩ := outBind_eq_next e
  obtain ⟨v, hv, e⟩ := outBind_eq_next e
  have hv : v.arch.Canon := (h u hu).offer v hv
  cases e
  exact of_ite (P := fun t : State => t.arch.Canon) hv.countDenial (of_ite (P := fun t : State => t.arch.Canon) hv.mapCore hv)

theorem Arch.Canon.mergeCycle {c : Nat} {t : State} (h : s.arch.Canon) (e : s.mergeCycle c = .next t) : t.arch.Canon := by
  have h₀ : (s.offer c 0).Canon := h.offer
  have h₁ : (s.offer c 1).Canon := h.offer
  unfold State.mergeCycle at e
  dsimp only at e
  split at e
  · obtain ⟨u, hu, e⟩ := outBind_eq_next e
    exact ite_eq_elim e ((h₀ u hu).offer t) fun e => by cases e; exact (h₀ u hu).keepHold
  · exact h₀.issueBoth e
  · have hd : ∀ {o : Offer} {n : Nat}, o.Canon → (outBind o.out fun u => .next (u.deny c n)) = .next t → t.arch.Canon := fun ho e => by
      obtain ⟨u, hu, e⟩ := outBind_eq_next e
      cases e
      exact (ho u hu).mapCore
    refine ite_eq_elim e h₀.issueBoth fun e => ite_eq_elim e (hd h₁) fun e => ite_eq_elim e (hd h₁) fun e => ?_
    obtain ⟨u, hu, e⟩ := outBind_eq_next e
    cases e
    exact .tellDenial (h₀ u hu).mapCore

theorem Arch.Canon.shadowCycle {c : Nat} {t : State} (h : s.arch.Canon) (e : s.shadowCycle c = .next t) : t.arch.Canon :=
  ite_eq_elim e (h.offer t) fun e => by cases e; exact h

theorem Arch.Canon.coreCycle {c : Nat} {t : State} (h : s.arch.Canon) (e : s.coreCycle c = .next t) : t.arch.Canon := by
  unfold State.coreCycle at e
  extract_lets u k o at e
  have hu : u.arch.Canon := .serveTiles (.edge (.drainCycle h))
  clear_value u
  refine ite_eq_elim e (fun e => by cases e; exact hu) fun e => ite_eq_elim e (fun e => by cases e; exact hu.mapCore) fun e => ?_
  obtain ⟨v, hv, e⟩ := outBind_eq_next e
  have hv : v.arch.Canon := by
    refine ite_eq_elim hv (fun e => by cases e; exact hu) fun e => ite_eq_elim e hu.shadowCycle fun e => ?_
    obtain ⟨w, hw, e⟩ := outBind_eq_next e
    exact (hu.mergeCycle hw).shadowCycle e
  cases e
  exact .mapCore hv.deferredActs

theorem State.Canon.noBundle {i : Issue} (h : s.arch.Canon) (hi : i.pre = none) : (s.setIss i).Canon :=
  ⟨h, fun p hp => by cases hi.symm.trans hp⟩

theorem Arch.Canon.engineCycle {c : Nat} {t : State} (h : s.arch.Canon) (e : s.engineCycle c = .next t) : t.arch.Canon := by
  refine ite_eq_elim e (fun e => by cases e; exact h) fun e => ?_
  split at e
  · split at e
    · exact (State.Canon.exec (.noBundle h rfl) e).arch
    · cases e; exact h
  · split at e
    · next cmd _ =>
      refine (keeps_of_isRow ?_ s t h e).arch
      cases cmd.kind <;> rfl
    · cases e; exact h

theorem Arch.Canon.actOn {i : Instr} {t : State} (h : s.arch.Canon) (e : s.actOn i = .next t) : t.arch.Canon := by
  unfold State.actOn at e
  split_ifs at e with hi
  · simp only [Bool.and_eq_true] at hi
    obtain ⟨⟨⟨-, hn⟩, hi⟩, -⟩ := hi
    exact (keeps_of_isRow (Bool.and_eq_true _ _ |>.mpr ⟨hn, hi⟩) s t h e).arch
  · cases e; exact h

theorem Arch.Canon.releaseAt {T l : Nat} {t : State} (h : s.arch.Canon) (e : s.releaseAt T l = .next t) : t.arch.Canon := by
  have hr := keeps_of_isRow (i := .launchRelease l) rfl
  unfold State.releaseAt at e
  split at e
  · next he => cases e; exact .mapLaunch (hr (s.setArch _) _ h.elapse he).arch
  · exact (hr (s.setArch _) _ h.elapse e).arch

theorem Arch.Canon.coreMove {c : Nat} {t : State} (h : s.arch.Canon) (e : s.coreMove c = .next t) : t.arch.Canon := by
  unfold State.coreMove at e
  dsimp only at e
  split at e
  · exact h.releaseAt e
  · exact h.coreCycle e

theorem Arch.Canon.timeMove {n : Nat} {t : State} (h : s.arch.Canon) (e : s.timeMove n = .next t) : t.arch.Canon := by
  unfold State.timeMove at e
  dsimp only at e
  split at e
  · exact h.releaseAt e
  · cases e; exact h.elapse

theorem Arch.Canon.move {m : Move} {t : State} (h : s.arch.Canon) (e : s.move m = .next t) : t.arch.Canon := by
  cases m with
  | core => exact ite_eq_elim e h.coreMove fun e => nomatch e
  | engine => exact ite_eq_elim e h.engineCycle fun e => nomatch e
  | act => exact h.actOn e
  | elapse => exact h.timeMove e

-- ## The default policy

/-- A row that the default policy tries keeps memory canonical. -/
def RowCanon (r : Row) : Prop := ∀ s t, s.arch.Canon → r s = .next t → t.arch.Canon

theorem rowCanon_exec (i : Instr) (hi : isRow i = true := by rfl) : RowCanon (exec i) :=
  fun s t h e => (keeps_of_isRow hi s t h e).arch

theorem accessRows_canon : ∀ r ∈ a.accessRows, RowCanon r := by
  refine List.forall_mem_flatMap.mpr fun q _ => ?_
  split
  · exact List.forall_mem_singleton.mpr (rowCanon_exec (.remoteAccess q.id))
  · exact List.forall_mem_singleton.mpr (rowCanon_exec (.feWaiterRetry q.id))
  · exact List.forall_mem_nil _

theorem contextRows_canon {c x : Nat} {t : Context} : ∀ r ∈ contextRows c x t, RowCanon r := by
  simp only [contextRows, List.forall_mem_append, List.forall_mem_flatMap]
  refine ⟨⟨?_, ?_⟩, fun h _ => ⟨?_, ?_⟩⟩
  · split
    · split
      · exact List.forall_mem_singleton.mpr (rowCanon_exec (.barwaitRelease c x))
      · exact List.forall_mem_singleton.mpr (rowCanon_exec (.tlwaitRelease c x))
      · exact List.forall_mem_singleton.mpr (rowCanon_exec (.waitevRelease c x))
      · exact List.forall_mem_singleton.mpr (rowCanon_exec (.bankacqGrant c x))
      · exact List.forall_mem_singleton.mpr (rowCanon_exec (.drainComplete c x))
      · exact List.forall_mem_singleton.mpr (rowCanon_exec (.opgoQueueRoom c x))
      · exact List.forall_mem_nil _
    · exact List.forall_mem_nil _
  · refine of_ite (P := fun l : List Row => ∀ r ∈ l, RowCanon r) ?_ (List.forall_mem_nil _)
    simp only [List.forall_mem_cons]
    exact ⟨rowCanon_exec (.haltRequest c x), rowCanon_exec (.breakpoint c x), rowCanon_exec (.haltRelease c x),
      rowCanon_exec (.debugStep c x), List.forall_mem_nil _⟩
  · exact of_ite (P := fun l : List Row => ∀ r ∈ l, RowCanon r) (List.forall_mem_singleton.mpr (rowCanon_exec (.copyArm c x h.1)))
      (List.forall_mem_nil _)
  · refine of_ite (P := fun l : List Row => ∀ r ∈ l, RowCanon r) ?_ (List.forall_mem_nil _)
    exact List.forall_mem_cons.mpr ⟨rowCanon_exec (.copyLand c x h.1), List.forall_mem_singleton.mpr (rowCanon_exec (.copyFault c x h.1))⟩

theorem coreRows_canon {c : Nat} {k : Core} : ∀ r ∈ coreRows c k, RowCanon r := by
  simp only [coreRows, List.forall_mem_append, List.forall_mem_flatMap, List.forall_mem_cons]
  exact ⟨⟨rowCanon_exec (.feWaiterServed c), rowCanon_exec (.translationMiss c), rowCanon_exec (.shadowService c),
    rowCanon_exec (.shadowServiceTimeout c), rowCanon_exec (.eventDrain c), List.forall_mem_nil _⟩, fun _ _ => contextRows_canon⟩

theorem brickRows_canon {b : Nat} {k : Brick} : ∀ r ∈ brickRows b k, RowCanon r := by
  simp only [brickRows, List.forall_mem_append, List.forall_mem_cons, List.forall_mem_map]
  exact ⟨⟨rowCanon_exec (.pageWalk b), rowCanon_exec (.directoryRequest b), rowCanon_exec (.detAddPerform b),
    rowCanon_exec (.courseEncoderGrant b), List.forall_mem_nil _⟩, fun q _ => rowCanon_exec (.tileBatchClaim b q.launch)⟩

theorem fabricRows_canon : ∀ r ∈ a.fabricRows, RowCanon r := by
  simp only [Arch.fabricRows, List.forall_mem_append, List.forall_mem_map, List.forall_mem_flatMap]
  exact ⟨⟨⟨⟨fun f _ => rowCanon_exec (.stashFillComplete f.id), fun m _ => rowCanon_exec (.snoop m.home m.die m.line m.inval)⟩,
    fun w _ => rowCanon_exec (.writeBack w.id)⟩, fun e _ r _ d _ => rowCanon_exec (.releaseNotice e.1 d r.1)⟩,
    fun e _ => rowCanon_exec (.portWake (e.1 / 8) (e.1 % 8))⟩

theorem queueRows_canon {q : Nat} : ∀ r ∈ queueRows q, RowCanon r := by
  simp only [queueRows, List.forall_mem_cons]
  exact ⟨rowCanon_exec (.packetNop q), rowCanon_exec (.packetLaunch q), rowCanon_exec (.packetCoded q),
    rowCanon_exec (.packetGraph q), rowCanon_exec (.packetBarrierAnd q), rowCanon_exec (.packetSignal q),
    rowCanon_exec (.packetPhaseEnd q), rowCanon_exec (.barrierAndEvaluate q), List.forall_mem_nil _⟩

theorem unitRows_canon {u : Nat} {e : Option ExecUnit} : ∀ r ∈ a.unitRows u e, RowCanon r := by
  simp only [Arch.unitRows, List.forall_mem_append, List.forall_mem_cons]
  refine ⟨⟨rowCanon_exec (.taskReturn u), rowCanon_exec (.unitEnd u), List.forall_mem_nil _⟩, ?_⟩
  split
  · refine of_ite (P := fun l : List Row => ∀ r ∈ l, RowCanon r) (List.forall_mem_singleton.mpr (rowCanon_exec (.swapRestore u))) ?_
    exact of_ite (P := fun l : List Row => ∀ r ∈ l, RowCanon r) (List.forall_mem_singleton.mpr (rowCanon_exec (.swapOut u)))
      (List.forall_mem_nil _)
  · exact List.forall_mem_nil _

theorem frontRows_canon : ∀ r ∈ a.frontRows, RowCanon r := by
  simp only [Arch.frontRows, List.forall_mem_append, List.forall_mem_map, List.forall_mem_flatMap, List.forall_mem_cons]
  refine ⟨⟨⟨⟨⟨⟨⟨⟨fun n _ => rowCanon_exec (.cancel n), fun n _ => rowCanon_exec (.qpubDoorbell n)⟩, fun _ _ => queueRows_canon⟩,
    fun e _ => ⟨rowCanon_exec (.graphAdmit e.1), ?_⟩⟩, fun _ _ => unitRows_canon⟩,
    fun e _ => ⟨rowCanon_exec (.launchRelease e.1), rowCanon_exec (.launchStarvation e.1), List.forall_mem_nil _⟩⟩,
    rowCanon_exec .operatorOpen, List.forall_mem_nil _⟩, fun e _ => ⟨rowCanon_exec (.repointingDecode e.1),
    rowCanon_exec (.graceExpiry e.1), rowCanon_exec (.tmaxExpiry e.1), List.forall_mem_nil _⟩⟩, rowCanon_exec .redgoAdmit,
    rowCanon_exec .reductionComplete, rowCanon_exec .xlinvComplete, rowCanon_exec .bootVerifyDone, rowCanon_exec .attestationDone,
    List.forall_mem_nil _⟩
  split
  · exact List.forall_mem_map.mpr fun n _ => rowCanon_exec (.nodeFire e.1 n)
  · exact List.forall_mem_nil _

theorem engineRows_canon : ∀ r ∈ a.engineRows, RowCanon r :=
  List.forall_mem_map.mpr fun _ _ _ _ h e => h.engineCycle e

theorem rows_canon : ∀ r ∈ a.rows, RowCanon r := by
  unfold Arch.rows
  split
  · exact List.forall_mem_nil _
  · simp only [List.forall_mem_append, List.forall_mem_flatMap]
    exact ⟨⟨⟨⟨⟨accessRows_canon, fun _ _ => coreRows_canon⟩, fabricRows_canon⟩, fun _ _ => brickRows_canon⟩, frontRows_canon⟩,
      engineRows_canon⟩

theorem Arch.Canon.firstRow {rs : List Row} {t : State} (h : s.arch.Canon) (hr : ∀ r ∈ rs, RowCanon r)
    (e : s.firstRow rs = some (.next t)) : t.arch.Canon := by
  induction rs with
  | nil => cases e
  | cons r rs ih =>
    obtain ⟨hr, hrs⟩ := List.forall_mem_cons.mp hr
    unfold State.firstRow at e
    split at e
    · next hq => exact ite_eq_elim e (ih hrs) fun e => by cases e; exact hr _ _ h hq
    · exact hr _ _ h (Option.some.inj e)

theorem Arch.Canon.defaultMove {t : State} (h : s.arch.Canon) (e : s.defaultMove = .next t) : t.arch.Canon := by
  unfold State.defaultMove at e
  split at e
  · next he => exact h.firstRow rows_canon (he.trans (congrArg some e))
  · exact h.move e

theorem Arch.Canon.advance {t : State} (h : s.arch.Canon) (e : s.advance = .next t) : t.arch.Canon := by
  unfold State.advance at e
  split at e
  · next m ms _ => exact Arch.Canon.move (s := { s with tape := ms }) h e
  · exact h.defaultMove e

/-- Settles O59: what every operation of the model does to memory is a write, a copy or nothing (R9), so each keeps it canonical, and
the step, whichever instruction or row it runs, is put together from them. -/
theorem stepsKeepMemoryCanonical : Obligations.StepsKeepMemoryCanonical :=
  fun _ _ h e => Arch.Canon.advance h e

end Sys2Proof.Machine
end
section
/-! System registers (O7; R5, R6, R75, R137, R231, R304, R358, R359): what hardware sets at the time of a clear stays set, and each
register reads and takes its fields. -/

namespace Sys2Proof.Machine

-- ## Fields that hardware sets while software clears them (R6)

section
variable {a : Arch} {c x : Nat} {rs : List Raced}

/-- What one set that raced with a clear does to EVLOST of context `x` of core `c`. -/
def RingRegs.again (g : RingRegs) (rs : List Raced) (c x : Nat) (r : Raced) : RingRegs :=
  if r = .lost c x then { g with lost := true }
  else if r = .dfault c x then { g with dfault := true }
  else if r = .count c x then { g with count := BitVec.ofNat 32 (max g.count.toNat (rs.count (.count c x))) }
  else g

theorem Arch.ctx_mapCore_of_ctxs {d : Nat} {f : Core → Core} (hf : ∀ k, (f k).ctxs = k.ctxs) :
    (a.mapCore d f).ctx c x = a.ctx c x := by
  unfold Arch.ctx Core.ctx
  by_cases h : c = d
  · rw [h, Arch.core_mapCore, hf]
  · rw [Arch.core_mapCore_other a f h]

/-- A change of one context's ring, as any context sees it. -/
theorem Arch.ring_mapCtx {d y : Nat} {f : RingRegs → RingRegs} :
    ((a.mapCtx d y fun t => { t with ring := f t.ring }).ctx c x).ring =
      if d = c ∧ y = x then f (a.ctx c x).ring else (a.ctx c x).ring := by
  split
  · next h => obtain ⟨rfl, rfl⟩ := h; rw [Arch.ctx_mapCtx]
  · next h => rw [Arch.ctx_mapCtx_other a _ (by omega)]

theorem Arch.ring_setAgain (r : Raced) : ((a.setAgain r).ctx c x).ring = (a.ctx c x).ring.again a.raced c x r := by
  cases r with
  | lost d y => simp [Arch.setAgain, RingRegs.again, Arch.ring_mapCtx (f := fun g => { g with lost := true })]
  | dfault d y => simp [Arch.setAgain, RingRegs.again, Arch.ring_mapCtx (f := fun g => { g with dfault := true })]
  | count d y =>
    simp only [Arch.setAgain, RingRegs.again, reduceCtorEq, if_false, Raced.count.injEq]
    rw [Arch.ring_mapCtx (f := fun g => { g with count := BitVec.ofNat 32 (max g.count.toNat (a.raced.count (.count d y))) })]
    split
    · next h => obtain ⟨rfl, rfl⟩ := h; rfl
    · rfl
  | err d y e r => simp [Arch.setAgain, RingRegs.again, Arch.ctx_mapCore_of_ctxs]
  | load d y v => simp [Arch.setAgain, RingRegs.again, Arch.ctx_mapCore_of_ctxs]
  | fvalid d y => simp [Arch.setAgain, RingRegs.again, Arch.ctx_mapCore_of_ctxs]
  | done => rfl
  | retry p => rfl
  | droop b => rfl

@[simp] theorem Arch.raced_setAgain (r : Raced) : (a.setAgain r).raced = a.raced := by cases r <;> rfl
@[simp] theorem Arch.mem_setAgain (r : Raced) : (a.setAgain r).mem = a.mem := by cases r <;> rfl

theorem Arch.ring_foldl_setAgain (l : List Raced) :
    ((l.foldl Arch.setAgain a).ctx c x).ring = l.foldl (fun g r => g.again a.raced c x r) (a.ctx c x).ring := by
  induction l generalizing a with
  | nil => rfl
  | cons r l ih => rw [List.foldl_cons, ih, Arch.raced_setAgain, Arch.ring_setAgain, List.foldl_cons]

@[simp] theorem Arch.mem_setsWin : a.setsWin.mem = a.mem :=
  List.foldlRecOn (motive := fun b : Arch => b.mem = a.mem) _ _ rfl fun _ hb _ _ => (Arch.mem_setAgain _).trans hb

theorem RingRegs.foldl_again_lost (l : List Raced) (g : RingRegs) :
    (l.foldl (fun g r => g.again rs c x r) g).lost = (l.contains (.lost c x) || g.lost) := by
  induction l generalizing g with
  | nil => rfl
  | cons r l ih =>
    rw [List.foldl_cons, ih, List.contains_cons, RingRegs.again]
    by_cases h : r = .lost c x
    · simp [h]
    · have h' : (Raced.lost c x == r) = false := beq_eq_false_iff_ne.mpr (Ne.symm h)
      rw [if_neg h, h']
      split
      · rfl
      · split <;> rfl

theorem RingRegs.foldl_again_dfault (l : List Raced) (g : RingRegs) :
    (l.foldl (fun g r => g.again rs c x r) g).dfault = (l.contains (.dfault c x) || g.dfault) := by
  induction l generalizing g with
  | nil => rfl
  | cons r l ih =>
    rw [List.foldl_cons, ih, List.contains_cons, RingRegs.again]
    by_cases h : r = .dfault c x
    · simp [h]
    · have h' : (Raced.dfault c x == r) = false := beq_eq_false_iff_ne.mpr (Ne.symm h)
      rw [if_neg h, h']
      split
      · rfl
      · split <;> rfl

theorem RingRegs.foldl_again_count (h : rs.count (.count c x) < 2 ^ 32) (l : List Raced) (g : RingRegs) :
    (l.foldl (fun g r => g.again rs c x r) g).count.toNat =
      if .count c x ∈ l then max g.count.toNat (rs.count (.count c x)) else g.count.toNat := by
  induction l generalizing g with
  | nil => rfl
  | cons r l ih =>
    rw [List.foldl_cons, ih, RingRegs.again]
    by_cases hr : r = .count c x
    · have hg := g.count.isLt
      have : (BitVec.ofNat 32 (max g.count.toNat (rs.count (.count c x)))).toNat = max g.count.toNat (rs.count (.count c x)) :=
        Nat.mod_eq_of_lt (by omega)
      simp [hr, this]
    · have hm : .count c x ∈ r :: l ↔ .count c x ∈ l := by simp [Ne.symm hr]
      simp only [hm, if_neg hr]
      split_ifs <;> rfl

theorem Arch.lost_setsWin : (a.setsWin.ctx c x).ring.lost = (a.raced.contains (.lost c x) || (a.ctx c x).ring.lost) := by
  rw [Arch.setsWin, Arch.ring_foldl_setAgain, RingRegs.foldl_again_lost]

theorem Arch.dfault_setsWin : (a.setsWin.ctx c x).ring.dfault = (a.raced.contains (.dfault c x) || (a.ctx c x).ring.dfault) := by
  rw [Arch.setsWin, Arch.ring_foldl_setAgain, RingRegs.foldl_again_dfault]

/-- A count that is cleared holds what hardware has counted since. -/
theorem Arch.count_setsWin (h : a.raced.count (.count c x) < 2 ^ 32) (h0 : (a.ctx c x).ring.count = 0) :
    (a.setsWin.ctx c x).ring.count.toNat = a.raced.count (.count c x) := by
  rw [Arch.setsWin, Arch.ring_foldl_setAgain, RingRegs.foldl_again_count h, h0]
  split
  · exact Nat.zero_max _
  · next hm => exact (List.count_eq_zero.mpr hm).symm

end

-- ## MFS and MTS (R358, R359)

section
variable {s t : State} {p d n : Nat}

theorem finish_whenOn_of_runs (h : Runs s p) : s.finish (s.whenOn p (.ok t)) = t.slotDone := by
  rw [State.whenOn_on s _ h.2, State.finish_ok s t h.1]

theorem State.updReg_of_ne (f : Context → Context) (h : n ≠ 0x064 ∨ s.arch.raced = []) : s.updReg n f = s.upd f := by
  unfold State.updReg
  split
  · next hn =>
    have hr : (s.upd f).arch.raced = [] := h.resolve_left (· hn)
    rw [Arch.setsWin, hr]
    rfl
  · rfl

theorem State.updReg_evlost (f : Context → Context) : s.updReg 0x064 f = (s.upd f).setArch (s.upd f).arch.setsWin := if_pos rfl

theorem State.lost_updReg (f : Context → Context) : (s.updReg 0x064 f).cur.ring.lost =
    (s.arch.raced.contains (.lost s.iss.core s.iss.ctx) || (f s.cur).ring.lost) := by
  rw [State.updReg_evlost, ← State.upd_cur s f]
  exact Arch.lost_setsWin

theorem State.dfault_updReg (f : Context → Context) : (s.updReg 0x064 f).cur.ring.dfault =
    (s.arch.raced.contains (.dfault s.iss.core s.iss.ctx) || (f s.cur).ring.dfault) := by
  rw [State.updReg_evlost, ← State.upd_cur s f]
  exact Arch.dfault_setsWin

theorem State.count_updReg (f : Context → Context) (h : s.arch.raced.length < 2 ^ 32) (h0 : (f s.cur).ring.count = 0) :
    (s.updReg 0x064 f).cur.ring.count.toNat = s.arch.raced.count (.count s.iss.core s.iss.ctx) := by
  rw [← State.upd_cur s f] at h0
  rw [State.updReg_evlost]
  exact Arch.count_setsWin (Nat.lt_of_le_of_lt List.count_le_length h) h0

theorem execMfs_of_runs (h : Runs s p) : exec (.mfs p d n) s = .next (((s.updReg n fun t => t.sysClear n).landG d
    (BitVec.ofNat 64 (s.view.sysReg s.iss.core s.iss.ctx n)) 2).slotDone) :=
  congrArg _ (finish_whenOn_of_runs h)

theorem execMts_of_runs (h : Runs s p) (hn : n < 0x200) (h3 : n ≠ 3) :
    exec (.mts p d n) s = .next (s.updReg n fun t => t.sysWrite n (s.rd.readG d)).slotDone := by
  have hm : s.mts n (s.rd.readG d) = .ok (s.updReg n fun t => t.sysWrite n (s.rd.readG d)) := by
    rw [State.mts, if_neg (by omega)]
    exact congrArg _ (if_neg h3)
  change Host.Outcome.next (s.finish (s.whenOn p (s.mts n (s.rd.readG d)))) = _
  rw [hm, finish_whenOn_of_runs h]

end

theorem systemRegisterMoves : SystemRegisterMoves := by
  intro p d n s h
  refine ⟨fun hn => ?_, fun hn h3 hr => ?_,
    fun hr => ⟨_, execMfs_of_runs h, rfl, Arch.mem_setsWin, State.count_updReg _ hr rfl⟩,
    ⟨_, execMts_of_runs h (by decide) (by decide), rfl, Arch.mem_setsWin, State.lost_updReg _, State.dfault_updReg _⟩, ?_⟩
  · rw [execMfs_of_runs h, State.updReg_of_ne _ hn]
  · rw [execMts_of_runs h hn h3, State.updReg_of_ne _ hr]
  · exact congrArg _ (finish_whenOn_of_runs h)

-- ## Values (R75)

section
variable {a : Arch} {c x n : Nat}

/-- The counters and the channels' registers stand above the registers with a number of their own. -/
theorem Arch.sysReg_between (h : 0x100 ≤ n) (h' : n < 0x180) : a.sysReg c x n =
    if 0x140 ≤ n then ((a.ctx c x).readTl (n - 0x140)).toNat
    else ((a.ctx c x).chan ((n - 0x100) / 4)).wmReg ((n - 0x100) % 4) := by
  unfold Arch.sysReg
  split <;> try omega
  rfl

theorem Arch.sysReg_readTl (h : n < 16) : a.sysReg c x (0x140 + n) = ((a.ctx c x).readTl n).toNat := by
  rw [Arch.sysReg_between (by omega) (by omega), if_pos (by omega), Nat.add_sub_cancel_left]

theorem Arch.sysReg_wmReg {i : Nat} (h : n < 16) (hi : i < 4) : a.sysReg c x (0x100 + i + 4 * n) = ((a.ctx c x).chan n).wmReg i := by
  rw [Arch.sysReg_between (by omega) (by omega), if_neg (by omega), show (0x100 + i + 4 * n - 0x100) / 4 = n by omega,
    show (0x100 + i + 4 * n - 0x100) % 4 = i by omega]

theorem Context.sysClear_of_ne (t : Context) (h : n ≠ 0x064) (h' : n ≠ 0x180) : t.sysClear n = t := by
  unfold Context.sysClear
  split
  · contradiction
  · contradiction
  · rfl

end

theorem systemRegisterValues : SystemRegisterValues := by
  intro a c x t
  exact ⟨rfl, rfl, rfl, rfl, rfl, rfl, rfl, rfl, rfl, rfl, rfl, rfl, rfl, rfl, fun hx => congrArg (· + _ + _) (Nat.mod_eq_of_lt hx),
    rfl, rfl, rfl, rfl, rfl, rfl, rfl, fun n hn => ⟨Arch.sysReg_readTl hn, Arch.sysReg_wmReg hn (i := 2) (by decide), Arch.sysReg_wmReg hn (i := 0) (by decide),
      Arch.sysReg_wmReg hn (i := 1) (by decide), Arch.sysReg_wmReg hn (i := 3) (by decide)⟩,
    rfl, rfl, fun n => Context.sysClear_of_ne t⟩

-- ## Writes (R359)

/-- The bits from `k` up to below `n` of a word. -/
theorem toNat_maskWord (x : Word) {k n : Nat} (hk : k ≤ n) (hn : n ≤ 64) :
    (maskWord x (2 ^ n - 2 ^ k)).toNat = x.toNat % 2 ^ n / 2 ^ k * 2 ^ k := by
  refine Nat.eq_of_testBit_eq fun i => ?_
  have hm : 2 ^ n - 2 ^ k = (2 ^ (n - k) - 1) <<< k := by
    rw [Nat.shiftLeft_eq, Nat.sub_mul, ← pow_add, Nat.sub_add_cancel hk, one_mul]
  have hlt : 2 ^ n - 2 ^ k < 2 ^ 64 := Nat.lt_of_lt_of_le (Nat.sub_lt (by positivity) (by positivity)) (Nat.pow_le_pow_right (by decide) hn)
  rw [maskWord, BitVec.toNat_and, BitVec.toNat_ofNat, Nat.mod_eq_of_lt hlt, hm, Nat.testBit_and, Nat.testBit_shiftLeft,
    Nat.testBit_two_pow_sub_one, ← Nat.shiftRight_eq_div_pow, ← Nat.shiftLeft_eq, Nat.testBit_shiftLeft, Nat.testBit_shiftRight,
    Nat.testBit_mod_two_pow]
  by_cases hi : k ≤ i
  · have hin : i - k < n - k ↔ i < n := by omega
    simp only [hi, decide_true, Bool.true_and, Nat.add_sub_cancel' hi, hin]
    exact Bool.and_comm _ _
  · simp [hi]

theorem Chan.dismiss_eq (h : Chan) (x : Word) : h.dismiss x =
    if x.getLsbD 31 = true ∧ h.state ≠ .idle ∧ h.state ≠ .active then { h with state := .idle } else h := by
  unfold Chan.dismiss
  cases h.state <;> simp

section
variable {t : Context} {n : Nat} {x : Word}

theorem Context.sysWrite_wmReg {i : Nat} (hi : i < 4) (hn : n < 16) : t.sysWrite (0x100 + i + 4 * n) x =
    if i = 3 then t.setChan n ((t.chan n).dismiss x) else t := by
  unfold Context.sysWrite
  split <;> try omega
  rw [show (0x100 + i + 4 * n - 0x100) / 4 = n by omega, show (0x100 + i + 4 * n) % 4 = i by omega]
  simp [show 0x100 ≤ 0x100 + i + 4 * n by omega, show 0x100 + i + 4 * n < 0x140 by omega]

end

theorem systemRegisterWrites : SystemRegisterWrites := by
  intro t x
  refine ⟨rfl, rfl, ?_, ?_, ?_, ?_, ?_, toNat_maskWord x (k := 1) (n := 18) (by decide) (by decide), ?_, ?_, rfl, rfl, rfl, rfl,
    rfl, rfl, ?_, ?_, rfl, rfl, rfl, rfl, fun n hn => ⟨Context.sysWrite_wmReg (i := 0) (by decide) hn,
      Context.sysWrite_wmReg (i := 1) (by decide) hn, Context.sysWrite_wmReg (i := 2) (by decide) hn, ?_, fun m hm => ?_⟩⟩
  · show (BitVec.ofNat 8 (bits x.toNat 23 16 % 192)).toNat = _
    rw [BitVec.toNat_ofNat, bits]
    omega
  · exact BitVec.toNat_setWidth 4 x
  · show ((x >>> 8).setWidth 3).toNat = _
    rw [BitVec.toNat_setWidth, BitVec.toNat_ushiftRight, Nat.shiftRight_eq_div_pow]
  · show ((x >>> 2).setWidth 16).toNat = _
    rw [BitVec.toNat_setWidth, BitVec.toNat_ushiftRight, Nat.shiftRight_eq_div_pow]
  · exact (toNat_maskWord x (k := 0) (n := 18) (by decide) (by decide)).trans (by omega)
  · refine (toNat_maskWord x (k := 4) (n := 64) (by decide) (by decide)).trans ?_
    rw [Nat.mod_eq_of_lt x.isLt]
    rfl
  · exact BitVec.toNat_setWidth 32 x
  · rfl
  · exact BitVec.toNat_setWidth 5 x
  · rw [Context.sysWrite_wmReg (i := 3) (by decide) hn, if_pos rfl, Context.chan_setChan, Chan.dismiss_eq]
  · rw [Context.sysWrite_wmReg (i := 3) (by decide) hn, if_pos rfl, Context.chan_setChan_other _ _ hm]

/-- Settles O7: what hardware sets while software clears it is set again by the registers of the context alone; the rest is the table
of R75, register by register. -/
theorem systemRegisters : Obligations.SystemRegisters := ⟨systemRegisterMoves, systemRegisterValues, systemRegisterWrites⟩

end Sys2Proof.Machine
end

-- The host port at a bank with waiters (06 R164; 15 R314 to R317)
section
/-! PROOFS. A host read of a scratchpad takes a bank turn, in which a waiter whose word has turned is served first. -/

namespace Sys2Proof.Machine

/-- A host read changes the module as `Arch.hostReads` says, and nothing else of the state. -/
theorem exec_hostRead (o n : Nat) (s : State) : exec (.hostRead o n) s = .next (s.setArch (s.arch.hostReads o n)) := rfl

/-- Two successors of a state by their modules agree only where the modules do. -/
theorem setArch_inj_of_next {s : State} {a b : Arch} (h : (.next (s.setArch a) : Out) = .next (s.setArch b)) : a = b :=
  congrArg State.arch (Host.Outcome.next.inj h)

/-- An LDF of core 0 that has been parked at scratchpad offset 8 of its own core. -/
def parkedLdf : Req :=
  { id := 7, seq := 7, va := 8, core := 0, ctx := 0, op := .ldf, pa := spadBase + 8, len := 8, data := 0, cmp := 0
    near := true, acq := none, rel := none, comm := false, det := false, tag := none, lo := 0, hpa := spadBase + 8
    slot := 0, time := 0, use := 0, born := 1, win := none, leaf := none, named := false, st := .parked }

/-- Core 0 with the word at offset 8 full, and one request in its waiter list. -/
def turnedCore : Core := { Core.reset with full := [(1, true)], parked := [7] }

/-- The module after a STE has filled the word that the parked LDF waits for, before the bank serves the LDF. -/
def turnedWord : State := State.reset.setArch { Arch.reset with cores := [(0, turnedCore)], reqs := [parkedLdf], nextId := 8 }

/-- The word the LDF waits for lies in core 0's scratchpad. -/
theorem placeInModule_turnedWord : placeInModule (spadBase + 8) = .spad 0 8 := by decide

/-- No sleeping port and no window rule holds the host's read of the word. -/
theorem hostHeld_turnedWord : turnedWord.arch.hostHeld (spadBase + 8) 8 false = none :=
  Option.isNone_iff_eq_none.mp (by decide +kernel)

/-- The host's read of the full word serves the LDF: the waiter list is empty and the word is empty again. -/
theorem hostReads_serves_waiter :
    (turnedWord.arch.hostReads (spadBase + 8) 8).reqs = [] ∧
    ((turnedWord.arch.hostReads (spadBase + 8) 8).core 0).parked = [] ∧
    (turnedWord.arch.hostReads (spadBase + 8) 8).isFull 0 8 = false := by decide +kernel

/-- The obligation's clause for a host read of a scratchpad says that nothing but the reply changes; at `turnedWord` the parked LDF is
served as well. -/
theorem not_hostAndRegisters : ¬ HostAndRegisters := fun h => by
  obtain ⟨-, -, hread, -⟩ := h (spadBase + 8) 8 [] 0 turnedWord
  have hstep := hread 0 8 placeInModule_turnedWord (by decide) (by decide) rfl rfl hostHeld_turnedWord
  have hreqs := congrArg Arch.reqs (setArch_inj_of_next ((exec_hostRead ..).symm.trans hstep))
  rw [hostReads_serves_waiter.1] at hreqs
  cases hreqs

end Sys2Proof.Machine

open Sys2Proof Sys2Proof.Machine in
/-- Refutes O46: a host read of a scratchpad word takes a bank turn, which serves the waiters whose word has turned (R164), while the
statement has it leave everything but the reply as it was. `turnedWord` is a state in which the read serves a parked LDF. -/
theorem not_powerAndHost : ¬ Obligations.PowerAndHost := fun ⟨_, hhost⟩ => not_hostAndRegisters hhost
end

-- Cold reset (00 R7; 05 R137; 14 R304; 15 R327)
section
/-! PROOFS. Cold reset: what every field of the reset state reads as. -/

namespace Sys2Proof.Machine

/-- At reset every core and every context is the one of its type's reset. -/
@[simp] theorem Arch.core_reset (c : Nat) : Arch.reset.core c = Core.reset := rfl
@[simp] theorem Arch.ctx_reset (c x : Nat) : Arch.reset.ctx c x = Context.reset := rfl

/-- At reset the trap and event registers and DETM read 0 (R137, R304; log entry 3). -/
theorem Arch.sysReg_reset_zero (c x n : Nat)
    (h : n ∈ [0x040, 0x041, 0x042, 0x043, 0x044, 0x060, 0x061, 0x062, 0x063, 0x064, 0x180]) :
    Arch.reset.sysReg c x n = 0 := by
  simp only [List.mem_cons, List.not_mem_nil, or_false] at h
  rcases h with rfl | rfl | rfl | rfl | rfl | rfl | rfl | rfl | rfl | rfl | rfl <;> rfl

/-- At reset every memory of the module lists nothing. -/
theorem memoriesOk_reset : MemoriesOk Arch.reset := ⟨rfl, rfl, rfl, fun _ => ⟨rfl, rfl⟩⟩
end Sys2Proof.Machine

open Sys2Proof Sys2Proof.Machine in
/-- Settles O60: each clause is a field of the reset state, read through the laws above. -/
theorem resetIsAsTheSpecSays : Obligations.ResetIsAsTheSpecSays :=
  ⟨fun _ _ => ⟨rfl, rfl⟩, Arch.sysReg_reset_zero, rfl, rfl, rfl, memoriesOk_reset, fun _ => rfl, rfl⟩
end

-- What an access of the front end leaves alone (R22, R253, R273, R286, R296)
section
/-! PROOFS. What the front end reads and writes in memory changes no level, no launch and no list of cancels. Each function of the
model on the way of such an access has one lemma `SameWork.f`, in the order of the model. -/

namespace Sys2Proof.Machine

/-- The levels, the launches and the cancels under way are those of `o`. -/
def Arch.SameWork (a o : Arch) : Prop := a.levels = o.levels ∧ a.launches = o.launches ∧ a.cancels = o.cancels

/-- The same for what became of an access at its home. -/
def Perf.SameWork (p : Perf) (o : Arch) : Prop :=
  match p with
  | .done a _ | .wait a | .check a => a.SameWork o

variable {a b o : Arch}

theorem Arch.SameWork.refl (a : Arch) : a.SameWork a := ⟨rfl, rfl, rfl⟩

theorem Arch.SameWork.level (h : a.SameWork o) (l : Nat) : a.level l = o.level l := congrArg (SMap.get none · l) h.1

theorem Arch.SameWork.launch (h : a.SameWork o) (l : Nat) : a.launch l = o.launch l := congrArg (SMap.get none · l) h.2.1

theorem Arch.SameWork.ite {p : Prop} [Decidable p] (ha : a.SameWork o) (hb : b.SameWork o) : (if p then a else b).SameWork o := by
  split <;> assumption

theorem Arch.SameWork.snd_ite {α : Type} {x y : α × Arch} {p : Prop} [Decidable p] (hx : x.2.SameWork o) (hy : y.2.SameWork o) :
    (if p then x else y).2.SameWork o := by
  split <;> assumption

theorem Arch.SameWork.foldl {β : Type} {f : Arch → β → Arch} {l : List β} (h : a.SameWork o)
    (hf : ∀ a x, a.SameWork o → (f a x).SameWork o) : (l.foldl f a).SameWork o :=
  List.foldlRecOn (motive := fun b : Arch => b.SameWork o) l f h fun b hb x _ => hf b x hb

theorem Perf.SameWork.ite {x y : Perf} {p : Prop} [Decidable p] (hx : x.SameWork o) (hy : y.SameWork o) :
    (if p then x else y).SameWork o := by
  split <;> assumption

theorem Arch.SameWork.mapCore {c : Nat} {f : Core → Core} (h : a.SameWork o) : (a.mapCore c f).SameWork o := h

theorem Arch.SameWork.setCtx {c x : Nat} {t : Context} (h : a.SameWork o) : (a.setCtx c x t).SameWork o := h

theorem Arch.SameWork.feWait (h : a.SameWork o) : a.feWait.SameWork o := h

theorem Arch.SameWork.mapUnit {u : Nat} {f : ExecUnit → ExecUnit} (h : a.SameWork o) : (a.mapUnit u f).SameWork o := by
  unfold Arch.mapUnit
  split <;> exact h

-- ## Slices, snoops and accesses at a home (R181, R194, R211)

theorem Arch.SameWork.interrupt {v : Nat} (h : a.SameWork o) : (a.interrupt v).SameWork o := .ite h h

theorem Arch.SameWork.interruptFrom {b v : Nat} (h : a.SameWork o) : (a.interruptFrom b v).SameWork o := .ite h (.interrupt h)

theorem Arch.SameWork.touchLine {write : Bool} {line : Nat} (h : a.SameWork o) : (a.touchLine write line).SameWork o := by
  unfold Arch.touchLine
  split <;> exact h

theorem Arch.SameWork.fillLine {pa len line : Nat} (h : a.SameWork o) : (a.fillLine pa len line).SameWork o := .ite h (.touchLine h)

theorem Arch.SameWork.cure {line : Nat} (h : a.SameWork o) : (a.cure line).SameWork o := by
  unfold Arch.cure
  split <;> exact h

theorem Arch.SameWork.noteSignals {pa len : Nat} (h : a.SameWork o) : (a.noteSignals pa len).SameWork o := by
  unfold Arch.noteSignals
  split <;> exact h

theorem Arch.SameWork.retireOne {d : DetAcc} (h : a.SameWork o) : (a.retireOne d).SameWork o :=
  .ite h (.touchLine (.touchLine (a := a) h))

theorem Arch.SameWork.retireAll {p : DetAcc → Bool} (h : a.SameWork o) : (a.retireAll p).SameWork o :=
  .ite h (.foldl (.foldl (a := { a with bricks := _ }) h fun _ _ h => .retireOne h) fun _ _ h => .noteSignals h)

theorem Arch.SameWork.retireRange {pa len : Nat} (h : a.SameWork o) : (a.retireRange pa len).SameWork o := by
  unfold Arch.retireRange
  split
  · exact .ite (.retireAll h) h
  · exact h

theorem Arch.SameWork.signalsWritten {pa len : Nat} (h : a.SameWork o) : (a.signalsWritten pa len).SameWork o := by
  unfold Arch.signalsWritten
  split
  · exact h
  · exact .noteSignals (.retireAll h)

theorem Arch.SameWork.lineHome {line : Nat} {bs : List Byte} (h : a.SameWork o) : (a.lineHome line bs).SameWork o := by
  unfold Arch.lineHome
  split
  · exact .ite h (.touchLine (.cure (.signalsWritten h)))
  · exact h

theorem Arch.SameWork.snoopEntry {c i line : Nat} {inval : Bool} (h : a.SameWork o) : (a.snoopEntry c i line inval).SameWork o :=
  .ite (.lineHome h) h

theorem Arch.SameWork.snoopCores {line : Nat} {inval : Bool} {pick : Nat → Bool} (h : a.SameWork o) :
    (a.snoopCores line inval pick).SameWork o :=
  .foldl h fun _ _ h => .ite (.foldl h fun _ _ h => .snoopEntry h) h

theorem Arch.SameWork.backLands {w : WriteBack} (h : a.SameWork o) : (a.backLands w).SameWork o :=
  Arch.SameWork.lineHome (a := { a with writeBacks := _ }) h

theorem Arch.SameWork.landBacks {line : Nat} (h : a.SameWork o) : (a.landBacks line).SameWork o := .foldl h fun _ _ h => .backLands h

theorem Arch.SameWork.fineSnooped {line : Nat} {inval : Bool} (h : a.SameWork o) : (a.fineSnooped line inval).SameWork o := by
  unfold Arch.fineSnooped
  (repeat' split) <;> exact h

theorem Arch.SameWork.snoopLine {line : Nat} {inval : Bool} (h : a.SameWork o) : (a.snoopLine line inval).SameWork o :=
  .fineSnooped (.snoopCores (.landBacks h))

theorem Arch.SameWork.sendWaiting {pa len : Nat} {inval : Bool} {key : Nat} (h : a.SameWork o) :
    (a.sendWaiting pa len inval key).SameWork o :=
  .ite h h

theorem Arch.SameWork.homeRead {pa len : Nat} (h : a.SameWork o) : (a.homeRead pa len).2.SameWork o :=
  .foldl (.retireRange (.foldl h fun _ _ h => .snoopLine h)) fun _ _ h => .touchLine h

theorem Arch.SameWork.homeWrite {pa len x : Nat} (h : a.SameWork o) : (a.homeWrite pa len x).SameWork o := by
  have hf : ((linesOf pa len).foldl (fun a l => a.fillLine pa len l)
      (((linesOf pa len).foldl (fun a l => a.snoopLine l true) a).retireRange pa len)).SameWork o :=
    .foldl (.retireRange (.foldl h fun _ _ h => .snoopLine h)) fun _ _ h => .fillLine h
  exact .foldl (.signalsWritten hf) fun _ _ h => .touchLine (.ite (.cure h) h)

-- ## Accesses at a scratchpad bank (R163, R164, R175)

theorem Arch.SameWork.bankPerform {r : Req} {c x : Nat} (h : a.SameWork o) : (a.bankPerform r c x).SameWork o := by
  unfold Arch.bankPerform
  split
  · exact h
  · exact h
  · exact .ite h h
  · exact .ite h h
  · exact .ite h h
  · exact h
  · exact h
  · exact h
  · exact h
  · exact h
  · exact .ite h h
  · exact h

theorem Arch.SameWork.stashBack {c x id key : Nat} {inv : Bool} (h : a.SameWork o) : (a.stashBack c x id key inv).SameWork o := by
  have hs := Arch.SameWork.ite (p := SMap.get StashState.invalid (a.core c).stash key = .dirty)
    (a := (a.sendBack c x id key).setStash c key .owned) h h
  exact .ite hs hs

theorem Arch.SameWork.stashPerform {r : Req} {c x key : Nat} (h : a.SameWork o) : (a.stashPerform r c x key).SameWork o := by
  unfold Arch.stashPerform
  split
  · exact h.stashBack
  · refine .ite ?_ h
    have hp := h.bankPerform (r := r) (c := c) (x := x)
    generalize a.bankPerform r c x = p at hp ⊢
    cases p with
    | done b v => exact Arch.SameWork.ite (.signalsWritten (.foldl hp fun _ _ h => .mapCore h)) hp
    | wait b => exact hp
    | check b => exact hp

/-- An access at a scratchpad; one at a register of the Quoin die may add a cancel (R314). -/
theorem Arch.SameWork.performAt {r : Req} {c x : Nat} (h : a.SameWork o) (hr : a.place r.pa = .spad c x) :
    (a.performAt r).SameWork o := by
  unfold Arch.performAt
  rw [hr]
  dsimp only
  split
  · exact h
  · split
    · exact h.stashPerform
    · exact h.bankPerform

theorem Arch.SameWork.noteStretch {d w : Nat} (h : a.SameWork o) : (a.noteStretch d w).SameWork o := by
  unfold Arch.noteStretch
  split <;> exact h

theorem Arch.SameWork.reachHeld {d pa len : Nat} {w : Bool} (h : a.SameWork o) (e : a.reachHeld d pa len w = some b) : b.SameWork o := by
  unfold Arch.reachHeld at e
  split at e
  · cases e
  · refine ite_eq_elim e (fun e => nomatch e) fun e => ite_eq_elim e (fun e => ?_) fun e => ite_eq_elim e (fun e => ?_) fun e =>
      ite_eq_elim e (fun e => nomatch e) fun e => ?_ <;> cases e
    · exact .noteStretch h
    · exact h
    · exact .sendWaiting h

theorem Arch.SameWork.rmwHeld {d pa len : Nat} (h : a.SameWork o) (e : a.rmwHeld d pa len = some b) : b.SameWork o := by
  unfold Arch.rmwHeld at e
  split at e
  · next e' => cases e; exact h.reachHeld e'
  · exact h.reachHeld e

-- ## Machine checks and bank turns (R164, R310)

theorem Arch.SameWork.withdraw {c x : Nat} (h : a.SameWork o) : (a.withdraw c x).SameWork o := h

theorem Arch.SameWork.declineService {c : Nat} (h : a.SameWork o) : (a.declineService c).SameWork o := h

theorem Arch.SameWork.raiseAs {c x pc cause slot step arg info left : Nat} {fatal : Bool} (h : a.SameWork o) :
    (a.raiseAs c x pc cause slot step arg info left fatal).SameWork o := by
  have hi : (if cause = 0x0D then a.interruptFrom (c / 32) 0 else a).SameWork o := .ite (.interruptFrom h) h
  exact .ite (.declineService hi) (.ite (.setCtx (.mapCore (.withdraw hi))) (.setCtx (.mapCore (.withdraw hi))))

theorem Arch.SameWork.gangTrap {x rep : Nat} {cores : List Nat} {traps : List (Nat × TrapNote)} (h : a.SameWork o) :
    (a.gangTrap x rep cores traps).SameWork o :=
  .foldl h fun _ _ h => by dsimp only; split <;> exact h.raiseAs

theorem Arch.SameWork.failHalted {c x u : Nat} (h : a.SameWork o) : (a.failHalted c x u).SameWork o :=
  .mapUnit (.interruptFrom (.ite h h))

theorem Arch.SameWork.checkAt {c x pa slot : Nat} (h : a.SameWork o) : (a.checkAt c x pa slot).SameWork o := by
  refine .ite ?_ (.ite (.interruptFrom h) (.gangTrap h))
  split
  · exact .failHalted h
  · exact .interruptFrom h

theorem Arch.SameWork.askFill {c key pa : Nat} {own touch : Bool} (h : a.SameWork o) : (a.askFill c key pa own touch).SameWork o := by
  unfold Arch.askFill
  split <;> exact h

theorem Arch.SameWork.park {r : Req} (h : a.SameWork o) : (a.park r).SameWork o := by
  unfold Arch.park Arch.askAgain
  split
  · refine .ite (.ite h (.ite h (.ite h h))) ?_
    split
    · exact .ite h.askFill h
    · exact h
  · exact .ite h h
  · exact h

/-- A request at a scratchpad word is served, waits, or ends in a machine check (R164, R178, R310). -/
theorem Arch.SameWork.performReq {r : Req} {c x : Nat} (h : a.SameWork o) (hr : a.place r.pa = .spad c x) :
    (a.performReq r).SameWork o := by
  unfold Arch.performReq
  have hp := h.performAt hr
  generalize a.performAt r = p at hp ⊢
  cases p with
  | done b v => dsimp only; split <;> exact hp
  | wait b => exact hp.park
  | check b => dsimp only; split <;> exact Arch.SameWork.checkAt (a := b.dropReqs _) hp

/-- Waiters that a bank serves wait at words of a scratchpad. -/
theorem Arch.spad_of_waiterReady {r : Req} (h : a.waiterReady r = true) : ∃ c x, a.place r.pa = .spad c x := by
  unfold Arch.waiterReady at h
  split at h
  · next e => exact ⟨_, _, e⟩
  · cases h

theorem Arch.SameWork.serveWords {c pa len n : Nat} (h : a.SameWork o) : (a.serveWords c pa len n).SameWork o := by
  induction n generalizing a with
  | zero => exact h
  | succ n ih =>
    unfold Arch.serveWords
    split
    · next r e =>
      obtain ⟨i, -, e⟩ := List.exists_of_findSome?_eq_some e
      have hw := List.find?_some e
      simp only [Bool.and_eq_true] at hw
      obtain ⟨_, _, hr⟩ := Arch.spad_of_waiterReady hw.2
      exact ih (h.performReq hr)
    · exact h

theorem Arch.SameWork.bankTurn {pa len : Nat} (h : a.SameWork o) : (a.bankTurn pa len).SameWork o := by
  unfold Arch.bankTurn
  split
  · exact h.serveWords
  · exact h

-- ## Accesses through a queue's translation (R198, R273), events (R296) and signals (R286)

theorem Arch.SameWork.keepNode {b asid va lvl node : Nat} (h : a.SameWork o) : (a.keepNode b asid va lvl node).SameWork o := by
  unfold Arch.keepNode
  split <;> exact h

theorem Arch.SameWork.walkFrom {b asid va n node : Nat} (h : a.SameWork o) : (a.walkFrom b asid va n node).2.SameWork o := by
  induction n generalizing a node with
  | zero => exact h
  | succ lvl ih =>
    unfold Arch.walkFrom
    split
    · dsimp only
      split
      · next e => exact h.reachHeld e
      · exact .snd_ite h <| .snd_ite h.homeRead <| .snd_ite h.homeRead <|
          .snd_ite (.snd_ite h.homeRead (ih (.keepNode h.homeRead))) <| .snd_ite h.homeRead (.snd_ite h.homeRead h.homeRead)
    · exact h

theorem Arch.SameWork.feXlate {r : XlRegs} {va : Nat} {rd wr : Bool} (h : a.SameWork o) : (a.feXlate r va rd wr).2.SameWork o := by
  refine .snd_ite h ?_
  dsimp only
  split <;> exact h.walkFrom

theorem Arch.SameWork.feReach {r : XlRegs} {va len : Nat} {wr : Bool} (h : a.SameWork o) : (a.feReach r va len wr).2.SameWork o := by
  refine .snd_ite h (List.foldlRecOn (motive := fun q : Option (List (Nat × Nat × Nat)) × Arch => q.2.SameWork o) _ _ h fun q hq e _ => ?_)
  dsimp only
  split
  · next e =>
    obtain ⟨_, _, e⟩ := Option.bind_eq_some_iff.mp e
    exact .feWait (hq.feXlate.reachHeld e)
  · exact hq.feXlate

theorem Arch.SameWork.copyWrite {ss : List (Nat × Nat × Nat)} {bs : List Byte} (h : a.SameWork o) : (a.copyWrite ss bs).SameWork o := by
  induction ss generalizing a bs with
  | nil => exact h
  | cons p ss ih =>
    refine ih ?_
    split
    · exact .homeWrite h
    · exact h.bankTurn
    · exact h

theorem Arch.SameWork.feWrite {r : XlRegs} {va : Nat} {bs : List Byte} (h : a.SameWork o) : (a.feWrite r va bs).2.SameWork o := by
  unfold Arch.feWrite
  dsimp only
  split
  · exact h.feReach.copyWrite
  · exact h.feReach

theorem Arch.SameWork.jobEvent {q code index info : Nat} (h : a.SameWork o) : (a.jobEvent q code index info).SameWork o :=
  Arch.SameWork.ite h h.feWrite

theorem Arch.SameWork.signalAt {r : XlRegs} {va : Nat} (h : a.SameWork o) : (a.signalAt r va).2.SameWork o := by
  refine .snd_ite h ?_
  dsimp only
  split
  · next e =>
    obtain ⟨_, _, e⟩ := Option.bind_eq_some_iff.mp e
    exact .feWait (h.feXlate.rmwHeld e)
  · exact h.feXlate

theorem Arch.SameWork.signalOp {desc : BitVec 1024} {q index va op v : Nat} (h : a.SameWork o) :
    (a.signalOp desc q index va op v).2.SameWork o := by
  unfold Arch.signalOp
  dsimp only
  split
  · exact h.signalAt.homeRead.homeWrite
  · exact h.signalAt.jobEvent

theorem Arch.SameWork.completeSignal {desc : BitVec 1024} {q index signal : Nat} {vector : Option Nat} {abort : Bool} (h : a.SameWork o) :
    (a.completeSignal desc q index signal vector abort).SameWork o := by
  unfold Arch.completeSignal
  dsimp only
  split
  · exact .interrupt (.ite h h.signalOp)
  · exact .ite h h.signalOp

/-- Writing a level's record leaves the level itself as it is (R31). -/
theorem Arch.SameWork.writeRecord {l : Nat} (h : a.SameWork o) : (a.writeRecord l).SameWork o := by
  unfold Arch.writeRecord
  split
  · exact .ite h h.feWrite
  · exact h

theorem Arch.SameWork.recordAmong {record : Nat} {es : List (Nat × XlRegs × Nat)} (h : a.SameWork o) :
    (a.recordAmong record es).2.SameWork o := by
  induction es generalizing a with
  | nil => exact h
  | cons e es ih => exact .snd_ite h.feXlate (ih h.feXlate)

end Sys2Proof.Machine
end

-- Levels as their children end, and as they are cancelled (R31, R33, R45, R47 to R49)
section
/-! PROOFS. What marking a loss, counting an end and ending a level do to the levels, and a cancel of an unreleased launch. -/

namespace Sys2Proof.Machine

variable {a o : Arch} {l k : Nat}

-- ## One level changes (R31)

theorem Arch.level_mapLevel (a : Arch) (k l : Nat) (f : Level → Level) :
    (a.mapLevel k f).level l = if l = k then (a.level l).map f else a.level l := by
  unfold Arch.mapLevel
  cases hk : a.level k with
  | none =>
    by_cases h : l = k
    · subst h; simp [hk]
    · simp [h]
  | some v =>
    by_cases h : l = k
    · subst h; simp [hk]
    · exact (SMap.get_set_other none a.levels (some (f v)) h).trans (if_neg h).symm

theorem Arch.mapLevel_launches (a : Arch) (k : Nat) (f : Level → Level) : (a.mapLevel k f).launches = a.launches := by
  unfold Arch.mapLevel
  split <;> rfl

theorem Arch.mapLevel_cancels (a : Arch) (k : Nat) (f : Level → Level) : (a.mapLevel k f).cancels = a.cancels := by
  unfold Arch.mapLevel
  split <;> rfl

/-- A level with a record changes as one without does; its record is written besides (R31). -/
theorem Arch.updLevel_sameWork (a : Arch) (k : Nat) (f : Level → Level) : (a.updLevel k f).SameWork (a.mapLevel k f) :=
  .writeRecord (.refl _)

theorem Arch.level_updLevel (a : Arch) (k l : Nat) (f : Level → Level) :
    (a.updLevel k f).level l = if l = k then (a.level l).map f else a.level l :=
  ((a.updLevel_sameWork k f).level l).trans (a.level_mapLevel k l f)

theorem Arch.level_updLevel_none {f : Level → Level} (h : a.level l = none) : (a.updLevel k f).level l = none := by
  rw [Arch.level_updLevel, h]
  split <;> rfl

-- ## A loss reaches the enclosing levels (R31, R45)

/-- The launches and the cancels under way are those of `o`. -/
def Arch.SameOrders (a o : Arch) : Prop := a.launches = o.launches ∧ a.cancels = o.cancels

theorem Arch.SameOrders.updLevel {f : Level → Level} (h : a.SameOrders o) : (a.updLevel k f).SameOrders o := by
  obtain ⟨-, hl, hc⟩ := a.updLevel_sameWork k f
  exact ⟨hl.trans ((a.mapLevel_launches k f).trans h.1), hc.trans ((a.mapLevel_cancels k f).trans h.2)⟩

/-- A property that recording a loss in any level keeps, `markLoss` keeps. -/
theorem Arch.markLoss_induct {P : Arch → Prop} (hP : ∀ a k v, P a → a.level k = some v → v.childloss = false →
    P (a.updLevel k (fun v => { v with childloss := true }))) (n : Nat) (h : P a) : P (a.markLoss k n) := by
  induction n generalizing a k with
  | zero => exact h
  | succ n ih =>
    unfold Arch.markLoss
    split
    · exact h
    · next v hv =>
      extract_lets a₁ a₂
      have h₁ : P a₁ := by
        dsimp only [a₁]
        split
        · exact h
        · next hc => exact hP a k v h hv (by simpa using hc)
      have h₂ : P a₂ := by
        dsimp only [a₂]
        split
        · exact ih h₁
        · exact h₁
      split
      · exact ih h₂
      · exact h₂

theorem Arch.SameOrders.markLoss {n : Nat} (h : a.SameOrders o) : (a.markLoss k n).SameOrders o :=
  Arch.markLoss_induct (P := fun b => b.SameOrders o) (fun _ _ _ h _ _ => h.updLevel) n h

/-- A level that has recorded a loss stays as it is, and none appears. -/
theorem Arch.level_markLoss_of_childloss {n : Nat} (h : ∀ v, a.level l = some v → v.childloss = true) :
    (a.markLoss k n).level l = a.level l := by
  refine Arch.markLoss_induct (P := fun b => b.level l = a.level l) (fun b k v hb hk hv => ?_) n rfl
  rw [Arch.level_updLevel, if_neg, hb]
  rintro rfl
  rw [h v (hb.symm.trans hk)] at hv
  cases hv

theorem Arch.level_markLoss_none {n : Nat} (h : a.level l = none) : (a.markLoss k n).level l = none :=
  (Arch.level_markLoss_of_childloss (by simp [h])).trans h

/-- The level where the loss begins records it, whatever the loss does above it. -/
theorem Arch.level_markLoss_self {v : Level} {n : Nat} (h : a.level l = some v) :
    (a.markLoss l (n + 1)).level l = some { v with childloss := true } := by
  have keep : ∀ {b : Arch} {k : Nat}, b.level l = some { v with childloss := true } →
      (b.markLoss k n).level l = some { v with childloss := true } := fun hb =>
    (Arch.level_markLoss_of_childloss (by rw [hb]; rintro _ ⟨⟩; rfl)).trans hb
  unfold Arch.markLoss
  split
  · next hn => rw [h] at hn; cases hn
  next w hw =>
  obtain rfl : v = w := Option.some.inj (h.symm.trans hw)
  extract_lets a₁ a₂
  have h₁ : a₁.level l = some { v with childloss := true } := by
    dsimp only [a₁]
    split
    · next hc => rw [h, ← hc]
    · rw [Arch.level_updLevel, if_pos rfl, h]; rfl
  have h₂ : a₂.level l = some { v with childloss := true } := by
    dsimp only [a₂]
    split
    · exact keep h₁
    · exact h₁
  split
  · exact keep h₂
  · exact h₂

/-- A child of a level has ended: the level counts it, and one that did not end well is a loss (R31). -/
theorem Arch.level_countEnd_self {v : Level} {ok : Bool} (h : a.level l = some v) :
    (a.countEnd l ok).level l = some { v with
      pending := v.pending - 1, done := if ok then v.done + 1 else v.done
      abandoned := if ok then v.abandoned else v.abandoned + 1, childloss := v.childloss || !ok } := by
  unfold Arch.countEnd
  cases ok with
  | true => simp [Arch.level_updLevel, h]
  | false =>
    refine (Arch.level_markLoss_self (n := 79) (by rw [Arch.level_updLevel, if_pos rfl, h]; rfl)).trans ?_
    simp

-- ## No level appears while levels end (R33, R283)

theorem Arch.level_countEnd_none {ok : Bool} (h : a.level l = none) : (a.countEnd k ok).level l = none := by
  unfold Arch.countEnd
  dsimp only
  split
  · exact Arch.level_updLevel_none h
  · exact Arch.level_markLoss_none (Arch.level_updLevel_none h)

theorem Arch.mapUnit_levels (a : Arch) (u : Nat) (f : ExecUnit → ExecUnit) : (a.mapUnit u f).levels = a.levels := by
  unfold Arch.mapUnit
  split <;> rfl

theorem Arch.level_unitChildEnd_none {u : Nat} {ok : Bool} (h : a.level l = none) : (a.unitChildEnd u ok).level l = none := by
  have hu : ∀ f, (a.mapUnit u f).level l = none := fun f => (congrArg (SMap.get none · l) (a.mapUnit_levels u f)).trans h
  unfold Arch.unitChildEnd
  dsimp only
  split
  · exact Arch.level_markLoss_none (hu _)
  · exact hu _

theorem Arch.level_nodeOver_none {g n : Nat} {p : Progress} (h : a.level l = none) : (a.nodeOver g n p).level l = none := by
  unfold Arch.nodeOver
  (repeat' split) <;> exact h

theorem Arch.level_failNodes_none {g : Nat} {st : LevelState} {ns : List Nat} {n : Nat} (h : a.level l = none) :
    (a.failNodes g st ns n).level l = none := by
  induction n generalizing a st ns with
  | zero => cases ns <;> exact h
  | succ f ih =>
    cases ns with
    | nil => exact h
    | cons n ns =>
      unfold Arch.failNodes
      split
      · split
        · refine ih ?_
          split
          · exact Arch.level_countEnd_none
              (((Arch.SameWork.ite (.refl _) (.feWrite (.refl _))).level l).trans (Arch.level_nodeOver_none h))
          · exact Arch.level_nodeOver_none h
        · exact ih h
      · exact ih h

theorem Arch.level_nodeEnds_none {ok : Bool} (h : a.level l = none) : (a.nodeEnds k ok).level l = none := by
  unfold Arch.nodeEnds
  split
  · exact h
  · dsimp only
    split
    · unfold Arch.mapGraph
      split <;> exact Arch.level_nodeOver_none h
    · exact Arch.level_failNodes_none (Arch.level_nodeOver_none h)

/-- A level that ends leaves the levels. -/
theorem Arch.level_endLevel_self (a : Arch) (l : Nat) (v : Level) (st : LevelState) : (a.endLevel l v st).level l = none := by
  unfold Arch.endLevel
  exact SMap.get_set_same (none : Option Level) _ l none

theorem Arch.level_endLevel_none {v : Level} {st : LevelState} (h : a.level l = none) : (a.endLevel k v st).level l = none := by
  unfold Arch.endLevel
  extract_lets a₁ a₂ a₃ a₄ ok a₅ a₆ a₇
  have h₄ : a₄.level l = none :=
    ((Arch.SameWork.completeSignal (.refl a₁)).level l).trans (Arch.level_updLevel_none h)
  have h₅ : a₅.level l = none := by
    dsimp only [a₅]
    split
    · exact Arch.level_unitChildEnd_none h₄
    · exact h₄
  have h₆ : a₆.level l = none := by
    dsimp only [a₆]
    split
    · exact Arch.level_countEnd_none h₅
    · exact h₅
  have h₇ : a₇.level l = none := Arch.level_nodeEnds_none h₆
  show SMap.get none (SMap.set none a₇.levels k none) l = none
  rw [SMap.get_set, show SMap.get none a₇.levels l = none from h₇, ite_self]

theorem Arch.level_settleLevels_none {n : Nat} (h : a.level l = none) : (a.settleLevels n).level l = none := by
  induction n generalizing a with
  | zero => exact h
  | succ n ih =>
    unfold Arch.settleLevels
    split
    · exact ih (Arch.level_endLevel_none h)
    · exact h

/-- What follows the end of levels in an action of the front end concerns queues only. -/
theorem Arch.frontDone_levels (a : Arch) : a.frontDone.levels = a.settled.levels := by
  unfold Arch.frontDone
  extract_lets b c
  split
  · exact List.foldlRecOn (motive := fun d : Arch => d.levels = a.settled.levels) _ _ rfl fun _ hd _ _ => hd
  · rfl

/-- A live level whose children have all ended is due to end (R33). -/
theorem Level.due_isSome {v : Level} (hv : v.state.live = true) (hp : v.pending = 0) (hc : v.isOpen = false ∨ v.cancelled = true) :
    ∃ st, v.due = some st := by
  refine ⟨_, if_pos ?_⟩
  rcases hc with hc | hc <;> simp [hv, hp, hc]

/-- The only level, when it is due, ends with the action (R33). -/
theorem Arch.level_frontDone_of_due {v : Level} {st : LevelState} (h : a.levels = [(l, some v)]) (hd : v.due = some st) :
    a.frontDone.level l = none := by
  have hs : a.settled.level l = none := by
    unfold Arch.settled
    rw [h]
    unfold Arch.settleLevels
    simp only [h, List.findSome?_cons, Option.bind_some, hd, Option.map_some]
    exact Arch.level_settleLevels_none (a.level_endLevel_self l v st)
  exact (congrArg (SMap.get none · l) a.frontDone_levels).trans hs

-- ## A cancel of a launch that has not been released (R47 to R49)

/-- None of its units has been released: the launch is no more, and its level counts each as abandoned (R423). -/
theorem Arch.cancelLevel_of_unreleased {v : Level} {w : Launch} (hl : a.level l = some v) (hk : v.kind = .launch)
    (hw : a.launch l = some w) (hr : w.released = false) :
    let b := a.updLevel l (fun v => { v with cancelled := true })
    a.cancelLevel l = (({ b with launches := SMap.set none b.launches l none } : Arch).mapLevel l (fun v =>
      { v with abandoned := v.abandoned + v.pending, pending := 0 })).markLoss l nestMax := by
  have hu : (a.updLevel l (fun v => { v with cancelled := true })).SameOrders a := Arch.SameOrders.updLevel ⟨rfl, rfl⟩
  unfold Arch.cancelLevel
  rw [hl]
  dsimp only
  rw [hk]
  dsimp only
  rw [show (a.updLevel l _).launch l = some w from (congrArg (SMap.get none · l) hu.1).trans hw]
  dsimp only
  rw [if_neg (by rw [hr]; decide)]

theorem Arch.cancelLevel_launch {v : Level} {w : Launch} (hl : a.level l = some v) (hk : v.kind = .launch)
    (hw : a.launch l = some w) (hr : w.released = false) :
    (a.cancelLevel l).cancels = a.cancels ∧ (a.cancelLevel l).launch l = none ∧
      (a.cancelLevel l).level l = some { v with
        cancelled := true, abandoned := v.abandoned + v.pending, pending := 0, childloss := true } := by
  have hu : (a.updLevel l (fun v => { v with cancelled := true })).SameOrders a := Arch.SameOrders.updLevel ⟨rfl, rfl⟩
  have hlu : (a.updLevel l (fun v => { v with cancelled := true })).level l = some { v with cancelled := true } := by
    rw [Arch.level_updLevel, if_pos rfl, hl]; rfl
  rw [Arch.cancelLevel_of_unreleased hl hk hw hr]
  generalize a.updLevel l (fun v => { v with cancelled := true }) = b at hu hlu ⊢
  generalize hd : ({ b with launches := SMap.set none b.launches l none } : Arch).mapLevel l (fun v =>
    { v with abandoned := v.abandoned + v.pending, pending := 0 }) = d
  have hm : (d.markLoss l nestMax).SameOrders d := Arch.SameOrders.markLoss ⟨rfl, rfl⟩
  have hdl : d.level l = some { v with cancelled := true, abandoned := v.abandoned + v.pending, pending := 0 } := by
    rw [← hd, Arch.level_mapLevel, if_pos rfl]
    exact congrArg (Option.map _) hlu
  refine ⟨?_, ?_, Arch.level_markLoss_self (n := 79) hdl⟩
  · rw [hm.2, ← hd, Arch.mapLevel_cancels]; exact hu.2
  · unfold Arch.launch
    rw [hm.1, ← hd, Arch.mapLevel_launches]
    exact SMap.get_set_same (none : Option Launch) _ l none

theorem Arch.below_self (a : Arch) (l : Nat) : a.below l l nestMax = true := by
  show (l == l || _) = true
  rw [beq_self_eq_true, Bool.true_or]

/-- The level whose record a cancel names, where it is the only one. -/
theorem Arch.cancelWrite_of_only_level {record : Nat} {v : Level} (hc : a.cancels = [record]) (hr : record < 2 ^ 56)
    (hl : a.levels = [(l, some v)]) (hv : v.state.live = true) (hn : v.cancelled = false) (h0 : v.record ≠ 0)
    (hx : (({ a with cancels := [] } : Arch).feXlate (queueRegs v.desc) v.record false true).1 = some record) :
    a.cancelWrite record = (({ a with cancels := [] } : Arch).feXlate (queueRegs v.desc) v.record false true).2.cancelLevel l := by
  have hrec : ({ a with cancels := [] } : Arch).levelRecords = [(l, queueRegs v.desc, v.record)] := by
    simp [Arch.levelRecords, hl, hv, hn, h0]
  have hb : (({ a with cancels := [] } : Arch).feXlate (queueRegs v.desc) v.record false true).2.levels = [(l, some v)] :=
    (Arch.SameWork.feXlate (.refl _)).1.trans hl
  unfold Arch.cancelWrite
  simp only [hc, List.contains_cons, beq_self_eq_true, Bool.true_or, Bool.not_true, List.erase_cons_head, Nat.not_le.mpr hr, if_false,
    Bool.false_eq_true]
  unfold Arch.cancelAt
  simp only [hrec, Arch.recordAmong, hx, if_true]
  simp [Arch.cancelBelow, hb, Arch.below_self]

end Sys2Proof.Machine
end

-- Units as they end, and accesses that nothing holds (R22, R34, R253)
section
/-! PROOFS. What the end of a unit leaves; that no access waits where no port sleeps and no write is under way; and that units and
levels end as O35 says. -/

namespace Sys2Proof.Machine

variable {a : Arch} {u x : Nat}

-- ## The end of a unit (R34)

/-- Context `x` of a core forgets a unit that has ended. -/
def Arch.forgetUnit (u x : Nat) (a : Arch) (c : Nat) : Arch :=
  if (a.ctx c x).unit = some u then
    (a.setCtx c x Context.reset).mapCore c (fun k =>
      { k with evq := k.evq.filter (fun v => v.ctx != x), misses := k.misses.filter (fun m => !m.agent.isOf x) })
  else a

/-- Every context of a unit forgets it, and the module as well. -/
def Arch.forgotten (a : Arch) (u : Nat) (e : ExecUnit) : Arch :=
  let b := e.cores.foldl (Arch.forgetUnit u e.ctx) a
  { b with units := SMap.set none b.units u none }

/-- The launch of a unit that has ended counts it (R31). -/
def Launch.counts (v : Launch) (f : UnitEnd) (a : Arch) : Arch :=
  match v.level with
  | some k => a.countEnd k (f == .complete)
  | none => a

theorem Arch.unit_forgetUnit (a : Arch) (u x c d : Nat) : ((a.forgetUnit u x c).ctx d x).unit =
    if d = c ∧ (a.ctx d x).unit = some u then none else (a.ctx d x).unit := by
  unfold Arch.forgetUnit
  by_cases hu : (a.ctx c x).unit = some u
  · rw [if_pos hu, Arch.ctx_mapCore_of_ctxs (by intro _; rfl)]
    by_cases hd : d = c
    · subst hd
      rw [Arch.ctx_setCtx, if_pos ⟨rfl, hu⟩]
      rfl
    · rw [Arch.ctx_setCtx_other _ _ (.inl hd), if_neg fun h => hd h.1]
  · rw [if_neg hu, if_neg]
    rintro ⟨rfl, h⟩
    exact hu h

theorem Arch.unit_foldl_forgetUnit {cs : List Nat} {d : Nat} (hd : d ∈ cs) (hu : (a.ctx d x).unit = some u) :
    ((cs.foldl (Arch.forgetUnit u x) a).ctx d x).unit = none := by
  have keep : ∀ (cs : List Nat) (b : Arch), (b.ctx d x).unit = none → ((cs.foldl (Arch.forgetUnit u x) b).ctx d x).unit = none :=
    fun cs b hb => List.foldlRecOn (motive := fun b : Arch => (b.ctx d x).unit = none) cs _ hb fun b hb c _ => by
      rw [Arch.unit_forgetUnit, hb, if_neg (by simp)]
  induction cs generalizing a with
  | nil => cases hd
  | cons c cs ih =>
    rw [List.foldl_cons]
    by_cases h : d = c
    · exact keep cs _ (by rw [Arch.unit_forgetUnit, if_pos ⟨h, hu⟩])
    · exact ih ((List.mem_cons.mp hd).resolve_left h) (by rw [Arch.unit_forgetUnit, if_neg (fun h' => h h'.1), hu])

/-- Only contexts and their cores' events and misses change. -/
theorem Arch.foldl_forgetUnit_keeps (a : Arch) (u x : Nat) (cs : List Nat) :
    (cs.foldl (Arch.forgetUnit u x) a).mem = a.mem ∧ (cs.foldl (Arch.forgetUnit u x) a).launches = a.launches :=
  List.foldlRecOn (motive := fun b : Arch => b.mem = a.mem ∧ b.launches = a.launches) cs _ ⟨rfl, rfl⟩ fun b hb c _ => by
    unfold Arch.forgetUnit
    split <;> exact hb

theorem Arch.endUnit_of_launch {e : ExecUnit} {v : Launch} (f : UnitEnd) (hv : a.launch e.launch = some v) (ht : v.task = none) :
    a.endUnit u e f = v.counts f (a.forgotten u e) := by
  have hl : (a.forgotten u e).launch e.launch = some v :=
    (congrArg (SMap.get none · e.launch) (a.foldl_forgetUnit_keeps u e.ctx e.cores).2).trans hv
  unfold Arch.endUnit
  extract_lets b d
  split
  · next hn => exact absurd (hl.symm.trans hn) nofun
  · next w hw =>
    obtain rfl : v = w := Option.some.inj (hl.symm.trans hw)
    rw [ht]
    unfold Launch.counts
    cases v.level <;> rfl

/-- A unit that has ended, of a launch, and has nothing under way any more: the step does no more than count it. -/
theorem Arch.unitEnds_of_quiet {e : ExecUnit} {f : UnitEnd} {v : Launch} (he : a.unit u = some e) (hf : e.fate = some f)
    (hq : a.unitQuiet u e = true) (hv : a.launch e.launch = some v) (ht : v.task = none) :
    a.unitEnds u = v.counts f (a.forgotten u e) := by
  have hfail : a.finishFailing u e = a := if_neg (by simp [hf])
  have hch : e.children = 0 := by
    simp only [Arch.unitQuiet, Bool.and_eq_true, beq_iff_eq] at hq
    exact hq.1.2
  unfold Arch.unitEnds
  simp only [he, hfail, hf, hch, ne_eq, not_true_eq_false, and_false, if_false, hq, Bool.not_true, Bool.false_eq_true, hv, Option.bind_some,
    ht]
  exact Arch.endUnit_of_launch f hv ht

-- ## Accesses that nothing holds (R22, R213, R253)

theorem Arch.routeSleeps_of_awake (h : a.lowPort = []) (s d : Nat) : a.routeSleeps s d = false := by
  simp [Arch.routeSleeps, Arch.hopSleeps, h]

theorem Arch.windowOpen_of_awake (h : a.lowPort = []) (hr : a.reqs = []) (hw : a.writeBacks = []) (i d n : Nat) :
    a.windowOpen i d n = false := by
  simp [Arch.windowOpen, Arch.sentTo, Arch.routeSleeps_of_awake h, hr, hw]

theorem Arch.reachHeld_of_awake {d pa len : Nat} {w : Bool} (h : a.lowPort = []) (hr : a.reqs = []) (hw : a.writeBacks = [])
    (hb : a.bankStopped (a.place pa) = false) : a.reachHeld d pa len w = none := by
  have ht : ∀ s d, a.tripSleeps s d = false := fun s d => by simp [Arch.tripSleeps, Arch.routeSleeps_of_awake h]
  have hs : a.snoopsWait pa len w = [] := by simp [Arch.snoopsWait, ht]
  unfold Arch.reachHeld
  split
  · rfl
  · simp [Arch.windowStalls, Arch.windowOpen_of_awake h hr hw, ht, hb, hs]

-- ## Events of a queue without a ring (R296)

theorem Arch.jobEvent_of_no_ring {q : Nat} (code index info : Nat) (h : dw (a.queue q).desc.toNat 0x38 63 0 = 0) :
    a.jobEvent q code index info = a.mapQueue q (fun k => { k with evcnt := k.evcnt + 1 }) := by
  dsimp only [Arch.jobEvent]
  rw [if_pos h]

-- ## Steps of the front end

theorem opActs_unitEnd (u : Nat) (s : State) : OpActs (.unitEnd u) s (s.arch.unitEnds u) := rfl

theorem opActs_cancel (record : Nat) (s : State) : OpActs (.cancel record) s (s.arch.cancelWrite record) := rfl

theorem unitsAndLevelsEnd : UnitsAndLevelsEnd := by
  refine ⟨?unit, ?counted, ?ends, ?cancel, ?event, ?reach⟩
  case unit =>
    intro u e f v s he hf hq hv ht
    refine ⟨opActs_unitEnd u s, s.arch.forgotten u e, ?_, SMap.get_set_same (none : Option ExecUnit) _ u none,
      (s.arch.foldl_forgetUnit_keeps u e.ctx e.cores).1, fun c hc hu => Arch.unit_foldl_forgetUnit hc hu⟩
    rw [Arch.unitEnds_of_quiet he hf hq hv ht]
    unfold Launch.counts
    cases v.level <;> rfl
  case counted =>
    intro l v a ok hl _
    exact Arch.level_countEnd_self hl
  case ends =>
    intro l v a hl hv hp hc
    obtain ⟨st, hd⟩ := Level.due_isSome hv hp hc
    exact Arch.level_frontDone_of_due hl hd
  case cancel =>
    intro l record v w s hc hr hl hv hn hk h0 hx hw hu
    have hb := Arch.SameWork.feXlate (r := queueRegs v.desc) (va := v.record) (rd := false) (wr := true)
      (.refl ({ s.arch with cancels := [] } : Arch))
    have hlevel := (hb.level l).trans (show s.arch.level l = some v by simp [Arch.level, hl, SMap.get])
    obtain ⟨hcancels, hlaunch, hcancelled⟩ := Arch.cancelLevel_launch hlevel hk ((hb.launch l).trans hw) hu
    rw [← Arch.cancelWrite_of_only_level hc hr hl hv hn h0 hx] at hcancels hlaunch hcancelled
    exact ⟨opActs_cancel record s, hcancels.trans hb.2.2, hlaunch, hcancelled⟩
  case event =>
    exact fun _ code index info _ h => Arch.jobEvent_of_no_ring code index info h
  case reach =>
    exact fun _ _ _ _ _ => Arch.reachHeld_of_awake

end Sys2Proof.Machine
end

-- Launches as they are released (R35 to R38, R46; log entries 56 and 69)
section
/-! PROOFS. What the release message of a launch puts in place on each core, what its release starts there, and the obligation O35. -/

namespace Sys2Proof.Machine

variable {a b d : Arch} {c x : Nat} {cs ds : List Nat}

-- ## Images and presets (R35, R37)

/-- From `a` to `b` images and presets have been put in place on the cores `cs`: no context, no unit and no owner of a group changes. -/
structure Arch.Loads (cs : List Nat) (a b : Arch) : Prop where
  clock : b.clock = a.clock
  modnum : b.modnum = a.modnum
  reqs : b.reqs = a.reqs
  units : b.units = a.units
  launches : b.launches = a.launches
  ctx : ∀ c x, b.ctx c x = a.ctx c x
  owner : ∀ c, (b.core c).owner = (a.core c).owner
  core : ∀ c, c ∉ cs → b.core c = a.core c

theorem Arch.Loads.refl (cs : List Nat) (a : Arch) : a.Loads cs a :=
  ⟨rfl, rfl, rfl, rfl, rfl, fun _ _ => rfl, fun _ => rfl, fun _ _ => rfl⟩

theorem Arch.Loads.trans (h : a.Loads cs b) (h' : b.Loads cs d) : a.Loads cs d where
  clock := h'.clock.trans h.clock
  modnum := h'.modnum.trans h.modnum
  reqs := h'.reqs.trans h.reqs
  units := h'.units.trans h.units
  launches := h'.launches.trans h.launches
  ctx c x := (h'.ctx c x).trans (h.ctx c x)
  owner c := (h'.owner c).trans (h.owner c)
  core c hc := (h'.core c hc).trans (h.core c hc)

theorem Arch.Loads.mono (h : a.Loads cs b) (hs : cs ⊆ ds) : a.Loads ds b :=
  { h with core := fun c hc => h.core c fun h' => hc (hs h') }

/-- A write of memory, and a change of one core that is not one of its contexts or owners. -/
theorem Arch.Loads.mapCore {f : Core → Core} (m : Memory) (hx : ∀ k, (f k).ctxs = k.ctxs) (ho : ∀ k, (f k).owner = k.owner) :
    a.Loads [c] (({ a with mem := m } : Arch).mapCore c f) where
  clock := rfl
  modnum := rfl
  reqs := rfl
  units := rfl
  launches := rfl
  ctx _ _ := Arch.ctx_mapCore_of_ctxs hx
  owner i := by
    by_cases hi : i = c
    · subst hi; rw [Arch.core_mapCore, ho]; rfl
    · rw [Arch.core_mapCore_other _ _ hi]; rfl
  core i hi := Arch.core_mapCore_other _ _ (by simpa using hi)

/-- The address of a word of a scratchpad turns on the module's number only (R25). -/
theorem Arch.Loads.spadPa (h : a.Loads cs b) : b.spadPa = a.spadPa := by
  funext c o
  rw [Arch.spadPa, Arch.spadPa, h.modnum]

/-- With no access under way a bank has no waiter to serve (R164). -/
theorem Arch.bankTurn_of_no_reqs (h : a.reqs = []) (pa len : Nat) : a.bankTurn pa len = a := by
  have hs : ∀ c n, a.serveWords c pa len n = a := fun c n => by
    cases n with
    | zero => rfl
    | succ n =>
      unfold Arch.serveWords
      split
      · next e =>
        obtain ⟨_, -, e⟩ := List.exists_of_findSome?_eq_some e
        rw [h] at e
        cases e
      · rfl
  unfold Arch.bankTurn
  split
  · exact hs _ _
  · rfl

/-- Memory with the presets of core `c` written (R37); `pa` gives the address of a word of a core's scratchpad. -/
def presetMem (pa : Nat → Nat → Nat) (ps : List (Nat × Word × Bool)) (w : Memory) (c : Nat) : Memory :=
  ps.foldl (fun w p => Memory.write w (pa c p.1) 8 p.2.1.toNat) w

theorem Arch.preset_loads {ps : List (Nat × Word × Bool)} (h : a.reqs = []) :
    a.Loads [c] (a.preset c ps) ∧ ((a.preset c ps).core c).imem = (a.core c).imem ∧
      (a.preset c ps).mem = presetMem a.spadPa ps a.mem c := by
  induction ps generalizing a with
  | nil => exact ⟨.refl _ _, rfl, rfl⟩
  | cons p ps ih =>
    let b := ({ a with mem := Memory.write a.mem (a.spadPa c p.1) 8 p.2.1.toNat } : Arch).setFull c p.1 p.2.2
    have hb : a.Loads [c] b := .mapCore _ (fun _ => rfl) (fun _ => rfl)
    have hp : a.preset c (p :: ps) = b.preset c ps := by
      unfold Arch.preset
      rw [List.foldl_cons, Arch.bankTurn_of_no_reqs h]
    have hi : (b.core c).imem = (a.core c).imem := by
      simp only [b, Arch.setFull, Arch.core_mapCore]
      rfl
    obtain ⟨hl, him, hm⟩ := ih (a := b) h
    rw [hp]
    exact ⟨hb.trans hl, him.trans hi, by rw [hm, hb.spadPa]; rfl⟩

theorem Arch.loadMember_loads {v : Launch} (h : a.reqs = []) :
    a.Loads [c] (a.loadMember v c) ∧
      ((a.loadMember v c).core c).imem = Memory.writeBytes (a.core c).imem (ldIbase v.desc.toNat) v.image ∧
      (a.loadMember v c).mem = presetMem a.spadPa v.presets a.mem c := by
  obtain ⟨hl, hi, hm⟩ := Arch.preset_loads (c := c) (ps := v.presets) h
  refine ⟨hl.trans (.mapCore _ (fun _ => rfl) (fun _ => rfl)), ?_, hm⟩
  rw [← hi]
  exact congrArg Core.imem (Arch.core_mapCore ..)

/-- Every member of every unit has its image and its presets. -/
theorem Arch.loadMembers_loads {v : Launch} {ts : List (Nat × Nat)} (h : a.reqs = []) (hn : (ts.map Prod.fst).Nodup) :
    let b := ts.foldl (fun a e => a.loadMember v e.1) a
    a.Loads (ts.map Prod.fst) b ∧
      (∀ c ∈ ts.map Prod.fst, (b.core c).imem = Memory.writeBytes (a.core c).imem (ldIbase v.desc.toNat) v.image) ∧
      b.mem = ts.foldl (fun w e => presetMem a.spadPa v.presets w e.1) a.mem := by
  induction ts generalizing a with
  | nil => exact ⟨.refl _ _, by simp, rfl⟩
  | cons e ts ih =>
    rw [List.map_cons, List.nodup_cons] at hn
    obtain ⟨he, hn⟩ := hn
    obtain ⟨hl, hi, hm⟩ := Arch.loadMember_loads (c := e.1) (v := v) h
    obtain ⟨hl', hi', hm'⟩ := ih (a := a.loadMember v e.1) (hl.reqs.trans h) hn
    refine ⟨(hl.mono (by simp)).trans (hl'.mono (by simp)), fun c hc => ?_, ?_⟩
    · rcases List.mem_cons.mp hc with rfl | hc
      · exact (congrArg Core.imem (hl'.core _ he)).trans hi
      · refine (hi' c hc).trans ?_
        rw [hl.core c fun h => he (List.mem_singleton.mp h ▸ hc)]
    · rw [List.foldl_cons, hm', hl.spadPa, hm]
      rfl

-- ## Groups of BANKS (R38, R174)

/-- From `a` to `b` what runs on the cores `cs` changes: memory and instruction memories, levels and launches stay, and so do the units
there are. -/
structure Arch.Starts (cs : List Nat) (a b : Arch) : Prop where
  clock : b.clock = a.clock
  mem : b.mem = a.mem
  levels : b.levels = a.levels
  launches : b.launches = a.launches
  nextId : a.nextId ≤ b.nextId
  unit : ∀ u, u < a.nextId → b.unit u = a.unit u
  imem : ∀ c, (b.core c).imem = (a.core c).imem
  core : ∀ c, c ∉ cs → b.core c = a.core c

theorem Arch.Starts.refl (cs : List Nat) (a : Arch) : a.Starts cs a :=
  ⟨rfl, rfl, rfl, rfl, Nat.le_refl _, fun _ _ => rfl, fun _ => rfl, fun _ _ => rfl⟩

theorem Arch.Starts.trans (h : a.Starts cs b) (h' : b.Starts cs d) : a.Starts cs d where
  clock := h'.clock.trans h.clock
  mem := h'.mem.trans h.mem
  levels := h'.levels.trans h.levels
  launches := h'.launches.trans h.launches
  nextId := h.nextId.trans h'.nextId
  unit u hu := (h'.unit u (Nat.lt_of_lt_of_le hu h.nextId)).trans (h.unit u hu)
  imem c := (h'.imem c).trans (h.imem c)
  core c hc := (h'.core c hc).trans (h.core c hc)

theorem Arch.Starts.mono (h : a.Starts cs b) (hs : cs ⊆ ds) : a.Starts ds b :=
  { h with core := fun c hc => h.core c fun h' => hc (hs h') }

/-- A change of one core that is not one of its instruction memory. -/
theorem Arch.Starts.mapCore {f : Core → Core} (hf : ∀ k, (f k).imem = k.imem) : a.Starts [c] (a.mapCore c f) where
  clock := rfl
  mem := rfl
  levels := rfl
  launches := rfl
  nextId := Nat.le_refl _
  unit _ _ := rfl
  imem i := by
    by_cases hi : i = c
    · subst hi; rw [Arch.core_mapCore, hf]
    · rw [Arch.core_mapCore_other _ _ hi]
  core i hi := Arch.core_mapCore_other _ _ (by simpa using hi)

theorem Arch.Starts.setCtx (a : Arch) (c x : Nat) (t : Context) : a.Starts [c] (a.setCtx c x t) :=
  .mapCore (f := fun k => k.setCtx x t) fun _ => rfl

/-- A group leaves stash mode: write-backs start, each under a new number, accesses go to their homes, and the core keeps neither the
window nor the entries. -/
theorem Arch.dropWindow_eq (a : Arch) (c x g : Nat) : ∃ (ws : List WriteBack) (n : Nat) (rs : List Req), a.nextId ≤ n ∧
    a.dropWindow c x g = ({ a with writeBacks := ws, nextId := n, reqs := rs } : Arch).mapCore c (fun k => { k with
      window := SMap.set none k.window g none
      stash := k.stash.filter (fun e => e.1 / 256 != g)
      stashLine := k.stashLine.filter (fun e => e.1 / 256 != g) }) := by
  have hs : ∀ keys : List Nat, ∃ (ws : List WriteBack) (n : Nat), a.nextId ≤ n ∧
      keys.foldl (fun a i => { (a.sendBack c x a.nextId i) with nextId := a.nextId + 1 }) a =
        { a with writeBacks := ws, nextId := n } := fun keys =>
    List.foldlRecOn (motive := fun b : Arch => ∃ (ws : List WriteBack) (n : Nat), a.nextId ≤ n ∧
      b = { a with writeBacks := ws, nextId := n }) keys _ ⟨_, _, Nat.le_refl _, rfl⟩ fun b hb i _ => by
      obtain ⟨ws, n, hn, rfl⟩ := hb
      exact ⟨_, _, Nat.le_succ_of_le hn, rfl⟩
  unfold Arch.dropWindow
  extract_lets keys b inGroup stashed rs
  obtain ⟨ws, n, hn, hb⟩ := hs keys
  refine ⟨ws, n, rs, hn, ?_⟩
  rw [show b = { a with writeBacks := ws, nextId := n } from hb]

theorem Arch.dropWindow_starts (a : Arch) (c x g : Nat) :
    a.Starts [c] (a.dropWindow c x g) ∧ ((a.dropWindow c x g).core c).owner = (a.core c).owner := by
  obtain ⟨ws, n, rs, hn, e⟩ := a.dropWindow_eq c x g
  have hb : a.Starts [c] { a with writeBacks := ws, nextId := n, reqs := rs } :=
    ⟨rfl, rfl, rfl, rfl, hn, fun _ _ => rfl, fun _ => rfl, fun _ _ => rfl⟩
  rw [e]
  refine ⟨hb.trans (.mapCore fun _ => rfl), ?_⟩
  rw [Arch.core_mapCore]
  rfl

/-- Before the groups of a launch are granted no owner of one changes. -/
theorem Arch.clearGrant_starts (a : Arch) (c x n : Nat) :
    a.Starts [c] (a.clearGrant c x n) ∧ ((a.clearGrant c x n).core c).owner = (a.core c).owner :=
  List.foldlRecOn (motive := fun b : Arch => a.Starts [c] b ∧ (b.core c).owner = (a.core c).owner) _ _ ⟨.refl _ _, rfl⟩
    fun b ⟨hb, ho⟩ g _ => by
      unfold Arch.clearGroup
      split
      · obtain ⟨hs, hso⟩ := b.dropWindow_starts c (((SMap.get none (b.core c).prev g).map Prod.fst).getD x) g
        exact ⟨hb.trans hs, hso.trans ho⟩
      · exact ⟨hb, ho⟩

/-- One group of BANKS, granted where it is free. -/
def Core.grantGroup (x n : Nat) (k : Core) (g : Nat) : Core :=
  if SMap.get Owner.free k.owner g = .free then
    { k with owner := SMap.set Owner.free k.owner g (ownerOf x)
             window := if (ldStash n).testBit g then SMap.set none k.window g (some (ldWindow n g)) else k.window }
  else k

theorem Core.grant_eq_foldl (k : Core) (x n : Nat) : k.grant x n = (groupsIn (ldBanks n)).foldl (Core.grantGroup x n) k := rfl

theorem Core.imem_grant (k : Core) (x n : Nat) : (k.grant x n).imem = k.imem := by
  rw [Core.grant_eq_foldl]
  refine List.foldlRecOn (motive := fun j : Core => j.imem = k.imem) _ _ rfl fun j hj g _ => ?_
  unfold Core.grantGroup
  split <;> exact hj

theorem Core.owner_grantGroup (x n : Nat) (k : Core) (g i : Nat) : SMap.get Owner.free (k.grantGroup x n g).owner i =
    if i = g ∧ SMap.get Owner.free k.owner g = .free then ownerOf x else SMap.get Owner.free k.owner i := by
  unfold Core.grantGroup
  by_cases hg : SMap.get Owner.free k.owner g = .free
  · simp only [hg, if_true, and_true]
    exact SMap.get_set ..
  · simp [hg]

/-- Every group of BANKS that is free is granted (R38). -/
theorem Core.owner_grant {k : Core} {x n g : Nat} (hg : g < 12) (hb : (ldBanks n).testBit g = true)
    (hf : SMap.get Owner.free k.owner g = .free) : SMap.get Owner.free (k.grant x n).owner g = ownerOf x := by
  have keep : ∀ (gs : List Nat) (k : Core), SMap.get Owner.free k.owner g = ownerOf x →
      SMap.get Owner.free (gs.foldl (Core.grantGroup x n) k).owner g = ownerOf x := fun gs k hk =>
    List.foldlRecOn (motive := fun k : Core => SMap.get Owner.free k.owner g = ownerOf x) gs _ hk fun k hk i _ => by
      rw [Core.owner_grantGroup, hk, ite_self]
  have all : ∀ (gs : List Nat) (k : Core), g ∈ gs → SMap.get Owner.free k.owner g = .free →
      SMap.get Owner.free (gs.foldl (Core.grantGroup x n) k).owner g = ownerOf x := by
    intro gs
    induction gs with
    | nil => exact fun _ h => nomatch h
    | cons i gs ih =>
      intro k hm hk
      rw [List.foldl_cons]
      by_cases h : g = i
      · exact keep gs _ (by rw [Core.owner_grantGroup, if_pos ⟨h, h ▸ hk⟩])
      · exact ih _ ((List.mem_cons.mp hm).resolve_left h) (by rw [Core.owner_grantGroup, if_neg fun h' => h h'.1, hk])
  rw [Core.grant_eq_foldl]
  exact all _ k (List.mem_filter.mpr ⟨List.mem_range.mpr hg, hb⟩) hf

-- ## Members and units start (R36, R38, R67)

/-- From `a` to `b` member `j` of unit `u` has been started on context `x` of core `c`, and the free groups of BANKS granted to it. -/
def Arch.MemberRuns (a b : Arch) (v : Launch) (l u x j c : Nat) : Prop :=
  b.ctx c x = startContext v l u j ∧
    ∀ g, g < 12 → (ldBanks v.desc.toNat).testBit g = true → SMap.get Owner.free (a.core c).owner g = .free →
      SMap.get Owner.free (b.core c).owner g = ownerOf x

theorem Arch.MemberRuns.congr {a' b' : Arch} {v : Launch} {l u j : Nat} (h : a.MemberRuns b v l u x j c) (ha : a'.core c = a.core c)
    (hb : b'.core c = b.core c) : a'.MemberRuns b' v l u x j c := by
  unfold Arch.MemberRuns Arch.ctx
  rw [ha, hb]
  exact h

theorem Arch.startMember_starts (a : Arch) (v : Launch) (l u x : Nat) (m : Nat × Nat) :
    a.Starts [m.1] (a.startMember v l u x m) ∧ a.MemberRuns (a.startMember v l u x m) v l u x m.2 m.1 := by
  obtain ⟨hs, ho⟩ := a.clearGrant_starts m.1 x v.desc.toNat
  unfold Arch.startMember
  generalize a.clearGrant m.1 x v.desc.toNat = b at hs ho ⊢
  have hg : b.Starts [m.1] (b.mapCore m.1 fun k => { (k.grant x v.desc.toNat) with tmplCache := [] }) :=
    .mapCore fun k => k.imem_grant x v.desc.toNat
  refine ⟨(hs.trans hg).trans (.setCtx _ _ _ _), Arch.ctx_setCtx _ _ _ _, fun g hg hb hf => ?_⟩
  have hk : ∀ (k : Core) (t : Context), (k.setCtx x t).owner = k.owner := fun _ _ => rfl
  rw [Arch.setCtx, Arch.core_setCore, hk, Arch.core_mapCore]
  exact Core.owner_grant hg hb (by rw [ho]; exact hf)

theorem Arch.startMembers_starts (a : Arch) (v : Launch) (l u x : Nat) {ms : List (Nat × Nat)} (hn : (ms.map Prod.fst).Nodup) :
    let b := ms.foldl (fun a m => a.startMember v l u x m) a
    a.Starts (ms.map Prod.fst) b ∧ ∀ m ∈ ms, a.MemberRuns b v l u x m.2 m.1 := by
  induction ms generalizing a with
  | nil => exact ⟨.refl _ _, fun _ hm => nomatch hm⟩
  | cons m ms ih =>
    rw [List.map_cons, List.nodup_cons] at hn
    obtain ⟨hm, hn⟩ := hn
    obtain ⟨hs, hr⟩ := a.startMember_starts v l u x m
    obtain ⟨hs', hr'⟩ := ih (a.startMember v l u x m) hn
    refine ⟨(hs.mono (by simp)).trans (hs'.mono (by simp)), fun k hk => ?_⟩
    rcases List.mem_cons.mp hk with rfl | hk
    · exact hr.congr rfl (hs'.core _ hm)
    · have hkm : k.1 ≠ m.1 := fun h => hm (h ▸ List.mem_map_of_mem hk)
      exact (hr' k hk).congr (hs.core _ (by simpa using hkm)).symm rfl

/-- From `a` to `b` one unit of a launch has been started: it has a new number, and every member runs. -/
def Arch.UnitRuns (a b : Arch) (v : Launch) (l : Nat) (e : List Nat × Nat) : Prop :=
  ∃ u, a.nextId ≤ u ∧ u < b.nextId ∧ b.unit u = some ⟨l, e.1, e.2, none, 0, a.launchDepth v, false, [], false, []⟩ ∧
    ∀ j c, e.1[j]? = some c → a.MemberRuns b v l u e.2 j c

theorem Arch.Starts.launchDepth (h : a.Starts cs b) (v : Launch) : b.launchDepth v = a.launchDepth v := by
  have hl : b.level = a.level := funext fun l => congrArg (SMap.get none · l) h.levels
  rw [Arch.launchDepth, Arch.launchDepth, hl]

/-- What starts later, on other cores, leaves a unit running. -/
theorem Arch.UnitRuns.later {v : Launch} {l : Nat} {e : List Nat × Nat} (h : a.UnitRuns b v l e) (hs : b.Starts cs d)
    (hd : ∀ c ∈ e.1, c ∉ cs) : a.UnitRuns d v l e := by
  obtain ⟨u, hu, hub, hunit, hm⟩ := h
  exact ⟨u, hu, Nat.lt_of_lt_of_le hub hs.nextId, (hs.unit u hub).trans hunit, fun j c hj =>
    (hm j c hj).congr rfl (hs.core c (hd c (List.mem_of_getElem? hj)))⟩

/-- What starts before, on other cores, makes no difference to a unit. -/
theorem Arch.UnitRuns.earlier {v : Launch} {l : Nat} {e : List Nat × Nat} (h : b.UnitRuns d v l e) (hs : a.Starts cs b)
    (hd : ∀ c ∈ e.1, c ∉ cs) : a.UnitRuns d v l e := by
  obtain ⟨u, hu, hud, hunit, hm⟩ := h
  exact ⟨u, hs.nextId.trans hu, hud, by rw [hunit, hs.launchDepth], fun j c hj =>
    (hm j c hj).congr (hs.core c (hd c (List.mem_of_getElem? hj))).symm rfl⟩

theorem Arch.unit_setUnit_other (a : Arch) {u w : Nat} (e : ExecUnit) (h : w ≠ u) : (a.setUnit u e).unit w = a.unit w :=
  SMap.get_set_other none a.units (some e) h

theorem Arch.startUnit_starts (a : Arch) (v : Launch) (l : Nat) {e : List Nat × Nat} (hn : e.1.Nodup) :
    a.Starts e.1 (a.startUnit v l (a.launchDepth v) e) ∧ a.UnitRuns (a.startUnit v l (a.launchDepth v) e) v l e := by
  let b := ({ a with nextId := a.nextId + 1 } : Arch).setUnit a.nextId ⟨l, e.1, e.2, none, 0, a.launchDepth v, false, [], false, []⟩
  have hb : a.Starts e.1 b := ⟨rfl, rfl, rfl, rfl, Nat.le_succ _, fun u hu => Arch.unit_setUnit_other _ _ (Nat.ne_of_lt hu),
    fun _ => rfl, fun _ _ => rfl⟩
  have hf : e.1.zipIdx.map Prod.fst = e.1 := List.zipIdx_map_fst 0 e.1
  obtain ⟨hs, hr⟩ := b.startMembers_starts v l a.nextId e.2 (hf.symm ▸ hn)
  rw [hf] at hs
  have hlt : a.nextId < b.nextId := Nat.lt_succ_self _
  exact ⟨hb.trans hs, a.nextId, Nat.le_refl _, Nat.lt_of_lt_of_le hlt hs.nextId,
    (hs.unit _ hlt).trans (Arch.unit_setUnit _ _ _),
    fun j c hj => (hr (c, j) (List.mk_mem_zipIdx_iff_getElem?.mpr hj)).congr rfl rfl⟩

theorem takes_cons (e : List Nat × Nat) (us : List (List Nat × Nat)) :
    (takes (e :: us)).map Prod.fst = e.1 ++ (takes us).map Prod.fst := by
  simp [takes, Function.comp_def]

theorem subset_takes {e : List Nat × Nat} {us : List (List Nat × Nat)} (he : e ∈ us) : e.1 ⊆ (takes us).map Prod.fst := fun c hc =>
  List.mem_map.mpr ⟨(c, e.2), List.mem_flatMap.mpr ⟨e, he, List.mem_map_of_mem hc⟩, rfl⟩

/-- Every unit of a launch starts at once (R36). -/
theorem Arch.startUnits_starts (a : Arch) (v : Launch) (l : Nat) {us : List (List Nat × Nat)} (hn : ((Machine.takes us).map Prod.fst).Nodup) :
    let b := us.foldl (fun a e => a.startUnit v l (a.launchDepth v) e) a
    a.Starts ((Machine.takes us).map Prod.fst) b ∧ ∀ e ∈ us, a.UnitRuns b v l e := by
  induction us generalizing a with
  | nil => exact ⟨.refl _ _, fun _ he => nomatch he⟩
  | cons e us ih =>
    rw [takes_cons] at hn ⊢
    obtain ⟨he, hn, hd⟩ := List.nodup_append'.mp hn
    obtain ⟨hs, hr⟩ := a.startUnit_starts v l he
    obtain ⟨hs', hr'⟩ := ih (a.startUnit v l (a.launchDepth v) e) hn
    refine ⟨(hs.mono (List.subset_append_left ..)).trans (hs'.mono (List.subset_append_right ..)), fun f hf => ?_⟩
    rcases List.mem_cons.mp hf with rfl | hf
    · exact hr.later hs' fun c hc hc' => hd hc hc'
    · exact (hr' f hf).earlier hs fun c hc hc' => hd hc' (subset_takes hf hc)

/-- Ports that wake let interrupts through, and nothing else (R22, R213). -/
theorem Arch.wakePorts_starts (a : Arch) : a.Starts [] a.wakePorts := by
  unfold Arch.wakePorts
  split
  · refine List.foldlRecOn (motive := fun b : Arch => a.Starts [] b) _ _
      ⟨rfl, rfl, rfl, rfl, Nat.le_refl _, fun _ _ => rfl, fun _ => rfl, fun _ _ => rfl⟩ fun b hb e _ => hb.trans ?_
    unfold Arch.interrupt
    dsimp only
    split <;> exact ⟨rfl, rfl, rfl, rfl, Nat.le_refl _, fun _ _ => rfl, fun _ => rfl, fun _ _ => rfl⟩
  · exact .refl _ _

-- ## The steps of a release (R35, R36; log entry 69)

section
variable {l : Nat} {v : Launch} {us : List (List Nat × Nat)}

theorem Arch.release_message (hl : a.launch l = some v) (hr : v.released = false) (hm : a.mayRelease v = true) (hs : v.sent = none)
    (hp : a.placeUnits v = some us) (ho : a.outranked l v (Machine.takes us) = false) (hk : a.promised l v (Machine.takes us) = false)
    (hd : a.deaf ((Machine.takes us).map Prod.fst) = false) :
    a.release l = (Machine.takes us).foldl (fun a e => a.loadMember v e.1) (a.setLaunch l { v with sent := some (a.clock, us) }) := by
  simp [Arch.release, Arch.sendRelease, hl, hr, hm, hs, hp, ho, hk, hd]

theorem Arch.release_time {sent : Nat} (hl : a.launch l = some v) (hr : v.released = false) (hs : v.sent = some (sent, us))
    (hd : v.due = none) : a.release l = a.setLaunch l { v with due := some (roundUp (max (sent + 96) (a.clock + 1)) 6) } := by
  simp [Arch.release, hl, hr, hs, hd]

theorem Arch.release_early {sent T : Nat} (hl : a.launch l = some v) (hr : v.released = false) (hs : v.sent = some (sent, us))
    (hd : v.due = some T) (ht : a.clock < T) : a.release l = a := by
  simp [Arch.release, hl, hr, hs, hd, Nat.not_le.mpr ht]

theorem Arch.release_due {sent T : Nat} (hl : a.launch l = some v) (hr : v.released = false) (hs : v.sent = some (sent, us))
    (hd : v.due = some T) (ht : T ≤ a.clock) : a.release l = a.startUnits l v us := by
  simp [Arch.release, hl, hr, hs, hd, ht]

/-- At T every unit starts, ports wake for a deterministic one, and the levels above run. -/
theorem Arch.startUnits_of_free (hm : a.mayRelease v = true) (hf : ∀ e ∈ us, a.coresFree v e.1 e.2 = true) :
    a.startUnits l v us = ((us.foldl (fun a e => a.startUnit v l (a.launchDepth v) e)
      (a.setLaunch l { v with released := true })).wakePorts).runsLevel v := by
  unfold Arch.startUnits Arch.runsLevel
  refine (if_pos (by simpa [hm] using hf)).trans ?_
  cases v.level <;> rfl

theorem Arch.startUnits_of_taken (hf : ∃ e ∈ us, a.coresFree v e.1 e.2 = false) :
    a.startUnits l v us = a.setLaunch l { v with sent := none, due := none } := by
  obtain ⟨e, he, hc⟩ := hf
  refine if_neg fun h => ?_
  simp only [Bool.and_eq_true, List.all_eq_true] at h
  rw [h.2 e he] at hc
  cases hc

end

/-- A multiple of 6 is 4 fabric cycles, each of 3/2 of the clock's thirds of a nanosecond. -/
theorem roundUp_six (n : Nat) : roundUp n 6 % 6 = 0 ∧ n ≤ roundUp n 6 ∧ roundUp n 6 < n + 6 := by
  unfold roundUp
  omega

/-- A context starts with every general register 0 (R36, R67). -/
theorem startContext_readG (v : Launch) (l u j r : Nat) : (startContext v l u j).readG r = 0 := ite_self 0

/-- Bit 22 of a descriptor asks for deterministic mode (R279). -/
theorem startContext_detm (v : Launch) (l u j : Nat) : (startContext v l u j).detm = v.desc.toNat.testBit 22 := by
  rw [Nat.testBit_eq_decide_div_mod_eq]
  rfl

/-- A child that is a launch is reported by its own level (R46). -/
theorem Arch.starve_of_child {l k : Nat} {v : Launch} {w : Level} (hl : a.launch l = some v) (hr : v.released = false)
    (hv : v.level = some k) (hk : a.level k = some w) (hu : w.unit.isSome = true) (hw : w.state = .waiting)
    (hb : a.starvedBefore k = false) (ht : v.waitingSince + 300000000 ≤ a.clock) :
    a.starve l = (a.setLaunch l { v with starved := true }).jobEvent w.queue 1 w.index a.now := by
  have hc : a.childLevel k nestMax = some (k, w) := by
    show a.childLevel k (79 + 1) = _
    unfold Arch.childLevel
    rw [hk]
    exact if_pos hu
  simp [Arch.starve, hl, hv, hc, hr, hw, hb, starveTime, ht, evStarve]

theorem frontActs_launchRelease (l : Nat) (s : State) : FrontActs (.launchRelease l) s (s.arch.release l) := rfl

theorem frontActs_launchStarvation (l : Nat) (s : State) : FrontActs (.launchStarvation l) s (s.arch.starve l) := rfl

theorem launchesRelease : LaunchesRelease := by
  intro l sent T us v s hl hr hm hn
  have hacts := frontActs_launchRelease l s
  refine ⟨fun hs hp ho hk hd hq => ⟨hacts, ?message⟩, fun hs hd => ⟨hacts, ?time⟩, fun hs hd ht hf => ⟨hacts, ?start⟩,
    fun hs hd ht hf => ?taken, fun hs hd ht => ?early, fun k w hv hk hu hw hb ht => ?starve⟩
  case message =>
    rw [Arch.release_message hl hr hm hs hp ho hk hd]
    obtain ⟨hload, himem, hmem⟩ := Arch.loadMembers_loads (a := s.arch.setLaunch l { v with sent := some (s.arch.clock, us) })
      (v := v) hq hn
    exact ⟨(congrArg (SMap.get none · l) hload.launches).trans (Arch.launch_setLaunch ..), hload.clock, hload.units, hload.ctx,
      hload.core, hload.owner, himem, hmem⟩
  case time =>
    obtain ⟨h6, hle, hlt⟩ := roundUp_six (max (sent + 96) (s.arch.clock + 1))
    exact ⟨_, Arch.release_time hl hr hs hd, h6, by omega, by omega, hlt⟩
  case start =>
    rw [Arch.release_due hl hr hs hd ht]
    refine ⟨_, Arch.startUnits_of_free hm hf, ?_⟩
    obtain ⟨hstart, hunits⟩ := (s.arch.setLaunch l { v with released := true }).startUnits_starts v l hn
    generalize us.foldl (fun a e => a.startUnit v l (a.launchDepth v) e) (s.arch.setLaunch l { v with released := true }) = b
      at hstart hunits ⊢
    have hwake := b.wakePorts_starts
    have hall := hstart.trans (hwake.mono (List.nil_subset _))
    refine ⟨hall.clock, hall.mem, (congrArg (SMap.get none · l) hall.launches).trans (Arch.launch_setLaunch ..), hall.core,
      hall.imem, fun i e hi => ?_⟩
    obtain ⟨u, hu, -, hunit, hmem⟩ := (hunits e (List.mem_of_getElem? hi)).later hwake fun _ _ => List.not_mem_nil
    refine ⟨u, hu, hunit, fun j c hj => ?_⟩
    obtain ⟨hctx, hbanks⟩ := hmem j c hj
    rw [hctx]
    exact ⟨rfl, rfl, rfl, rfl, rfl, startContext_readG v l u j, rfl, rfl, rfl, rfl, rfl, startContext_detm v l u j, hbanks⟩
  case taken => rwa [Arch.release_due hl hr hs hd ht, Arch.startUnits_of_taken hf] at hacts
  case early => rwa [Arch.release_early hl hr hs hd ht] at hacts
  case starve =>
    have hstarve := frontActs_launchStarvation l s
    rwa [Arch.starve_of_child hl hr hv hk hu hw hb ht] at hstarve

end Sys2Proof.Machine

open Sys2Proof Sys2Proof.Machine in
/-- Settles O35: a release changes only the cores of its units, each of them once, so what each member starts with stands when all have
started; and writes of records, events and signals change no level, launch or cancel, so levels change by their own steps only. -/
theorem unitsAndLevelsRun : Obligations.UnitsAndLevelsRun := ⟨launchesRelease, unitsAndLevelsEnd⟩
end

-- Tiles and requests to the front end (02 R42 to R44, R48; 12 R262; 13 R291; 17 R367)
section
/-! PROOFS. What a Brick claims of a persistent launch and what record comes next, said once for NXTILE and for TILE_BATCH_CLAIM; then
NXTILE, OPGO and QPUB. -/

namespace Sys2Proof.Machine

-- ## Coordinates (R42)

/-- A persistent launch's dimensions are three fields of its descriptor (R42, R279). -/
theorem tileDims_eq (desc : BitVec 2048) : tileDims desc = (desc.toNat / 2 ^ 448 % 2 ^ 20 + 1, desc.toNat / 2 ^ 468 % 2 ^ 20 + 1,
    desc.toNat / 2 ^ 488 % 2 ^ 20 + 1) := by
  have hfield : ∀ n ≤ 40, desc.toNat / 2 ^ 448 % 2 ^ 64 / 2 ^ n % 2 ^ 20 = desc.toNat / 2 ^ (448 + n) % 2 ^ 20 := fun n hn => by
    rw [show 64 = n + (64 - n) by omega, pow_add, Nat.mod_mul_right_div_self, Nat.div_div_eq_div_mul, ← pow_add,
      Nat.mod_mod_of_dvd _ (Nat.pow_dvd_pow 2 (by omega))]
  simp only [tileDims, bits, Nat.reduceAdd, Nat.reduceSub]
  rw [hfield 0 (by decide), hfield 20 (by decide), hfield 40 (by decide)]

/-- The record of an index holds its coordinates, x first (R42, R367). -/
theorem tileRecord_eq (desc : BitVec 2048) (i : Nat) :
    let X := desc.toNat / 2 ^ 448 % 2 ^ 20 + 1
    let Y := desc.toNat / 2 ^ 468 % 2 ^ 20 + 1
    tileRecord desc i = BitVec.ofNat 64 (i % X + 2 ^ 20 * (i / X % Y) + 2 ^ 40 * (i / (X * Y))) := by
  simp only [tileRecord, tileDims_eq]

theorem tileCount_eq (desc : BitVec 2048) : tileCount desc = (desc.toNat / 2 ^ 448 % 2 ^ 20 + 1) * (desc.toNat / 2 ^ 468 % 2 ^ 20 + 1) *
    (desc.toNat / 2 ^ 488 % 2 ^ 20 + 1) := by
  simp only [tileCount, tileDims_eq]

/-- The record of an index below the count fits its word: no coordinate is cut. -/
theorem toNat_tileRecord {desc : BitVec 2048} {i : Nat} (h : i < tileCount desc) :
    let X := desc.toNat / 2 ^ 448 % 2 ^ 20 + 1
    let Y := desc.toNat / 2 ^ 468 % 2 ^ 20 + 1
    (tileRecord desc i).toNat = i % X + 2 ^ 20 * (i / X % Y) + 2 ^ 40 * (i / (X * Y)) := by
  intro X Y
  rw [tileRecord_eq, BitVec.toNat_ofNat]
  refine Nat.mod_eq_of_lt ?_
  have hX : i % X < X := Nat.mod_lt _ (Nat.succ_pos _)
  have hY : i / X % Y < Y := Nat.mod_lt _ (Nat.succ_pos _)
  have hZ : i / (X * Y) < desc.toNat / 2 ^ 488 % 2 ^ 20 + 1 := Nat.div_lt_of_lt_mul (tileCount_eq desc ▸ h)
  have hlt : ∀ n : Nat, n % 2 ^ 20 < 2 ^ 20 := fun n => Nat.mod_lt _ (by decide)
  have hX' : X ≤ 2 ^ 20 := hlt _
  have hY' : Y ≤ 2 ^ 20 := hlt _
  have hZ' : desc.toNat / 2 ^ 488 % 2 ^ 20 < 2 ^ 20 := hlt _
  generalize i % X = x at *
  generalize i / X % Y = y at *
  generalize i / (X * Y) = z at *
  omega

-- ## Batches (R43, R48)

/-- The indices from `i` on: the first, and the rest. -/
theorem map_upTo_of_pos {n : Nat} (i : Nat) (h : 0 < n) :
    (upTo n).map (fun j => i + j) = i :: (upTo (n - 1)).map (fun j => i + 1 + j) := by
  obtain ⟨m, rfl⟩ : ∃ m, n = m + 1 := ⟨n - 1, by omega⟩
  simp [upTo, List.range_succ_eq_map, Nat.add_assoc, Nat.add_comm 1]

section
variable {a : Arch} {b l : Nat} {v : Launch}

/-- How many indices the next claim of a launch takes (R43). -/
def Launch.batch (v : Launch) : Nat := min 32 (tileCount v.desc - v.tiles)

/-- The module once Brick `b` has claimed a batch of launch `l`: the counter has moved on and the indices stand behind those the Brick
had. -/
def Arch.claimed (a : Arch) (b l : Nat) (v : Launch) : Arch :=
  (a.setLaunch l { v with tiles := v.tiles + v.batch }).mapBrick b (fun k =>
    { k with batches := SMap.set [] k.batches l (SMap.get [] (a.brick b).batches l ++ (upTo v.batch).map (fun i => v.tiles + i)) })

@[simp] theorem Arch.launch_claimed : (a.claimed b l v).launch l = some { v with tiles := v.tiles + v.batch } :=
  a.launch_setLaunch l _

@[simp] theorem Arch.batches_claimed : SMap.get [] ((a.claimed b l v).brick b).batches l =
    SMap.get [] (a.brick b).batches l ++ (upTo v.batch).map (fun i => v.tiles + i) := by
  simp [Arch.claimed]

@[simp] theorem Arch.tileq_claimed : ((a.claimed b l v).brick b).tileq = (a.brick b).tileq := by
  simp only [Arch.claimed, Arch.brick_mapBrick]
  rfl

/-- A claim that nothing stands against. -/
theorem Arch.claim_goes (hl : a.launch l = some v) (hd : v.drained = false) (hn : 0 < v.batch)
    (hb : (SMap.get [] (a.brick b).batches l).length ≤ 8) (hr : a.tileReach b v = true) : a.claim b l = a.claimed b l v := by
  have hn' : ¬ min 32 (tileCount v.desc - v.tiles) = 0 := Nat.pos_iff_ne_zero.mp hn
  simp only [Arch.claim, hl]
  exact if_neg (by simp [hd, hn', hr, hb])

theorem Arch.claim_exhausted (hl : a.launch l = some v) (hn : v.batch = 0) : a.claim b l = a := by
  have hn' : min 32 (tileCount v.desc - v.tiles) = 0 := hn
  simp [Arch.claim, hl, hn']

theorem Arch.claim_unreached (hl : a.launch l = some v) (hr : a.tileReach b v = false) : a.claim b l = a := by
  simp [Arch.claim, hl, hr]

/-- The owner is reached where no port sleeps on the way there or back (R22). -/
theorem Arch.tileReach_of_awake (h : a.routeSleeps b (v.base / 32) = false) (h' : a.routeSleeps (v.base / 32) b = false) :
    a.tileReach b v = true := by
  simp [Arch.tileReach, Arch.tripSleeps, h, h']

theorem Arch.tileReach_of_asleep (h : ¬ (a.routeSleeps b (v.base / 32) = false ∧ a.routeSleeps (v.base / 32) b = false))
    (hk : (a.brick (v.base / 32)).lost = false) : a.tileReach b v = false := by
  have ht : a.tripSleeps b (v.base / 32) = true := by
    simp only [Arch.tripSleeps, Bool.or_eq_true]
    cases hgo : a.routeSleeps b (v.base / 32)
    · exact .inr (by simpa [hgo] using h)
    · exact .inl rfl
  simp [Arch.tileReach, ht, hk]

-- ## The next record (R43, R44)

theorem Arch.nextTile_drained (hl : a.launch l = some v) (hd : v.drained = true) : a.nextTile b l = some (nullTile, a) := by
  simp [Arch.nextTile, hl, hd]

/-- The first index of a batch goes out as its record. -/
theorem Arch.nextTile_of_batch {i : Nat} {rest : List Nat} (hl : a.launch l = some v) (hd : v.drained = false)
    (hb : SMap.get [] (a.brick b).batches l = i :: rest) :
    a.nextTile b l = some (tileRecord v.desc i, a.mapBrick b (fun k => { k with batches := SMap.set [] k.batches l rest })) := by
  simp [Arch.nextTile, hl, hd, hb]

/-- Where the batch is empty, the first index of the batch that is claimed then goes out (log entry 28). -/
theorem Arch.nextTile_of_claim (hl : a.launch l = some v) (hd : v.drained = false) (hb : SMap.get [] (a.brick b).batches l = [])
    (hr : a.tileReach b v = true) (hn : 0 < v.batch) :
    a.nextTile b l = some (tileRecord v.desc v.tiles, (a.claimed b l v).mapBrick b (fun k =>
      { k with batches := SMap.set [] k.batches l ((upTo (v.batch - 1)).map (fun j => v.tiles + 1 + j)) })) := by
  have hc : a.claim b l = a.claimed b l v := Arch.claim_goes hl hd hn (by simp [hb]) hr
  simp [Arch.nextTile, hl, hd, hb, hc, map_upTo_of_pos _ hn]

theorem Arch.nextTile_exhausted (hl : a.launch l = some v) (hd : v.drained = false) (hb : SMap.get [] (a.brick b).batches l = [])
    (hr : a.tileReach b v = true) (hn : v.batch = 0) : a.nextTile b l = some (nullTile, a) := by
  simp [Arch.nextTile, hl, hd, hb, Arch.claim_exhausted hl hn, hr]

theorem Arch.nextTile_unreached (hl : a.launch l = some v) (hd : v.drained = false) (hb : SMap.get [] (a.brick b).batches l = [])
    (hr : a.tileReach b v = false) : a.nextTile b l = none := by
  simp [Arch.nextTile, hl, hd, hb, Arch.claim_unreached hl hr, hr]

end

-- ## NXTILE (R43, R44, R367)

section
variable {s : State} {p d l : Nat} {v : Launch}

theorem exec_nxtile_of_runs (h : Runs s p) : exec (.nxtile p d) s = .next (s.nxtile d).slotDone :=
  congrArg _ (finish_whenOn_of_runs h)

/-- A follower of a gang gets the record of the first member to ask, where that is there (R44). -/
theorem State.nxtile_follows {k : Nat} {q : Pend} (hg : s.gangTile = some (k, q)) (hq : q.parts = 0) :
    s.nxtile d = s.landG d (q.val.setWidth 64) 24 := by
  simp [State.nxtile, hg, hq]

theorem State.nxtile_of_no_launch (hg : s.gangTile = none) (ht : s.rd.tile = none) : s.nxtile d = s.landG d nullTile 24 := by
  simp [State.nxtile, hg, ht]

/-- Where no NXTILE of the launch waits on the Brick, the next record lands if there is one now. -/
theorem State.nxtile_of_nextTile {w : Word} {m : Arch} (hg : s.gangTile = none) (ht : s.rd.tile = some l)
    (hq : ∀ r ∈ (s.arch.brick (s.iss.core / 32)).tileq, r.launch ≠ l) (hn : s.arch.nextTile (s.iss.core / 32) l = some (w, m)) :
    s.nxtile d = (s.setArch m).landG d w 24 := by
  have hq' : (s.arch.brick (s.iss.core / 32)).tileq.any (fun r => r.launch == l) = false := by simpa using hq
  simp [State.nxtile, hg, ht, hq', hn]

/-- Where there is none yet, the request waits on the Brick. -/
theorem State.nxtile_waits (hg : s.gangTile = none) (ht : s.rd.tile = some l) (hn : s.arch.nextTile (s.iss.core / 32) l = none) :
    s.nxtile d = s.tileLater d (s.iss.core / 32) (fun e rs => rs ++ [⟨l, [e]⟩]) := by
  simp [State.nxtile, hg, ht, hn]

end

theorem nextTileHandsOutIndices : NextTileHandsOutIndices := by
  intro p d s h
  rw [exec_nxtile_of_runs h]
  refine ⟨fun k q hg hq => ?follows, fun hg ht => ?no_launch, fun l i rest v hg ht hl hd hq hb => ?batch,
    fun l v hg ht hl hq hb => ⟨fun hnear hd hi => ?claim, fun hnone => ?null, fun hfar hd hk => ?late⟩⟩
  case follows => rw [State.nxtile_follows hg hq]
  case no_launch => rw [State.nxtile_of_no_launch hg ht]; rfl
  case batch => rw [State.nxtile_of_nextTile hg ht hq (Arch.nextTile_of_batch hl hd hb), tileRecord_eq]
  case claim =>
    have hn : 0 < v.batch := Nat.lt_min.mpr ⟨by decide, by rw [tileCount_eq]; exact Nat.sub_pos_of_lt hi⟩
    have hr := Arch.tileReach_of_awake hnear.1 hnear.2
    refine ⟨_, by rw [State.nxtile_of_nextTile hg ht hq (Arch.nextTile_of_claim hl hd hb hr hn), tileRecord_eq], ?_, ?_⟩
    · rw [← tileCount_eq]
      exact Arch.launch_claimed (b := s.iss.core / 32)
    · rw [← tileCount_eq, Arch.brick_mapBrick]
      exact SMap.get_set_same ..
  case null =>
    have hnext : s.arch.nextTile (s.iss.core / 32) l = some (nullTile, s.arch) := by
      cases hd : v.drained
      case true => exact Arch.nextTile_drained hl hd
      case false =>
        obtain ⟨hnear, hle⟩ := hnone.resolve_left (by simp [hd])
        have hn : v.batch = 0 := by rw [Launch.batch, tileCount_eq, Nat.sub_eq_zero_of_le hle]; rfl
        exact Arch.nextTile_exhausted hl hd hb (Arch.tileReach_of_awake hnear.1 hnear.2) hn
    rw [State.nxtile_of_nextTile hg ht hq hnext]
    rfl
  case late =>
    rw [State.nxtile_waits hg ht (Arch.nextTile_unreached hl hd hb (Arch.tileReach_of_asleep hfar hk))]
    rfl

-- ## OPGO and QPUB (R262, R291)

/-- OPGO passes its own checks on an aligned global address of a context other than the shadow context (R104, R262). -/
theorem State.opgo_of_range {s : State} {ga : Nat} {r : Range} (hx : s.iss.ctx ≠ 2) (ha : ga % 128 = 0) (hlt : ga < 2 ^ 56)
    (hr : s.globalRange ga 128 true false false = .ok r) : s.opgo ga = .ok (s.sendOp r.pa ga) := by
  have hdiv : ga / 2 ^ 56 = 0 := Nat.div_eq_of_lt hlt
  rw [State.opgo, if_neg (by simp only [ha, hdiv, hx]; decide), hr]
  rfl

theorem frontEndRequests : FrontEndRequests := by
  intro p a b s h
  refine ⟨?qpub, fun r hx ha hlt hr => ?opgo⟩
  case qpub => exact congrArg _ (finish_whenOn_of_runs h)
  case opgo =>
    change Host.Outcome.next (s.finish (s.whenOn p (s.opgo (s.rd.readG a).toNat))) = _
    rw [State.opgo_of_range hx ha hlt hr, finish_whenOn_of_runs h]
    rfl

end Sys2Proof.Machine

open Sys2Proof Sys2Proof.Machine in
/-- Settles O9: each clause of NXTILE is one case of the record that comes next on its Brick; OPGO and QPUB send what they ask once their
checks pass. -/
theorem tilesAndRequests : Obligations.TilesAndRequests := ⟨nextTileHandsOutIndices, frontEndRequests⟩
end

-- Tile batches, drained events and machine checks (02 R43, R44; 05 R134, R135; 14 R302, R309, R310)
section
/-! PROOFS. A Brick's own claims and the NXTILEs they serve; an event that is drained to its ring; and what a machine check does to the
unit it hits and tells the host. -/

namespace Sys2Proof.Machine

-- ## Tile batches (R43, R44)

section
variable {a : Arch} {b l : Nat} {v : Launch}

theorem Arch.takesPart_iff : a.takesPart b l = true ↔
    ∃ e ∈ a.units, ∃ u, e.2 = some u ∧ u.launch = l ∧ u.fate = none ∧ ∃ c ∈ u.cores, c / 32 = b := by
  simp [Arch.takesPart, Option.any_eq_true, and_assoc]

theorem Arch.ctx_mapBrick (f : Brick → Brick) : (a.mapBrick b f).ctx = a.ctx := rfl

/-- Where no NXTILE waits, there is none to serve. -/
theorem Arch.serveTiles_of_none (h : (a.brick b).tileq = []) : a.serveTiles b = a := by
  simp [Arch.serveTiles, h]

/-- The only NXTILE that waits gets its record. -/
theorem Arch.serveTiles_of_one {r : TileReq} {w : Word} {m : Arch} (h : (a.brick b).tileq = [r])
    (hn : a.nextTile b r.launch = some (w, m)) :
    a.serveTiles b = (m.tileArrives r w).mapBrick b (fun k => { k with tileq := k.tileq.filter (fun e => e != r) }) := by
  simp [Arch.serveTiles, h, hn]

theorem exec_tileBatchClaim (b l : Nat) (s : State) : exec (.tileBatchClaim b l) s = .next (s.setArch (s.arch.claimBatch b l)) := rfl

/-- What a Brick that takes part and has few indices left does at TILE_BATCH_CLAIM. -/
theorem Arch.claimBatch_of_takesPart (hl : a.launch l = some v) (hd : v.drained = false) (hn : 0 < v.batch)
    (hb : (SMap.get [] (a.brick b).batches l).length ≤ 8) (hr : a.tileReach b v = true) (ht : a.takesPart b l = true) :
    a.claimBatch b l = (a.claimed b l v).serveTiles b := by
  rw [Arch.claimBatch, if_pos ht, Arch.claim_goes hl hd hn hb hr]

/-- The record that comes next after a claim of a Brick with no index left, and what is left behind it. -/
theorem Arch.nextTile_claimed (hd : v.drained = false) (hn : 0 < v.batch) (hb : SMap.get [] (a.brick b).batches l = []) :
    ∃ m, (a.claimed b l v).nextTile b l = some (tileRecord v.desc v.tiles, m) ∧ (m.brick b).tileq = (a.brick b).tileq ∧
      SMap.get [] (m.brick b).batches l = (upTo (v.batch - 1)).map (fun j => v.tiles + 1 + j) ∧ m.ctx = a.ctx := by
  have hbatch : SMap.get [] ((a.claimed b l v).brick b).batches l = v.tiles :: (upTo (v.batch - 1)).map (fun j => v.tiles + 1 + j) := by
    rw [Arch.batches_claimed, hb, List.nil_append, map_upTo_of_pos _ hn]
  refine ⟨_, Arch.nextTile_of_batch (v := { v with tiles := v.tiles + v.batch }) Arch.launch_claimed hd hbatch, ?_, ?_, rfl⟩
  · rw [Arch.brick_mapBrick]
    exact Arch.tileq_claimed
  · rw [Arch.brick_mapBrick]
    exact SMap.get_set_same ..

/-- An NXTILE that waits as a Brick with no index left claims a batch gets the first of them. -/
theorem Arch.serveTiles_claimed {c x g : Nat} (hd : v.drained = false) (hn : 0 < v.batch)
    (hb : SMap.get [] (a.brick b).batches l = []) (hq : (a.brick b).tileq = [⟨l, [(c, x, g)]⟩]) :
    let m := (a.claimed b l v).serveTiles b
    (m.brick b).tileq = [] ∧ SMap.get [] (m.brick b).batches l = (upTo (v.batch - 1)).map (fun j => v.tiles + 1 + j) ∧
      m.ctx c x = (a.ctx c x).fill g 0 (tileRecord v.desc v.tiles).toNat := by
  obtain ⟨m, hnext, htileq, hbatches, hctx⟩ := Arch.nextTile_claimed (a := a) (b := b) (l := l) hd hn hb
  have harrives : m.tileArrives ⟨l, [(c, x, g)]⟩ (tileRecord v.desc v.tiles) =
    m.mapCtx c x (fun t => t.fill g 0 (tileRecord v.desc v.tiles).toNat) := rfl
  rw [Arch.serveTiles_of_one (Arch.tileq_claimed.trans hq) hnext, harrives]
  refine ⟨?tileq, ?batches, ?ctx⟩
  case tileq =>
    rw [Arch.brick_mapBrick]
    change List.filter _ (m.brick b).tileq = []
    simp [htileq, hq]
  case batches =>
    rw [Arch.brick_mapBrick]
    exact hbatches
  case ctx =>
    rw [← hctx, Arch.ctx_mapBrick, Arch.ctx_mapCtx]

end

-- ## Draining (R135)

section
variable {a : Arch} {c x o : Nat}

/-- What a map of every entry reads as, where it leaves the default alone. -/
theorem SMap.get_mapKeyed {α : Type} {d : α} {f : Nat → α → α} (k : Nat) (hf : f k d = d) (m : SMap α) :
    SMap.get d (m.map (fun e => (e.1, f e.1 e.2))) k = f k (SMap.get d m k) := by
  induction m with
  | nil => exact hf.symm
  | cons e m ih =>
    simp only [List.map_cons, SMap.get]
    split
    · next h => rw [h]
    · exact ih

/-- Waiters that an action wakes are the engine's or in the list of accesses: each core keeps all but its engine (R169). -/
theorem Arch.core_wakeWaiters (a : Arch) (sel : Nat → Bool) (c : Nat) : (a.wakeWaiters sel).core c = (a.core c).engineWake a c sel :=
  SMap.get_mapKeyed (d := Core.reset) (f := fun c k => k.engineWake a c sel) c rfl a.cores

theorem Core.engineWake_eq (k : Core) (a : Arch) (c : Nat) (sel : Nat → Bool) : ∃ e, k.engineWake a c sel = { k with engine := e } := by
  unfold Core.engineWake
  split
  · dsimp only
    split
    · exact ⟨_, rfl⟩
    · exact ⟨_, rfl⟩
  · exact ⟨_, rfl⟩

theorem Arch.core_barWakeAll (a : Arch) (pa len c : Nat) : ∃ e, (a.barWakeAll pa len).core c = { a.core c with engine := e } := by
  rw [Arch.barWakeAll, Arch.core_wakeWaiters]
  exact Core.engineWake_eq ..

@[simp] theorem Arch.evq_barWakeAll (a : Arch) (pa len c : Nat) : ((a.barWakeAll pa len).core c).evq = (a.core c).evq := by
  obtain ⟨e, he⟩ := a.core_barWakeAll pa len c
  rw [he]

@[simp] theorem Arch.window_barWakeAll (a : Arch) (pa len c : Nat) : ((a.barWakeAll pa len).core c).window = (a.core c).window := by
  obtain ⟨e, he⟩ := a.core_barWakeAll pa len c
  rw [he]

@[simp] theorem Arch.ctx_barWakeAll (a : Arch) (pa len c x : Nat) : (a.barWakeAll pa len).ctx c x = a.ctx c x := by
  obtain ⟨e, he⟩ := a.core_barWakeAll pa len c
  rw [Arch.ctx, he]
  rfl

theorem Arch.evq_mapCtx (f : Context → Context) : ((a.mapCtx c x f).core c).evq = (a.core c).evq := by
  rw [Arch.mapCtx, Arch.setCtx, Arch.core_setCore]
  rfl

/-- A bank with no parked waiter on the words of a range has none to serve before an access to it (R164). -/
theorem Arch.bankTurn_of_no_waiter {pa len : Nat} (h : ∀ q ∈ a.reqs, q.st = .parked → q.pa + 8 ≤ pa ∨ pa + len ≤ q.pa) :
    a.bankTurn pa len = a := by
  have hs : ∀ c n, a.serveWords c pa len n = a := fun c n => by
    cases n with
    | zero => rfl
    | succ n =>
      unfold Arch.serveWords
      split
      · next r e =>
        obtain ⟨i, -, e⟩ := List.exists_of_findSome?_eq_some e
        have hp := List.find?_some e
        simp only [Bool.and_eq_true, beq_iff_eq, decide_eq_true_eq] at hp
        obtain ⟨⟨⟨⟨-, hst⟩, hlt⟩, hgt⟩, -⟩ := hp
        have := h r (List.mem_of_find?_eq_some e) hst
        omega
      · rfl
  unfold Arch.bankTurn
  split
  · exact hs _ _
  · rfl

theorem Arch.mayTouch_of_touchable {g : Nat} (h : a.touchable c x g) : (a.core c).mayTouch x g a.clock = true := by
  rcases h with hown | ⟨hfree, hprev⟩
  · simp [Core.mayTouch, hown]
  · have hf : (a.core c).freedNow x g a.clock = false := by
      rw [Core.freedNow]
      cases hp : (SMap.get none (a.core c).prev g : Option (Nat × Nat)) with
      | none => rfl
      | some e => rcases hprev e.1 e.2 hp with h | h <;> simp [h]
    simp [Core.mayTouch, hfree, hf]

/-- A core without a stash window keeps none of its scratchpad in stash mode (R175). -/
theorem Core.stashKey_of_no_window {k : Core} (h : k.window = []) : k.stashKey o = none := by
  simp [Core.stashKey, h]

/-- A ring entry in the scratchpad is written in place, where the context may touch its bank group and no group is in stash mode. -/
theorem Arch.drainPlace_near {off : Nat} (hlt : off + 16 ≤ spadSize) (ht : a.touchable c x (off / 0x8000))
    (hw : (a.core c).window = []) : a.drainPlace c x (0xFE00000000000000 + off) = .at (a.spadPa c off) true := by
  have hspad : off < 2 ^ 56 := by simp only [spadSize] at hlt; omega
  have hva : (0xFE00000000000000 + off) / 2 ^ 56 = 0xFE := by omega
  have hoff : (0xFE00000000000000 + off) % 2 ^ 56 = off := by omega
  have hnone : (a.core c).stashVa (off / 128) = none := by simp [Core.stashVa, hw]
  rw [Arch.drainPlace, if_pos hva, hoff, Arch.drainNear, if_neg (Nat.not_lt.mpr hlt), Arch.mayTouch_of_touchable ht, hnone]
  rfl

/-- The ring of a context has room where it is set up, runs, is not full, and holds nothing back for earlier loads (R135, R346). -/
theorem Arch.ringRoom_of_not_full (h8 : 8 ≤ (a.ctx c x).ring.evsize.toNat) (h20 : (a.ctx c x).ring.evsize.toNat ≤ 20)
    (hs : (a.ctx c x).ring.stopped = false) (ha : (a.ctx c x).ring.acks = [])
    (hf : ((a.ctx c x).ring.evhead - (a.ctx c x).ring.evtail).toNat ≠ 2 ^ (a.ctx c x).ring.evsize.toNat / 16) :
    a.ringRoom c x = true := by
  have hk : a.keptEntries c x = 0 := by simp [Arch.keptEntries, ha]
  rw [Arch.ringRoom, RingRegs.room, RingRegs.entries, hk, BitVec.add_zero]
  simp only [h8, h20, hs, hf, decide_true, Bool.not_false, Bool.and_self, ne_eq, not_false_eq_true]

/-- The module once the 16 bytes `w` of an entry stand at `pa`: who waits on a barrier object there has looked at it again (R135, R169). -/
def Arch.entryStored (a : Arch) (pa w : Nat) : Arch := ({ a with mem := Memory.write a.mem pa 16 w } : Arch).barWakeAll pa 16

/-- The store of an entry in a scratchpad bank where nobody is parked: the entry stands, leaves the queue, and EVHEAD moves on (R134,
R135). -/
theorem Arch.drainStore_near {off : Nat} {e : Event} (hx : e.ctx < 2) (hw : (a.core c).window = [])
    (hp : ∀ q ∈ a.reqs, q.st = .parked → q.pa + 8 ≤ a.spadPa c off ∨ a.spadPa c off + 16 ≤ q.pa) :
    let b := a.entryStored (a.spadPa c off) e.word
    a.drainStore c x (a.spadPa c off) true e =
      (b.mapCore c (fun k => { k with evq := k.evq.erase e })).mapCtx c x (fun t => { t with ring := { t.ring with
        evhead := t.ring.evhead + 1, moved := true
        acks := t.ring.acks.filter (fun k => b.reqs.any (fun r => r.core == c && r.ctx == x && r.id < k.2)) } }) := by
  have hword : a.eventWord c e = e.word := by rw [Arch.eventWord, if_pos hx]
  have hkey : ((a.entryStored (a.spadPa c off) e.word).core c).stashKey (a.spadPa c off % 0x100000) = none :=
    Core.stashKey_of_no_window ((Arch.window_barWakeAll ..).trans hw)
  rw [Arch.drainStore, if_neg (by simp), Arch.bankTurn_of_no_waiter hp, hword]
  dsimp only
  unfold Arch.entryStored at hkey ⊢
  rw [if_pos rfl, if_neg (by rw [hkey]; decide)]

/-- What that store leaves in memory, in the queue, and in a ring that holds nothing back for earlier loads. -/
theorem Arch.drainStore_near_leaves {off : Nat} {e : Event} (hx : e.ctx < 2) (hw : (a.core c).window = [])
    (hp : ∀ q ∈ a.reqs, q.st = .parked → q.pa + 8 ≤ a.spadPa c off ∨ a.spadPa c off + 16 ≤ q.pa)
    (ha : (a.ctx c x).ring.acks = []) :
    let m := a.drainStore c x (a.spadPa c off) true e
    m.mem = Memory.write a.mem (a.spadPa c off) 16 e.word ∧ (m.core c).evq = (a.core c).evq.erase e ∧
      (m.ctx c x).ring = { (a.ctx c x).ring with evhead := (a.ctx c x).ring.evhead + 1, moved := true } := by
  have hctx : (a.entryStored (a.spadPa c off) e.word).ctx c x = a.ctx c x := Arch.ctx_barWakeAll ..
  rw [Arch.drainStore_near hx hw hp]
  refine ⟨rfl, ?evq, ?ring⟩
  case evq =>
    rw [Arch.evq_mapCtx, Arch.core_mapCore]
    exact congrArg (List.erase · e) (Arch.evq_barWakeAll ..)
  case ring =>
    rw [Arch.ctx_mapCtx]
    dsimp only
    rw [Arch.ctx_mapCore_of_ctxs (by intro _; rfl), hctx]
    simp [ha]

/-- The first event of the queue is drained, where its ring has room and its entry lies in the core's scratchpad. -/
theorem Arch.drainEvent_near {pa : Nat} {e : Event} {rest : List Event} (hq : (a.core c).evq = e :: rest)
    (hroom : a.ringRoom c e.ctx = true)
    (hplace : a.drainPlace c e.ctx ((a.ctx c e.ctx).ring.evbase.toNat +
      16 * ((a.ctx c e.ctx).ring.evhead.toNat % (a.ctx c e.ctx).ring.entries)) = .at pa true) :
    a.drainEvent c = a.drainStore c e.ctx pa true e := by
  have hfind : (a.core c).evq.find? (fun e => a.ringRoom c e.ctx) = some e := by
    rw [hq]
    exact List.find?_cons_of_pos hroom
  simp only [Arch.drainEvent, hfind, hplace, if_true]

theorem exec_eventDrain (c : Nat) (s : State) : exec (.eventDrain c) s = .next (s.setArch (s.arch.drainCycle c)) := rfl

theorem Arch.drainCycle_of_drainable (h : (a.core c).drainable = true) :
    a.drainCycle c = (a.drainEvent c).mapCore c (fun k => { k with drainable := false }) := if_pos h

end

-- ## What a machine check tells the host (R22, R310)

section
variable {a b m : Arch} {c d x : Nat}

/-- From `a` to `b` an interrupt 0 has been raised on Brick `d`: it has reached the Quoin die, or a sleeping port holds it (R22, R310). -/
def Arch.Tells (a b : Arch) (d : Nat) : Prop :=
  if a.routeSleeps d 8 then b.interrupts = a.interrupts ∧ b.syncq = a.syncq ++ [(d, 0)]
  else b.interrupts = a.interrupts ++ [0] ∧ b.syncq = a.syncq

/-- Nothing on the way of interrupts differs: those raised, those held, and the ports that sleep. -/
structure Arch.Quiet (a b : Arch) : Prop where
  interrupts : b.interrupts = a.interrupts
  syncq : b.syncq = a.syncq
  lowPort : b.lowPort = a.lowPort

theorem Arch.Quiet.refl (a : Arch) : a.Quiet a := ⟨rfl, rfl, rfl⟩

theorem Arch.Quiet.trans (h : a.Quiet b) (h' : b.Quiet m) : a.Quiet m :=
  ⟨h'.interrupts.trans h.interrupts, h'.syncq.trans h.syncq, h'.lowPort.trans h.lowPort⟩

/-- A route sleeps by its ports alone (R213). -/
theorem Arch.routeSleeps_congr (h : b.lowPort = a.lowPort) (s d : Nat) : b.routeSleeps s d = a.routeSleeps s d := by
  simp only [Arch.routeSleeps, Arch.hopSleeps, h]

theorem Arch.Quiet.tells (h : a.Quiet b) (h' : b.Tells m d) : a.Tells m d := by
  rwa [Arch.Tells, Arch.routeSleeps_congr h.lowPort, h.interrupts, h.syncq] at h'

theorem Arch.Tells.quiet (h : a.Tells b d) (h' : b.Quiet m) : a.Tells m d := by
  rwa [Arch.Tells, ← h'.interrupts, ← h'.syncq] at h

/-- An interrupt changes the list of those raised, of those held, or a pending bit, and nothing else (R318). -/
theorem Arch.interruptFrom_eq (a : Arch) (d v : Nat) :
    ∃ i q p, a.interruptFrom d v = { a with interrupts := i, syncq := q, pba := p } := by
  unfold Arch.interruptFrom Arch.interrupt Arch.setPending
  split
  · exact ⟨_, _, _, rfl⟩
  · dsimp only
    split
    · exact ⟨_, _, _, rfl⟩
    · exact ⟨_, _, _, rfl⟩

theorem Arch.interruptFrom_tells (a : Arch) (d : Nat) : a.Tells (a.interruptFrom d 0) d := by
  unfold Arch.Tells Arch.interruptFrom
  split
  · exact ⟨rfl, rfl⟩
  · unfold Arch.interrupt
    dsimp only
    split
    · exact ⟨rfl, rfl⟩
    · exact ⟨rfl, rfl⟩

theorem Arch.cores_interruptFrom (a : Arch) (d v : Nat) : (a.interruptFrom d v).cores = a.cores := by
  obtain ⟨_, _, _, h⟩ := a.interruptFrom_eq d v
  rw [h]

theorem Arch.ctx_interruptFrom (a : Arch) (d v : Nat) : (a.interruptFrom d v).ctx = a.ctx := by
  obtain ⟨_, _, _, h⟩ := a.interruptFrom_eq d v
  rw [h]
  rfl

theorem Arch.units_interruptFrom (a : Arch) (d v : Nat) : (a.interruptFrom d v).units = a.units := by
  obtain ⟨_, _, _, h⟩ := a.interruptFrom_eq d v
  rw [h]

end

-- ## A machine check of a program that runs (R302, R309)

section
variable {a b m : Arch} {c x : Nat} {cs ds : List Nat}

/-- From `a` to `b` a machine check of context `x` of core `c` has reached the members `cs` of its gang: each fails, by its own check or
by the gang's, and the host is told of the one. -/
structure Arch.Checked (a b : Arch) (c x : Nat) (cs : List Nat) : Prop where
  failing : ∀ k ∈ cs, (b.ctx k x).status = .failing ∧ (b.ctx k x).dying = if k = c then 0x0D else 0x0F
  other : ∀ k, k ∉ cs → b.ctx k x = a.ctx k x
  told : c ∈ cs → a.Tells b (c / 32)
  quiet : c ∉ cs → a.Quiet b

theorem Arch.Checked.nil (a : Arch) (c x : Nat) : a.Checked a c x [] where
  failing _ h := nomatch h
  other _ _ := rfl
  told h := nomatch h
  quiet _ := .refl a

/-- The rest of a gang after one member. -/
theorem Arch.Checked.cons {k : Nat} (h : a.Checked b c x [k]) (h' : b.Checked m c x ds) (hk : k ∉ ds) : a.Checked m c x (k :: ds) where
  failing i hi := by
    rcases List.mem_cons.mp hi with rfl | hi
    · rw [h'.other i hk]
      exact h.failing i (List.mem_singleton_self i)
    · exact h'.failing i hi
  other i hi := by
    obtain ⟨hne, hi⟩ := not_or.mp (mt List.mem_cons.mpr hi)
    exact (h'.other i hi).trans (h.other i (by simpa using hne))
  told hc := by
    by_cases hck : c = k
    · exact (h.told (by simp [hck])).quiet (h'.quiet (hck ▸ hk))
    · exact (h.quiet (by simpa using hck)).tells (h'.told ((List.mem_cons.mp hc).resolve_left hck))
  quiet hc := by
    obtain ⟨hck, hc⟩ := not_or.mp (mt List.mem_cons.mpr hc)
    exact (h.quiet (by simpa using hck)).trans (h'.quiet hc)

theorem Arch.Checked.foldl {f : Arch → Nat → Arch} (hf : ∀ (a : Arch) (k : Nat), a.Checked (f a k) c x [k]) (hn : cs.Nodup) :
    a.Checked (cs.foldl f a) c x cs := by
  induction cs generalizing a with
  | nil => exact .nil a c x
  | cons k cs ih =>
    obtain ⟨hk, hn⟩ := List.nodup_cons.mp hn
    exact .cons (hf a k) (ih hn) hk

/-- A fatal trap leaves the context failing with its cause, every other core as it was, and tells the host only of a machine check. -/
theorem Arch.raiseAs_fatal (a : Arch) (k : Nat) {x : Nat} (pc cause slot step arg info left : Nat) (hx : x ≠ 2) :
    ∃ (f : Core → Core) (t : Context), t.status = .failing ∧ t.dying = cause ∧
      a.raiseAs k x pc cause slot step arg info left true =
        (((if cause = 0x0D then a.interruptFrom (k / 32) 0 else a).withdraw k x).mapCore k f).setCtx k x t := by
  simp only [Arch.raiseAs, if_neg hx, Bool.not_true, Bool.and_false, Bool.false_eq_true, if_false]
  exact ⟨_, _, rfl, rfl, rfl⟩

theorem Arch.ctx_withdraw_other {k d y : Nat} (h : d ≠ k) : (a.withdraw k x).ctx d y = a.ctx d y := by
  rw [Arch.withdraw, Arch.ctx_mapCtx_other _ _ (.inl h), Arch.ctx, Arch.core_mapCore_other _ _ h]
  rfl

/-- What a fatal trap of core `k` has told the host before it takes its context down: a machine check, and nothing else. -/
theorem Arch.noted_of_cause (a : Arch) (c k : Nat) : ∃ b : Arch,
    (if (if k = c then 0x0D else 0x0F) = 0x0D then a.interruptFrom (k / 32) 0 else a) = b ∧ b.ctx = a.ctx ∧
      (c = k → a.Tells b (c / 32)) ∧ (c ≠ k → a.Quiet b) := by
  refine ⟨_, rfl, ?_⟩
  by_cases hkc : k = c
  · simp only [hkc, if_true]
    exact ⟨a.ctx_interruptFrom _ _, fun _ => a.interruptFrom_tells _, fun h => absurd rfl h⟩
  · simp only [if_neg hkc, Nat.reduceEqDiff, if_false]
    exact ⟨trivial, fun h => absurd h.symm hkc, fun _ => .refl a⟩

theorem Arch.Quiet.mapCore {f : Core → Core} (h : a.Quiet b) : a.Quiet (b.mapCore c f) := ⟨h.interrupts, h.syncq, h.lowPort⟩

theorem Arch.Quiet.setCtx {t : Context} (h : a.Quiet b) : a.Quiet (b.setCtx c x t) := ⟨h.interrupts, h.syncq, h.lowPort⟩

theorem Arch.withdraw_quiet (a : Arch) (c x : Nat) : a.Quiet (a.withdraw c x) := .setCtx (.mapCore ⟨rfl, rfl, rfl⟩)

/-- A fatal trap of one member: its own check where it is core `c`, and the gang's elsewhere. -/
theorem Arch.raiseAs_checked (a : Arch) (c k pc slot step arg info left : Nat) (hx : x ≠ 2) :
    a.Checked (a.raiseAs k x pc (if k = c then 0x0D else 0x0F) slot step arg info left true) c x [k] := by
  obtain ⟨f, t, hst, hdy, hr⟩ := a.raiseAs_fatal k pc (if k = c then 0x0D else 0x0F) slot step arg info left hx
  obtain ⟨b, hb, hctx, htold, hquiet⟩ := a.noted_of_cause c k
  have hq : b.Quiet (((b.withdraw k x).mapCore k f).setCtx k x t) := (b.withdraw_quiet k x).trans (.setCtx (.mapCore (.refl _)))
  rw [hr, hb]
  exact {
    failing := fun i hi => by
      rw [List.mem_singleton.mp hi, Arch.ctx_setCtx]
      exact ⟨hst, hdy⟩
    other := fun i hi => by
      have hik : i ≠ k := by simpa using hi
      rw [Arch.ctx_setCtx_other _ _ (.inl hik), Arch.ctx, Arch.core_mapCore_other _ _ hik, ← hctx]
      exact Arch.ctx_withdraw_other hik
    told := fun h => (htold (List.mem_singleton.mp h)).quiet hq
    quiet := fun h => (hquiet (by simpa using h)).trans hq }

/-- A machine check of one member is fatal to each (R302, R309). -/
theorem Arch.gangTrap_checked (a : Arch) (c rep : Nat) {n : TrapNote} (hx : x ≠ 2) (hn : cs.Nodup) (hc : n.cause = 0x0D) :
    a.Checked (a.gangTrap x rep cs [(c, n)]) c x cs := by
  unfold Arch.gangTrap
  refine Arch.Checked.foldl (fun b k => ?_) hn
  have hfatal : [(c, n)].any (fun e => e.2.cause == 0x0D) = true := by simp [hc]
  by_cases hkc : k = c
  · have hfind : [(c, n)].find? (fun e => e.1 == k) = some (c, n) := by simp [hkc]
    simp only [hfind, hfatal, hc]
    simpa [hkc] using b.raiseAs_checked c k (b.ctx k x).pc n.slot n.step n.arg n.info ((b.ctx k x).owes rep) hx
  · have hfind : [(c, n)].find? (fun e => e.1 == k) = none := by simp [Ne.symm hkc]
    simp only [hfind, hfatal]
    simpa [hkc] using b.raiseAs_checked c k (b.ctx k x).pc 7 0 0 _ ((b.ctx k x).owes rep) hx

/-- A machine check of a context that runs, or is frozen, reaches every member of its gang. -/
theorem Arch.checkAt_checked (hx : x ≠ 2) (hi : (a.ctx c x).status ≠ .idle) (hf : (a.ctx c x).status ≠ .failing)
    (hn : (a.members c x).Nodup) : a.Checked (a.checkAt c x 0 7) c x (a.members c x) := by
  simp only [Arch.checkAt, if_neg hi, if_neg hf]
  exact a.gangTrap_checked c _ hx hn rfl

/-- One that is failing already takes no further trap; the host is told. -/
theorem Arch.checkAt_failing (hf : (a.ctx c x).status = .failing) : a.checkAt c x 0 7 = a.interruptFrom (c / 32) 0 := by
  simp [Arch.checkAt, hf]

theorem Arch.checkAt_halted {u : Nat} (hi : (a.ctx c x).status = .idle) (hu : (a.ctx c x).unit = some u) :
    a.checkAt c x 0 7 = a.failHalted c x u := by
  simp [Arch.checkAt, hi, hu]

end

-- ## A machine check of a unit whose program has ended, or that is swapped out (R309, R310)

section
variable {a b : Arch} {c d u x n : Nat} {v : ExecUnit} {cs : List Nat}

theorem Arch.mapUnit_of_some {f : ExecUnit → ExecUnit} (h : a.unit u = some v) : a.mapUnit u f = a.setUnit u (f v) := by
  simp [Arch.mapUnit, h]

theorem Arch.Quiet.fatalAt (h : a.Quiet b) : a.Quiet (b.fatalAt c x n) := ⟨h.interrupts, h.syncq, h.lowPort⟩

theorem Arch.Quiet.dropReqs {p : Req → Bool} (h : a.Quiet b) : a.Quiet (b.dropReqs p) := ⟨h.interrupts, h.syncq, h.lowPort⟩

theorem Arch.Tells.setUnit (h : a.Tells b d) : a.Tells (b.setUnit u v) d := h.quiet ⟨rfl, rfl, rfl⟩

theorem Arch.dbg_fatalAt : ((a.fatalAt c x n).core c).dbg = (a.core c).dbg.fatal x n := by
  rw [Arch.fatalAt, Arch.core_mapCore]
  rfl

theorem Arch.core_fatalAt_other (h : d ≠ c) : (a.fatalAt c x n).core d = a.core d := Arch.core_mapCore_other _ _ h

/-- The FATAL fields of distinct cores are each set once. -/
theorem Arch.dbg_foldl_fatalAt {f : Nat → Nat} (hn : cs.Nodup) {k : Nat} (hk : k ∈ cs) :
    ((cs.foldl (fun a k => a.fatalAt k x (f k)) a).core k).dbg = (a.core k).dbg.fatal x (f k) := by
  have later : ∀ (cs : List Nat) (b : Arch), k ∉ cs → (cs.foldl (fun a k => a.fatalAt k x (f k)) b).core k = b.core k :=
    fun cs b hk => List.foldlRecOn (motive := fun m : Arch => m.core k = b.core k) cs _ rfl fun m hm i hi =>
      (Arch.core_fatalAt_other fun h : k = i => hk (h ▸ hi)).trans hm
  induction cs generalizing a with
  | nil => cases hk
  | cons i cs ih =>
    obtain ⟨hi, hn⟩ := List.nodup_cons.mp hn
    rw [List.foldl_cons]
    rcases List.mem_cons.mp hk with rfl | hk
    · rw [later cs _ hi, Arch.dbg_fatalAt]
    · rw [ih hn hk, Arch.core_fatalAt_other fun h : k = i => hi (h ▸ hk)]

theorem Arch.quiet_foldl_fatalAt {f : Nat → Nat} (a : Arch) (cs : List Nat) : a.Quiet (cs.foldl (fun a k => a.fatalAt k x (f k)) a) :=
  List.foldlRecOn (motive := a.Quiet) cs _ (.refl a) fun _ h _ _ => h.fatalAt

/-- A machine check of a program that has ended: the unit fails, the host is told, and the debug block says so unless it does already. -/
theorem Arch.failHalted_fails (hx : x < 2) (hv : a.unit u = some v) :
    let m := a.failHalted c x u
    m.unit u = some { v with fate := some .failed } ∧ a.Tells m (c / 32) ∧
      (m.core c).dbg = if v.fate = some .failed then (a.core c).dbg else (a.core c).dbg.fatal x 0x0D := by
  have hfate : (a.unit u).bind ExecUnit.fate = v.fate := by rw [hv]; rfl
  obtain ⟨b, hb, hquiet, hunit, hdbg⟩ : ∃ b, (if v.fate = some .failed then a else a.fatalAt c x 0x0D) = b ∧ a.Quiet b ∧
      b.unit u = some v ∧ (b.core c).dbg = if v.fate = some .failed then (a.core c).dbg else (a.core c).dbg.fatal x 0x0D := by
    refine ⟨_, rfl, ?_⟩
    split
    · exact ⟨.refl a, hv, rfl⟩
    · exact ⟨.fatalAt (.refl a), hv, Arch.dbg_fatalAt⟩
  have hunit' : (b.interruptFrom (c / 32) 0).unit u = some v := by rw [Arch.unit, Arch.units_interruptFrom]; exact hunit
  have hcore : (b.interruptFrom (c / 32) 0).core c = b.core c := by rw [Arch.core, Arch.cores_interruptFrom]; rfl
  have hm : a.failHalted c x u = (b.interruptFrom (c / 32) 0).setUnit u { v with fate := some .failed } := by
    rw [← Arch.mapUnit_of_some (f := fun e => { e with fate := some .failed }) hunit', ← hb, Arch.failHalted, hfate, if_pos hx]
  rw [hm]
  exact ⟨Arch.unit_setUnit .., (hquiet.tells (b.interruptFrom_tells _)).setUnit, (congrArg Core.dbg hcore).trans hdbg⟩

/-- A machine check of a unit that is swapped out: nothing of it is restored, the host is told, and its members' debug blocks say so. -/
theorem Arch.failSwapped_fails (hv : a.unit u = some v) (hs : v.swapped = true) (hf : v.fate = none) (hn : v.cores.Nodup) :
    let m := a.failSwapped u c
    m.unit u = some { v with fate := some .failed, swapped := false, kept := [], wanted := false, ctx := ghostOf u } ∧
      a.Tells m (c / 32) ∧ ∀ k ∈ v.cores, (m.core k).dbg = (a.core k).dbg.fatal v.ctx (if k = c then 0x0D else 0x0F) := by
  obtain ⟨b, hb, hquiet, hdbg⟩ : ∃ b, v.cores.foldl (fun a k => a.fatalAt k v.ctx (if k = c then 0x0D else 0x0F)) a = b ∧
      a.Quiet b ∧ ∀ k ∈ v.cores, (b.core k).dbg = (a.core k).dbg.fatal v.ctx (if k = c then 0x0D else 0x0F) :=
    ⟨_, rfl, a.quiet_foldl_fatalAt _, fun k hk => Arch.dbg_foldl_fatalAt (f := fun k => if k = c then 0x0D else 0x0F) hn hk⟩
  have hm : a.failSwapped u c = ((b.dropReqs (fun r => r.ctx == ghostOf u)).interruptFrom (c / 32) 0).setUnit u
      { v with fate := some .failed, swapped := false, kept := [], wanted := false, ctx := ghostOf u } := by
    simp only [Arch.failSwapped, hv, if_pos (And.intro hs hf), hb]
  have hcore (k : Nat) : ((b.dropReqs (fun r => r.ctx == ghostOf u)).interruptFrom (c / 32) 0).core k = b.core k := by
    rw [Arch.core, Arch.cores_interruptFrom]
    rfl
  rw [hm]
  exact ⟨Arch.unit_setUnit .., (hquiet.dropReqs.tells (Arch.interruptFrom_tells _ _)).setUnit,
    fun k hk => (congrArg Core.dbg (hcore k)).trans (hdbg k hk)⟩

-- ## The step of the event table

theorem exec_machineCheck (c x : Nat) (s : State) : exec (.machineCheck c x) s = .next (s.setArch (s.arch.machineCheck c x)) := rfl

theorem Arch.machineCheck_of_ctx (hc : c < 256) (hx : x < 2) : a.machineCheck c x = a.checkAt c x 0 7 := by
  rw [Arch.machineCheck, if_neg (by omega), if_neg fun h => by omega]

theorem Arch.machineCheck_of_swapped (hc : c < 256) (hv : a.unit u = some v) (hs : v.swapped = true) :
    a.machineCheck c (16 + u) = a.failSwapped u c := by
  have hu : 16 + u - 16 = u := by omega
  rw [Arch.machineCheck, if_neg (by omega), hu, if_pos ⟨by omega, by simp [hv, hs]⟩]

end
end Sys2Proof.Machine

open Sys2Proof Sys2Proof.Machine in
/-- Settles O31: a claim is the claim of NXTILE, with the NXTILEs that wait served after it; a drained event is one near store; and a
machine check goes by what its context or unit is: running, failing, ended or swapped out. -/
theorem tilesEventsAndChecks : Obligations.TilesEventsAndChecks := by
  refine ⟨fun b l v s hl hd => ?claim, fun c off e rest s hdr hq => ?drain, fun c x s hc hx => ?check,
    fun c u v s hc hv hs hf hn => ?swapped⟩
  case claim =>
    intro have_ dim n takesPart hgo hback hn hlen
    have hcount : tileCount v.desc = dim 0 * dim 1 * dim 2 := by simp only [tileCount_eq, dim, Nat.reduceMul, Nat.reduceAdd]
    have hbatch : n = v.batch := by rw [Launch.batch, hcount]
    have hn' : 0 < v.batch := hbatch ▸ hn
    have hr := Arch.tileReach_of_awake hgo hback
    have hclaim (ht : takesPart) : s.arch.claimBatch b l = (s.arch.claimed b l v).serveTiles b :=
      Arch.claimBatch_of_takesPart hl hd hn' hlen hr (Arch.takesPart_iff.mpr ht)
    rw [exec_tileBatchClaim, hbatch]
    refine ⟨fun ht hq => ⟨_, rfl, ?batch⟩, fun ht hq => ?stranger, fun c x g ht hq hb => ⟨_, rfl, ?waiter⟩⟩
    case batch =>
      rw [State.setArch_arch, hclaim ht, Arch.serveTiles_of_none (Arch.tileq_claimed.trans hq)]
      exact ⟨Arch.launch_claimed, Arch.batches_claimed⟩
    case stranger =>
      rw [Arch.claimBatch, if_neg (mt Arch.takesPart_iff.mp ht), Arch.serveTiles_of_none hq]
      rfl
    case waiter =>
      have hlt : v.tiles < tileCount v.desc := Nat.lt_of_sub_pos (Nat.lt_min.mp hn').2
      have hrecord : (tileRecord v.desc v.tiles).toNat =
          v.tiles % dim 0 + 2 ^ 20 * (v.tiles / dim 0 % dim 1) + 2 ^ 40 * (v.tiles / (dim 0 * dim 1)) := by
        simp only [dim, Nat.reduceMul, Nat.reduceAdd]
        exact toNat_tileRecord hlt
      obtain ⟨htileq, hbatches, hctx⟩ := Arch.serveTiles_claimed (a := s.arch) (l := l) hd hn' hb hq
      rw [State.setArch_arch, hclaim ht]
      exact ⟨htileq, hbatches, hctx.trans (congrArg _ hrecord)⟩
  case drain =>
    intro r size hp h8 h20 hstop hx hacks hroom hva hoff ht hw
    have hplace := hva ▸ Arch.drainPlace_near hoff ht hw
    have hevent := Arch.drainEvent_near hq (Arch.ringRoom_of_not_full h8 h20 hstop hacks hroom) hplace
    obtain ⟨hmem, hevq, hring⟩ := Arch.drainStore_near_leaves (c := c) (x := e.ctx) hx hw hp hacks
    rw [← hevent] at hmem hevq hring
    rw [hq, List.erase_cons_head] at hevq
    rw [exec_eventDrain, Arch.drainCycle_of_drainable hdr]
    generalize s.arch.drainEvent c = m at hmem hevq hring ⊢
    refine ⟨_, rfl, ?_⟩
    rw [State.setArch_arch, Arch.core_mapCore, Arch.ctx_mapCore_of_ctxs (by intro _; rfl), Arch.mapCore_mem]
    exact ⟨hevq, hring, hmem⟩
  case check =>
    rw [exec_machineCheck, Arch.machineCheck_of_ctx hc hx]
    refine ⟨fun hi hf hm hn => ⟨_, rfl, ?runs⟩, fun hf => ⟨_, rfl, ?failing⟩, fun u v hi hu hv => ⟨_, rfl, ?halted⟩⟩
    case runs =>
      have h := Arch.checkAt_checked (by omega) hi hf hn
      exact ⟨h.told hm, h.failing⟩
    case failing =>
      rw [Arch.checkAt_failing hf]
      obtain ⟨_, _, _, h⟩ := s.arch.interruptFrom_eq (c / 32) 0
      exact ⟨s.arch.interruptFrom_tells _, by rw [h]⟩
    case halted =>
      rw [State.setArch_arch, Arch.checkAt_halted hi hu]
      exact Arch.failHalted_fails hx hv
  case swapped =>
    obtain ⟨hunit, htold, hdbg⟩ := Arch.failSwapped_fails (c := c) hv hs hf hn
    rw [exec_machineCheck, Arch.machineCheck_of_swapped hc hv hs]
    exact ⟨_, rfl, fun hawake => ((if_neg (by simp [hawake])).mp htold).1, hunit, hdbg⟩
end
section
/-! No bundle stays open between steps (O58; R54, R74, log entry 7), and what an instruction of a slot and a step of an agent do to the
state: the one answers through `State.finish`, the other leaves the bundle cursor alone. -/

namespace Sys2Proof.Machine

variable {i : Instr} {s t : State} {a : Arch}

/-- An instruction that a slot of a bundle may hold, or the header of a bundle without slots: no micro-op and no step of an agent. -/
def inSlot (i : Instr) : Bool :=
  match i.enc with
  | some e => e.kind != .u
  | none => !isRow i

/-- What a slot's instruction does, it does by its answer. -/
theorem exec_of_inSlot (h : inSlot i = true) (s : State) : ∃ r, exec i s = .next (s.finish r) := by
  cases i with
  | nop | add | sub | mul | mulh | mulhn | div | divn | mod | modn | and | or | xor | andn | shl | shr | sar | min | max | minn | maxn
  | clz | ctz | popc | bfx | bfi | sext | zext | cmp | pand | por | pxor | addi | andi | ori | xori | shli | shri | sari | cmpi | movi
  | movhi | lit | pnot | pget | pset | br | jmpi | call | calli | ret | loop | loopR | rotb | halt | trap | xret | waitev | evack | ld
  | st | ldf | ste | feget | feset | feclr | lda | stl | amoadd | amoand | amoor | amoxor | amomin | amomax | amoswp | amocas | amofadd
  | amoaddC | amoandC | amoorC | amoxorC | amominC | amomaxC | amofaddC | mfs | mts | drain | tstamp | cycles | nxtile | bankrel
  | bankacq | tlwait | tlread | tladv | barinit | bararr | barwait | opgo | qpub | vadd | vsub | vmul | vmulh | vfma | vfms | vmin | vmax
  | vabs | vneg | vand | vor | vxor | vshl | vshr | vsar | vcmp | vsel | vmov | vsplat | vbcast | vperm | vslide | vext | vins | vcvt
  | vwadd | vwmul | vwfma | vnarr | vdot | vredadd | vredmax | vredmin | vscan | vexp2 | vlog2 | vrcp | vrsq | vtanh | vclz | vpopc
  | viota | vcomp | vdrop | vrand | kand | kor | kxor | knot | kcnt | ldv | ldvZ | stv | scfg | sld | sst | sgath | sscat | samo | sadv
  | stasht | mcall | mpar | mpload | mdrain | mstat | xexp | xpak | xtrn | xcvt | xqnt | xdqn | xacc => exact ⟨_, rfl⟩
  | _ => cases h


/-- What any other instruction does, but a cold reset, leaves the bundle cursor alone. -/
theorem exec_of_agent (h : inSlot i = false) (hr : i ≠ .coldReset) (s : State) :
    ∃ a n, exec i s = .next { s with arch := a, fresh := n } := by
  cases i with
  | nop | add | sub | mul | mulh | mulhn | div | divn | mod | modn | and | or | xor | andn | shl | shr | sar | min | max | minn | maxn
  | clz | ctz | popc | bfx | bfi | sext | zext | cmp | pand | por | pxor | addi | andi | ori | xori | shli | shri | sari | cmpi | movi
  | movhi | lit | pnot | pget | pset | br | jmpi | call | calli | ret | loop | loopR | rotb | halt | trap | xret | waitev | evack | ld
  | st | ldf | ste | feget | feset | feclr | lda | stl | amoadd | amoand | amoor | amoxor | amomin | amomax | amoswp | amocas | amofadd
  | amoaddC | amoandC | amoorC | amoxorC | amominC | amomaxC | amofaddC | mfs | mts | drain | tstamp | cycles | nxtile | bankrel
  | bankacq | tlwait | tlread | tladv | barinit | bararr | barwait | opgo | qpub | vadd | vsub | vmul | vmulh | vfma | vfms | vmin | vmax
  | vabs | vneg | vand | vor | vxor | vshl | vshr | vsar | vcmp | vsel | vmov | vsplat | vbcast | vperm | vslide | vext | vins | vcvt
  | vwadd | vwmul | vwfma | vnarr | vdot | vredadd | vredmax | vredmin | vscan | vexp2 | vlog2 | vrcp | vrsq | vtanh | vclz | vpopc
  | viota | vcomp | vdrop | vrand | kand | kor | kxor | knot | kcnt | ldv | ldvZ | stv | scfg | sld | sst | sgath | sscat | samo | sadv
  | stasht | mcall | mpar | mpload | mdrain | mstat | xexp | xpak | xtrn | xcvt | xqnt | xdqn | xacc => cases h
  | coldReset => exact absurd rfl hr
  | _ => exact ⟨_, _, rfl⟩

theorem inSlot_of_isRow (h : isRow i = true) : inSlot i = false := by
  have he := (Bool.and_eq_true _ _ |>.mp h).1
  rw [inSlot, Option.isNone_iff_eq_none.mp he, h]
  rfl

/-- A word of the engine's store is a micro-op (R99). -/
theorem inSlot_of_decodeMicro {w : Nat} (h : decodeMicro w = some i) : inSlot i = false ∧ i ≠ .coldReset := by
  have hp : parseU w = some i := by
    simp only [decodeMicro, decodeSlot, parseSlot] at h
    split at h
    · next hp => exact hp.trans (ite_eq_elim h id fun h => nomatch h)
    · cases h
  unfold parseU at hp
  dsimp only at hp
  split at hp
  case h_2 | h_5 => split at hp <;> cases hp <;> exact ⟨rfl, Instr.noConfusion⟩
  case h_13 => cases hp
  all_goals cases hp; exact ⟨rfl, Instr.noConfusion⟩

-- ## What the default policy tries

section Rows
variable {P : Row → Prop}

theorem forall_accessRows (hi : ∀ i, isRow i = true → P (exec i)) : ∀ r ∈ a.accessRows, P r := by
  refine List.forall_mem_flatMap.mpr fun q _ => ?_
  split
  · exact List.forall_mem_singleton.mpr (hi (.remoteAccess q.id) rfl)
  · exact List.forall_mem_singleton.mpr (hi (.feWaiterRetry q.id) rfl)
  · exact List.forall_mem_nil _

theorem forall_contextRows (hi : ∀ i, isRow i = true → P (exec i)) {c x : Nat} {k : Context} : ∀ r ∈ contextRows c x k, P r := by
  simp only [contextRows, List.forall_mem_append, List.forall_mem_flatMap]
  refine ⟨⟨?waits, ?debug⟩, fun h _ => ⟨?start, ?copy⟩⟩
  case waits =>
    split
    · split
      · exact List.forall_mem_singleton.mpr (hi (.barwaitRelease c x) rfl)
      · exact List.forall_mem_singleton.mpr (hi (.tlwaitRelease c x) rfl)
      · exact List.forall_mem_singleton.mpr (hi (.waitevRelease c x) rfl)
      · exact List.forall_mem_singleton.mpr (hi (.bankacqGrant c x) rfl)
      · exact List.forall_mem_singleton.mpr (hi (.drainComplete c x) rfl)
      · exact List.forall_mem_singleton.mpr (hi (.opgoQueueRoom c x) rfl)
      · exact List.forall_mem_nil _
    · exact List.forall_mem_nil _
  case debug =>
    split
    · simp only [List.forall_mem_cons]
      exact ⟨hi (.haltRequest c x) rfl, hi (.breakpoint c x) rfl, hi (.haltRelease c x) rfl, hi (.debugStep c x) rfl,
        List.forall_mem_nil _⟩
    · exact List.forall_mem_nil _
  case start =>
    split
    · exact List.forall_mem_singleton.mpr (hi (.copyArm c x h.1) rfl)
    · exact List.forall_mem_nil _
  case copy =>
    split
    · exact List.forall_mem_cons.mpr ⟨hi (.copyLand c x h.1) rfl, List.forall_mem_singleton.mpr (hi (.copyFault c x h.1) rfl)⟩
    · exact List.forall_mem_nil _

theorem forall_coreRows (hi : ∀ i, isRow i = true → P (exec i)) {c : Nat} {k : Core} : ∀ r ∈ coreRows c k, P r := by
  simp only [coreRows, List.forall_mem_append, List.forall_mem_flatMap, List.forall_mem_cons]
  exact ⟨⟨hi (.feWaiterServed c) rfl, hi (.translationMiss c) rfl, hi (.shadowService c) rfl, hi (.shadowServiceTimeout c) rfl,
    hi (.eventDrain c) rfl, List.forall_mem_nil _⟩, fun _ _ => forall_contextRows hi⟩

theorem forall_brickRows (hi : ∀ i, isRow i = true → P (exec i)) {b : Nat} {k : Brick} : ∀ r ∈ brickRows b k, P r := by
  simp only [brickRows, List.forall_mem_append, List.forall_mem_cons, List.forall_mem_map]
  exact ⟨⟨hi (.pageWalk b) rfl, hi (.directoryRequest b) rfl, hi (.detAddPerform b) rfl, hi (.courseEncoderGrant b) rfl,
    List.forall_mem_nil _⟩, fun q _ => hi (.tileBatchClaim b q.launch) rfl⟩

theorem forall_fabricRows (hi : ∀ i, isRow i = true → P (exec i)) : ∀ r ∈ a.fabricRows, P r := by
  simp only [Arch.fabricRows, List.forall_mem_append, List.forall_mem_map, List.forall_mem_flatMap]
  exact ⟨⟨⟨⟨fun f _ => hi (.stashFillComplete f.id) rfl, fun m _ => hi (.snoop m.home m.die m.line m.inval) rfl⟩,
    fun w _ => hi (.writeBack w.id) rfl⟩, fun e _ r _ d _ => hi (.releaseNotice e.1 d r.1) rfl⟩,
    fun e _ => hi (.portWake (e.1 / 8) (e.1 % 8)) rfl⟩

theorem forall_queueRows (hi : ∀ i, isRow i = true → P (exec i)) {q : Nat} : ∀ r ∈ queueRows q, P r := by
  simp only [queueRows, List.forall_mem_cons]
  exact ⟨hi (.packetNop q) rfl, hi (.packetLaunch q) rfl, hi (.packetCoded q) rfl, hi (.packetGraph q) rfl,
    hi (.packetBarrierAnd q) rfl, hi (.packetSignal q) rfl, hi (.packetPhaseEnd q) rfl, hi (.barrierAndEvaluate q) rfl,
    List.forall_mem_nil _⟩

theorem forall_unitRows (hi : ∀ i, isRow i = true → P (exec i)) {u : Nat} {e : Option ExecUnit} : ∀ r ∈ a.unitRows u e, P r := by
  simp only [Arch.unitRows, List.forall_mem_append, List.forall_mem_cons]
  refine ⟨⟨hi (.taskReturn u) rfl, hi (.unitEnd u) rfl, List.forall_mem_nil _⟩, ?_⟩
  split
  · split
    · exact List.forall_mem_singleton.mpr (hi (.swapRestore u) rfl)
    · split
      · exact List.forall_mem_singleton.mpr (hi (.swapOut u) rfl)
      · exact List.forall_mem_nil _
  · exact List.forall_mem_nil _

theorem forall_frontRows (hi : ∀ i, isRow i = true → P (exec i)) : ∀ r ∈ a.frontRows, P r := by
  simp only [Arch.frontRows, List.forall_mem_append, List.forall_mem_map, List.forall_mem_flatMap, List.forall_mem_cons]
  refine ⟨⟨⟨⟨⟨⟨⟨⟨fun n _ => hi (.cancel n) rfl, fun n _ => hi (.qpubDoorbell n) rfl⟩, fun _ _ => forall_queueRows hi⟩,
    fun e _ => ⟨hi (.graphAdmit e.1) rfl, ?nodes⟩⟩, fun _ _ => forall_unitRows hi⟩,
    fun e _ => ⟨hi (.launchRelease e.1) rfl, hi (.launchStarvation e.1) rfl, List.forall_mem_nil _⟩⟩,
    hi .operatorOpen rfl, List.forall_mem_nil _⟩, fun e _ => ⟨hi (.repointingDecode e.1) rfl, hi (.graceExpiry e.1) rfl,
    hi (.tmaxExpiry e.1) rfl, List.forall_mem_nil _⟩⟩, hi .redgoAdmit rfl, hi .reductionComplete rfl, hi .xlinvComplete rfl,
    hi .bootVerifyDone rfl, hi .attestationDone rfl, List.forall_mem_nil _⟩
  case nodes =>
    split
    · exact List.forall_mem_map.mpr fun n _ => hi (.nodeFire e.1 n) rfl
    · exact List.forall_mem_nil _

/-- The rows that the default policy tries are rows of the event table and actions of the engines. -/
theorem forall_rows (hi : ∀ i, isRow i = true → P (exec i)) (he : ∀ c, P fun s => s.engineCycle c) : ∀ r ∈ a.rows, P r := by
  unfold Arch.rows
  split
  · exact List.forall_mem_nil _
  · simp only [List.forall_mem_append, List.forall_mem_flatMap]
    exact ⟨⟨⟨⟨⟨forall_accessRows hi, fun _ _ => forall_coreRows hi⟩, forall_fabricRows hi⟩, fun _ _ => forall_brickRows hi⟩,
      forall_frontRows hi⟩, List.forall_mem_map.mpr fun e _ => he e.1⟩

/-- The move the default policy makes is one of its rows or the next edge. -/
theorem defaultMove_of_rows (hi : ∀ i, isRow i = true → P (exec i)) (he : ∀ c, P fun s => s.engineCycle c)
    (e : s.defaultMove = .next t) : (∃ r, P r ∧ r s = .next t) ∨ ∃ c, s.move (.core c) = .next t := by
  have hf : ∀ rs, (∀ r ∈ rs, P r) → s.firstRow rs = some (.next t) → ∃ r, P r ∧ r s = .next t := by
    intro rs hrs h
    induction rs with
    | nil => cases h
    | cons r rs ih =>
      obtain ⟨hr, hrs⟩ := List.forall_mem_cons.mp hrs
      unfold State.firstRow at h
      split at h
      · next hq => exact ite_eq_elim h (ih hrs) fun h => ⟨r, hr, hq.trans (Option.some.inj h)⟩
      · exact ⟨r, hr, Option.some.inj h⟩
  unfold State.defaultMove at e
  split at e
  · next hs => exact .inl (hf _ (forall_rows hi he) (hs.trans (congrArg some e)))
  · exact .inr ⟨_, e⟩

end Rows

-- ## No bundle in issue

/-- No bundle is in issue (R54, R74). -/
def State.Closed (s : State) : Prop := s.iss = s.iss.rest

/-- A step between bundles leaves no bundle in issue. -/
def Closes (r : Row) : Prop := ∀ s t, s.Closed → r s = .next t → t.Closed

theorem State.Closed.of_iss (h : s.Closed) (e : t.iss = s.iss) : t.Closed := by rwa [State.Closed, e]

theorem closes_of_isRow (hi : isRow i = true) : Closes (exec i) := by
  intro s t h e
  by_cases hr : i = .coldReset
  · subst hr; cases e; exact rfl
  · obtain ⟨_, _, he⟩ := exec_of_agent (inSlot_of_isRow hi) hr s
    cases he.symm.trans e
    exact h

theorem closes_engineCycle (c : Nat) : Closes fun s => s.engineCycle c := by
  intro s t h e
  refine ite_eq_elim e (fun e => by cases e; exact h) fun e => ?_
  split at e
  · split at e
    · next hm =>
      obtain ⟨hu, hr⟩ := inSlot_of_decodeMicro hm
      obtain ⟨_, _, he⟩ := exec_of_agent hu hr (s.setIss { Issue.reset with core := c })
      cases he.symm.trans e
      exact rfl
    · cases e; exact h
  · split at e
    · next cmd _ => exact closes_of_isRow (by cases cmd.kind <;> rfl) s t h e
    · cases e; exact h

theorem closes_actOn (i : Instr) : Closes fun s => s.actOn i := by
  intro s t h e
  change s.actOn i = .next t at e
  unfold State.actOn at e
  split_ifs at e with hi
  · simp only [Bool.and_eq_true] at hi
    obtain ⟨⟨⟨-, hn⟩, hi⟩, -⟩ := hi
    exact closes_of_isRow (Bool.and_eq_true _ _ |>.mpr ⟨hn, hi⟩) s t h e
  · cases e; exact h

theorem closes_releaseAt (T l : Nat) : Closes fun s => s.releaseAt T l := by
  intro s t h e
  have hr := fun t => closes_of_isRow (i := .launchRelease l) rfl (s.setArch (s.arch.elapse (T - s.arch.clock))) t h
  change s.releaseAt T l = .next t at e
  unfold State.releaseAt at e
  split at e
  · next he => cases e; exact (hr _ he).of_iss rfl
  · exact hr _ e

/-- The cycle of a core closes whatever bundle it has issued. -/
theorem closes_coreCycle (c : Nat) : Closes fun s => s.coreCycle c := by
  intro s t h e
  change s.coreCycle c = .next t at e
  unfold State.coreCycle at e
  extract_lets u k o at e
  have hu : u.Closed := h
  clear_value u
  refine ite_eq_elim e (fun e => by cases e; exact hu) fun e => ite_eq_elim e (fun e => by cases e; exact hu) fun e => ?_
  obtain ⟨v, -, e⟩ := outBind_eq_next e
  cases e
  exact rfl

theorem closes_coreMove (c : Nat) : Closes fun s => s.coreMove c := by
  intro s t h e
  change s.coreMove c = .next t at e
  unfold State.coreMove at e
  dsimp only at e
  split at e
  · exact closes_releaseAt _ _ s t h e
  · exact closes_coreCycle _ s t h e

theorem closes_timeMove (n : Nat) : Closes fun s => s.timeMove n := by
  intro s t h e
  change s.timeMove n = .next t at e
  unfold State.timeMove at e
  dsimp only at e
  split at e
  · exact closes_releaseAt _ _ s t h e
  · cases e; exact h

theorem closes_move (m : Move) : Closes fun s => s.move m := by
  intro s t h e
  cases m with
  | core c => exact ite_eq_elim e (closes_coreMove c s t h) fun e => nomatch e
  | engine c => exact ite_eq_elim e (closes_engineCycle c s t h) fun e => nomatch e
  | act i => exact closes_actOn i s t h e
  | elapse n => exact closes_timeMove n s t h e

theorem closes_defaultMove : Closes fun s => s.defaultMove := by
  intro s t h e
  obtain ⟨r, hr, e⟩ | ⟨c, e⟩ := defaultMove_of_rows (P := Closes) (fun _ => closes_of_isRow) closes_engineCycle e
  · exact hr s t h e
  · exact closes_move (.core c) s t h e

theorem closes_advance : Closes fun s => s.advance := by
  intro s t h e
  change s.advance = .next t at e
  unfold State.advance at e
  split at e
  · next m ms _ => exact closes_move m { s with tape := ms } t h e
  · exact closes_defaultMove s t h e

end Sys2Proof.Machine

open Sys2Proof Sys2Proof.Machine in
/-- Settles O58: a core's cycle closes the bundle it has issued (R54), a row of an agent leaves the cursor alone, and an engine runs its
micro-op with a cursor of its own that holds no bundle (R74; log entry 7). -/
theorem stepsLeaveNoBundleOpen : Obligations.StepsLeaveNoBundleOpen := fun s t h e => closes_advance s t h e

end
section
/-! A read of EVLOST settles anew every bit that hardware sets at the time of a clear, those of other contexts too (O51; R5, R74). -/

namespace Sys2Proof.Machine

/-- Core 0 is about to run a slot of its context A at a time when the EVLOST of core 1's context A has been set. -/
def lostRace : State :=
  let a := { Arch.reset with raced := [.lost 1 0] }
  ⟨a, { Issue.reset with left := 2, pre := some a }, [], 0⟩

theorem mfs_evlost_sets_other_context : (match exec (.mfs 0 0 0x064) lostRace with
    | .next t => (t.arch.ctx 1 0).ring.lost
    | _ => false) = true := by decide +kernel

end Sys2Proof.Machine

open Sys2Proof Sys2Proof.Machine in
/-- Refutes O51: MFS of EVLOST lets what hardware sets at the time of the clear win (R5), and the model settles that for the EVLOST of
every context that it was set for at this time: the read by context A of core 0 sets the one of core 1's context A. -/
theorem not_slotFrames : ¬ Obligations.SlotFrames := by
  rintro ⟨-, h⟩
  obtain ⟨r, he⟩ := exec_of_inSlot (i := .mfs 0 0 0x064) rfl lostRace
  obtain ⟨-, hother, -⟩ := h (.mfs 0 0 0x064) _ lostRace _ lostRace.arch rfl (by decide) (by decide) (by decide) rfl rfl
    (fun _ _ _ => rfl) he
  have hset := mfs_evlost_sets_other_context
  rw [he] at hset
  simp only [hother 1 0 (.inl (by decide))] at hset
  exact absurd hset (by decide)

end
section
/-! A scratchpad load that the window rule holds back as its bundle commits (O53; R253). -/

namespace Sys2Proof.Machine

/-- Core 255 is about to load the last doubleword of its scratchpad; a mortar port sleeps between its die and another, so that its die
has not announced that die's window of three windows ago as closed (R213, R253). -/
def stalledNear : State :=
  let a : Arch := { Arch.reset.setCore 255 { Core.reset with ctxs := [(1, { Context.reset with g := [(1, 0xFE0000000005FFF8)] })] } with
    clock := 98304, lowPort := [(49, 1)] }
  ⟨a, { Issue.reset with core := 255, ctx := 1, left := 1, len := 6, pre := some a }, [], 0⟩

/-- A free group that no context has left is open to every context (R172). -/
theorem Arch.touchable_of_free {a : Arch} {c x g : Nat} (ho : SMap.get Owner.free (a.core c).owner g = .free)
    (hp : SMap.get none (a.core c).prev g = none) : a.touchable c x g :=
  .inr ⟨ho, fun _ _ h => by cases hp.symm.trans h⟩

theorem quietNear_stalledNear : QuietNear stalledNear 0 3 0x5FFF8 where
  runs := by unfold Runs; decide +kernel
  bare := ⟨by decide, rfl, rfl, rfl, by decide +kernel⟩
  pre := rfl
  plain := by decide +kernel
  size := by decide +kernel
  core := by decide +kernel
  clock := by decide +kernel
  idle := by decide +kernel
  mine := Arch.touchable_of_free rfl rfl
  window := by decide +kernel

theorem ld_stalledNear_waits : (match exec (.ld ⟨0, 2, 1, 0, 3⟩) stalledNear with
    | .next t => t.arch.reqs.isEmpty
    | _ => true) = false := by decide +kernel

end Sys2Proof.Machine

open Sys2Proof Sys2Proof.Machine in
/-- Refutes O53: the window rule holds a read back until its home has announced the earlier window, of a scratchpad too (R253), so a load
of a core's own scratchpad need not be performed as its bundle commits: the access of this one stays under way. -/
theorem not_nearAccessesArePerformedAtCommit : ¬ Obligations.NearAccessesArePerformedAtCommit := by
  intro h
  obtain ⟨-, t, _, he, -, hreqs, -⟩ := h ⟨0, 2, 1, 0, 3⟩ stalledNear 0x5FFF8 quietNear_stalledNear (by decide +kernel)
  have hwaits := ld_stalledNear_waits
  rw [he] at hwaits
  simp only [hreqs] at hwaits
  exact absurd hwaits (by decide)

end
section
/-! Voided bundles and guarded-off slots (O52; R72, R74, R302): where the encoding of a slot's instruction keeps its guard, and what it
does with the guard off. -/

namespace Sys2Proof.Machine

variable {i : Instr} {s : State} {e : Enc}

/-- Every slot has its guard in the low five bits of its word (R84, R91, R96 to R98). -/
theorem packR_guard (op p d a b f : Nat) : ∃ n, packR op p d a b f = p + 32 * n :=
  ⟨op + d * 2 ^ 7 + a * 2 ^ 13 + b * 2 ^ 19 + f * 2 ^ 25, by unfold packR; ring⟩

theorem packI_guard (op p d a imm : Nat) : ∃ n, packI op p d a imm = p + 32 * n :=
  ⟨op + d * 2 ^ 7 + a * 2 ^ 13 + imm * 2 ^ 19, by unfold packI; ring⟩

theorem packB_guard (op p off : Nat) : ∃ n, packB op p off = p + 32 * n := ⟨op + off * 2 ^ 7, by unfold packB; ring⟩

theorem packV_guard (op p ty vd va vb k f : Nat) : ∃ n, packV op p ty vd va vb k f = p + 32 * n :=
  ⟨op + ty * 2 ^ 7 + vd * 2 ^ 11 + va * 2 ^ 19 + vb * 2 ^ 27 + k * 2 ^ 35 + f * 2 ^ 39, by unfold packV; ring⟩

theorem packC_guard (op p a v g imm f : Nat) : ∃ n, packC op p a v g imm f = p + 32 * n :=
  ⟨op + a * 2 ^ 7 + v * 2 ^ 11 + g * 2 ^ 19 + imm * 2 ^ 25 + f * 2 ^ 39, by unfold packC; ring⟩

theorem packM_guard (op p n g : Nat) : ∃ m, packM op p n g = p + 32 * m :=
  ⟨op + n * 2 ^ 4 + g * 2 ^ 12, by unfold packM; ring⟩

theorem packX_guard (op p d a q : Nat) : ∃ n, packX op p d a q = p + 32 * n :=
  ⟨op + d * 2 ^ 4 + a * 2 ^ 12 + q * 2 ^ 20, by unfold packX; ring⟩

/-- With guard `p` off, and no lead to follow, the instruction of a slot does nothing, but that one of the M slot moves the metadata PC. -/
def OffAt (i : Instr) (m : Bool) (p : Nat) : Prop :=
  ∀ s : State, s.iss.follow = none → s.guard p = false → exec i s = .next (s.finish (.ok (if m then s.mpcNext else s)))

theorem State.finish_whenOn_off {p : Nat} {r : SlotR} (h : s.guard p = false) :
    (Host.Outcome.next (s.finish (s.whenOn p r)) : Out) = .next (s.finish (.ok s)) := by rw [State.whenOn_off _ r h]

theorem State.finish_mSlot_off {p : Nat} {r : SlotR} (h : s.guard p = false) :
    (Host.Outcome.next (s.finish (s.mSlot p r)) : Out) = .next (s.finish (.ok s.mpcNext)) := by
  rw [State.mSlot, State.whenOn_off _ r h]; rfl

theorem State.jump_off {p target : Nat} {link : Bool} (hf : s.iss.follow = none) (h : s.guard p = false) :
    (Host.Outcome.next (s.finish (s.jump p target link)) : Out) = .next (s.finish (.ok s)) := by
  simp [State.jump, State.takes, hf, h]

theorem State.loopAny_off {p : Nat} {rotates : Bool} {own : State → State} (hf : s.iss.follow = none) (h : s.guard p = false) :
    (Host.Outcome.next (s.finish (s.loopAny p rotates own)) : Out) = .next (s.finish (.ok s)) := by
  simp only [State.loopAny, hf]; exact State.finish_whenOn_off h

theorem ranges_of_cvtOk {x : VArgs} (h : cvtOk x = true) : x.ranges = true := by
  unfold cvtOk at h
  split at h
  · cases h
  · simp only [Bool.and_eq_true, and_assoc] at h
    exact h.1

/-- Every encoded slot instruction has its guard at the foot of its word, and with it off does nothing but move the metadata PC in the M
slot (R72). -/
theorem enc_guard (hi : i.enc = some e) (hk : e.kind ≠ .u) (hw : i.wf = true) :
    ∃ p < 32, (∃ n, e.word = p + 32 * n) ∧ OffAt i (e.kind == .m) p := by
  cases i with
  | add x | sub x | mul x | mulh x | mulhn x | div x | divn x | mod x | modn x | and x | or x | xor x | andn x | shl x | shr x | sar x
  | min x | max x | minn x | maxn x | ld x | st x | lda x | stl x | amoadd x | amoand x | amoor x | amoxor x | amomin x | amomax x
  | amoswp x | amocas x | amofadd x =>
    simp only [Instr.wf, Bool.and_eq_true, and_assoc] at hw
    cases hi
    exact ⟨x.p, guard_lt hw.1, packR_guard .., fun s _ h => State.finish_whenOn_off h⟩
  | clz p | ctz p | popc p | sext p | zext p | pand p | por p | pxor p | pnot p | pget p | waitev p | evack p | ldf p | ste p | feget p
  | feset p | feclr p | amoaddC p | amoandC p | amoorC p | amoxorC p | amominC p | amomaxC p | amofaddC p | drain p | tstamp p
  | cycles p | nxtile p | tlwait p | tlread p | tladv p | bararr p | opgo p | bfx p | bfi p | cmp p | movhi p | lit p | barinit p
  | barwait p | qpub p =>
    simp only [Instr.wf, Bool.and_eq_true, and_assoc] at hw
    cases hi
    exact ⟨p, guard_lt hw.1, packR_guard .., fun s _ h => State.finish_whenOn_off h⟩
  | addi p | andi p | ori p | xori p | shli p | shri p | sari p | cmpi p | pset p | trap p =>
    simp only [Instr.wf, Bool.and_eq_true, and_assoc] at hw
    cases hi
    exact ⟨p, guard_lt hw.1, packI_guard .., fun s _ h => State.finish_whenOn_off h⟩
  | movi p | mfs p | mts p =>
    simp only [Instr.wf, Bool.and_eq_true, and_assoc] at hw
    cases hi
    exact ⟨p, guard_lt hw.1, packB_guard .., fun s _ h => State.finish_whenOn_off h⟩
  | bankrel p | bankacq p =>
    cases hi
    exact ⟨p, guard_lt hw, packB_guard .., fun s _ h => State.finish_whenOn_off h⟩
  | br p | call p =>
    cases hi
    exact ⟨p, guard_lt hw, packB_guard .., fun s hf h => State.jump_off hf h⟩
  | jmpi p | calli p =>
    simp only [Instr.wf, Bool.and_eq_true] at hw
    cases hi
    exact ⟨p, guard_lt hw.1, packR_guard .., fun s hf h => State.jump_off hf h⟩
  | ret p =>
    cases hi
    exact ⟨p, guard_lt hw, packR_guard .., fun s hf h => State.jump_off hf h⟩
  | loop p | loopR p =>
    cases hi
    exact ⟨p, guard_lt hw, packB_guard .., fun s hf h => State.loopAny_off hf h⟩
  | rotb p | xret p =>
    cases hi
    exact ⟨p, guard_lt hw, packR_guard .., fun s _ h => State.finish_whenOn_off h⟩
  | halt p =>
    cases hi
    refine ⟨p, guard_lt hw, packR_guard .., fun s hf h => ?_⟩
    simp only [exec, execHalt, hf]
    exact State.finish_whenOn_off h
  | vadd x | vsub x | vmul x | vmulh x | vfma x | vfms x | vmin x | vmax x | vabs x | vneg x | vand x | vor x | vxor x | vshl x | vshr x
  | vsar x | vcmp x | vsel x | vmov x | vsplat x | vbcast x | vperm x | vslide x | vext x | vins x | vwadd x | vwmul x | vwfma x
  | vnarr x | vdot x | vredadd x | vredmax x | vredmin x | vscan x | vexp2 x | vlog2 x | vrcp x | vrsq x | vtanh x | vclz x | vpopc x
  | viota x | vcomp x | vdrop x | vrand x | kand x | kor x | kxor x | knot x | kcnt x =>
    simp only [Instr.wf, VArgs.elt, VArgs.unary, VArgs.wide, VArgs.red, VArgs.special, VArgs.mask, Bool.and_eq_true, and_assoc] at hw
    cases hi
    exact ⟨x.p, (ranges_parts hw.1).1, packV_guard .., fun s _ h => State.finish_whenOn_off h⟩
  | vcvt x =>
    cases hi
    exact ⟨x.p, (ranges_parts (ranges_of_cvtOk hw)).1, packV_guard .., fun s _ h => State.finish_whenOn_off h⟩
  | ldv p | ldvZ p | stv p | scfg p | sld p | sst p | sgath p | sscat p | samo p | sadv p | stasht p =>
    simp only [Instr.wf, Bool.and_eq_true, and_assoc] at hw
    cases hi
    exact ⟨p, guard_lt hw.1, packC_guard .., fun s _ h => State.finish_whenOn_off h⟩
  | mcall p | mpar p | mpload p | mdrain p | mstat p =>
    simp only [Instr.wf, Bool.and_eq_true, and_assoc] at hw
    cases hi
    exact ⟨p, guard_lt hw.1, packM_guard .., fun s _ h => State.finish_mSlot_off h⟩
  | xexp p | xpak p | xtrn p | xcvt p | xqnt p | xdqn p | xacc p =>
    simp only [Instr.wf, Bool.and_eq_true, and_assoc] at hw
    cases hi
    exact ⟨p, guard_lt hw.1, packX_guard .., fun s _ h => State.finish_whenOn_off h⟩
  | mxldb | mxstream | mxstreamS | mxacc | mxclr | mxloopImm | mxloopReg | mxend | mxwaitb | mxarr | mxskip | mxpar | mxaddp | mxsync =>
    cases hi; exact absurd rfl hk
  | _ => cases hi

/-- A trap is taken in the module as it was before the bundle, with the issues still owed (R74, R302). -/
theorem State.trapNow_arch (s : State) (cause slot step arg info : Nat) : (s.trapNow cause slot step arg info).arch =
    s.view.raise s.iss.core s.iss.ctx cause slot step arg info (s.rd.owed.getD (s.iss.rep + 1)) := by
  simp only [State.trapNow, State.setIss_arch, State.setArch_arch]
  rfl

theorem guardedOffSlotsDoNothing : GuardedOffSlotsDoNothing := by
  intro i e s hi hk hw ht hf hg
  obtain ⟨p, hp, ⟨n, hn⟩, hoff⟩ := enc_guard hi hk hw
  have hb : bits e.word 4 0 = p := by simp only [bits, hn]; omega
  rw [hoff s hf (hb ▸ hg), State.finish_ok _ _ ht]
  by_cases hm : e.kind = .m
  · cases hs : s.iss.mpcSet <;> simp [hm, hs, State.mpcNext]
  · simp [hm]

end Sys2Proof.Machine

open Sys2Proof Sys2Proof.Machine in
/-- Settles O52: a trap rolls the module back and marks the bundle trapped, and every slot's instruction answers through
`State.finish`, which then does nothing (R74, R302); with its guard off each answers with the state it was given (R72). -/
theorem voidedAndGuardedSlots : Obligations.VoidedAndGuardedSlots := by
  refine ⟨fun s cause slot step arg info => ⟨s.trapNow_arch .., rfl, rfl, rfl, fun i e t hi hk ht => ?_⟩, guardedOffSlotsDoNothing⟩
  obtain ⟨r, hr⟩ := exec_of_inSlot (i := i) (by simpa [inSlot, hi] using hk) t
  rw [hr, State.finish_trapped _ _ ht]

end
section
/-! A step runs what was decoded (O54; R54 to R58, R80, R104): one equation for each function on the way from the tape to `exec`. -/

namespace Sys2Proof.Machine

variable {s : State} {c x : Nat}

@[simp] theorem outBind_next (t : State) (f : State → Out) : outBind (.next t) f = f t := rfl

theorem outBind_assoc (o : Out) (f g : State → Out) : outBind (outBind o f) g = outBind o fun t => outBind (f t) g := by
  cases o <;> rfl

/-- What a context that is no gang does after its bundle (R54, R135, R312). -/
def State.noted (t : State) (c x occ : Nat) : State :=
  if t.iss.held.isSome then t
  else if t.iss.trap.isSome then t.stepped c x
  else (t.setArch (t.arch.noteS (if x = 2 then 0 else occ) [c])).stepped c x

theorem State.offerOne_out : (s.offerOne c x).out =
    outBind (s.issue c x (s.arch.fetch c x) none) fun t => .next (t.noted c x (decOcc (s.arch.fetch c x))) := by
  unfold State.offerOne State.noted
  dsimp only
  split
  · next h => rw [h, outBind_next]; split_ifs <;> rfl
  · next o h => cases hi : s.issue c x (s.arch.fetch c x) none with
    | next t => exact absurd hi (h t)
    | _ => rfl

/-- A bundle whose slots pass the checks runs slot by slot (R80, R104). -/
theorem State.issue_bundle {b : Bundle} {follow : Option Branch} (hx : x < 2)
    (hb : b.slots.find? ((s.begin c x (max 1 b.slots.length) b.len b.rep follow).rd.slotFails x) = none) :
    s.issue c x (.bundle b) follow =
      if b.slots = [] then exec (.nop b.rep) (s.begin c x (max 1 b.slots.length) b.len b.rep follow)
      else runSlots (s.begin c x (max 1 b.slots.length) b.len b.rep follow) b.slots := by
  simp [State.issue, hb, (show x ≠ 2 by omega)]

theorem State.offer_ready (hm : s.arch.members c x = [c]) (hr : (s.arch.begin c x).ready c x = .issue) :
    s.offer c x = (s.setArch (s.arch.begin c x)).offerOne c x := by
  simp [State.offer, hm, State.offerAlone, hr]

/-- Where context B asks for nothing, a cycle runs A's bundle, and B has its turn after it (R54). -/
theorem State.mergeCycle_of_b_idle (hb : (s.offer c 1).occ = none) : s.mergeCycle c = outBind (s.offer c 0).out fun t =>
    if (t.offer c 1).occ.isNone then (t.offer c 1).out else .next (t.keepHold (s.offer c 1) c) := by
  unfold State.mergeCycle
  dsimp only
  rw [hb]

/-- A cycle in which the core may issue (R54, R328). -/
theorem State.coreCycle_of_permitted :
    let u := s.setArch (((s.arch.drainCycle c).edge c).serveTiles (c / 32))
    let k := u.arch.core c
    (u.arch.brick (c / 32)).lost = false → u.arch.power.tripped = false → k.stretchLeft ≤ 1 →
      k.permits u.arch.power.clamp.toNat = true → k.clockHeld = false →
      s.coreCycle c = outBind (outBind (u.mergeCycle c) fun t => t.shadowCycle c) fun t =>
        .next ((t.setArch ((t.arch.deferredActs c).mapCore c Core.afterEdge)).setIss t.iss.rest) := by
  intro u k hl ht hs hp hc
  have hclocked : u.arch.clocked c = true := by simp [Arch.clocked, hl, ht]
  unfold State.coreCycle
  simp only [show s.setArch (((s.arch.drainCycle c).edge c).serveTiles (c / 32)) = u from rfl, show u.arch.core c = k from rfl,
    hclocked, hp, hc, Nat.not_lt.mpr hs, Bool.not_true, Bool.false_eq_true, if_false]

/-- The move on the tape is made with the rest of the tape ahead (log entry 5). -/
theorem step_of_tape {m : Move} {rest : List Move} (h : s.tape = m :: rest) : step s = ({ s with tape := rest } : State).move m := by
  simp only [step, State.advance, h]

theorem State.coreMove_of_release {T l : Nat} (h : s.arch.releaseBy (s.arch.edgeAt (s.arch.dueCore c)) = some (T, l)) :
    s.coreMove c = s.releaseAt T l := by simp [State.coreMove, h]

theorem State.coreMove_of_no_release (h : s.arch.releaseBy (s.arch.edgeAt (s.arch.dueCore c)) = none) :
    s.coreMove c = s.coreCycle (s.arch.dueCore c) := by simp [State.coreMove, h]

theorem stepRunsTheDecodedBundle : StepRunsTheDecodedBundle := by
  refine ⟨fun s c rest b ht hc hd hr => ?bundle, fun s c T l rest ht hc hr => ?release, fun s => rfl, fun s q qs i hi => ?slot⟩
  case bundle =>
    intro s1 k hlost htrip hstretch hpermits hheld hmembers hb s2 hready hfetch s3 hfails
    have hmove : step s = State.coreCycle { s with tape := rest } c := by
      rw [step_of_tape ht, State.move, if_pos hc, State.coreMove_of_no_release] <;> rw [hd]
      exact hr
    rw [hmove, State.coreCycle_of_permitted hlost htrip hstretch hpermits hheld, State.mergeCycle_of_b_idle hb,
      State.offer_ready hmembers hready, State.offerOne_out, hfetch, State.issue_bundle (by decide) hfails]
    simp only [outBind_assoc, outBind_next]
    exact congrArg _ (funext fun t => (outBind_assoc ..).symm)
  case release =>
    rw [step_of_tape ht, State.move, if_pos hc]
    exact State.coreMove_of_release (s := { s with tape := rest }) hr
  case slot => simp only [runSlots, hi]; rfl

theorem isRow_of_no_enc {i : Instr} (he : i.enc = none) (hn : ∀ r, i ≠ .nop r) : isRow i = true := by
  unfold isRow
  rw [he]
  split
  · next r => exact absurd rfl (hn r)
  · rfl

/-- A row of the event table acts while the Bricks' clocks run (R327). -/
theorem State.actOn_of_row {i : Instr} (hw : i.wf = true) (hr : isRow i = true) (hp : s.arch.power.tripped = false) :
    s.actOn i = exec i s := by
  refine if_pos ?_
  rw [hw, hp, Bool.true_and]
  change (isRow i && !(false && Instr.onBrick i)) = true
  rw [hr]
  rfl

theorem stepRunsMicroOpsAndRows : StepRunsMicroOpsAndRows := by
  intro s rest s'
  refine ⟨fun c q i ht hc hclocked hstop hrun hi => ?micro, fun c m ht hc hclocked hstop hrun hm => ?command,
    fun i ht hw he hn hp => ?row, fun n ht hedge hr => ?time⟩
  case micro =>
    rw [step_of_tape ht, State.move, if_pos hc, State.engineCycle]
    simp only [hclocked, hstop, hrun, hi, Bool.not_true, Bool.or_false, Bool.false_eq_true, if_false]
    rfl
  case command =>
    rw [step_of_tape ht, State.move, if_pos hc, State.engineCycle]
    simp [hclocked, hstop, hrun, hm]
    rfl
  case row =>
    rw [step_of_tape ht]
    exact State.actOn_of_row hw (isRow_of_no_enc he hn) hp
  case time =>
    have hmin : min (s.arch.clock + n) (s.arch.nextEdge.getD (s.arch.clock + n)) = s.arch.clock + n := by
      cases h : s.arch.nextEdge with
      | none => exact min_self _
      | some t => exact min_eq_left (hedge t h)
    rw [step_of_tape ht, State.move, State.timeMove]
    simp only [hmin, hr, Nat.add_sub_cancel_left]
    rfl

end Sys2Proof.Machine

open Sys2Proof Sys2Proof.Machine in
/-- Settles O54: the step is unfolded from the tape down to `exec`, each function by its own equation (R54 to R58, R80, R104; log
entries 5 and 69). -/
theorem stepsRunExec : Obligations.StepsRunExec := ⟨stepRunsTheDecodedBundle, stepRunsMicroOpsAndRows⟩

end
section
/-! Loops and the end of a program (O6; R71, R79, R302, R342, R348, R384, R422): a slot that runs answers with its state, and what LOOP and
LOOP.R make of LC, EC and p8. -/

namespace Sys2Proof.Machine

variable {s : State} {p : Nat}

theorem State.transfer_of_lead (h : s.iss.follow = none) (pc b : Nat) : s.transfer pc b = s.branchTo (.to pc b) := by
  unfold State.transfer
  split
  · next hs => cases h.symm.trans hs
  · rfl

theorem branchTarget_eq (pc : Nat) (off : Int) : branchTarget pc off = relTarget pc off := by
  simp [branchTarget, relTarget, wrap, pow2]

theorem Runs.finish_loopAny (h : Runs s p) (hf : s.iss.follow = none) (rotates : Bool) (own : State → State) :
    s.finish (s.loopAny p rotates own) = (own s).slotDone := by
  simp only [State.loopAny, hf]; exact finish_whenOn_of_runs h

theorem State.loopPlain_zero (h : s.rd.lc = 0) (tgt : Nat) : s.loopPlain tgt = s := if_pos h

theorem State.loopPlain_counts (h : s.rd.lc ≠ 0) (hf : s.iss.follow = none) (tgt : Nat) :
    s.loopPlain tgt = (s.upd (fun t => { t with lc := s.rd.lc - 1 })).branchTo (.to tgt 0) := by
  rw [State.loopPlain, if_neg h]; exact State.transfer_of_lead (by simpa using hf) ..

/-- p8 after one more rotation is the register of rp - 1 (R70). -/
theorem landP8_rotated {f : Context → Context} (h : (f s.cur).rp = s.cur.rp - 1) (x : Bool) :
    (s.upd f).landP8 x = (s.upd f).result .p (8 + (s.cur.rp - 1).toNat) full4096 (if x then 1 else 0) 1 := by
  have hreg : (f s.cur).physP 8 = 8 + (s.cur.rp - 1).toNat := by
    have := (s.cur.rp - 1).isLt
    simp only [Context.physP, h, Nat.le_refl, if_true]
    omega
  rw [State.landP8, State.upd_cur, hreg]

theorem State.loopRotate_zero (hl : s.rd.lc = 0) (he : s.rd.ec = 0) (tgt : Nat) : s.loopRotate tgt = s := by
  simp [State.loopRotate, hl, he]

/-- While LC lasts the loop starts another iteration, and p8 is 1 (R71). -/
theorem State.loopRotate_counts (h : s.rd.lc ≠ 0) (hf : s.iss.follow = none) (tgt : Nat) : s.loopRotate tgt =
    ((s.upd (fun t => { turned t with lc := s.rd.lc - 1 })).result .p (8 + (s.cur.rp - 1).toNat) full4096 1 1).branchTo (.to tgt 0) := by
  rw [State.loopRotate, if_pos h, landP8_rotated rfl]
  exact State.transfer_of_lead (by simpa using hf) ..

/-- While EC lasts the pipeline drains, and p8 is 0 (R71). -/
theorem State.loopRotate_drains (hl : s.rd.lc = 0) (he : s.rd.ec ≠ 0) (hf : s.iss.follow = none) (tgt : Nat) : s.loopRotate tgt =
    ((s.upd (fun t => { turned t with ec := s.rd.ec - 1 })).result .p (8 + (s.cur.rp - 1).toNat) full4096 0 1).branchTo (.to tgt 0) := by
  rw [State.loopRotate, if_neg (not_not.mpr hl), if_pos he, landP8_rotated rfl]
  exact State.transfer_of_lead (by simpa using hf) ..

theorem loopsCountAndRotate : LoopsCountAndRotate := by
  intro p off s h hf tgt p8
  have hloop : exec (.loop p off) s = .next (s.loopPlain (relTarget s.rd.pc off.toInt)).slotDone := by
    rw [← branchTarget_eq]; exact congrArg _ (h.finish_loopAny hf ..)
  have hloopR : exec (.loopR p off) s = .next (s.loopRotate (relTarget s.rd.pc off.toInt)).slotDone := by
    rw [← branchTarget_eq]; exact congrArg _ (h.finish_loopAny hf ..)
  rw [hloop, hloopR]
  exact ⟨fun hl => by rw [State.loopPlain_counts hl hf], fun hl => by rw [State.loopPlain_zero hl],
    fun hl => by rw [State.loopRotate_counts hl hf], fun hl he => by rw [State.loopRotate_drains hl he hf],
    fun hl he => by rw [State.loopRotate_zero hl he], congrArg _ (finish_whenOn_of_runs h)⟩

theorem programEndsAtCommit : ProgramEndsAtCommit := by
  intro p n s h hf
  refine ⟨?halt, congrArg _ (finish_whenOn_of_runs h), fun hm => ?xret, congrArg _ (State.finish_ok _ _ h.1)⟩
  case halt =>
    have hr : (match s.iss.follow with
        | some _ => .ok s
        | none => s.whenOn p (.ok (s.branchTo .halt))) = s.whenOn p (.ok (s.branchTo .halt)) := by rw [hf]
    exact congrArg _ ((congrArg s.finish hr).trans (finish_whenOn_of_runs h))
  case xret =>
    have hx : s.xret p = .ok (s.branchTo .xret) := by simp [State.xret, hf, hm, State.branchTo]
    simp only [exec, execXret, hx]
    exact congrArg _ (finish_whenOn_of_runs h)

end Sys2Proof.Machine

open Sys2Proof Sys2Proof.Machine in
/-- Settles O6: LOOP and LOOP.R by the cases of LC and EC (R71), the others by the answer of a slot whose guard is on (R79, R302, R342,
R348, R384, R422; log entry 21). -/
theorem loopsRotateAndProgramsEnd : Obligations.LoopsRotateAndProgramsEnd := ⟨loopsCountAndRotate, programEndsAtCommit⟩

end
section
/-! Loads and stores (O10; R61, R89, R218, R220, R350, R377 to R379): effective addresses, the words of the copy aperture, and the
answers of `State.load` and `State.store`. -/

namespace Sys2Proof.Machine

variable {s : State} {p : Nat}

/-- The address of R89, as the statements write it. -/
theorem effAddr_eq_addrOf {n : Nat} (g : Word) (off : BitVec n) (scale : Nat) : effAddr g off.toInt scale = addrOf g off scale := by
  have h : g + off.signExtend 64 * BitVec.ofNat 64 scale = BitVec.ofInt 64 (Int.ofNat g.toNat + off.toInt * Int.ofNat scale) := by
    rw [BitVec.ofInt_add, BitVec.ofInt_mul]
    simp [BitVec.signExtend]
  rw [addrOf, h, BitVec.toNat_ofInt, effAddr, wrap, pow2]
  norm_num

/-- Word `i` of channel `n` in the aperture (R218). -/
theorem apertureOf_word {va n i : Nat} (hn : n < 16) (hi : i < 8) (h : va = 0xFE00000000100000 + 64 * n + 8 * i) :
    apertureOf va = some (64 * n + 8 * i) := by
  have hin : va / 2 ^ 56 = 0xFE ∧ 0x100000 ≤ va % 2 ^ 56 ∧ va % 2 ^ 56 < 0x100400 := by omega
  have ho : va % 2 ^ 56 - 0x100000 = 64 * n + 8 * i := by omega
  exact (if_pos hin).trans (congrArg some ho)

theorem State.load_range {d ea sz : Nat} {acq : Option Nat} {r : Range} (ha : apertureOf ea = none)
    (hr : s.range ea (2 ^ sz) (2 ^ sz) true false (sz == 3) = .ok r) : s.load d ea sz acq = .ok (s.loads d r acq) := by
  simp only [State.load, ha, hr]
  rfl

theorem State.store_range {g ea sz : Nat} {rel : Option Nat} {r : Range} (ha : apertureOf ea = none)
    (hr : s.range ea (2 ^ sz) (2 ^ sz) false true (sz == 3) = .ok r) :
    s.store g ea sz rel = .ok (s.storeRange r ((s.rd.readG g).toNat % 2 ^ (8 * 2 ^ sz)) rel) := by
  simp only [State.store, ha, hr]
  rfl

/-- A word of the aperture takes an aligned LD.D and ST.D of a program (R218). -/
theorem State.load_aperture {d ea o : Nat} (hx : s.iss.ctx < 2) (ha : apertureOf ea = some o) (h8 : ea % 8 = 0) :
    s.load d ea 3 none = .ok (s.apertureLoad d o) := by
  simp [State.load, ha, h8, hx]

theorem State.store_aperture {g ea o : Nat} (hx : s.iss.ctx < 2) (ha : apertureOf ea = some o) (h8 : ea % 8 = 0) :
    s.store g ea 3 none = .ok (s.apertureStore o (s.rd.readG g)) := by
  simp [State.store, ha, h8, hx]

theorem memEa_eq (s : State) (x : MemArgs) : s.memEa x = addrOf (s.rd.readG x.a) x.off (2 ^ x.sz) := effAddr_eq_addrOf ..
theorem scopeEa_eq (s : State) (x : ScopeArgs) : s.scopeEa x = addrOf (s.rd.readG x.a) x.off (2 ^ x.sz) := effAddr_eq_addrOf ..

theorem exec_ld_of {x : MemArgs} {t : State} (h : Runs s x.p) (hl : s.load x.d (addrOf (s.rd.readG x.a) x.off (2 ^ x.sz)) x.sz none = .ok t) :
    exec (.ld x) s = .next t.slotDone := by
  simp only [exec, execLd, memEa_eq, hl, finish_whenOn_of_runs h]

theorem exec_st_of {x : MemArgs} {t : State} (h : Runs s x.p)
    (hl : s.store x.d (addrOf (s.rd.readG x.a) x.off (2 ^ x.sz)) x.sz none = .ok t) : exec (.st x) s = .next t.slotDone := by
  simp only [exec, execSt, memEa_eq, hl, finish_whenOn_of_runs h]

theorem loadsComplete : LoadsComplete := by
  refine ⟨fun x s r h => fun ha hr => exec_ld_of h (State.load_range ha hr), fun x s r h => fun ha hr => ?lda,
    fun x s n i h hx hsz hn hi hea => exec_ld_of h ?word⟩
  case lda => simp only [exec, execLda, scopeEa_eq, State.load_range ha hr, finish_whenOn_of_runs h]
  case word =>
    simp only [hsz, Nat.reducePow]
    rw [State.load_aperture hx (apertureOf_word hn hi hea) (by omega), State.apertureLoad,
      show (64 * n + 8 * i) / 64 = n by omega, show (64 * n + 8 * i) % 64 / 8 = i by omega]

/-- A store to a word of the aperture other than 0 (R218). -/
theorem State.apertureStore_word {n i : Nat} (hi : i < 8) (h0 : i ≠ 0) (x : Word) :
    s.apertureStore (64 * n + 8 * i) x = s.upd fun t => t.setChan n ((t.chan n).setWord i x) := by
  rw [State.apertureStore, if_neg (by omega), show (64 * n + 8 * i) / 64 = n by omega, show (64 * n + 8 * i) % 64 / 8 = i by omega]
  rfl

theorem State.apertureStore_start {n : Nat} (x : Word) :
    s.apertureStore (64 * n + 8 * 0) x = s.setArch (s.arch.startCopy s.iss.core s.iss.ctx n x s.rd.bt) := by
  rw [State.apertureStore, if_pos (by omega), show (64 * n + 8 * 0) / 64 = n by omega]

/-- The context as a start store leaves it (R220). -/
theorem State.cur_startCopy {n : Nat} (x : Word) : (s.setArch (s.arch.startCopy s.iss.core s.iss.ctx n x s.rd.bt)).cur =
    { s.cur.setChan n { s.cur.chan n with start := some x, startBt := s.rd.bt, startOrd := s.arch.nextId } with
      wait := some ⟨.start, 0, n, false, n⟩ } := by
  simp only [State.cur, Arch.startCopy, Arch.mapChan, State.setArch_arch, State.setArch_iss, Arch.ctx_mapCtx]
  rfl

theorem storesComplete : StoresComplete := by
  refine ⟨fun x s r h => fun ha hr => exec_st_of h (State.store_range ha hr), fun x s r h => fun ha hr => ?stl,
    fun x s n i h hx hsz hn hi hea => ⟨s.apertureStore (64 * n + 8 * i) (s.rd.readG x.d), exec_st_of h ?aligned, ?word⟩⟩
  case stl => simp only [exec, execStl, scopeEa_eq, State.store_range ha hr, finish_whenOn_of_runs h]
  case aligned =>
    simp only [hsz, Nat.reducePow]
    exact State.store_aperture hx (apertureOf_word hn hi hea) (by omega)
  case word =>
    by_cases h0 : i = 0
    · subst h0
      rw [State.apertureStore_start]
      refine ⟨rfl, rfl, fun _ => ?_, nofun, nofun, nofun, nofun, fun m hm => ?_⟩
      · rw [State.cur_startCopy]
        exact ⟨congrArg Chan.start (Context.chan_setChan ..), rfl⟩
      · rw [State.cur_startCopy]
        exact Context.chan_setChan_other _ _ hm
    · rw [State.apertureStore_word hi h0, State.upd_cur]
      refine ⟨rfl, rfl, fun h => absurd h h0, ?_, ?_, ?_, ?_, fun m hm => Context.chan_setChan_other _ _ hm⟩ <;> rintro rfl <;>
        rw [Context.chan_setChan] <;> rfl

end Sys2Proof.Machine

open Sys2Proof Sys2Proof.Machine in
/-- Settles O10: the checked range and the words of the aperture each give the answer of `State.load` and `State.store` (R61, R218, R220,
R350, R377 to R379) at the effective address of R89. -/
theorem loadsAndStores : Obligations.LoadsAndStores := ⟨loadsComplete, storesComplete⟩

end
section
/-! How a memory instruction stops (O15; R74, R175, R301, log entry 11): what a check of its addresses answers, its slot answers, so each
instruction needs only the range that it checks. -/

namespace Sys2Proof.Machine

variable {s : State} {p : Nat} {i : Instr}

theorem trapNow_of_runs (h : Runs s p) {c n st g : Nat} : s.finish (s.whenOn p (.trap c n st g)) = s.trapNow c s.iss.pos st g n := by
  rw [State.whenOn_on _ _ h.2, State.finish_trap _ h.1]

/-- A slot that answers as the checks do stops as they say (R74, R175, R301). -/
theorem stopsAs_of_answer {r : SlotR} {trap : Nat → Nat → Nat → Prop} {hold : Hold → Prop} {stall : Hold → Arch → Prop}
    (h : Runs s p) (he : exec i s = .next (s.finish (s.whenOn p r))) (ht : ∀ c n g, trap c n g → r = .trap c n 9 g)
    (hh : ∀ k, hold k → r = .hold k) (hs : ∀ k a, stall k a → r = .stall k a) : StopsAs i s trap hold stall := by
  rw [State.whenOn_on _ _ h.2] at he
  refine ⟨fun c n g hq => ?_, fun k hq => ?_, fun a hq => ?_, fun k a hk hq => ?_⟩
  · rw [he, ht c n g hq, State.finish_trap _ h.1]
  · rw [he, hh k hq, State.finish_hold _ h.1]
  · rw [he, hs _ a hq, State.finish_stash _ h.1]; rfl
  · rw [he, hs k a hq, State.finish_stall _ h.1 hk]

theorem follows_of_bind {q : RangeR} {f : Range → SlotR} (h : Runs s p) (he : exec i s = .next (s.finish (s.whenOn p (q.bind f)))) :
    Follows i s q :=
  stopsAs_of_answer h he (fun _ _ _ hq => by rw [hq]; rfl) (fun _ hq => by rw [hq]; rfl) fun _ _ hq => by rw [hq]; rfl

theorem followsAll_of_bind {q : RangesR} {f : List (Nat × Range) → SlotR} (h : Runs s p)
    (he : exec i s = .next (s.finish (s.whenOn p (q.bind f)))) : FollowsAll i s q :=
  stopsAs_of_answer h he (fun _ _ _ hq => by rw [hq]; rfl) (fun _ hq => by rw [hq]; rfl) fun _ _ hq => by rw [hq]; rfl

-- ## Scalar loads, stores and atomics

theorem State.load_eq_bind {d ea sz : Nat} {acq : Option Nat} (ha : apertureOf ea = none) :
    ∃ f, s.load d ea sz acq = (s.range ea (2 ^ sz) (2 ^ sz) true false (sz == 3)).bind f := by
  simp only [State.load, ha]; exact ⟨_, rfl⟩

theorem State.store_eq_bind {g ea sz : Nat} {rel : Option Nat} (ha : apertureOf ea = none) :
    ∃ f, s.store g ea sz rel = (s.range ea (2 ^ sz) (2 ^ sz) false true (sz == 3)).bind f := by
  simp only [State.store, ha]; exact ⟨_, rfl⟩

/-- What the aperture refuses is an address fault (R218). -/
theorem State.load_refused {d ea sz : Nat} {acq : Option Nat} (ha : apertureOf ea ≠ none)
    (h : ¬ (sz = 3 ∧ acq = none ∧ ea % 8 = 0 ∧ s.iss.ctx < 2)) : s.load d ea sz acq = .trap 4 ea 9 0 := by
  obtain ⟨o, ho⟩ := Option.ne_none_iff_exists'.mp ha
  simp only [State.load, ho]
  refine if_neg ?_
  simp only [Bool.and_eq_true, beq_iff_eq, decide_eq_true_eq, Option.isNone_iff_eq_none]
  exact fun ⟨⟨⟨h3, hn⟩, h8⟩, hx⟩ => h ⟨h3, hn, h8, hx⟩

theorem State.store_refused {g ea sz : Nat} {rel : Option Nat} (ha : apertureOf ea ≠ none)
    (h : ¬ (sz = 3 ∧ rel = none ∧ ea % 8 = 0 ∧ s.iss.ctx < 2)) : s.store g ea sz rel = .trap 4 ea 9 0 := by
  obtain ⟨o, ho⟩ := Option.ne_none_iff_exists'.mp ha
  simp only [State.store, ho]
  refine if_neg ?_
  simp only [Bool.and_eq_true, beq_iff_eq, decide_eq_true_eq, Option.isNone_iff_eq_none]
  exact fun ⟨⟨⟨h3, hn⟩, h8⟩, hx⟩ => h ⟨h3, hn, h8, hx⟩

theorem exec_ld (x : MemArgs) : exec (.ld x) s =
    .next (s.finish (s.whenOn x.p (s.load x.d (addrOf (s.rd.readG x.a) x.off (2 ^ x.sz)) x.sz none))) := by
  rw [← memEa_eq]; rfl

theorem exec_st (x : MemArgs) : exec (.st x) s =
    .next (s.finish (s.whenOn x.p (s.store x.d (addrOf (s.rd.readG x.a) x.off (2 ^ x.sz)) x.sz none))) := by
  rw [← memEa_eq]; rfl

theorem exec_lda (x : ScopeArgs) : exec (.lda x) s =
    .next (s.finish (s.whenOn x.p (s.load x.d (addrOf (s.rd.readG x.a) x.off (2 ^ x.sz)) x.sz (some x.scope)))) := by
  rw [← scopeEa_eq]; rfl

theorem exec_stl (x : ScopeArgs) : exec (.stl x) s =
    .next (s.finish (s.whenOn x.p (s.store x.d (addrOf (s.rd.readG x.a) x.off (2 ^ x.sz)) x.sz (some x.scope)))) := by
  rw [← scopeEa_eq]; rfl

theorem follows_load {d ea sz : Nat} {acq : Option Nat} (h : Runs s p) (ha : apertureOf ea = none)
    (he : exec i s = .next (s.finish (s.whenOn p (s.load d ea sz acq)))) :
    Follows i s (s.range ea (2 ^ sz) (2 ^ sz) true false (sz == 3)) := by
  obtain ⟨f, hf⟩ := State.load_eq_bind (s := s) (d := d) (sz := sz) (acq := acq) ha
  exact follows_of_bind h (hf ▸ he)

theorem follows_store {g ea sz : Nat} {rel : Option Nat} (h : Runs s p) (ha : apertureOf ea = none)
    (he : exec i s = .next (s.finish (s.whenOn p (s.store g ea sz rel)))) :
    Follows i s (s.range ea (2 ^ sz) (2 ^ sz) false true (sz == 3)) := by
  obtain ⟨f, hf⟩ := State.store_eq_bind (s := s) (g := g) (sz := sz) (rel := rel) ha
  exact follows_of_bind h (hf ▸ he)

theorem scalarAccessesStop : ScalarAccessesStop := by
  refine ⟨fun x s h => ⟨fun ha => ⟨follows_load h ha (exec_ld x), follows_store h ha (exec_st x)⟩, fun ha hr => ?plain⟩,
    fun x s h => ⟨fun ha => ⟨follows_load h ha (exec_lda x), follows_store h ha (exec_stl x)⟩, fun ha => ?ordered⟩,
    fun x s h => ⟨?atomics, ?floats⟩⟩
  case plain =>
    exact ⟨by rw [exec_ld, State.load_refused ha fun ⟨h3, _, h8, hx⟩ => by omega, trapNow_of_runs h],
      by rw [exec_st, State.store_refused ha fun ⟨h3, _, h8, hx⟩ => by omega, trapNow_of_runs h]⟩
  case ordered =>
    exact ⟨by rw [exec_lda, State.load_refused ha (by simp), trapNow_of_runs h],
      by rw [exec_stl, State.store_refused ha (by simp), trapNow_of_runs h]⟩
  case atomics =>
    simp only [List.forall_mem_cons, List.not_mem_nil, false_imp_iff, implies_true, and_true]
    refine ⟨?_, ?_, ?_, ?_, ?_, ?_, ?_, ?_, ?_, ?_, ?_, ?_, ?_, ?_⟩ <;> exact follows_of_bind h rfl
  case floats =>
    simp only [List.forall_mem_cons, List.not_mem_nil, false_imp_iff, implies_true, and_true]
    refine ⟨?_, ?_⟩ <;> exact follows_of_bind h rfl

-- ## The other memory instructions

/-- The pattern words that the instructions take (R223). -/
theorem patBad_of_fields {a : Nat} (h7 : a / 2 ^ 224 % 8 ≠ 7) (h230 : a / 2 ^ 230 % 4 = 0) (h251 : a / 2 ^ 251 % 32 = 0) :
    patBad a = false := by
  have h7 : patEsz a ≠ 7 := h7
  have h230 : bits a 231 230 = 0 := h230
  have h251 : bits a 255 251 = 0 := h251
  simp [patBad, h7, h230, h251]

theorem followsAll_streamLoad {v n lat : Nat} {ind : Bool} (h : Runs s p) (hp : patBad (s.rd.readA n).toNat = false)
    (he : exec i s = .next (s.finish (s.whenOn p (s.streamLoad v n lat ind)))) :
    FollowsAll i s (s.elements (s.rd.readA n).toNat (ind && patInd (s.rd.readA n).toNat) true false (s.uses n) none []) := by
  simp only [State.streamLoad, hp] at he
  exact followsAll_of_bind h he

theorem followsAll_streamStore {v n : Nat} {ind : Bool} (h : Runs s p) (hp : patBad (s.rd.readA n).toNat = false)
    (he : exec i s = .next (s.finish (s.whenOn p (s.streamStore v n ind)))) :
    FollowsAll i s (s.elements (s.rd.readA n).toNat (ind && patInd (s.rd.readA n).toNat) false true (s.uses n) none []) := by
  simp only [State.streamStore, hp] at he
  exact followsAll_of_bind h he

theorem followsAll_samo {v n op : Nat} (h : Runs s p) (hp : patBad (s.rd.readA n).toNat = false)
    (hs : samoSize op (patEsz (s.rd.readA n).toNat) = true) (he : exec i s = .next (s.finish (s.whenOn p (s.samo v n op)))) :
    FollowsAll i s (s.elements (s.rd.readA n).toNat (patInd (s.rd.readA n).toNat) true true (s.uses n) none []) := by
  simp only [State.samo, hp, hs] at he
  exact followsAll_of_bind h he

theorem otherAccessesStop : OtherAccessesStop := by
  refine ⟨fun p d a off b s h => ?words, fun p v g imm s h => ?vectors, fun p v n s h => ?streams, fun p a s h hx => ?opgo⟩
  case words =>
    intro ea ga
    have hea : s.dwordEa a off = ea := effAddr_eq_addrOf ..
    rw [← hea]
    simp only [List.forall_mem_cons, List.not_mem_nil, false_imp_iff, implies_true, and_true]
    exact ⟨⟨follows_of_bind h rfl, follows_of_bind h rfl⟩, ⟨follows_of_bind h rfl, follows_of_bind h rfl, follows_of_bind h rfl⟩,
      follows_of_bind h rfl, follows_of_bind h rfl, follows_of_bind h rfl⟩
  case vectors =>
    intro ea
    have hea : s.cEa g imm 64 = ea := effAddr_eq_addrOf ..
    have hcfg : s.cEa g imm 32 = addrOf (s.rd.readG g) imm 32 := effAddr_eq_addrOf ..
    rw [← hea, ← hcfg]
    refine ⟨follows_of_bind h rfl, fun hn => ?_, follows_of_bind h rfl, follows_of_bind h rfl⟩
    refine follows_of_bind h (f := fun r => .ok (s.loadRange r .v (s.rd.physV v) 10 0 true none)) ?_
    simp only [exec, execLdvZ, State.ldvZ, ne_eq, hn, not_true_eq_false, if_false]
  case streams =>
    intro a ind size h7 h230 h251
    have hp : patBad a = false := patBad_of_fields h7 h230 h251
    refine ⟨followsAll_streamLoad (ind := false) h hp rfl, followsAll_streamLoad (ind := true) h hp rfl,
      followsAll_streamStore (ind := false) h hp rfl, followsAll_streamStore (ind := true) h hp rfl,
      fun op hs => followsAll_samo h hp ?_ rfl⟩
    have hsize : patEsz a = size := rfl
    rw [samoSize, hsize]
    obtain hs | ⟨hs, ho⟩ := hs
    · simp [hs]
    · simp [hs, ho]
  case opgo =>
    intro ga
    refine ⟨fun hbad => ?_, fun h128 h56 => ?_⟩
    · have ho : s.opgo ga = .trap 4 ga 9 0 := if_pos (by omega)
      rw [← trapNow_of_runs h, ← ho]
      rfl
    · have ho : s.opgo ga = (s.globalRange ga 128 true false false).bind fun r => .ok (s.sendOp r.pa ga) := if_neg (by omega)
      exact follows_of_bind h (congrArg (fun r => Host.Outcome.next (s.finish (s.whenOn p r))) ho)

end Sys2Proof.Machine

open Sys2Proof Sys2Proof.Machine in
/-- Settles O15: each memory instruction binds the answer of its checks, so it stops as they say (R74, R175, R301); the aperture, OPGO's
alignment and LDV.Z's space are checked before (R218, R262; log entry 11). -/
theorem memoryTrapsAndHolds : Obligations.MemoryTrapsAndHolds := ⟨scalarAccessesStop, otherAccessesStop⟩

end
section
/-! Holds and waits end (O28; R63, R150, R172, R232, R245, R248, R262, R383, R415; log entry 78): each step of release under the condition
that the statement names. -/

namespace Sys2Proof.Machine

variable {s : State} {a : Arch} {c x : Nat} {w : Wait} {t : Context}

theorem Context.waiting_of {k : WaitKind} (hr : t.status = .running) (hw : t.wait = some w) (hk : w.kind = k) : t.waiting k = some w := by
  simp [Context.waiting, hr, hw, hk]

/-- A row that changes one context only, its condition given. -/
theorem changesContext_of {i : Instr} {f : Context → Context} {g : Arch → Arch} (he : exec i s = s.event g)
    (hg : g s.arch = s.arch.mapCtx c x f) : ChangesContext i s c x f := by
  rw [ChangesContext, he, State.event, hg]

-- ## DRAIN (R248)

/-- A window closes for a write that is the last of its set: of window 0 at once, of another when it is over (R252). -/
def Arch.closedBy (a : Arch) (n : Nat) : Prop := n = 0 ∨ (n + 1) * 2 ^ a.time.wlog2.toNat ≤ a.now

theorem Arch.closedBy_foldl_max {ns : List Nat} (hs : ∀ n ∈ ns, a.closedBy n) : ∀ {m : Nat}, a.closedBy m → a.closedBy (ns.foldl max m) := by
  induction ns with
  | nil => exact id
  | cons n ns ih =>
    intro m hm
    obtain ⟨hn, hns⟩ := List.forall_mem_cons.mp hs
    refine ih hns ?_
    obtain h | h := max_choice m n <;> rw [h] <;> assumption

theorem Arch.drained_near {scope id m : Nat} (hs : scope ≠ 4) (hr : a.before c x id = [])
    (hb : ∀ b ∈ a.writeBacks, ¬ (b.core = c ∧ b.ctx = x ∧ b.id < id)) : a.drained c x scope id m = true := by
  have hbacks : a.writeBacks.filter (fun b => b.core == c && b.ctx == x && b.id < id) = [] := by
    simp only [List.filter_eq_nil_iff, Bool.and_eq_true, beq_iff_eq, decide_eq_true_eq, and_assoc]
    exact hb
  simp only [Arch.drained, hs, if_false, hr, hbacks]
  rfl

theorem Arch.mem_before {id : Nat} {r : Req} :
    r ∈ a.before c x id ↔ r ∈ a.reqs ∧ r.core = c ∧ r.ctx = x ∧ r.id < id ∧ r.st ≠ .withdrawn := by
  simp [Arch.before, and_assoc]

/-- DRAIN at the scope of every module waits for the windows of its writes (R248, R252). -/
theorem Arch.drained_far {id m : Nat} (hm : a.closedBy m)
    (hr : ∀ r ∈ a.before c x id, r.early = false → ∃ n, r.win = some n ∧ a.closedBy n)
    (hb : ∀ b ∈ a.writeBacks, b.core = c ∧ b.ctx = x ∧ b.id < id → ∃ n, b.win = some n ∧ a.closedBy n) :
    a.drained c x 4 id m = true := by
  have hw : ∀ o ∈ ((a.before c x id).filter (fun r => !r.early)).map Req.win ++
      (a.writeBacks.filter (fun b => b.core == c && b.ctx == x && b.id < id)).map WriteBack.win,
      ∃ n, o = some n ∧ a.closedBy n := by
    simp only [List.forall_mem_append, List.forall_mem_map, List.mem_filter, Bool.and_eq_true, beq_iff_eq, decide_eq_true_eq,
      Bool.not_eq_true', and_imp]
    exact ⟨fun r hmem he => hr r hmem he, fun b hmem hc hx hi => hb b hmem ⟨hc, hx, hi⟩⟩
  simp only [Arch.drained, if_true, Bool.and_eq_true, Bool.or_eq_true, beq_iff_eq, decide_eq_true_eq]
  refine ⟨List.all_eq_true.mpr fun o ho => ?_, Arch.closedBy_foldl_max (fun n hn => ?_) hm⟩
  · obtain ⟨n, rfl, -⟩ := hw o ho; rfl
  · obtain ⟨o, ho, rfl⟩ := List.mem_map.mp hn
    obtain ⟨n, rfl, h⟩ := hw o ho
    exact h

theorem RingRegs.need_le (r : RingRegs) (n : Nat) : r.need n ≤ n := by
  unfold RingRegs.need
  split
  · exact Nat.zero_le _
  · exact Nat.min_le_left ..

-- ## BANKACQ (R172, R173)

theorem mem_groupsIn {mask g : Nat} : g ∈ groupsIn mask ↔ g < 12 ∧ mask.testBit g = true := by simp [groupsIn, upTo]

theorem Arch.mayTouch_iff {g : Nat} : (a.core c).mayTouch x g a.clock = true ↔ a.touchable c x g := by
  simp only [Core.mayTouch, Core.freedNow, Arch.touchable, Bool.or_eq_true, Bool.and_eq_true, beq_iff_eq, Bool.not_eq_true']
  refine or_congr_right (and_congr_right fun _ => ?_)
  cases SMap.get (none : Option (Nat × Nat)) (a.core c).prev g with
  | none => simp
  | some e =>
    obtain ⟨y, t⟩ := e
    simp only [Option.any_some, Bool.and_eq_false_iff, bne_eq_false_iff_eq, beq_eq_false_iff_ne, Option.some.injEq, Prod.mk.injEq]
    exact ⟨fun h _ _ ⟨hy, ht⟩ => hy ▸ ht ▸ h, fun h => h y t ⟨rfl, rfl⟩⟩

/-- An access reaches a group of a core's scratchpad. -/
def Arch.reaches (a : Arch) (q : Req) (c g : Nat) : Bool :=
  match a.place q.pa with
  | .spad d o => d == c && (groupsOf o q.len).contains g
  | _ => false

/-- What another context, the last owner, did to a group before it freed it is still under way (R172; log entry 78). -/
def Arch.groupUnfinished (a : Arch) (c x g : Nat) : Bool :=
  match SMap.get (none : Option (Nat × Nat)) (a.core c).prev g with
  | some (y, t) => y != x && SMap.get Owner.free (a.core c).owner g != ownerOf x && a.reqs.any (fun q => q.core == c && q.ctx == y &&
      q.time ≤ t && q.st != .withdrawn && a.reaches q c g)
  | none => false

theorem Arch.unfinished_eq (mask : Nat) : a.unfinished c x mask = (groupsIn mask).any (a.groupUnfinished c x) := rfl

theorem Arch.reaches_iff {q : Req} {g : Nat} : a.reaches q c g = true ↔ ∃ o, a.place q.pa = .spad c o ∧ g ∈ groupsOf o q.len := by
  unfold Arch.reaches
  split
  · next d o h => simp [h]
  · next h => exact ⟨nofun, fun ⟨o, ho, _⟩ => absurd ho (h c o)⟩

theorem Arch.groupUnfinished_iff {g : Nat} : a.groupUnfinished c x g = true ↔ SMap.get Owner.free (a.core c).owner g ≠ ownerOf x ∧
    ∃ y t o, SMap.get none (a.core c).prev g = some (y, t) ∧ y ≠ x ∧ ∃ q ∈ a.reqs, q.core = c ∧ q.ctx = y ∧ q.time ≤ t ∧
      q.st ≠ .withdrawn ∧ a.place q.pa = .spad c o ∧ g ∈ groupsOf o q.len := by
  unfold Arch.groupUnfinished
  split
  · next y t h =>
    simp only [Bool.and_eq_true, bne_iff_ne, ne_eq, List.any_eq_true, beq_iff_eq, decide_eq_true_eq, Arch.reaches_iff, h, Option.some.injEq,
      Prod.mk.injEq]
    constructor
    · rintro ⟨⟨hy, ho⟩, q, hq, ⟨⟨⟨hc, hx⟩, ht⟩, hst⟩, o, hp, hg⟩
      exact ⟨ho, y, t, o, ⟨rfl, rfl⟩, hy, q, hq, hc, hx, ht, hst, hp, hg⟩
    · rintro ⟨ho, _, _, o, ⟨rfl, rfl⟩, hy, q, hq, hc, hx, ht, hst, hp, hg⟩
      exact ⟨⟨hy, ho⟩, q, hq, ⟨⟨⟨hc, hx⟩, ht⟩, hst⟩, o, hp, hg⟩
  · next h => simp [h]

/-- A group that a context may touch, and of which nothing is unfinished, is one that it may acquire. -/
theorem Arch.acquirable_iff {g : Nat} : a.acquirable c x g ↔ a.touchable c x g ∧ ¬ a.groupUnfinished c x g = true := by
  rw [Arch.groupUnfinished_iff, Arch.acquirable]
  constructor
  · rintro (hown | ⟨ht, hdone⟩)
    · exact ⟨.inl hown, fun h => h.1 hown⟩
    · exact ⟨ht, fun ⟨_, y, t, o, hprev, hy, q, hq, hc, hx, hqt, hst, hp, hg⟩ => hdone y t o hprev hy q hq hc hx hqt hst hp hg⟩
  · rintro ⟨ht, hdone⟩
    by_cases hown : SMap.get Owner.free (a.core c).owner g = ownerOf x
    · exact .inl hown
    · exact .inr ⟨ht, fun y t o hprev hy q hq hc hx hqt hst hp hg =>
        hdone ⟨hown, y, t, o, hprev, hy, q, hq, hc, hx, hqt, hst, hp, hg⟩⟩

theorem Arch.able_iff {mask : Nat} : a.able c x mask = true ↔ ∀ g, g < 12 → mask.testBit g = true → a.acquirable c x g := by
  simp only [Arch.able, Core.canTake, Arch.unfinished_eq, Bool.and_eq_true, Bool.not_eq_true', List.all_eq_true, List.any_eq_false,
    mem_groupsIn, Arch.mayTouch_iff, Arch.acquirable_iff, and_imp]
  exact ⟨fun h g hg hm => ⟨h.1 g hg hm, h.2 g hg hm⟩, fun h => ⟨fun g hg hm => (h g hg hm).1, fun g hg hm => (h g hg hm).2⟩⟩

theorem Arch.aFirst_iff {mask : Nat} : a.aFirst c x mask = true ↔ a.leavesToA c x mask := by
  unfold Arch.aFirst Arch.leavesToA
  split
  · next w h =>
    simp only [Bool.and_eq_true, beq_iff_eq, bne_iff_ne, Arch.able_iff, h, Option.some.injEq, exists_eq_left']
    tauto
  · next h => simp [h]

/-- The groups taken are the context's, the others as they were (R172). -/
theorem Core.take_owner (k : Core) (x mask g : Nat) (hg : g < 12) : SMap.get Owner.free (k.take x mask).owner g =
    if mask.testBit g then ownerOf x else SMap.get Owner.free k.owner g := by
  have hfold : ∀ (l : List Nat) (m : SMap Owner), SMap.get Owner.free (l.foldl (fun o g => SMap.set Owner.free o g (ownerOf x)) m) g =
      if g ∈ l then ownerOf x else SMap.get Owner.free m g := by
    intro l
    induction l with
    | nil => intro m; simp
    | cons h l ih =>
      intro m
      rw [List.foldl_cons, ih]
      by_cases hgl : g ∈ l
      · simp [hgl]
      · by_cases hgh : g = h
        · simp [hgh]
        · simp [hgl, hgh, SMap.get_set_other _ _ _ hgh]
  rw [Core.take, hfold]
  simp [mem_groupsIn, hg]

theorem Arch.bankGrant_of {mask : Nat} (hw : (a.ctx c x).waiting .bankacq = some w) (hm : w.operand = mask) : a.bankGrant c x =
    if a.able c x mask && !a.aFirst c x mask then (a.mapCore c (fun k => k.take x mask)).mapCtx c x Context.unwait else a := by
  subst hm
  simp only [Arch.bankGrant, hw]

theorem Arch.owner_mapCtx (f : Context → Context) : ((a.mapCtx c x f).core c).owner = (a.core c).owner := by
  rw [Arch.mapCtx, Arch.setCtx, Arch.core_setCore]; rfl

/-- BANKACQ_GRANT takes the groups of the mask exactly where each may be acquired and A does not come first (R172). -/
theorem exec_bankacqGrant (hw : (s.arch.ctx c x).waiting .bankacq = some w) :
    let take := (∀ g, g < 12 → w.operand.testBit g = true → s.arch.acquirable c x g) ∧ ¬ s.arch.leavesToA c x w.operand
    (¬ take → exec (.bankacqGrant c x) s = .next s) ∧
    (take → exec (.bankacqGrant c x) s =
      .next (s.setArch ((s.arch.mapCore c (fun k => k.take x w.operand)).mapCtx c x Context.unwait))) := by
  intro take
  have htake : (s.arch.able c x w.operand && !s.arch.aFirst c x w.operand) = true ↔ take := by
    rw [Bool.and_eq_true, Bool.not_eq_true', ← Bool.not_eq_true, Arch.able_iff, Arch.aFirst_iff]
  have hx : exec (.bankacqGrant c x) s = .next (s.setArch (s.arch.bankGrant c x)) := rfl
  rw [hx, Arch.bankGrant_of hw rfl, ← htake]
  exact ⟨fun h => by rw [if_neg h]; rfl, fun h => by rw [if_pos h]⟩

end Sys2Proof.Machine

open Sys2Proof Sys2Proof.Machine in
/-- Settles O28: each row of release does what it says under its condition; DRAIN's windows and BANKACQ's groups are the two conditions
that the model tests in another form (R172, R248; log entry 78). -/
theorem holdsAndWaitsEnd : Obligations.HoldsAndWaitsEnd := by
  intro c x s w t k unhold unwait older olderBack closed waits
  have hwaiting {kind : WaitKind} (h : waits kind) : t.waiting kind = some w := Context.waiting_of h.1 h.2.1 h.2.2
  refine ⟨fun hh hl => ?landing, fun va len hh hw => ?watermark, fun hh ha => ?acquire, fun hh hc => ?queue, fun hw h4 hr hb => ?drainNear,
    fun hw h4 hr hb hm => ?drainFar, fun hw ho => ?counter, fun hw hq => ?dispatcher, fun hw hs => ?barrier, fun hw h8 h20 ho => ?events,
    fun hw => (exec_bankacqGrant (hwaiting hw)).1, fun hw ht => ?groups⟩
  case landing => exact changesContext_of rfl (if_pos ⟨hh, hl⟩)
  case watermark =>
    refine changesContext_of (g := fun a => a.watermarkRelease c x) rfl ?_
    simp only [Arch.watermarkRelease, show (s.arch.ctx c x).hold = _ from hh]
    exact if_neg hw
  case acquire => exact changesContext_of rfl (if_pos ⟨hh, ha⟩)
  case queue => exact changesContext_of rfl (if_pos ⟨hh, hc⟩)
  case drainNear =>
    refine changesContext_of (g := fun a => a.drainRelease c x) rfl ?_
    simp only [Arch.drainRelease, show (s.arch.ctx c x).waiting .drain = _ from hwaiting hw]
    refine if_pos (Arch.drained_near (by omega) (List.eq_nil_iff_forall_not_mem.mpr fun r h => ?_) hb)
    obtain ⟨hmem, hold⟩ := Arch.mem_before.mp h
    exact hr r hmem hold
  case drainFar =>
    refine changesContext_of (g := fun a => a.drainRelease c x) rfl ?_
    simp only [Arch.drainRelease, show (s.arch.ctx c x).waiting .drain = _ from hwaiting hw, h4]
    exact if_pos (Arch.drained_far hm (fun r h he => (Arch.mem_before.mp h).elim fun hmem hold => hr r hmem hold he) hb)
  case counter =>
    refine changesContext_of (g := fun a => a.tlRelease c x) rfl ?_
    simp only [Arch.tlRelease, show (s.arch.ctx c x).waiting .tlwait = _ from hwaiting hw]
    exact if_pos (by simp [show w.operand ≤ ((s.arch.ctx c x).readTl w.addr).toNat from ho])
  case dispatcher =>
    refine changesContext_of (g := fun a => a.opRoom c x) rfl ?_
    simp only [Arch.opRoom, show (s.arch.ctx c x).waiting .opgo = _ from hwaiting hw]
    refine if_neg fun h => ?_
    obtain ⟨q, hmem, hown⟩ := List.any_eq_true.mp h
    split at hown
    · next d y n hsrc => exact hq q hmem d y n hsrc (by simpa using hown)
    · cases hown
  case barrier =>
    refine congrArg (fun a => Host.Outcome.next (s.setArch a)) ?_
    simp only [Arch.barRelease, show (s.arch.ctx c x).waiting .barwait = _ from hwaiting hw, hs, if_true]
    rfl
  case events =>
    refine changesContext_of (g := fun a => a.waitevPass c x) rfl ?_
    simp only [Arch.waitevPass, show (s.arch.ctx c x).waiting .waitev = _ from hwaiting hw]
    exact if_pos (.inr ((RingRegs.need_le _ _).trans ho))
  case groups =>
    refine ⟨_, (exec_bankacqGrant (hwaiting hw)).2 ht, ?_, fun g hg => ?_⟩
    · rw [State.setArch_arch, Arch.ctx_mapCtx]; rfl
    · rw [← Core.take_owner k x w.operand g hg, State.setArch_arch, Arch.owner_mapCtx, Arch.core_mapCore]

end
section
/-! Accesses are performed (O29; R62, R164, R165, R178, R195, R205, R242, R244, R252, R328; log entry 9). -/

namespace Sys2Proof.Machine

variable {s : State} {a : Arch} {r : Req} {id c b i : Nat} {rest : List Nat}

/-- Whether an access knows where it leads: it needs no translation, or has the one that was named (R166, R205). -/
theorem known_iff : ¬ (r.named = false ∨ r.leaf.isSome = true) ↔ (r.named && r.leaf.isNone) = true := by
  cases r.named <;> cases r.leaf <;> simp

section Found
variable (hf : a.reqs.find? (fun q => q.id == id) = some r) (hst : r.st = .flight)
include hf hst

theorem Arch.remoteAccess_unknown (hk : ¬ (r.named = false ∨ r.leaf.isSome = true)) : a.remoteAccess id = a.retranslate r := by
  simp only [Arch.remoteAccess, hf, hst, known_iff.mp hk, ne_eq, not_true_eq_false, if_false, if_true]

variable (hk : r.named = false ∨ r.leaf.isSome = true)
include hk

theorem Arch.remoteAccess_known : a.remoteAccess id =
    if a.leaves r then a.mapReq id (fun q => { q with win := some (a.window + 1) })
    else if a.blocked r then a.noteBlocked r
    else a.performReq r := by
  have hn : (r.named && r.leaf.isNone) = false := by
    rw [← Bool.not_eq_true, ← known_iff]; exact not_not.mpr hk
  simp only [Arch.remoteAccess, hf, hst, hn, ne_eq, not_true_eq_false, if_false, Bool.false_eq_true]

theorem Arch.remoteAccess_performs (hl : a.leaves r = false) (hb : a.blocked r = false) : a.remoteAccess id = a.performReq r := by
  simp [Arch.remoteAccess_known hf hst hk, hl, hb]

end Found

theorem State.next_setArch {x y : Arch} (h : x = y) : (Host.Outcome.next (s.setArch x) : Out) = .next (s.setArch y) := by rw [h]

/-- A result that is due by now and not yet here (R62). -/
def Context.dueIn (t : Context) (r : Req) : Bool :=
  t.inflight.any (fun p => some p.tag == r.tag && p.parts != 0 && decide (p.due ≤ t.time))

theorem Arch.lateArrive_of_found (hf : a.reqs.find? (fun q => q.id == id) = some r) : a.lateArrive id =
    if ((a.ctx r.core r.ctx).dueIn r && !(a.core r.core).stopped) = true
    then (a.remoteAccess id).mapCtx r.core r.ctx Context.settle else a := by
  simp only [Arch.lateArrive, hf]; rfl

theorem Arch.serveWaiter_stopped (h : (a.core c).stopped = true) : a.serveWaiter c = a := by simp [Arch.serveWaiter, h]

/-- The first parked access that its bank may serve (R164). -/
theorem Arch.serveWaiter_first (hp : (a.core c).parked = id :: rest) (hc : (a.core c).stopped = false)
    (hf : a.reqs.find? (fun q => q.id == id && q.st == .parked && a.waiterReady q) = some r) : a.serveWaiter c = a.performReq r := by
  simp [Arch.serveWaiter, hc, hp, hf]

theorem Arch.refuseWaiter_found (hp : (a.core c).parked[i]? = some id) (hf : a.reqs.find? (fun q => q.id == id) = some r) :
    a.refuseWaiter c i = if r.core = c || r.st ≠ .parked || (a.core c).stopped then a
      else (a.mapReq id (fun q => { q with st := .refused })).mapCore c
        (fun k => { k with parked := k.parked.filter (fun j => j != id) }) := by
  simp only [Arch.refuseWaiter, hp, hf]; rfl

theorem Arch.refuseWaiter_stopped (h : (a.core c).stopped = true) : a.refuseWaiter c i = a := by
  unfold Arch.refuseWaiter
  split
  · rfl
  · split
    · simp [h]
    · rfl

/-- The head of a slice's exact adds, where an accumulator is free (R193, R195). -/
theorem Arch.detServe_head (hq : (a.brick b).detq = r.id :: rest) (hf : a.reqs.find? (fun q => q.id == r.id) = some r)
    (hd : (a.brick b).dets.length < 4096) : a.detServe b = a.performReq r := by
  have hroom : (a.brick b).detRoom r = true := by simp [Brick.detRoom, hq, hd]
  simp [Arch.detServe, hq, hf, hroom]

theorem accessesActAtHome : AccessesActAtHome := by
  intro id c b i r rest s a performs found known
  refine ⟨fun hf hs hk => State.next_setArch (Arch.remoteAccess_unknown hf hs hk),
    fun hf hs hk hl hb => State.next_setArch (Arch.remoteAccess_performs hf hs hk hl hb), fun hf hs hk hl hb => ?blocked,
    fun hf hs hk hl => ?leaves, fun hf hs hk hl hb hc hd => ?late, fun hf hc => ?stoppedLate,
    fun hc => ⟨State.next_setArch (Arch.serveWaiter_stopped hc), State.next_setArch (Arch.refuseWaiter_stopped hc)⟩,
    fun hp hc hf => State.next_setArch (Arch.serveWaiter_first hp hc hf), fun hq hf hr hd => ?det, fun hp hc hf hs hn => ?refuse, rfl⟩
  case blocked => exact State.next_setArch ((Arch.remoteAccess_known hf hs hk).trans (by simp only [hl, hb]; rfl))
  case leaves => exact State.next_setArch ((Arch.remoteAccess_known hf hs hk).trans (by simp only [hl]; rfl))
  case late =>
    refine State.next_setArch ((Arch.lateArrive_of_found hf).trans ((if_pos ?_).trans ?_))
    · rw [Context.dueIn, hd, hc]; rfl
    · rw [Arch.remoteAccess_performs hf hs hk hl hb]
  case stoppedLate => exact State.next_setArch ((Arch.lateArrive_of_found hf).trans (if_neg (by simp [hc])))
  case det =>
    subst hr
    exact State.next_setArch (Arch.detServe_head hq hf hd)
  case refuse =>
    refine ⟨_, State.next_setArch ((Arch.refuseWaiter_found hp hf).trans (if_neg ?_)), rfl, ?_, rfl⟩
    · simp [hn, hs, hc]
    · rw [State.setArch_arch, Arch.core_mapCore]
      simp

-- ## The answer of an access (R62, R242)

/-- What the performing of an access leaves of the module and its context. -/
theorem Arch.performReq_done {p : Arch} {v : Nat} (h : a.performAt r = .done p v) :
    (a.performReq r).mem = p.mem ∧ (a.performReq r).reqs = p.reqs.filter (fun q => q.id != r.id) ∧
      (a.performReq r).ctx r.core r.ctx = (p.ctx r.core r.ctx).performed r v (p.window + 1) := by
  simp only [Arch.performReq, h]
  refine ⟨?_, ?_, ?_⟩
  · split <;> rfl
  · split <;> rfl
  · rw [Arch.ctx_mapCtx]
    split
    · exact congrArg (Context.performed · r v (p.window + 1)) (Arch.ctx_mapCore_of_ctxs fun _ => rfl)
    · rfl
    · rfl

theorem Pend.fill_of_tag {p : Pend} {g lo v : Nat} (ht : p.tag = g) (hp : p.parts ≠ 0) :
    p.fill g lo v = { p with val := p.val ||| BitVec.ofNat 4096 (v * 2 ^ lo), parts := p.parts - 1 } := if_pos ⟨ht, hp⟩

theorem Context.performed_inflight {t : Context} {g v win : Nat} (h : r.tag = some g) :
    (t.performed r v win).inflight = t.inflight.map (fun p => p.fill g r.lo v) := by
  simp only [Context.performed, h]
  split <;> rfl

theorem performedAccessAnswers : PerformedAccessAnswers := by
  intro id v g r a s p hf hst hk hl hb hd ht hctx hp htag hparts
  have hid : r.id = id := by simpa using List.find?_some hf
  obtain ⟨hmem, hreqs, hafter⟩ := Arch.performReq_done hd
  refine ⟨_, State.next_setArch (Arch.remoteAccess_performs hf hst hk hl hb), hmem, fun q hq => ?_, ?_⟩
  · rw [State.setArch_arch, hreqs, hid] at hq
    simpa using (List.mem_filter.mp hq).2
  · rw [State.setArch_arch, hafter, hctx, Context.performed_inflight ht, ← Pend.fill_of_tag htag hparts]
    exact List.mem_map_of_mem hp

end Sys2Proof.Machine

open Sys2Proof Sys2Proof.Machine in
/-- Settles O29: each row finds its access and does with it what the conditions select (R164, R165, R195, R205, R252, R328; log entry 9);
one performed leaves the list, and its value joins the result that waits (R62, R242). -/
theorem accessesArePerformed : Obligations.AccessesArePerformed := ⟨accessesActAtHome, performedAccessAnswers⟩

end
section
/-! The M slot (O24; R6, R72, R141, R150 to R153, R360 to R364). -/

namespace Sys2Proof.Machine

variable {s t : State} {p n g c x : Nat} {e : Engine}

theorem State.slotDone_mpcNext (t : State) : t.mpcNext.slotDone = t.mDone := by
  unfold State.mpcNext State.mDone
  split <;> rfl

/-- An M slot with its guard on moves MPC after its own effect (R72, R153). -/
theorem finish_mSlot_ok (ht : s.iss.trapped = false) (hg : s.guard p = true) : s.finish (s.mSlot p (.ok t)) = t.mDone := by
  rw [State.mSlot, State.whenOn_on _ _ hg, ← State.slotDone_mpcNext]
  exact State.finish_ok _ _ ht

theorem finish_mSlot_hold (ht : s.iss.trapped = false) (hg : s.guard p = true) (h : Hold) :
    s.finish (s.mSlot p (.hold h)) = (s.setIss { s.iss with held := some (s.iss.held.getD h) }).slotDone := by
  rw [State.mSlot, State.whenOn_on _ _ hg]
  exact State.finish_hold _ ht

theorem exec_mSlot_off {r : SlotR} (ht : s.iss.trapped = false) (hg : s.guard p = false) :
    (Host.Outcome.next (s.finish (s.mSlot p r)) : Out) = .next s.mDone := by
  rw [State.finish_mSlot_off hg, State.finish_ok _ _ ht, State.slotDone_mpcNext]

theorem Engine.commands_eq (e : Engine) (x : Nat) : e.commands x =
    (e.queue.filter (fun q => q.side == x)).length + (if e.run.any (fun r => r.cmd.side == x) then 1 else 0) := by
  unfold Engine.commands
  cases e.run <;> simp

theorem State.enqueueCmd_room {kind : CmdKind} (h : (s.view.core s.iss.core).engine.commands s.iss.ctx < 8) : s.enqueueCmd kind n g =
    .ok (s.setArch (s.arch.mapEngine s.iss.core (fun e => { e with queue := e.queue ++ [s.command kind n g] }))) :=
  if_neg (Nat.not_le.mpr h)

theorem State.enqueueCmd_full {kind : CmdKind} (h : 8 ≤ (s.view.core s.iss.core).engine.commands s.iss.ctx) :
    s.enqueueCmd kind n g = .hold .engineQueue := if_pos h

theorem Engine.statOf_mapStat (f : EngineStat → EngineStat) (y : Nat) :
    (e.mapStat x f).statOf y = if y = x then f (e.statOf x) else e.statOf y := by
  rw [Engine.mapStat, Engine.statOf]
  split
  · next h => subst h; exact SMap.get_set_same ..
  · next h => exact SMap.get_set_other _ _ _ h

theorem Arch.engine_mapEngine (a : Arch) (c : Nat) (f : Engine → Engine) : ((a.mapEngine c f).core c).engine = f (a.core c).engine := by
  rw [Arch.mapEngine, Arch.core_mapCore]

/-- Where nothing is set, or only the LOAD of the context that reads, the rest of the module is as the read leaves it (R6). -/
theorem Arch.clearStatus_setsWin {a : Arch} {c x : Nat} {v : BitVec 2} (h : (a.raced = [] ∧ v = 0) ∨ a.raced = [.load c x v]) :
    ((a.mapEngine c (fun e => e.clearStatus x)).setsWin).mem = a.mem ∧
    ∀ y, (((a.mapEngine c (fun e => e.clearStatus x)).setsWin).core c).engine.statOf y =
      if y = x then ⟨0, 0, v, ((a.core c).engine.statOf y).done⟩ else (a.core c).engine.statOf y := by
  have hr : (a.mapEngine c (fun e => e.clearStatus x)).raced = a.raced := rfl
  obtain ⟨h, rfl⟩ | h := h
  · rw [Arch.setsWin, hr, h]
    refine ⟨rfl, fun y => ?_⟩
    rw [List.foldl_nil, Arch.engine_mapEngine, Engine.clearStatus, Engine.statOf_mapStat]
    split
    · next hy => rw [hy]
    · rfl
  · rw [Arch.setsWin, hr, h]
    refine ⟨rfl, fun y => ?_⟩
    simp only [List.foldl_cons, List.foldl_nil, Arch.setAgain, Arch.core_mapCore, Engine.statOf_mapStat, Arch.engine_mapEngine,
      Engine.clearStatus]
    split
    · next hy => simp [hy]
    · rfl

end Sys2Proof.Machine

open Sys2Proof Sys2Proof.Machine in
/-- Settles O24: an M slot's own effect, or its hold, goes through `State.mSlot`, which moves MPC after it (R72, R153); the commands counted
are those of R150, and MSTAT's clear yields to what is set at its time (R6). -/
theorem mSlotsComplete : Obligations.MSlotsComplete := by
  intro p n g s ht e mine cmd sent held
  have hmine : (s.view.core s.iss.core).engine.commands s.iss.ctx = mine := Engine.commands_eq ..
  refine ⟨fun hg hm => ?room, fun hg hm => ?full, fun hg => ?mpar, fun v hg hv => ?mstat, fun hg => ?off⟩
  case room =>
    have hsent (kind : CmdKind) (n : Nat) : (Host.Outcome.next (s.finish (s.mSlot p (s.enqueueCmd kind n g))) : Out) =
        .next (sent (cmd kind n)) := by
      rw [State.enqueueCmd_room (hmine ▸ hm), finish_mSlot_ok ht hg]; rfl
    exact ⟨hsent .call n, hsent .load n, hsent .drain 0⟩
  case full =>
    have hheld (kind : CmdKind) (n : Nat) : (Host.Outcome.next (s.finish (s.mSlot p (s.enqueueCmd kind n g))) : Out) = .next held := by
      rw [State.enqueueCmd_full (hmine ▸ hm), finish_mSlot_hold ht hg]
    exact ⟨hheld .call n, hheld .load n, hheld .drain 0⟩
  case mpar => exact congrArg _ (finish_mSlot_ok ht hg)
  case mstat =>
    obtain ⟨hmem, hstat⟩ := Arch.clearStatus_setsWin hv
    exact ⟨s.setArch (s.arch.mapEngine s.iss.core (fun e => e.clearStatus s.iss.ctx)).setsWin, congrArg _ (finish_mSlot_ok ht hg), rfl,
      hmem, hstat⟩
  case off => exact ⟨exec_mSlot_off ht hg, exec_mSlot_off ht hg, exec_mSlot_off ht hg, exec_mSlot_off ht hg, exec_mSlot_off ht hg⟩

end
section
/-! Bundles are checked (O55; R60, R73, R77 to R83, R102 to R104, R301): the slots that a header names, and each check of R104 over them. -/

namespace Sys2Proof.Machine

variable {h : Nat} {bs : List Byte}

/-- One bit as the decoder cuts it (R9). -/
theorem bits_one_eq (x i : Nat) : bits x i i = if x.testBit i then 1 else 0 := by
  rw [bits, Nat.add_sub_cancel_left, pow_one, Nat.testBit_eq_decide_div_mod_eq]
  rcases Nat.mod_two_eq_zero_or_one (x / 2 ^ i) with e | e <;> simp [e]

theorem bits_one_iff (x i : Nat) : bits x i i = 1 ↔ x.testBit i = true := by rw [bits_one_eq]; split <;> simp [*]

theorem bits_low_eq (x hi : Nat) : bits x hi 0 = x % 2 ^ (hi + 1) := by rw [bits, pow_zero, Nat.div_one, Nat.sub_zero]

/-- Bytes of a bundle before a slot: its header and the slots named before it (R77, R78). -/
def slotStart (h pos : Nat) : Nat := 2 + ((List.range pos).map (fun q => if h.testBit q then slotWidth q else 0)).sum

theorem slotStart_succ (h pos : Nat) : slotStart h (pos + 1) = slotStart h pos + if h.testBit pos then slotWidth pos else 0 := by
  simp [slotStart, List.range_succ, Nat.add_assoc]

/-- The slots that a header names, in order (R77, R78). -/
def namedSlots (h : Nat) : List Nat := (List.range 7).filter (fun pos => h.testBit pos)

theorem cutSlots_from (n pos : Nat) : cutSlots h ((List.range' pos n).map fun p => (p, slotKind p, slotWidth p)) (bs.drop (slotStart h pos)) =
    ((List.range' pos n).filter (fun p => h.testBit p)).map fun p => (p, slotKind p, slotBits bs h p) := by
  induction n generalizing pos with
  | zero => rfl
  | succ n ih =>
    have hnext := ih (pos + 1)
    rw [slotStart_succ] at hnext
    rw [List.range'_succ, List.map_cons, cutSlots]
    by_cases hb : h.testBit pos = true
    · rw [if_pos ((bits_one_iff ..).mpr hb), List.filter_cons_of_pos hb, List.map_cons, List.drop_drop]
      rw [if_pos hb] at hnext
      rw [hnext]
      rfl
    · rw [if_neg (mt (bits_one_iff ..).mp hb), List.filter_cons_of_neg hb]
      rw [if_neg hb] at hnext
      exact hnext

/-- The decoder cuts the slots that the header names. -/
theorem cutSlots_eq : cutSlots h slotPlaces (bs.drop 2) = (namedSlots h).map fun p => (p, slotKind p, slotBits bs h p) := by
  rw [namedSlots, List.range_eq_range']
  exact cutSlots_from 7 0

theorem mem_namedSlots {pos : Nat} : pos ∈ namedSlots h ↔ pos < 7 ∧ h.testBit pos = true := by simp [namedSlots]

theorem meets_iff {xs ys : List (DestFile × Nat)} : meets xs ys = true ↔ ∃ x, x ∈ xs ∧ x ∈ ys := by simp [meets]

theorem collides_iff {l : List (List (DestFile × Nat))} : collides l = true ↔ ¬ l.Pairwise (fun x y => ¬ meets x y = true) := by
  induction l with
  | nil => simp [collides]
  | cons x l ih =>
    rw [collides, Bool.or_eq_true, List.any_eq_true, ih, List.pairwise_cons]
    simp only [not_and_or, not_forall, not_not, exists_prop]

/-- In a rising list, a relation of every earlier element to every later one is one of the smaller to the greater. -/
theorem pairwise_iff_of_rising {R : Nat → Nat → Prop} {l : List Nat} (hl : l.Pairwise (· < ·)) :
    l.Pairwise R ↔ ∀ p ∈ l, ∀ q ∈ l, p < q → R p q := by
  refine ⟨fun h => ?_, fun h => hl.imp_of_mem fun hp hq hlt => h _ hp _ hq hlt⟩
  induction l with
  | nil => simp
  | cons x l ih =>
    obtain ⟨hx, hl⟩ := List.pairwise_cons.mp hl
    obtain ⟨hR, h⟩ := List.pairwise_cons.mp h
    intro p hp q hq hlt
    obtain hp' | hp' := List.mem_cons.mp hp <;> obtain hq' | hq' := List.mem_cons.mp hq
    · omega
    · exact hp' ▸ hR q hq'
    · exact absurd (hx p hp') (by omega)
    · exact ih hl h p hp' q hq' hlt

theorem namedSlots_rising : (namedSlots h).Pairwise (· < ·) := List.Pairwise.filter _ List.pairwise_lt_range

/-- Two slots name one destination (R103). -/
theorem collides_slots_iff {f : Nat → List (DestFile × Nat)} : collides ((namedSlots h).map f) = true ↔
    ∃ p q x, p < q ∧ (p < 7 ∧ h.testBit p = true) ∧ (q < 7 ∧ h.testBit q = true) ∧ x ∈ f p ∧ x ∈ f q := by
  rw [collides_iff, List.pairwise_map, pairwise_iff_of_rising namedSlots_rising]
  simp only [mem_namedSlots, meets_iff]
  push Not
  constructor
  · rintro ⟨p, hp, q, hq, hlt, x, hxp, hxq⟩; exact ⟨p, q, x, hlt, hp, hq, hxp, hxq⟩
  · rintro ⟨p, q, x, hlt, hp, hq, hxp, hxq⟩; exact ⟨p, hp, q, hq, hlt, x, hxp, hxq⟩

/-- Some slot that the header names passes a test. -/
theorem any_slots_iff {f : Nat × SlotKind × Nat → Bool} :
    ((namedSlots h).map fun p => (p, slotKind p, slotBits bs h p)).any f = true ↔
    ∃ pos, (pos < 7 ∧ h.testBit pos = true) ∧ f (pos, slotKind pos, slotBits bs h pos) = true := by
  simp only [List.any_map, List.any_eq_true, mem_namedSlots, Function.comp_apply]

theorem isTransferOp_iff {op : Nat} : isTransferOp op = true ↔ op ∈ noRepOpcodes := by
  simp only [isTransferOp, noRepOpcodes, Bool.and_eq_true, decide_eq_true_eq, bne_iff_ne, List.mem_cons, List.not_mem_nil, or_false]
  omega

/-- Only the first place holds an S slot (R77). -/
theorem slotKind_eq_s {pos : Nat} (hp : pos < 7) : slotKind pos = .s ↔ pos = 0 := by
  interval_cases pos <;> decide

/-- The destinations of what a slot's opcode says, its fields unchecked (R103, R104). -/
def slotDests (k : SlotKind) (w : Nat) (lit : BitVec 32) : List (DestFile × Nat) :=
  match parseSlot k w lit with
  | some i => i.dests
  | none => []

theorem mem_slotDests {k : SlotKind} {w : Nat} {lit : BitVec 32} {x : DestFile × Nat} :
    x ∈ slotDests k w lit ↔ ∃ i, parseSlot k w lit = some i ∧ x ∈ i.dests := by
  unfold slotDests
  split
  · next i hi => simp [hi]
  · next hi => simp [hi]

/-- The trailing literal of a bundle, 0 where there is none (R82). -/
def bundleLit (bs : List Byte) (h : Nat) : BitVec 32 :=
  BitVec.ofNat 32 (if bits h 7 7 = 1 then leNat ((bs.drop (bundleLen h - 4)).take 4) else 0)

/-- The checks of a bundle over the slots that its header names (R104). -/
theorem decodeBundle_eq (pc : Nat) (bs : List Byte) :
    let h := leNat (bs.take 2)
    let raw := (namedSlots h).map fun p => (p, slotKind p, slotBits bs h p)
    let lit := bundleLit bs h
    decodeBundle pc bs =
      if 0x40000 < pc + bundleLen h then .reject .length h
      else if bits h 15 12 ≠ 0 || (bits h 6 0 = 0 && bits h 7 7 = 1) then .reject .header h
      else if raw.any (fun s => bits s.2.2 4 0 == 0x10) then .reject .guard h
      else if bits h 7 7 = 0 && raw.any (fun s => selectsLit s.2.1 s.2.2) then .reject .literal h
      else if bits h 11 8 ≠ 0 && raw.any (fun s => s.2.1 == .s && isTransferOp (bits s.2.2 11 5)) then .reject .repTransfer h
      else if collides (raw.map (fun s => slotDests s.2.1 s.2.2 lit)) then .reject .sameDestination h
      else .bundle ⟨h, bits h 11 8, bundleLen h, raw.map (fun s => ⟨s.1, s.2.2, decodeSlot s.2.1 s.2.2 lit⟩)⟩ := by
  intro h raw lit
  simp only [decodeBundle, cutSlots_eq]
  rfl

theorem bundlesAreChecked : BundlesAreChecked := by
  intro pc bs h d slot w lit long badHeader badGuard badLiteral badTransfer sameDestination
  have hlit : bundleLit bs h = lit := by simp only [bundleLit, bits_one_iff]; rfl
  have hheader : (bits h 15 12 ≠ 0 || (bits h 6 0 = 0 && bits h 7 7 = 1)) = true ↔ badHeader := by
    simp only [Bool.or_eq_true, Bool.and_eq_true, decide_eq_true_eq, bits_one_iff, bits_low_eq h 6]
    rfl
  have hguard : (((namedSlots h).map fun p => (p, slotKind p, w p)).any fun s => bits s.2.2 4 0 == 0x10) = true ↔ badGuard := by
    simp only [any_slots_iff, w, beq_iff_eq, bits_low_eq _ 4]
    rfl
  have hnone : bits h 7 7 = 0 ↔ h.testBit 7 = false := by rw [bits_one_eq]; cases h.testBit 7 <;> simp
  have hliteral : (bits h 7 7 = 0 && ((namedSlots h).map fun p => (p, slotKind p, w p)).any fun s => selectsLit s.2.1 s.2.2) = true ↔
      badLiteral := by
    simp only [Bool.and_eq_true, decide_eq_true_eq, any_slots_iff, w, hnone]
    rfl
  have htransfer : (bits h 11 8 ≠ 0 && ((namedSlots h).map fun p => (p, slotKind p, w p)).any fun s =>
      s.2.1 == .s && isTransferOp (bits s.2.2 11 5)) = true ↔ badTransfer := by
    simp only [Bool.and_eq_true, decide_eq_true_eq, any_slots_iff, w, beq_iff_eq, isTransferOp_iff]
    refine and_congr_right fun _ => ⟨?_, fun hs => ⟨0, hs.1, rfl, hs.2⟩⟩
    rintro ⟨pos, hpos, hk, hop⟩
    obtain rfl := (slotKind_eq_s hpos.1).mp hk
    exact ⟨hpos, hop⟩
  have hsame : collides (((namedSlots h).map fun p => (p, slotKind p, w p)).map fun s => slotDests s.2.1 s.2.2 (bundleLit bs h)) = true ↔
      sameDestination := by
    rw [List.map_map, collides_slots_iff]
    simp only [Function.comp_apply, mem_slotDests, hlit]
    constructor
    · rintro ⟨p, q, x, hlt, hp, hq, ⟨i, hi, hxi⟩, j, hj, hxj⟩; exact ⟨p, q, i, j, x, hlt, hp, hq, hi, hj, hxi, hxj⟩
    · rintro ⟨p, q, i, j, x, hlt, hp, hq, hi, hj, hxi, hxj⟩; exact ⟨p, q, x, hlt, hp, hq, ⟨i, hi, hxi⟩, j, hj, hxj⟩
  have hd : d = _ := decodeBundle_eq pc bs
  refine ⟨fun h1 => ?length, fun h1 h2 => ?header, fun h1 h2 h3 => ?guard, fun h1 h2 h3 h4 => ?literal, fun h1 h2 h3 h4 h5 => ?transfer,
    fun h1 h2 h3 h4 h5 h6 => ?same, fun h1 h2 h3 h4 h5 h6 => ?bundle⟩
  case length => rw [hd, if_pos h1]
  case header => rw [hd, if_neg h1, if_pos (hheader.mpr h2)]
  case guard => rw [hd, if_neg h1, if_neg (mt hheader.mp h2), if_pos (hguard.mpr h3)]
  case literal => rw [hd, if_neg h1, if_neg (mt hheader.mp h2), if_neg (mt hguard.mp h3), if_pos (hliteral.mpr h4)]
  case transfer =>
    rw [hd, if_neg h1, if_neg (mt hheader.mp h2), if_neg (mt hguard.mp h3), if_neg (mt hliteral.mp h4), if_pos (htransfer.mpr h5)]
  case same =>
    rw [hd, if_neg h1, if_neg (mt hheader.mp h2), if_neg (mt hguard.mp h3), if_neg (mt hliteral.mp h4), if_neg (mt htransfer.mp h5),
      if_pos (hsame.mpr h6)]
  case bundle =>
    rw [hd, if_neg h1, if_neg (mt hheader.mp h2), if_neg (mt hguard.mp h3), if_neg (mt hliteral.mp h4), if_neg (mt htransfer.mp h5),
      if_neg (mt hsame.mp h6), List.map_map, hlit]
    rfl


/-- Opcodes with a literal field, one by one (R82, R90, R93, R94). -/
theorem litS_of_mem {op : Nat} (h : op ∈ [1, 2, 3, 6, 0x0A, 0x14, 0x18, 0x19, 0x1C, 0x29, 0x6B, 0x6D, 0x6F]) : litS op = true := by
  revert op
  decide

theorem litS_eq_false_of_mem {op : Nat} (h : op ∈ [0, 0x20, 0x30, 0x35, 0x38, 0x40, 0x6E]) : litS op = false := by
  revert op
  decide

theorem litV_of_mem {op : Nat} (h : op ∈ [1, 2, 3, 0x0B, 0x14, 0x1F, 0x2D]) : litV op = true := by
  revert op
  decide

theorem bits_one_beq (w i : Nat) : (bits w i i == 1) = w.testBit i := by
  rw [bits_one_eq]
  cases w.testBit i <;> rfl

/-- What may be a destination (R60): register 0 of g, p and k may not. -/
def countsAsDest (x : DestFile × Nat) : Bool := x.2 != 0 || (x.1 != .g && x.1 != .p && x.1 != .k)

@[simp] theorem all_countsAsDest_dest0 (f : DestFile) (d : Nat) : (dest0 f d).all countsAsDest = true := by
  by_cases h : d = 0 <;> simp [dest0, countsAsDest, h]

@[simp] theorem all_countsAsDest_destGroup (vd n : Nat) : (destGroup vd n).all countsAsDest = true := by
  induction n generalizing vd with
  | zero => rfl
  | succ n ih =>
    rw [destGroup, List.all_append, ih, Bool.and_true]
    split <;> simp [countsAsDest]

theorem all_countsAsDest_dests (i : Instr) : i.dests.all countsAsDest = true := by
  unfold Instr.dests
  split <;> simp [countsAsDest]

theorem selectionsAndDestinations : SelectionsAndDestinations := by
  refine ⟨fun w => ⟨rfl, rfl, rfl⟩, fun w h => ?litS, fun w h => ?noLit, fun w h => ?litV, fun i f n h hf => ?dests⟩
  case litS =>
    have hop : litS (bits w 11 5) = true := litS_of_mem h
    simp only [selectsLit, hop, bits_one_beq, Bool.true_and]
  case noLit =>
    have hop : litS (bits w 11 5) = false := litS_eq_false_of_mem h
    simp only [selectsLit, hop, Bool.false_and]
  case litV =>
    have hop : litV (bits w 11 5) = true := litV_of_mem h
    simp only [selectsLit, hop, bits_one_beq, Bool.true_and]
  case dests =>
    have hc := List.all_eq_true.mp (all_countsAsDest_dests i) _ h
    rintro rfl
    rcases hf with rfl | rfl | rfl <;> cases hc

/-- A bundle that fails a check of its own traps before any slot acts: the module is as it was, but for the trap (R74, R104, R302). -/
theorem State.issue_reject (s : State) (c x : Nat) (r : Reject) (h : Nat) (ho : (s.arch.ctx c x).owed = none) :
    ∃ u : State, s.issue c x (.reject r h) none = .next u ∧ u.iss.trap = some ⟨1, 7, r.step, 0, bits h 15 0⟩ ∧
      u.arch = s.arch.raise c x 1 7 r.step 0 (bits h 15 0) (bits h 11 8 + 1) := by
  refine ⟨_, rfl, rfl, ?_⟩
  have hrd : (s.begin c x 0 2 (bits h 11 8) none).rd.owed = none := ho
  rw [State.trapNow_arch, hrd]
  rfl

/-- A bundle with a slot that fails step 7 of R104 traps by its first such slot. -/
theorem State.issue_slotFails (s : State) (c x : Nat) (b : Bundle) (q : Slot) (hx : x < 2)
    (hq : b.slots.find? ((s.arch.ctx c x).slotFails x) = some q) :
    ∃ u : State, s.issue c x (.bundle b) none = .next u ∧ u.iss.trap = some ⟨2, q.pos, 7, 0, q.word⟩ := by
  have hrd : (s.begin c x (max 1 b.slots.length) b.len b.rep none).rd = s.arch.ctx c x := rfl
  have hx2 : (decide (x = 2) && !shadowBundle b) = false := by simp [Nat.ne_of_lt hx]
  refine ⟨(s.begin c x (max 1 b.slots.length) b.len b.rep none).trapNow 2 q.pos 7 0 q.word, ?_, rfl⟩
  simp only [State.issue, hx2, Bool.false_eq_true, if_false, hrd, hq]

end Sys2Proof.Machine

open Sys2Proof Sys2Proof.Machine in
/-- Settles O55: decoding is the chain of the checks of R104 over the slots that the header names, and a bundle that fails one traps
with the module as it was. -/
theorem illegalBundlesTrap : Obligations.IllegalBundlesTrap :=
  ⟨bundlesAreChecked, selectionsAndDestinations, fun s c x r h _ ho => s.issue_reject c x r h ho,
    fun s c x b q hx hq => s.issue_slotFails c x b q hx hq, rfl, rfl, rfl, rfl, rfl, rfl⟩

end
section
/-! Landing and the advance of a context at the commit of a bundle without accesses (O50; R56 to R60, R67, R68, R80, R375). -/

namespace Sys2Proof.Machine

variable {α : Type}

-- ## What one result gives

theorem getLsbD_merge (mask old new : BitVec 4096) (i : Nat) :
    (merge mask old new).getLsbD i = if mask.getLsbD i then new.getLsbD i else old.getLsbD i := by
  by_cases hi : i < 4096
  · simp only [merge, BitVec.getLsbD_or, BitVec.getLsbD_and, BitVec.getLsbD_not, hi, decide_true, Bool.true_and]
    cases mask.getLsbD i <;> simp
  · simp [merge, BitVec.getLsbD_of_ge _ _ (Nat.le_of_not_lt hi)]

/-- A result for a register of a file. -/
def Pend.hits (p : Pend) (f : RFile) (r : Nat) : Bool := p.file == f && r == p.reg

/-- The value a result for a vector register lands with (R351). -/
def Pend.wide (p : Pend) : BitVec 4096 := if p.expand then BitVec.ofNat 4096 (expandBlock p.val.toNat) else p.val

/-- A part `obs` of a context that moves with its registers only, and that a result gives `give` where it `hit`s, and leaves alone
elsewhere. -/
structure Landed (obs : Context → α) (hit : Pend → Bool) (give : Pend → α) : Prop where
  frame (t : Context) (pc b bt ord : Nat) (owed : Option Nat) (hold : Option Hold) (l : List Pend) :
    obs { t with pc := pc, bubbles := b, bt := bt, ord := ord, owed := owed, hold := hold, inflight := l } = obs t
  put (t : Context) (p : Pend) : obs (t.put p) = if hit p then give p else obs t

theorem landed_g (r : Nat) : Landed (fun t => SMap.get 0 t.g r) (fun p => p.hits .g r && p.reg != 0) (fun p => p.val.setWidth 64) where
  frame _ _ _ _ _ _ _ _ := rfl
  put t p := by cases hf : p.file <;> by_cases h0 : p.reg = 0 <;> simp [Context.put, Pend.hits, apply_ite Context.g, hf, h0, SMap.get_set]

theorem landed_p (r : Nat) : Landed (fun t => SMap.get false t.p r) (fun p => p.hits .p r && p.reg != 0) (fun p => p.val.getLsbD 0) where
  frame _ _ _ _ _ _ _ _ := rfl
  put t p := by cases hf : p.file <;> by_cases h0 : p.reg = 0 <;> simp [Context.put, Pend.hits, apply_ite Context.p, hf, h0, SMap.get_set]

theorem landed_m (r : Nat) : Landed (fun t => SMap.get 0 t.m r) (fun p => p.hits .m r) (fun p => p.val.setWidth 64) where
  frame _ _ _ _ _ _ _ _ := rfl
  put t p := by cases hf : p.file <;> simp [Context.put, Pend.hits, apply_ite Context.m, hf, SMap.get_set]

theorem landed_apos (r : Nat) :
    Landed (fun t => SMap.get 0 t.apos r) (fun p => p.hits .a r) (fun p => if p.mask = 0 then p.val.toNat else 0) where
  frame _ _ _ _ _ _ _ _ := rfl
  put t p := by cases hf : p.file <;> by_cases hm : p.mask = 0#4096 <;> simp [Context.put, Pend.hits, apply_ite Context.apos, hf, hm, SMap.get_set]

theorem landed_a (r : Nat) :
    Landed (fun t => SMap.get 0 t.a r) (fun p => p.hits .a r && p.mask != 0) (fun p => p.val.setWidth 256) where
  frame _ _ _ _ _ _ _ _ := rfl
  put t p := by cases hf : p.file <;> by_cases hm : p.mask = 0#4096 <;> simp [Context.put, Pend.hits, apply_ite Context.a, hf, hm, SMap.get_set]

theorem landed_v (r i : Nat) :
    Landed (fun t => (SMap.get (0 : VReg) t.v r).getLsbD i) (fun p => p.hits .v r && p.mask.getLsbD i) (fun p => p.wide.getLsbD i) where
  frame _ _ _ _ _ _ _ _ := rfl
  put t p := by
    cases hf : p.file
    case v =>
      by_cases hr : r = p.reg
      · subst hr
        simp [Context.put, Pend.hits, Pend.wide, hf, getLsbD_merge]
      · simp [Context.put, Pend.hits, hf, hr, SMap.get_set]
    all_goals simp [Context.put, Pend.hits, apply_ite Context.v, hf]

theorem landed_k (r i : Nat) :
    Landed (fun t => (SMap.get (0 : BitVec 1024) t.k r).getLsbD i) (fun p => p.hits .k r && p.reg != 0 && p.mask.getLsbD i)
      (fun p => decide (i < 1024) && p.val.getLsbD i) where
  frame _ _ _ _ _ _ _ _ := rfl
  put t p := by
    cases hf : p.file
    case k =>
      by_cases h0 : p.reg = 0
      · simp [Context.put, Pend.hits, hf, h0]
      by_cases hr : r = p.reg
      · subst hr
        simp [Context.put, Pend.hits, hf, h0, getLsbD_merge]
        by_cases hi : i < 1024
        · simp [hi, show i < 4096 by omega]
        · simp [hi, BitVec.getLsbD_of_ge _ _ (Nat.le_of_not_lt hi)]
      · simp [Context.put, Pend.hits, hf, h0, hr, SMap.get_set]
    all_goals simp [Context.put, Pend.hits, apply_ite Context.k, hf]

-- ## What a run of results gives

section
variable {obs : Context → α} {hit : Pend → Bool} {give : Pend → α} (h : Landed obs hit give)
include h

theorem Landed.foldl_keeps {ps : List Pend} (t : Context) (hn : ∀ p ∈ ps, hit p = false) : obs (ps.foldl Context.put t) = obs t := by
  induction ps generalizing t with
  | nil => rfl
  | cons p ps ih =>
    rw [List.foldl_cons, ih _ fun q hq => hn q (List.mem_cons_of_mem p hq), h.put, hn p List.mem_cons_self]
    rfl

/-- Of results issued in order, the last that hits gives (R60). -/
theorem Landed.foldl_last {xs ys : List Pend} {e : Pend} (t : Context) (he : hit e = true) (hn : ∀ p ∈ ys, hit p = false) :
    obs ((xs ++ e :: ys).foldl Context.put t) = give e := by
  rw [List.foldl_append, List.foldl_cons, h.foldl_keeps _ hn, h.put, if_pos he]

/-- Landing changes no part that no result due hits (R58, R62). -/
theorem Landed.settle_keeps {t : Context} (hn : ∀ p ∈ t.inflight, p.due ≤ t.time → hit p = false) : obs t.settle = obs t := by
  rw [Context.settle, h.foldl_keeps]
  · exact h.frame ..
  intro p hp
  obtain ⟨hp, hl⟩ := List.mem_filter.mp hp
  simp only [Context.lands, Bool.and_eq_true, decide_eq_true_eq] at hl
  exact hn p hp hl.1.1

/-- Where all results due have arrived, the last issued of those that hit gives (R60, R62). -/
theorem Landed.settle_last {t : Context} {xs ys : List Pend} {e : Pend} (hsplit : t.inflight = xs ++ e :: ys) (hall : t.allPresent = true)
    (hdue : e.due ≤ t.time) (he : hit e = true) (hn : ∀ p ∈ ys, p.due ≤ t.time → hit p = false) : obs t.settle = give e := by
  have hland {p : Pend} (hp : p ∈ t.inflight) : t.lands p = decide (p.due ≤ t.time) := t.lands_of_allPresent hall hp
  have hlist : t.inflight.filter t.lands = xs.filter t.lands ++ e :: ys.filter t.lands := by
    rw [hsplit, List.filter_append, List.filter_cons_of_pos (by rw [hland (by simp [hsplit]), decide_eq_true hdue])]
  rw [Context.settle, hlist, h.foldl_last _ he]
  intro p hp
  obtain ⟨hp, hl⟩ := List.mem_filter.mp hp
  rw [hland (by simp [hsplit, hp]), decide_eq_true_eq] at hl
  exact hn p hp hl

end

/-- A context without its registers and results. -/
def Context.bare (t : Context) : Context :=
  { t with g := [], p := [], k := [], v := [], m := [], a := [], apos := [], inflight := [] }

theorem Context.put_bare (t : Context) (p : Pend) : (t.put p).bare = t.bare := by
  unfold Context.put
  cases p.file <;> simp only <;> (try split) <;> rfl

theorem Context.settle_bare (t : Context) : t.settle.bare = t.bare := by
  have hfold (ps : List Pend) (t : Context) : (ps.foldl Context.put t).bare = t.bare := by
    induction ps generalizing t with
    | nil => rfl
    | cons p ps ih => rw [List.foldl_cons, ih, put_bare]
  rw [Context.settle, hfold]
  rfl

-- ## The commit

/-- Outside a handler an issue moves bundle time, the order of issues and where the program stands, and nothing else (R56, R57, R80). -/
theorem Context.advance_eq (t : Context) (rep len : Nat) (br : Branch) (ht : t.trap.tmode = false) :
    t.advance rep len br = { t with
      bt := t.bt + 1, ord := t.ord + 1, hold := none
      pc := (t.advance rep len br).pc, bubbles := (t.advance rep len br).bubbles, owed := (t.advance rep len br).owed } := by
  simp only [Context.advance, ht, Bool.false_eq_true, if_false]
  split
  · rfl
  · split <;> rfl

theorem Context.advance_inflight (t : Context) (rep len : Nat) (br : Branch) (ht : t.trap.tmode = false) :
    (t.advance rep len br).inflight = t.inflight := by rw [t.advance_eq rep len br ht]

theorem Context.advance_time (t : Context) (rep len : Nat) (br : Branch) (ht : t.trap.tmode = false) :
    (t.advance rep len br).time = t.bt + 1 := by rw [t.advance_eq rep len br ht]; simp [Context.time, ht]

/-- An update of one context changes the contexts of the cores only. -/
theorem Arch.mapCtx_without_cores (a : Arch) (c x : Nat) (f : Context → Context) :
    { a.mapCtx c x f with cores := [] } = { a with cores := [] } := rfl

theorem Arch.core_mapCtx_without_ctxs (a : Arch) (c x d : Nat) (f : Context → Context) :
    { (a.mapCtx c x f).core d with ctxs := [] } = { a.core d with ctxs := [] } := by
  by_cases h : d = c
  · subst h
    rw [Arch.mapCtx, Arch.setCtx, Arch.core_setCore]
    rfl
  · rw [Arch.mapCtx, Arch.setCtx, Arch.core_setCore_other _ _ h]

/-- A bundle without accesses that no transfer out of the program ends commits by the advance and the landing of its context alone. -/
theorem State.slotDone_bare {s : State} (h : Bare s) (ht : s.iss.trapAfter = none)
    (hb : s.iss.branch = .none ∨ ∃ pc b, s.iss.branch = .to pc b) :
    s.slotDone = (s.setArch ((s.arch.mapCtx s.iss.core s.iss.ctx fun t =>
      t.advance s.iss.rep s.iss.len s.iss.branch).mapCtx s.iss.core s.iss.ctx Context.settle)).setIss
        { s.iss with left := 0, accs := [], rows := [] } := by
  obtain ⟨hlast, hheld, haccs, hrows, hroom⟩ := h
  have hroom' : ¬ (3072 < (s.arch.core s.iss.core).landing ∧ (s.view.core s.iss.core).landing < (s.arch.core s.iss.core).landing) := by
    omega
  have hrowsOf : s.arch.rowsOf [] = [] := rfl
  have hnear (a : Arch) : a.runNear [] = a := rfl
  rw [s.slotDone_last hlast hheld, State.commit, if_neg hroom']
  rcases hb with hb | ⟨pc, b, hb⟩ <;>
    simp only [haccs, hrows, Arch.enqueue_nil, hrowsOf, hnear, ht, hb, List.append_nil, List.isEmpty_nil, if_true, ite_self]

theorem hits_eq_false_of_any {t : Context} {f : RFile} {r : Nat} {l : List Pend} (h : l.any (landsOn t f r) = false) {p : Pend}
    (hp : p ∈ l) (hdue : p.due ≤ t.bt + 1) : p.hits f r = false := by
  have hl := List.any_eq_false.mp h p hp
  simpa [landsOn, Pend.hits, hdue, eq_comm (a := r)] using hl

section
variable {obs : Context → α} {hit : Pend → Bool} {give : Pend → α} (h : Landed obs hit give) {t : Context} {rep len : Nat} {br : Branch}
  (htm : t.trap.tmode = false)
include h htm

theorem Landed.advance_keeps : obs (t.advance rep len br) = obs t := by rw [t.advance_eq rep len br htm]; exact h.frame ..

theorem Landed.issue_keeps (hn : ∀ p ∈ t.inflight, p.due ≤ t.bt + 1 → hit p = false) :
    obs (t.advance rep len br).settle = obs t := by
  rw [h.settle_keeps, h.advance_keeps htm]
  rwa [t.advance_inflight rep len br htm, t.advance_time rep len br htm]

theorem Landed.issue_last {xs ys : List Pend} {e : Pend} (hsplit : t.inflight = xs ++ e :: ys)
    (hall : t.inflight.all (fun q => decide (t.bt + 1 < q.due) || q.parts == 0) = true)
    (hdue : e.due ≤ t.bt + 1) (he : hit e = true) (hn : ∀ p ∈ ys, p.due ≤ t.bt + 1 → hit p = false) :
    obs (t.advance rep len br).settle = give e := by
  have hfl := t.advance_inflight rep len br htm
  have htime := t.advance_time rep len br htm
  exact h.settle_last (hfl ▸ hsplit) (by rw [Context.allPresent, hfl, htime]; exact hall) (htime ▸ hdue) he (htime ▸ hn)

end

/-- What stays of a context at an issue, and where it goes on (R56, R57, R80). -/
theorem Context.issue_bare {t u : Context} {rep len : Nat} {br : Branch} (htm : t.trap.tmode = false)
    (hu : u = (t.advance rep len br).settle) :
    u.bt = t.bt + 1 ∧ u.trap = t.trap ∧ u.ring = t.ring ∧ u.lc = t.lc ∧ u.ec = t.ec ∧ u.rg = t.rg ∧ u.tl = t.tl ∧ u.wait = t.wait ∧
    u.pc = (t.advance rep len br).pc ∧ u.owed = (t.advance rep len br).owed ∧ u.bubbles = (t.advance rep len br).bubbles := by
  have hbare : u.bare = (t.advance rep len br).bare := hu ▸ settle_bare _
  have hkeep := t.advance_eq rep len br htm
  generalize t.advance rep len br = w at hbare hkeep
  have hsame {α : Type} (f : Context → α) : f u.bare = f w.bare := congrArg f hbare
  have hw {α : Type} (f : Context → α) := congrArg f hkeep
  exact ⟨(hsame Context.bt).trans (hw Context.bt), (hsame Context.trap).trans (hw Context.trap),
    (hsame Context.ring).trans (hw Context.ring), (hsame Context.lc).trans (hw Context.lc), (hsame Context.ec).trans (hw Context.ec),
    (hsame Context.rg).trans (hw Context.rg), (hsame Context.tl).trans (hw Context.tl), (hsame Context.wait).trans (hw Context.wait),
    hsame Context.pc, hsame Context.owed, hsame Context.bubbles⟩

theorem Context.advance_last (t : Context) (rep len : Nat) (h : t.owed.getD (rep + 1) ≤ 1) :
    (t.advance rep len .none).pc = t.pc + len ∧ (t.advance rep len .none).owed = none := by
  cases hm : t.trap.tmode <;> simp [Context.advance, Context.owes, h, hm]

theorem Context.advance_again (t : Context) (rep len : Nat) (h : 1 < t.owed.getD (rep + 1)) :
    (t.advance rep len .none).pc = t.pc ∧ (t.advance rep len .none).owed = some (t.owed.getD (rep + 1) - 1) := by
  cases hm : t.trap.tmode <;> simp [Context.advance, Context.owes, Nat.not_le.mpr h, hm]

theorem Context.advance_to (t : Context) (rep len pc b : Nat) :
    (t.advance rep len (.to pc b)).pc = pc ∧ (t.advance rep len (.to pc b)).bubbles = b ∧ (t.advance rep len (.to pc b)).owed = none :=
  ⟨rfl, rfl, rfl⟩

theorem landsOn_iff {t : Context} {f : RFile} {r : Nat} {p : Pend} :
    landsOn t f r p = true ↔ p.hits f r = true ∧ p.due ≤ t.bt + 1 := by
  simp only [landsOn, Pend.hits, Bool.and_eq_true, beq_iff_eq, decide_eq_true_eq, eq_comm (a := r)]

/-- A result that takes no part `m` of a register wherever it lands on it hits none. -/
theorem hits_and_eq_false {t : Context} {f : RFile} {r : Nat} {p : Pend} {m : Bool} (h : landsOn t f r p = true → m = false)
    (hdue : p.due ≤ t.bt + 1) : (p.hits f r && m) = false := by
  cases hh : p.hits f r
  · rfl
  · exact h (landsOn_iff.mpr ⟨hh, hdue⟩)

section
variable {t u : Context} {rep len : Nat} {br : Branch} (htm : t.trap.tmode = false) (hu : u = (t.advance rep len br).settle)
include htm hu

/-- Registers that no result due hits keep what they hold, k and v registers bit by bit (R58, R68). -/
theorem Context.issue_keeps_bits :
    (∀ r i, (∀ q ∈ t.inflight, landsOn t .v r q = true → q.mask.getLsbD i = false) →
      (SMap.get (0 : VReg) u.v r).getLsbD i = (SMap.get (0 : VReg) t.v r).getLsbD i) ∧
    (∀ r i, (∀ q ∈ t.inflight, landsOn t .k r q = true → q.mask.getLsbD i = false) →
      (SMap.get (0 : BitVec 1024) u.k r).getLsbD i = (SMap.get (0 : BitVec 1024) t.k r).getLsbD i) := by
  subst hu
  refine ⟨fun r i h => (landed_v r i).issue_keeps htm fun p hp hdue => hits_and_eq_false (h p hp) hdue,
    fun r i h => (landed_k r i).issue_keeps htm fun p hp hdue => ?_⟩
  rw [Bool.and_right_comm, hits_and_eq_false (h p hp) hdue, Bool.false_and]

theorem Context.issue_keeps :
    (∀ r, t.inflight.any (landsOn t .g r) = false → SMap.get 0 u.g r = SMap.get 0 t.g r) ∧
    (∀ r, t.inflight.any (landsOn t .p r) = false → SMap.get false u.p r = SMap.get false t.p r) ∧
    (∀ r, t.inflight.any (landsOn t .k r) = false → SMap.get 0 u.k r = SMap.get 0 t.k r) ∧
    (∀ r, t.inflight.any (landsOn t .v r) = false → SMap.get 0 u.v r = SMap.get 0 t.v r) ∧
    (∀ r, t.inflight.any (landsOn t .m r) = false → SMap.get 0 u.m r = SMap.get 0 t.m r) ∧
    (∀ r, t.inflight.any (landsOn t .a r) = false → SMap.get 0 u.a r = SMap.get 0 t.a r ∧ SMap.get 0 u.apos r = SMap.get 0 t.apos r) := by
  obtain ⟨hv, hk⟩ := issue_keeps_bits htm hu
  have hnone {f : RFile} {r : Nat} (h : t.inflight.any (landsOn t f r) = false) (q : Pend) (hq : q ∈ t.inflight) :
      ¬ landsOn t f r q = true := List.any_eq_false.mp h q hq
  subst hu
  refine ⟨fun r h => ?g, fun r h => ?p, fun r h => ?k, fun r h => ?v, fun r h => ?m, fun r h => ⟨?a, ?apos⟩⟩
  case g => exact (landed_g r).issue_keeps htm fun q hq hdue => hits_and_eq_false (fun hl => absurd hl (hnone h q hq)) hdue
  case p => exact (landed_p r).issue_keeps htm fun q hq hdue => hits_and_eq_false (fun hl => absurd hl (hnone h q hq)) hdue
  case k => exact BitVec.eq_of_getLsbD_eq fun i _ => hk r i fun q hq hl => absurd hl (hnone h q hq)
  case v => exact BitVec.eq_of_getLsbD_eq fun i _ => hv r i fun q hq hl => absurd hl (hnone h q hq)
  case m => exact (landed_m r).issue_keeps htm fun q hq hdue => hits_eq_false_of_any h hq hdue
  case a => exact (landed_a r).issue_keeps htm fun q hq hdue => hits_and_eq_false (fun hl => absurd hl (hnone h q hq)) hdue
  case apos => exact (landed_apos r).issue_keeps htm fun q hq hdue => hits_eq_false_of_any h hq hdue

/-- Where all results due have arrived, a register reads what the last issued of those that hit it gave (R60, R67, R68, R375). -/
theorem Context.issue_last {xs ys : List Pend} {e : Pend} (hsplit : t.inflight = xs ++ e :: ys)
    (hall : t.inflight.all (fun q => decide (t.bt + 1 < q.due) || q.parts == 0) = true) :
    let last (f : RFile) : Prop := landsOn t f e.reg e = true ∧ ys.any (landsOn t f e.reg) = false
    let lastOn (f : RFile) (i : Nat) : Prop := landsOn t f e.reg e = true ∧ e.mask.getLsbD i = true ∧
      ∀ q ∈ ys, landsOn t f e.reg q = true → q.mask.getLsbD i = false
    (last .g → e.reg ≠ 0 → SMap.get 0 u.g e.reg = e.val.setWidth 64) ∧
    (last .p → e.reg ≠ 0 → SMap.get false u.p e.reg = e.val.getLsbD 0) ∧
    (last .m → SMap.get 0 u.m e.reg = e.val.setWidth 64) ∧
    (∀ i, lastOn .k i → e.reg ≠ 0 → i < 1024 → (SMap.get (0 : BitVec 1024) u.k e.reg).getLsbD i = e.val.getLsbD i) ∧
    (∀ i, lastOn .v i → i < 4096 → (SMap.get (0 : VReg) u.v e.reg).getLsbD i =
      (if e.expand then BitVec.ofNat 4096 (expandBlock e.val.toNat) else e.val).getLsbD i) ∧
    (last .a → SMap.get 0 u.apos e.reg = if e.mask = 0 then e.val.toNat else 0) ∧
    (landsOn t .a e.reg e = true → e.mask ≠ 0 → (∀ q ∈ ys, landsOn t .a e.reg q = true → q.mask = 0) →
      SMap.get 0 u.a e.reg = e.val.setWidth 256) := by
  subst hu
  intro last lastOn
  have hnone {f : RFile} (h : ys.any (landsOn t f e.reg) = false) (q : Pend) (hq : q ∈ ys) :
      ¬ landsOn t f e.reg q = true := List.any_eq_false.mp h q hq
  refine ⟨fun ⟨he, hys⟩ h0 => ?g, fun ⟨he, hys⟩ h0 => ?p, fun ⟨he, hys⟩ => ?m, fun i ⟨he, hm, hys⟩ h0 hi => ?k,
    fun i ⟨he, hm, hys⟩ _ => ?v, fun ⟨he, hys⟩ => ?apos, fun he hm hys => ?a⟩ <;>
    obtain ⟨hhit, hdue⟩ := landsOn_iff.mp he
  case g => exact (landed_g _).issue_last htm hsplit hall hdue (by simp [hhit, h0]) fun q hq =>
      hits_and_eq_false fun hl => absurd hl (hnone hys q hq)
  case p => exact (landed_p _).issue_last htm hsplit hall hdue (by simp [hhit, h0]) fun q hq =>
      hits_and_eq_false fun hl => absurd hl (hnone hys q hq)
  case m => exact (landed_m _).issue_last htm hsplit hall hdue hhit fun q hq => hits_eq_false_of_any hys hq
  case apos => exact (landed_apos _).issue_last htm hsplit hall hdue hhit fun q hq => hits_eq_false_of_any hys hq
  case a => exact (landed_a _).issue_last htm hsplit hall hdue (by simpa [hhit] using hm) fun q hq =>
      hits_and_eq_false fun hl => by simpa using hys q hq hl
  case v => exact (landed_v _ i).issue_last htm hsplit hall hdue (by simp [hhit, hm]) fun q hq => hits_and_eq_false (hys q hq)
  case k =>
    rw [(landed_k _ i).issue_last htm hsplit hall hdue (by simp [hhit, hm, h0]), decide_eq_true hi, Bool.true_and]
    intro q hq hdue
    rw [Bool.and_right_comm, hits_and_eq_false (hys q hq) hdue, Bool.false_and]

end

end Sys2Proof.Machine

open Sys2Proof Sys2Proof.Machine in
/-- Settles O50: the commit advances the context and lands what is due, and what a register reads is what the last result that hits it
gave. -/
theorem commitsAdvanceOneContext : Obligations.CommitsAdvanceOneContext := by
  intro s hbare htrap htm t d u n hbr
  have hd : d = _ := s.slotDone_bare hbare htrap hbr
  have harch : d.arch = (s.arch.mapCtx s.iss.core s.iss.ctx fun t =>
      t.advance s.iss.rep s.iss.len s.iss.branch).mapCtx s.iss.core s.iss.ctx Context.settle := by rw [hd]; rfl
  have hu : u = (t.advance s.iss.rep s.iss.len s.iss.branch).settle := by
    have hcur : u = d.arch.ctx s.iss.core s.iss.ctx := by simp only [u, hd]; rfl
    rw [hcur, harch, Arch.ctx_mapCtx, Arch.ctx_mapCtx]
    rfl
  clear_value u d
  obtain ⟨hbt, htrap, hring, hlc, hec, hrg, htl, hwait, hpc, howed, hbubbles⟩ := Context.issue_bare htm hu
  obtain ⟨hg, hp, hk, hv, hm, ha⟩ := Context.issue_keeps htm hu
  obtain ⟨hvbit, hkbit⟩ := Context.issue_keeps_bits htm hu
  refine ⟨?cores, ?ctxs, ?others, hbt, htrap, hring, hlc, hec, hrg, htl, hwait, ?next, ?again, ?goes, hg, hp, hk, hv, hm, ha, hvbit, hkbit,
    fun xs ys e hsplit hall => Context.issue_last htm hu hsplit hall⟩
  case cores => rw [harch, Arch.mapCtx_without_cores, Arch.mapCtx_without_cores]
  case ctxs =>
    intro c
    rw [harch, Arch.core_mapCtx_without_ctxs, Arch.core_mapCtx_without_ctxs]
  case others =>
    intro c x hne
    rw [harch, Arch.ctx_mapCtx_other _ _ hne, Arch.ctx_mapCtx_other _ _ hne]
  case next =>
    intro hb hn
    rw [hpc, howed, hb]
    exact t.advance_last s.iss.rep s.iss.len hn
  case again =>
    intro hb hn
    rw [hpc, howed, hb]
    exact t.advance_again s.iss.rep s.iss.len hn
  case goes =>
    intro pc b hb
    rw [hpc, howed, hbubbles, hb]
    exact t.advance_to s.iss.rep s.iss.len pc b

end
section
/-! Lanes of vector registers and bits of lane masks (R68, R86, R386), for the compares, the lane hash and the mask operations (O20; R67,
R349, R391, R395, R396, R413) and for every other lane-wise instruction. -/

namespace Sys2Proof

theorem VType.width_pos (t : VType) : 0 < t.width := by cases t <;> decide

theorem VType.width_mul_add_le {t : VType} {n : Nat} (h : n < t.lanes) : t.width * n + t.width ≤ 4096 := by
  rw [← Nat.mul_succ, Nat.mul_comm]
  exact (Nat.le_div_iff_mul_le t.width_pos).mp h

theorem VType.lanes_le (t : VType) : t.lanes ≤ 1024 := by cases t <;> decide

theorem VType.lo_le_hi (t : VType) : t.lo ≤ t.hi := by cases t <;> decide

end Sys2Proof

namespace Sys2Proof.Machine

-- ## Fields of a number

theorem toLanes_eq (w n x : Nat) : toLanes w n x = (List.range n).map fun i => x / 2 ^ (w * i) % 2 ^ w := by
  induction n generalizing x with
  | zero => rfl
  | succ n ih =>
    rw [toLanes, ih, List.range_succ_eq_map, List.map_cons, List.map_map, Nat.mul_zero, pow_zero, Nat.div_one]
    refine congrArg _ (List.map_congr_left fun i _ => ?_)
    rw [Function.comp_apply, Nat.div_div_eq_div_mul, ← pow_add, Nat.mul_succ, Nat.add_comm]

theorem ofLanes_div_mod (w : Nat) (xs : List Nat) (n : Nat) : ofLanes w xs / 2 ^ (w * n) % 2 ^ w = xs.getD n 0 % 2 ^ w := by
  induction xs generalizing n with
  | nil => simp [ofLanes]
  | cons x xs ih =>
    have hlow : x % 2 ^ w < 2 ^ w := Nat.mod_lt _ (by positivity)
    cases n with
    | zero => simp [ofLanes]
    | succ n =>
      rw [List.getD_cons_succ, ← ih n, ofLanes, Nat.mul_succ, Nat.add_comm (w * n), pow_add, ← Nat.div_div_eq_div_mul,
        Nat.add_mul_div_left _ _ (by positivity), Nat.div_eq_of_lt hlow, Nat.zero_add]

theorem ofBools_testBit (bs : List Bool) (n : Nat) : (ofBools bs).testBit n = bs.getD n false := by
  have h := ofLanes_div_mod 1 (bs.map fun b => if b then 1 else 0) n
  rw [Nat.one_mul, pow_one] at h
  rw [Nat.testBit_eq_decide_div_mod_eq, ofBools, h]
  simp only [List.getD_eq_getElem?_getD, List.getElem?_map]
  cases bs[n]? with
  | none => rfl
  | some b => cases b <;> rfl

theorem getD_map_range {α : Type} (f : Nat → α) (d : α) {n k : Nat} (h : k < n) : ((List.range n).map f).getD k d = f k := by
  simp [List.getD_eq_getElem?_getD, h]

theorem getD_map_range_of_le {α : Type} (f : Nat → α) (d : α) {n k : Nat} (h : n ≤ k) : ((List.range n).map f).getD k d = d := by
  simp [List.getD_eq_getElem?_getD, h]

-- ## Lanes of a register

theorem lanesOf_eq (t : VType) (r : VReg) : lanesOf t r = (List.range t.lanes).map fun i => (laneAt t r i).toNat := by
  rw [lanesOf, toLanes_eq]
  exact List.map_congr_left fun i _ => by rw [laneAt, BitVec.extractLsb'_toNat, Nat.shiftRight_eq_div_pow]

theorem laneAt_ofNat {t : VType} {n : Nat} (x : Nat) (h : n < t.lanes) :
    laneAt t (BitVec.ofNat 4096 x) n = BitVec.ofNat t.width (x / 2 ^ (t.width * n)) := by
  have hfit := VType.width_mul_add_le h
  refine BitVec.eq_of_getLsbD_eq fun i hi => ?_
  have hin : t.width * n + i < 4096 := by omega
  rw [laneAt, BitVec.getLsbD_extractLsb', BitVec.getLsbD_ofNat, BitVec.getLsbD_ofNat, Nat.testBit_div_two_pow, Nat.add_comm i,
    decide_eq_true hi, decide_eq_true hin, Bool.true_and]

/-- A register of packed lanes has them (R68). -/
theorem laneAt_packLanes {t : VType} {n : Nat} (xs : List Nat) (h : n < t.lanes) :
    laneAt t (BitVec.ofNat 4096 (packLanes t xs)) n = BitVec.ofNat t.width (xs.getD n 0) := by
  rw [laneAt_ofNat _ h, packLanes]
  exact BitVec.eq_of_toNat_eq (by rw [BitVec.toNat_ofNat, BitVec.toNat_ofNat, ofLanes_div_mod])

theorem laneAt_packLanes_map {t : VType} {n : Nat} (f : Nat → Nat) (h : n < t.lanes) :
    laneAt t (BitVec.ofNat 4096 (packLanes t ((List.range t.lanes).map f))) n = BitVec.ofNat t.width (f n) := by
  rw [laneAt_packLanes _ h, getD_map_range f 0 h]

/-- The bits that a lane mask enables, lane by lane (R68). -/
theorem laneAt_laneBits {t : VType} {n : Nat} (k : Nat) (h : n < t.lanes) :
    laneAt t (BitVec.ofNat 4096 (laneBits t.width t.lanes k)) n = if k.testBit n then BitVec.allOnes t.width else 0 := by
  rw [laneBits, toLanes_eq, List.map_map, ← packLanes, laneAt_packLanes_map _ h, Function.comp_apply, Nat.one_mul, pow_one,
    Nat.testBit_eq_decide_div_mod_eq]
  by_cases hb : k / 2 ^ n % 2 = 1
  · simp only [hb, if_true, decide_true]
    exact BitVec.eq_of_toNat_eq (by simp)
  · simp [hb]

theorem laneAt_maskBits (s : State) {t : VType} {n : Nat} (k : Nat) (h : n < t.lanes) :
    laneAt t (s.maskBits t k) n = if (s.rd.readK k).getLsbD n then BitVec.allOnes t.width else 0 := laneAt_laneBits _ h

theorem laneAt_full {t : VType} {n : Nat} (h : n < t.lanes) : laneAt t full4096 n = BitVec.allOnes t.width := by
  have hfit := VType.width_mul_add_le h
  refine BitVec.eq_of_getLsbD_eq fun i hi => ?_
  have hin : t.width * n + i < 4096 := by omega
  rw [laneAt, BitVec.getLsbD_extractLsb', full4096, BitVec.getLsbD_allOnes, BitVec.getLsbD_allOnes, decide_eq_true hi,
    decide_eq_true hin, Bool.true_and]

-- ## Operands

theorem State.lanesA_eq (s : State) (t : VType) (n : Nat) :
    s.lanesA t n = (List.range t.lanes).map fun i => (s.laneV t n i).toNat := lanesOf_eq ..

/-- The literal in a lane (R86). -/
theorem litLane_eq (s : State) (t : VType) (y : BitVec 32) (i : Nat) : litLane t y = (s.laneB t (.lit y) i).toNat := by
  have hnarrow {w : Nat} (hw : w ≤ 32) : y.toNat % 2 ^ w = (y.signExtend w).toNat := by
    rw [BitVec.signExtend_eq_setWidth_of_le y hw, BitVec.toNat_setWidth]
  cases t
  case n64 => exact (Nat.mod_eq_of_lt (y.isLt.trans (by decide))).symm.trans (BitVec.toNat_setWidth ..).symm
  case i64 | a64 => rfl
  all_goals exact hnarrow (by decide)

theorem State.lanesB_eq (s : State) (t : VType) (b : Src) :
    s.lanesB t b = (List.range t.lanes).map fun i => (s.laneB t b i).toNat := by
  cases b with
  | reg n => exact lanesOf_eq ..
  | lit y =>
    rw [State.lanesB, List.map_congr_left fun i _ => (litLane_eq s t y i).symm, List.map_const', List.length_range]

theorem laneInt_toNat (t : VType) (a : BitVec t.width) : laneInt t a.toNat = t.int a := by
  have hlt : a.toNat % 2 ^ t.width = a.toNat := Nat.mod_eq_of_lt a.isLt
  have hhalf : 2 ^ t.width = 2 * 2 ^ (t.width - 1) := by rw [← pow_succ', Nat.sub_add_cancel t.width_pos]
  rw [laneInt, value, VType.int, hlt]
  split
  · rw [sext, hlt, BitVec.toInt_eq_toNat_cond]
    have hiff : a.toNat < 2 ^ (t.width - 1) ↔ 2 * a.toNat < 2 ^ t.width := by omega
    simp only [hiff, pow2]
    rfl
  · rfl

theorem wrap_eq (z : Int) (w : Nat) : wrap z w = (BitVec.ofInt w z).toNat := (BitVec.toNat_ofInt ..).symm

theorem minOf_eq_lo (t : VType) : minOf t.isSigned t.width = t.lo := by cases t <;> rfl

theorem maxOf_eq_hi (t : VType) : maxOf t.isSigned t.width = t.hi := by cases t <;> rfl

theorem sat_eq {z lo hi : Int} (h : lo ≤ hi) : sat z lo hi = max lo (min z hi) := by
  rw [sat]
  split
  · omega
  · split <;> omega

theorem narrow_eq (t : VType) (sat : Bool) (z : Int) : narrow t sat z = (t.fit sat z).toNat := by
  rw [narrow, wrap_eq, VType.fit, minOf_eq_lo, maxOf_eq_hi, sat_eq t.lo_le_hi]
  simp only [Bool.or_eq_true, beq_iff_eq]

theorem zipWith_map_range {α β γ : Type} (f : α → β → γ) (g : Nat → α) (h : Nat → β) (n : Nat) :
    List.zipWith f ((List.range n).map g) ((List.range n).map h) = (List.range n).map fun i => f (g i) (h i) := by
  rw [List.zipWith_map, List.zipWith_self]

-- ## Lane-wise results

/-- An instruction that lands lanes under its lane mask completes with them (R68). -/
theorem finish_landLanes {x : VArgs} {s : State} (h : Runs s x.p) (f : Nat → Nat) (lat : Nat) : ∃ m v : VReg,
    s.finish (s.whenOn x.p (.ok (s.landLanes x.ty x.vd x.k ((List.range x.ty.lanes).map f) lat))) =
      (s.result .v (s.rd.physV x.vd) m v lat).slotDone ∧
    ∀ n, n < x.ty.lanes → laneAt x.ty v n = BitVec.ofNat x.ty.width (f n) ∧
      laneAt x.ty m n = if !(s.rd.readK x.k).getLsbD n then 0 else BitVec.allOnes x.ty.width := by
  refine ⟨_, _, finish_whenOn_of_runs h, fun n hn => ⟨laneAt_packLanes_map f hn, ?_⟩⟩
  rw [laneAt_maskBits s _ hn]
  cases (s.rd.readK x.k).getLsbD n <;> rfl

-- ## Compares, lane hash and lane masks

theorem condV_laneCmp (t : VType) (cc : Nat) (a b : BitVec t.width) : condV cc (laneCmp t a.toNat b.toNat) = t.holds cc a b := by
  have hcmp : laneCmp t a.toNat b.toNat = if t.isF then FVal.cmp (t.flt a) (t.flt b) else some (compare (t.int a) (t.int b)) := by
    rw [laneCmp, laneInt_toNat, laneInt_toNat]
    rfl
  rw [hcmp, VType.holds]
  unfold condV
  split
  case h_7 h0 h1 h2 h3 h4 h5 =>
    simp only [if_neg (show ¬ cc = 0 from h0), if_neg (show ¬ cc = 1 from h1), if_neg (show ¬ cc = 2 from h2),
      if_neg (show ¬ cc = 3 from h3), if_neg (show ¬ cc = 4 from h4), if_neg (show ¬ cc = 5 from h5)]
    cases (if t.isF = true then FVal.cmp (t.flt a) (t.flt b) else some (compare (t.int a) (t.int b))) <;> rfl
  all_goals rfl

theorem testBit_cmpBits (n : Nat) {i k : Nat} (hn : n ≤ 1024) (hi : i < 1024) :
    (cmpBits n k).testBit i = (decide (n ≤ i) || k.testBit i) := by
  have hsplit : (2 : Nat) ^ 1024 - 2 ^ n = 2 ^ n * (2 ^ (1024 - n) - 1) := by rw [Nat.mul_sub_one, ← pow_add, Nat.add_sub_cancel' hn]
  rw [cmpBits, hsplit, Nat.add_comm, Nat.testBit_two_pow_mul_add _ (Nat.mod_lt _ (by positivity)), Nat.testBit_mod_two_pow,
    Nat.testBit_two_pow_sub_one]
  by_cases hlow : i < n
  · simp [hlow]
  · simp [hlow, Nat.le_of_not_lt hlow, show i - n < 1024 - n by omega]

theorem popCount_eq (x w : Nat) : popCount x w = (List.range w).countP fun i => x.testBit i := by
  induction w with
  | zero => rfl
  | succ w ih => rw [popCount, ih, List.range_succ, List.countP_append, List.countP_singleton]

theorem vcmp_completes {x : VArgs} {s : State} (h : Runs s x.p) :
    (x.vd = 0 → exec (.vcmp x) s = .next s.slotDone) ∧
    (x.vd ≠ 0 → ∃ m v : BitVec 4096, exec (.vcmp x) s = .next (s.result .k x.vd m v 2).slotDone ∧ ∀ n, n < 1024 →
      m.getLsbD n = (decide (x.ty.lanes ≤ n) || (s.rd.readK x.k).getLsbD n) ∧
      v.getLsbD n = (decide (n < x.ty.lanes) && x.ty.holds x.cc (s.laneV x.ty x.va n) (s.laneB x.ty x.b n))) := by
  have hexec : exec (.vcmp x) s = .next (s.landMask x.vd (cmpBits x.ty.lanes (s.rd.readK x.k).toNat)
      (ofBools ((List.range x.ty.lanes).map fun i => x.ty.holds x.cc (s.laneV x.ty x.va i) (s.laneB x.ty x.b i))) 2).slotDone := by
    rw [← finish_whenOn_of_runs h]
    change execVcmp x s = _
    simp only [execVcmp, State.lanesA_eq, State.lanesB_eq, zipWith_map_range, condV_laneCmp]
  refine ⟨fun h0 => by rw [hexec, State.landMask, if_pos h0], fun h0 => ⟨_, _, by rw [hexec, State.landMask, if_neg h0], fun n hn => ?_⟩⟩
  have hn' : n < 4096 := by omega
  simp only [BitVec.getLsbD_ofNat, hn', decide_true, Bool.true_and, testBit_cmpBits _ x.ty.lanes_le hn, ofBools_testBit]
  refine ⟨rfl, ?_⟩
  by_cases hl : n < x.ty.lanes
  · rw [getD_map_range _ _ hl, decide_eq_true hl, Bool.true_and]
  · rw [getD_map_range_of_le _ _ (Nat.le_of_not_lt hl), decide_eq_false hl, Bool.false_and]

end Sys2Proof.Machine

open Sys2Proof Sys2Proof.Machine in
/-- Settles O20: each instruction lands, bit by bit or lane by lane, what its lanes give. -/
theorem masksAndHashes : Obligations.MasksAndHashes := by
  refine ⟨fun x s _ h => vcmp_completes h, fun x y s _ h => ?vdrop, fun x s _ h => ?vrand, fun x b s hb h => ?masks⟩
  case vdrop =>
    refine ⟨_, congrArg _ (finish_whenOn_of_runs h), fun n => ?_⟩
    rw [ofBools_testBit]
    by_cases hl : n < x.ty.lanes
    · rw [upTo, getD_map_range _ _ hl, decide_eq_true hl, Bool.true_and]
    · rw [upTo, getD_map_range_of_le _ _ (Nat.le_of_not_lt hl), decide_eq_false hl, Bool.false_and]
  case vrand =>
    obtain ⟨m, v, he, hl⟩ := finish_landLanes h (fun i => hash64 (s.rd.readG x.va) (s.src x.b) i % 2 ^ x.ty.width) 6
    refine ⟨m, v, congrArg _ he, fun n hn => ⟨?_, (hl n hn).2⟩⟩
    rw [(hl n hn).1]
    exact BitVec.eq_of_toNat_eq (by simp)
  case masks =>
    have hfin (t : State) : s.finish (s.whenOn x.p (.ok t)) = t.slotDone := finish_whenOn_of_runs h
    have hreg : srcReg x.b = b := by rw [hb]; rfl
    refine ⟨?kand, ?kor, ?kxor, congrArg _ (hfin _), ?kcnt⟩
    case kand => rw [← hreg, ← hfin]; rfl
    case kor => rw [← hreg, ← hfin]; rfl
    case kxor => rw [← hreg, ← hfin]; rfl
    case kcnt =>
      have hcount := popCount_eq (s.rd.readK x.va).toNat x.ty.lanes
      rw [← hfin]
      exact congrArg (fun c => Host.Outcome.next (s.finish (s.whenOn x.p (.ok (s.landG x.vd (BitVec.ofNat 64 c) 1))))) hcount

end
section
/-! Groups of lanes and folds of lanes (O19; R69, R131, R132, R394, R409 to R412): widening, narrowing, dot products, reductions and
scans. -/

namespace Sys2Proof.Machine

-- ## Lists of lanes in groups

/-- Indices below `g * (n + 1)`: those below `g * n`, and the `g` from there on. -/
theorem map_range_mul_succ {α : Type} (f : Nat → α) (g n : Nat) :
    (List.range (g * (n + 1))).map f = (List.range (g * n)).map f ++ (List.range g).map fun j => f (g * n + j) := by
  rw [Nat.mul_succ, List.range_add, List.map_append, List.map_map]
  rfl

theorem flatMap_range (g n : Nat) (f : Nat → Nat → Nat) :
    (List.range n).flatMap (fun i => (List.range g).map fun j => f j i) = (List.range (g * n)).map fun i => f (i % g) (i / g) := by
  induction n with
  | zero => rfl
  | succ n ih =>
    rw [List.range_succ, List.flatMap_append, ih, map_range_mul_succ, List.flatMap_singleton]
    refine congrArg _ (List.map_congr_left fun j hj => ?_)
    have hj : j < g := List.mem_range.mp hj
    rw [Nat.mul_add_mod, Nat.mod_eq_of_lt hj, Nat.mul_add_div (by omega), Nat.div_eq_of_lt hj, Nat.add_zero]

/-- Lanes taken in turn from `g` lists. -/
theorem interleave_eq (g n : Nat) (f : Nat → Nat → Nat) :
    interleave ((upTo g).map fun j => (List.range n).map (f j)) n = (List.range (g * n)).map fun i => f (i % g) (i / g) := by
  rw [interleave, ← flatMap_range, upTo, upTo, List.flatMap_def, List.flatMap_def]
  refine congrArg _ (List.map_congr_left fun i hi => ?_)
  rw [List.map_map]
  exact List.map_congr_left fun j _ => getD_map_range _ _ (List.mem_range.mp hi)

theorem filter_mod_range {g j : Nat} (n : Nat) (hj : j < g) :
    (List.range (g * n)).filter (fun i => i % g == j) = (List.range n).map fun i => g * i + j := by
  induction n with
  | zero => rfl
  | succ n ih =>
    have hone : (List.range g).filter (fun i => (g * n + i) % g == j) = [j] := by
      have hmod : ∀ i ∈ List.range g, ((g * n + i) % g == j) = (i == j) := fun i hi => by
        rw [Nat.mul_add_mod, Nat.mod_eq_of_lt (List.mem_range.mp hi)]
      rw [List.filter_congr hmod, List.filter_beq, List.count_eq_one_of_mem List.nodup_range (List.mem_range.mpr hj), List.replicate_one]
    rw [Nat.mul_succ, List.range_add, List.filter_append, ih, List.filter_map, List.range_succ, List.map_append]
    exact congrArg _ (congrArg (List.map _) hone)

theorem zip_map_range {α β : Type} (f : Nat → α) (h : Nat → β) (n : Nat) :
    ((List.range n).map f).zip ((List.range n).map h) = (List.range n).map fun i => (f i, h i) := zipWith_map_range Prod.mk f h n

/-- Every `g`-th lane. -/
theorem stride_eq {g j : Nat} (n : Nat) (f : Nat → Nat) (hj : j < g) :
    stride g j ((List.range (g * n)).map f) = (List.range n).map fun i => f (g * i + j) := by
  have hzip : (upTo ((List.range (g * n)).map f).length).zip ((List.range (g * n)).map f) = (List.range (g * n)).map fun i => (i, f i) := by
    simpa [upTo] using zip_map_range id f (g * n)
  rw [stride, hzip, List.filter_map, List.map_map, show ((fun e : Nat × Nat => e.1 % g == j) ∘ fun i => (i, f i)) = fun i => i % g == j from rfl,
    filter_mod_range n hj, List.map_map]
  rfl

theorem groupsOfLanes_eq (g n : Nat) (f : Nat → Nat) :
    groupsOfLanes g ((List.range (g * n)).map f) n = (List.range n).map fun i => (List.range g).map fun j => f (g * i + j) := by
  induction n generalizing f with
  | zero => rfl
  | succ n ih =>
    have hsplit : (List.range (g * (n + 1))).map f = (List.range g).map f ++ (List.range (g * n)).map fun i => f (g + i) := by
      rw [Nat.mul_succ, Nat.add_comm, List.range_add, List.map_append, List.map_map]
      rfl
    rw [groupsOfLanes, hsplit, List.take_left' (by simp), List.drop_left' (by simp), ih, List.range_succ_eq_map, List.map_cons, List.map_map]
    refine congrArg₂ _ (List.map_congr_left fun j _ => by rw [Nat.mul_zero, Nat.zero_add]) (List.map_congr_left fun i _ => ?_)
    exact List.map_congr_left fun j _ => congrArg f (by rw [Nat.succ_eq_add_one, Nat.mul_add]; omega)

theorem ofLanes_one_testBit (xs : List Nat) (n : Nat) : (ofLanes 1 xs).testBit n = decide (xs.getD n 0 % 2 = 1) := by
  have h := ofLanes_div_mod 1 xs n
  rw [Nat.one_mul, pow_one] at h
  rw [Nat.testBit_eq_decide_div_mod_eq, h]

-- ## Values of lanes

section
variable (f : Fmt)

theorem Fmt.top_mul_add : f.top * 2 ^ f.fbits + 2 ^ f.fbits = 2 ^ (f.ebits + f.fbits) := by
  rw [← Nat.succ_mul, Fmt.top, Nat.succ_eq_add_one, Nat.sub_add_cancel Nat.one_le_two_pow, pow_add]

theorem Fmt.signBit_le (neg : Bool) : f.signBit neg ≤ 2 ^ (f.ebits + f.fbits) := by
  cases neg
  · exact Nat.zero_le _
  · exact Nat.le_refl _

theorem Fmt.infBits_lt (neg : Bool) : f.infBits neg < 2 ^ (f.ebits + f.fbits + 1) := by
  have hsign := f.signBit_le neg
  have htop := f.top_mul_add
  have hpos : 0 < 2 ^ f.fbits := by positivity
  rw [Fmt.infBits, pow_succ]
  omega

theorem Fmt.maxBits_lt (neg : Bool) : f.maxBits neg < 2 ^ (f.ebits + f.fbits + 1) := (Nat.sub_le ..).trans_lt (f.infBits_lt neg)

theorem Fmt.qnan_lt : f.qnan < 2 ^ (f.ebits + f.fbits + 1) := by
  have htop := f.top_mul_add
  have hhalf : 2 ^ (f.fbits - 1) ≤ 2 ^ f.fbits := Nat.pow_le_pow_right (by omega) (Nat.sub_le ..)
  have hpos : 0 < 2 ^ (f.ebits + f.fbits) := by positivity
  rw [Fmt.qnan, pow_succ]
  omega

theorem Fmt.overflow_lt (mode : Nat) (neg : Bool) : f.overflow mode neg < 2 ^ (f.ebits + f.fbits + 1) := by
  unfold Fmt.overflow
  split
  · exact f.infBits_lt neg
  · exact f.maxBits_lt neg
  · split
    · exact f.maxBits_lt true
    · exact f.infBits_lt false
  · split
    · exact f.infBits_lt true
    · exact f.maxBits_lt false

theorem Fmt.roundFin_lt (mode : Nat) (neg : Bool) (m : Nat) (e : Int) (sticky : Bool) :
    f.roundFin mode neg m e sticky < 2 ^ (f.ebits + f.fbits + 1) := by
  have hsign := f.signBit_le neg
  have htop := f.top_mul_add
  have hpos : 0 < 2 ^ f.fbits := by positivity
  simp only [Fmt.roundFin]
  split
  · rw [pow_succ]; omega
  · split
    · exact f.overflow_lt mode neg
    · rw [pow_succ]; omega

/-- Rounding gives a pattern of the format (R117, R118). -/
theorem Fmt.round_lt (mode : Nat) (z : FVal) : f.round mode z < 2 ^ (f.ebits + f.fbits + 1) := by
  cases z with
  | nan => exact f.qnan_lt
  | inf neg => exact f.infBits_lt neg
  | fin neg m e => exact f.roundFin_lt mode neg m e false

end

variable {t : VType}

theorem fmtOf_width (h : t.isF = true) : (fmtOf t).ebits + (fmtOf t).fbits + 1 = t.width := by
  cases t <;> cases h <;> rfl

theorem round_eq (h : t.isF = true) (mode : Nat) (z : FVal) : (fmtOf t).round mode z = (t.rounded mode z).toNat := by
  rw [VType.rounded, BitVec.toNat_ofNat, Nat.mod_eq_of_lt (fmtOf_width h ▸ (fmtOf t).round_lt mode z)]

theorem ofNat_toNat_self {w : Nat} (a : BitVec w) : BitVec.ofNat w a.toNat = a := by rw [BitVec.ofNat_toNat, BitVec.setWidth_eq]

theorem fit_of_isInt (h : t.isInt = true) (z : Int) : t.fit false z = BitVec.ofInt t.width z := by
  rw [VType.fit, if_neg]
  rintro (h' | rfl)
  · cases h'
  · cases h

theorem ofInt_int (a : BitVec t.width) : BitVec.ofInt t.width (t.int a) = a := by
  rw [VType.int]
  split
  · exact BitVec.ofInt_toInt
  · exact (BitVec.ofInt_natCast ..).trans (ofNat_toNat_self a)

-- ## Widening and narrowing

theorem wideOf_eq {x : VArgs} {w : VType} (h : x.ty.widen x.s2 = some w) : wideOf x = w := by rw [wideOf, h]; rfl

/-- A wide register has as many lanes as the group has registers, times fewer (R69, R409). -/
theorem VType.lanes_widen {t w : VType} {q : Bool} (h : t.widen q = some w) : t.lanes = (if q then 4 else 2) * w.lanes := by
  revert h
  cases t <;> cases q <;> simp only [VType.widen] <;> intro h <;> cases h <;> rfl

theorem VType.widen_isF {t w : VType} {q : Bool} (hf : t.isF = true) (h : t.widen q = some w) : w = .f32 := by
  revert h
  cases t <;> cases hf <;> cases q <;> simp only [VType.widen] <;> intro h <;> cases h <;> rfl

theorem groupLanes_eq (s : State) {x : VArgs} {w : VType} (h : x.ty.widen x.s2 = some w) (r : Nat) :
    s.groupLanes x r = (List.range x.ty.lanes).map fun n => (s.laneV w (r + n % groupSize x) (n / groupSize x)).toNat := by
  rw [State.groupLanes, wideOf_eq h, VType.lanes_widen h, ← groupSize, ← interleave_eq (groupSize x) w.lanes fun j i => (s.laneV w (r + j) i).toNat]
  simp only [State.lanesA_eq]

/-- Results leave the renaming of registers alone. -/
theorem State.rd_physV_result (s : State) (f : RFile) (r : Nat) (m v : BitVec 4096) (lat d : Nat) :
    (s.result f r m v lat).rd.physV d = s.rd.physV d := by
  cases hp : s.iss.pre with
  | none =>
    have hrd {u : State} (hu : u.iss.pre = none) : u.rd = u.cur := by rw [State.rd, State.view, hu]; rfl
    rw [hrd hp, hrd (u := s.result f r m v lat) hp, State.result_eq, State.upd_cur]
    rfl
  | some a => simp only [State.rd, State.view, State.result_iss, hp, Option.getD_some]

theorem foldl_landV (l : List Nat) (s : State) (vd lat : Nat) (m : Nat → BitVec 4096) (v : Nat → Nat) :
    let t := l.foldl (fun s j => s.landV (vd + j) (m j) (v j) lat) s
    t.iss = s.iss ∧ t.arch.mem = s.arch.mem ∧ t.cur = { s.cur with inflight := s.cur.inflight ++ l.map (fun j =>
      ⟨.v, s.rd.physV (vd + j), m j, BitVec.ofNat 4096 (v j), 0, s.cur.time + lat, s.cur.ord, 0, 0, false⟩) } := by
  induction l generalizing s with
  | nil => simp
  | cons j l ih =>
    obtain ⟨hiss, hmem, hcur⟩ := ih (s.landV (vd + j) (m j) (v j) lat)
    have hone : (s.landV (vd + j) (m j) (v j) lat).cur = { s.cur with inflight := s.cur.inflight ++
        [⟨.v, s.rd.physV (vd + j), m j, BitVec.ofNat 4096 (v j), 0, s.cur.time + lat, s.cur.ord, 0, 0, false⟩] } := State.upd_cur ..
    have hphys (d : Nat) : (s.landV (vd + j) (m j) (v j) lat).rd.physV d = s.rd.physV d := State.rd_physV_result ..
    refine ⟨hiss, hmem, hcur.trans ?_⟩
    simp only [hone, hphys, List.map_cons, List.append_assoc, List.singleton_append]
    rfl

/-- The lanes of a group of wide results, and the bits of them that the mask of the narrow lanes enables (R69, R409). -/
theorem laneAt_landGroup {t w : VType} {g n : Nat} (hg : t.lanes = g * w.lanes) (f : Nat → Nat) (k : Nat) (hn : n < t.lanes) :
    laneAt w (BitVec.ofNat 4096 (packLanes w (stride g (n % g) ((List.range t.lanes).map f)))) (n / g) = BitVec.ofNat w.width (f n) ∧
    laneAt w (BitVec.ofNat 4096 (laneBits w.width w.lanes (ofLanes 1 (stride g (n % g) (toLanes 1 t.lanes k))))) (n / g) =
      if k.testBit n then BitVec.allOnes w.width else 0 := by
  have hpos : 0 < g := Nat.pos_of_ne_zero fun h => by simp [hg, h] at hn
  have hmod : n % g < g := Nat.mod_lt _ hpos
  have hdiv : n / g < w.lanes := Nat.div_lt_of_lt_mul (hg ▸ hn)
  have hback : g * (n / g) + n % g = n := Nat.div_add_mod n g
  refine ⟨?lanes, ?mask⟩
  case lanes => rw [laneAt_packLanes _ hdiv, hg, stride_eq _ _ hmod, getD_map_range _ _ hdiv, hback]
  case mask =>
    rw [laneAt_laneBits _ hdiv, toLanes_eq, hg, stride_eq _ _ hmod, ofLanes_one_testBit, getD_map_range _ _ hdiv, hback, Nat.one_mul, pow_one,
      Nat.mod_mod, Nat.testBit_eq_decide_div_mod_eq]

theorem zip3_map_range (f : Nat → Nat → Nat → Nat) (a b c : Nat → Nat) (n : Nat) :
    zip3 f ((List.range n).map a) ((List.range n).map b) ((List.range n).map c) = (List.range n).map fun i => f (a i) (b i) (c i) := by
  rw [zip3, zipWith_map_range, zipWith_map_range]

/-- One wide lane of a widening instruction, given on exact integers and on values of the format (R409). -/
def wideLane (x : VArgs) (w : VType) (fi : Int → Int → Int → Int) (ff : FVal → FVal → FVal → FVal) (a b : BitVec x.ty.width)
    (c : BitVec w.width) : BitVec w.width :=
  if x.ty.isF then w.rounded x.rm (ff (x.ty.flt a) (x.ty.flt b) (w.flt c)) else BitVec.ofInt w.width (fi (x.ty.int a) (x.ty.int b) (w.int c))

theorem toNat_wideLane {x : VArgs} {w : VType} (hw : x.ty.widen x.s2 = some w) (fi : Int → Int → Int → Int) (ff : FVal → FVal → FVal → FVal)
    (a b : BitVec x.ty.width) (c : BitVec w.width) : (wideLane x w fi ff a b c).toNat =
      if x.ty.isF then f32.round x.rm (ff ((fmtOf x.ty).unpack a.toNat) ((fmtOf x.ty).unpack b.toNat) (f32.unpack c.toNat))
      else wrap (fi (laneInt x.ty a.toNat) (laneInt x.ty b.toNat) (laneInt w c.toNat)) w.width := by
  rw [wideLane, laneInt_toNat, laneInt_toNat, laneInt_toNat, wrap_eq]
  split
  · next hf =>
    obtain rfl := VType.widen_isF hf hw
    exact (round_eq (t := .f32) rfl x.rm _).symm
  · rfl

theorem widens {i : VArgs → Instr} {fi : VArgs → Int → Int → Int → Int} {ff : VArgs → FVal → FVal → FVal → FVal}
    (hexec : ∀ x s, exec (i x) s = .next (s.finish (s.widening x (fi x) (ff x)))) : Widens i fun x w => wideLane x w (fi x) (ff x) := by
  intro x s w _ h hw g
  have hg : x.ty.lanes = g * w.lanes := VType.lanes_widen hw
  have hlanes : zip3 (fun a b c => if x.ty.isF then f32.round x.rm (ff x ((fmtOf x.ty).unpack a) ((fmtOf x.ty).unpack b) (f32.unpack c))
      else wrap (fi x (laneInt x.ty a) (laneInt x.ty b) (laneInt w c)) w.width)
      (s.lanesA x.ty x.va) (s.lanesB x.ty x.b) (s.groupLanes x x.vd) =
    (List.range x.ty.lanes).map fun n => (wideLane x w (fi x) (ff x) (s.laneV x.ty x.va n) (s.laneB x.ty x.b n)
      (s.laneV w (x.vd + n % g) (n / g))).toNat := by
    rw [State.lanesA_eq, State.lanesB_eq, groupLanes_eq s hw, zip3_map_range]
    exact List.map_congr_left fun n _ => (toNat_wideLane hw ..).symm
  obtain ⟨hiss, hmem, hcur⟩ := foldl_landV (List.range g) s x.vd 4
    (fun j => BitVec.ofNat 4096 (laneBits w.width w.lanes (ofLanes 1 (stride g j (toLanes 1 x.ty.lanes (s.rd.readK x.k).toNat)))))
    (fun j => packLanes w (stride g j ((List.range x.ty.lanes).map fun n => (wideLane x w (fi x) (ff x) (s.laneV x.ty x.va n)
      (s.laneB x.ty x.b n) (s.laneV w (x.vd + n % g) (n / g))).toNat)))
  refine ⟨_, _, _, ?_, hiss, hmem, hcur, fun n hn => ?_⟩
  · rw [hexec, State.widening, wideOf_eq hw, hlanes, finish_whenOn_of_runs h, State.landGroup, wideOf_eq hw]
    rfl
  · obtain ⟨hv, hm⟩ := laneAt_landGroup hg (fun n => (wideLane x w (fi x) (ff x) (s.laneV x.ty x.va n) (s.laneB x.ty x.b n)
      (s.laneV w (x.vd + n % g) (n / g))).toNat) (s.rd.readK x.k).toNat hn
    exact ⟨hv.trans (ofNat_toNat_self _), hm⟩

theorem narrowLane_eq {x : VArgs} {w : VType} (hw : x.ty.widen x.s2 = some w) (a : BitVec w.width) :
    narrowLane x a.toNat = (if x.ty.isF then x.ty.rounded x.rm (w.flt a) else x.ty.fit true (w.int a)).toNat := by
  rw [narrowLane, wideOf_eq hw, laneInt_toNat, narrow_eq]
  split
  · next hf =>
    obtain rfl := VType.widen_isF hf hw
    exact round_eq hf x.rm _
  · rfl

theorem vnarr_completes : Lanes .vnarr true (fun _ => 4) (fun x s n =>
    let g := if x.s2 then 4 else 2
    match x.ty.widen x.s2 with
    | some w =>
      let a := s.laneV w (x.va + n % g) (n / g)
      if x.ty.isF then x.ty.rounded x.rm (w.flt a) else x.ty.fit true (w.int a)
    | none => 0) := by
  intro x s hwf h
  obtain ⟨w, hw⟩ : ∃ w, x.ty.widen x.s2 = some w := by
    simp only [Instr.wf, Bool.and_eq_true] at hwf
    obtain ⟨⟨⟨_, hsome⟩, _⟩, _⟩ := hwf
    exact Option.isSome_iff_exists.mp hsome
  obtain ⟨m, v, he, hl⟩ := finish_landLanes h (fun n => narrowLane x (s.laneV w (x.va + n % groupSize x) (n / groupSize x)).toNat) 4
  refine ⟨m, v, ?_, fun n hn => ⟨?_, by simpa using (hl n hn).2⟩⟩
  · rw [← he]
    change execVnarr x s = _
    rw [execVnarr, groupLanes_eq s hw, List.map_map]
    rfl
  · rw [(hl n hn).1, narrowLane_eq hw, ofNat_toNat_self]
    dsimp only
    rw [hw]
    rfl

-- ## Dot products

/-- One lane of a dot product (R394, R131, R132). -/
def dotted (t : VType) (rm : Nat) (a b : Nat → BitVec t.width) : BitVec (VType.width .i32) :=
  if t.isF then
    BitVec.ofNat (VType.width .i32)
      (addF32 rm (f32.round rm (FVal.mul (t.flt (a 0)) (t.flt (b 0)))) (f32.round rm (FVal.mul (t.flt (a 1)) (t.flt (b 1)))))
  else VType.fit .i32 true (((List.range (t.lanes / 128)).map (fun j => t.int (a j) * t.int (b j))).sum)

/-- The types that a dot product takes. -/
def dotType (t : VType) : Bool := match t with | .i8 | .n8 | .i4 | .n4 | .i16 | .f16 | .bf16 => true | _ => false

theorem lanes_of_dotType {t : VType} (h : dotType t = true) : t.lanes = t.lanes / 128 * 128 := by
  cases t <;> cases h <;> rfl

theorem lanes_of_dotType_isF {t : VType} (h : dotType t = true) (hf : t.isF = true) : t.lanes / 128 = 2 := by
  cases t <;> cases h <;> cases hf <;> rfl

theorem dotLane_eq {t : VType} (h : dotType t = true) (rm : Nat) (a b : Nat → BitVec t.width) :
    BitVec.ofNat (VType.width .i32) (dotLane t rm ((List.range (t.lanes / 128)).map fun j => (a j).toNat)
      ((List.range (t.lanes / 128)).map fun j => (b j).toNat)) = dotted t rm a b := by
  by_cases hf : t.isF = true
  · rw [dotLane, dotted, if_pos hf, if_pos hf, lanes_of_dotType_isF h hf]
    rfl
  · have hint (z : Int) : BitVec.ofNat (VType.width .i32) (wrap (sat z (-pow2 31) (pow2 31 - 1)) 32) = VType.fit .i32 true z := by
      rw [← ofNat_toNat_self (VType.fit .i32 true z), ← narrow_eq]
      rfl
    rw [dotLane, dotted, if_neg hf, if_neg hf, zipWith_map_range, hint]
    simp only [laneInt_toNat]

theorem vdot_completes {x : VArgs} {s : State} (hty : dotType x.ty = true) (h : Runs s x.p) :
    ∃ m v : VReg, exec (.vdot x) s = .next (s.result .v (s.rd.physV x.vd) m v 8).slotDone ∧ ∀ n, n < 128 →
      laneAt .i32 v n = dotted x.ty x.rm (fun j => s.laneV x.ty x.va (x.ty.lanes / 128 * n + j)) (fun j => s.laneB x.ty x.b (x.ty.lanes / 128 * n + j)) ∧
      laneAt .i32 m n = if (s.rd.readK x.k).getLsbD n then BitVec.allOnes 32 else 0 := by
  refine ⟨_, _, congrArg _ (finish_whenOn_of_runs h), fun n hn => ⟨?_, laneAt_maskBits s _ hn⟩⟩
  have hlanes := lanes_of_dotType hty
  rw [laneAt_packLanes _ hn, State.lanesA_eq, State.lanesB_eq, ← dotLane_eq hty]
  refine congrArg _ ?_
  generalize x.ty.lanes / 128 = g at hlanes
  rw [hlanes, groupsOfLanes_eq, groupsOfLanes_eq, zipWith_map_range, getD_map_range _ _ hn]

-- ## Reductions and scans

section
variable (t : VType)

theorem lone_eq (a : BitVec t.width) : lone t a.toNat = (if t.isF then t.rounded 0 (t.flt a) else a).toNat := by
  rw [lone]
  split
  · next hf => exact round_eq hf 0 _
  · rfl

/-- A fold of lanes is the reduction of them, where its step on patterns is one on lanes (R412). -/
theorem foldLanes_eq {f : Nat → Nat → Nat} {g : BitVec t.width → BitVec t.width → BitVec t.width} {e : BitVec t.width}
    (hf : ∀ a b : BitVec t.width, f a.toNat b.toNat = (g a b).toNat) (l : List (BitVec t.width)) :
    foldLanes t f e.toNat (l.map BitVec.toNat) = (reduced t g e l).toNat := by
  have hfold (as : List (BitVec t.width)) (a : BitVec t.width) : (as.map BitVec.toNat).foldl f a.toNat = (as.foldl g a).toNat := by
    induction as generalizing a with
    | nil => rfl
    | cons b as ih => rw [List.map_cons, List.foldl_cons, List.foldl_cons, hf, ih]
  cases l with
  | nil => rfl
  | cons a as =>
    rw [List.map_cons, foldLanes, lone_eq, hfold]
    rfl

theorem sumStep_eq (h : t.isInt = true ∨ t.isF = true) (rm : Nat) (a b : BitVec t.width) :
    sumStep t rm a.toNat b.toNat = (t.sum2 rm a b).toNat := by
  rw [sumStep, laneOp, VType.sum2]
  by_cases hf : t.isF = true
  · rw [if_pos hf, if_pos hf]
    exact round_eq hf rm _
  · rw [if_neg hf, if_neg hf, laneInt_toNat, laneInt_toNat, narrow_eq, fit_of_isInt (h.resolve_right hf), BitVec.ofInt_add, ofInt_int, ofInt_int]

theorem pick_eq (up : Bool) (a b : BitVec t.width) : pick t up a.toNat b.toNat = (t.pick up a b).toNat := by
  rw [pick, VType.pick]
  by_cases hf : t.isF = true
  · have hqnan : (fmtOf t).qnan = (BitVec.ofNat t.width (fmtOf t).qnan).toNat := by
      rw [BitVec.toNat_ofNat, Nat.mod_eq_of_lt (fmtOf_width hf ▸ (fmtOf t).qnan_lt)]
    rw [if_pos hf, if_pos hf]
    simp only [VType.flt]
    rcases FVal.cmp ((fmtOf t).unpack a.toNat) ((fmtOf t).unpack b.toNat) with _ | _ | _ | _
    · exact hqnan
    · cases up <;> rfl
    · cases up
      · exact (BitVec.toNat_or ..).symm
      · exact (BitVec.toNat_and ..).symm
    · cases up <;> rfl
  · rw [if_neg hf, if_neg hf, laneInt_toNat, laneInt_toNat]
    cases up <;> simp only [Bool.false_eq_true, if_false, if_true] <;> split <;> rfl

theorem extreme_eq (up : Bool) : extreme t up =
    (if t.isF then BitVec.ofNat t.width ((fmtOf t).infBits up) else BitVec.ofInt t.width (if up then t.lo else t.hi)).toNat := by
  rw [extreme]
  by_cases hf : t.isF = true
  · rw [if_pos hf, if_pos hf, BitVec.toNat_ofNat, Nat.mod_eq_of_lt (fmtOf_width hf ▸ (fmtOf t).infBits_lt up)]
  · rw [if_neg hf, if_neg hf, wrap_eq, minOf_eq_lo, maxOf_eq_hi]

end

theorem int_or_float_of_red {x : VArgs} (h : x.red = true) : x.ty.isInt = true ∨ x.ty.isF = true := by
  simp only [VArgs.red, Bool.and_eq_true, Bool.or_eq_true] at h
  obtain ⟨⟨⟨⟨_, hty⟩, _⟩, _⟩, _⟩ := h
  exact hty

/-- Lanes that contribute to a reduction or a scan (R412). -/
theorem contrib_eq (s : State) (x : VArgs) : s.contrib x = (s.selectedLanes x x.ty.lanes).map BitVec.toNat := by
  have hzip := zip_map_range id (fun i => (s.laneV x.ty x.va i).toNat) x.ty.lanes
  rw [List.map_id] at hzip
  rw [State.contrib, State.lanesA_eq, State.selectedLanes, upTo, hzip, List.filter_map, List.map_map, List.map_map]
  rfl

theorem reduces {i : VArgs → Instr} {f : VArgs → Nat → Nat → Nat} {e : VArgs → Nat}
    {g : (x : VArgs) → BitVec x.ty.width → BitVec x.ty.width → BitVec x.ty.width} {empty : (x : VArgs) → BitVec x.ty.width}
    (hwf : ∀ x, (i x).wf = x.red) (hexec : ∀ x s, exec (i x) s = .next (s.finish (s.reduce x (f x) (e x))))
    (hf : ∀ x : VArgs, x.ty.isInt = true ∨ x.ty.isF = true → ∀ a b, f x a.toNat b.toNat = (g x a b).toNat)
    (he : ∀ x, e x = (empty x).toNat) :
    Lanes i false (fun _ => 6) (fun x s n => if n = 0 then reduced x.ty (g x) (empty x) (s.selectedLanes x x.ty.lanes) else 0) := by
  intro x s hw h
  have hty := int_or_float_of_red (hwf x ▸ hw)
  have hval : foldLanes x.ty (f x) (e x) (s.contrib x) = (reduced x.ty (g x) (empty x) (s.selectedLanes x x.ty.lanes)).toNat := by
    rw [contrib_eq, he, foldLanes_eq x.ty (hf x hty)]
  refine ⟨_, _, by rw [hexec, State.reduce, finish_whenOn_of_runs h, hval]; rfl, fun n hn => ⟨?_, laneAt_full hn⟩⟩
  rw [laneAt_ofNat _ hn]
  dsimp only
  split
  · next h0 => rw [h0, Nat.mul_zero, pow_zero, Nat.div_one, ofNat_toNat_self]
  · next h0 =>
    have hle : x.ty.width ≤ x.ty.width * n := Nat.le_mul_of_pos_right _ (Nat.pos_of_ne_zero h0)
    rw [Nat.div_eq_of_lt ((BitVec.isLt _).trans_le (Nat.pow_le_pow_right (by omega) hle))]
    rfl

/-- The fold of a scan so far: none before the first contributing lane. -/
def scanned (t : VType) (rm : Nat) : List Nat → Option Nat
  | [] => none
  | a :: as => some (as.foldl (sumStep t rm) (lone t a))

/-- Contributing entries. -/
def chosen (es : List (Bool × Nat)) : List Nat := (es.filter Prod.fst).map Prod.snd

theorem scanned_append (t : VType) (rm a : Nat) (pre : List Nat) :
    scanned t rm (pre ++ [a]) = some (match scanned t rm pre with | none => lone t a | some y => sumStep t rm y a) := by
  cases pre with
  | nil => rfl
  | cons b bs => simp [scanned]

theorem foldLanes_eq_scanned (t : VType) (rm : Nat) (l : List Nat) : foldLanes t (sumStep t rm) 0 l = (scanned t rm l).getD 0 := by
  cases l <;> rfl

/-- A scan gives at each lane the fold of what contributes up to it (R412). -/
theorem scanLanes_getD (t : VType) (rm : Nat) {n : Nat} (es : List (Bool × Nat)) (pre : List Nat) (hn : n < es.length) :
    (scanLanes t rm (scanned t rm pre) es).getD n 0 = foldLanes t (sumStep t rm) 0 (pre ++ chosen (es.take (n + 1))) := by
  induction es generalizing n pre with
  | nil => cases hn
  | cons e es ih =>
    obtain ⟨on, a⟩ := e
    have hstep : (if on then (match scanned t rm pre with | none => some (lone t a) | some y => some (sumStep t rm y a)) else scanned t rm pre) =
        scanned t rm (pre ++ chosen [(on, a)]) := by
      cases on
      · simp [chosen]
      · rw [chosen, List.filter_cons_of_pos rfl, List.filter_nil, List.map_singleton, scanned_append]
        cases scanned t rm pre <;> rfl
    have hcons : scanLanes t rm (scanned t rm pre) ((on, a) :: es) =
        (scanned t rm (pre ++ chosen [(on, a)])).getD 0 :: scanLanes t rm (scanned t rm (pre ++ chosen [(on, a)])) es := by
      rw [← hstep]
      rfl
    rw [hcons]
    cases n with
    | zero => rw [List.getD_cons_zero, List.take_succ_cons, List.take_zero, foldLanes_eq_scanned]
    | succ n =>
      have hsplit : chosen ((on, a) :: es.take (n + 1)) = chosen [(on, a)] ++ chosen (es.take (n + 1)) := by
        rw [chosen, chosen, chosen, ← List.map_append, ← List.filter_append, List.singleton_append]
      rw [List.getD_cons_succ, ih _ (Nat.lt_of_succ_lt_succ hn), List.take_succ_cons, hsplit, List.append_assoc]

theorem vscan_completes :
    Lanes .vscan false (fun _ => 8) (fun x s n => reduced x.ty (x.ty.sum2 x.rm) 0 (s.selectedLanes x (n + 1))) := by
  intro x s hwf h
  have hty := int_or_float_of_red hwf
  refine ⟨_, _, congrArg _ (finish_whenOn_of_runs h), fun n hn => ⟨?_, laneAt_full hn⟩⟩
  have htake : chosen (((List.range x.ty.lanes).map fun i => (s.selected x.k i, (s.laneV x.ty x.va i).toNat)).take (n + 1)) =
      (s.selectedLanes x (n + 1)).map BitVec.toNat := by
    rw [← List.map_take, List.take_range, Nat.min_eq_left hn, chosen, List.filter_map, List.map_map, State.selectedLanes, List.map_map]
    rfl
  have hfold := foldLanes_eq x.ty (e := 0) (sumStep_eq x.ty hty x.rm) (s.selectedLanes x (n + 1))
  have hscan := scanLanes_getD x.ty x.rm (n := n)
    ((List.range x.ty.lanes).map fun i => (s.selected x.k i, (s.laneV x.ty x.va i).toNat)) [] (by simpa using hn)
  rw [List.nil_append, htake] at hscan
  rw [laneAt_packLanes _ hn, State.lanesA_eq, upTo, zip_map_range]
  exact (congrArg _ (hscan.trans hfold)).trans (ofNat_toNat_self _)

end Sys2Proof.Machine

open Sys2Proof Sys2Proof.Machine in
/-- Settles O19: lanes of a group are taken in turn from its registers, and folds and scans of lanes are folds of the selected ones. -/
theorem vectorWideAndReduced : Obligations.VectorWideAndReduced := by
  refine ⟨⟨?vwadd, ?vwmul, ?vwfma, vnarr_completes, fun x s hwf h => ?vdot⟩, ?vredadd, ?vredmax, ?vredmin, vscan_completes⟩
  case vwadd => exact widens (fi := fun _ a b _ => a + b) (ff := fun x a b _ => FVal.add x.rm a b) fun _ _ => rfl
  case vwmul => exact widens (fi := fun _ a b _ => a * b) (ff := fun _ a b _ => FVal.mul a b) fun _ _ => rfl
  case vwfma => exact widens (fi := fun _ a b c => c + a * b) (ff := fun x a b c => FVal.add x.rm (FVal.mul a b) c) fun _ _ => rfl
  case vdot =>
    simp only [Instr.wf, Bool.and_eq_true] at hwf
    obtain ⟨_, hty⟩ := hwf
    exact vdot_completes hty h
  case vredadd => exact reduces (e := fun _ => 0) (fun _ => rfl) (fun _ _ => rfl) (fun x hty => sumStep_eq x.ty hty x.rm) fun _ => rfl
  case vredmax => exact reduces (fun _ => rfl) (fun _ _ => rfl) (fun x _ => pick_eq x.ty true) fun x => extreme_eq x.ty true
  case vredmin => exact reduces (fun _ => rfl) (fun _ _ => rfl) (fun x _ => pick_eq x.ty false) fun x => extreme_eq x.ty false

end
section
/-! A pass of the matrix engine (O27; R128, R139, R144, R145, R424): what an added term writes and keeps, what the terms of all columns of a
pass leave, and when MXACC makes its pass. -/

namespace Sys2Proof.Machine

-- ## Words as integers

/-- A word sign-extended is its value in two's complement (R9). -/
theorem sext_toNat {w : Nat} (x : BitVec w) (hw : 0 < w) : sext x.toNat w = x.toInt := by
  have hhalf : 2 ^ w = 2 * 2 ^ (w - 1) := by rw [← pow_succ', Nat.sub_add_cancel hw]
  have hiff : x.toNat < 2 ^ (w - 1) ↔ 2 * x.toNat < 2 ^ w := by omega
  rw [sext, Nat.mod_eq_of_lt x.isLt, BitVec.toInt_eq_toNat_cond]
  simp only [hiff, pow2]
  rfl

/-- A field of a word sign-extended. -/
theorem sext_bits {w : Nat} (x : BitVec w) (hi lo : Nat) (h : lo ≤ hi) :
    sext (bits x.toNat hi lo) (hi + 1 - lo) = (x.extractLsb' lo (hi + 1 - lo)).toInt := by
  rw [← sext_toNat _ (by omega), BitVec.extractLsb'_toNat, Nat.shiftRight_eq_div_pow, bits]

/-- AccAdd stays within 64 bits (R128). -/
theorem accAdd_range {i : Int} (t : Int) (hlo : -2 ^ 63 ≤ i) (hhi : i < 2 ^ 63) :
    -2 ^ 63 ≤ (accAdd i t).1 ∧ (accAdd i t).1 < 2 ^ 63 := by
  have hpow : pow2 63 = 2 ^ 63 := rfl
  rw [accAdd]
  split
  · exact ⟨hlo, hhi⟩
  · dsimp only
    split
    · rw [sat, hpow]
      dsimp only
      split_ifs <;> omega
    · dsimp only
      omega

/-- The accumulator that AccAdd leaves of `x` (R126, R128). -/
def accPlus (x : Word) (t : Int) : Word := BitVec.ofInt 64 (accAdd (sext x.toNat 64) t).1

theorem toInt_accPlus (x : Word) (t : Int) : (accPlus x t).toInt = (accAdd x.toInt t).1 := by
  rw [accPlus, sext_toNat x (by decide)]
  obtain ⟨hlo, hhi⟩ := accAdd_range t x.le_toInt x.toInt_lt
  exact BitVec.toInt_ofInt_eq_self (by decide) hlo hhi

-- ## One term

section
variable (a : Arch) (c x : Nat)

theorem Arch.engine_mapCtx (d : Nat) (f : Context → Context) : ((a.mapCtx c x f).core d).engine = (a.core d).engine :=
  (congrArg Core.engine (a.core_mapCtx_without_ctxs c x d f) :)

theorem Arch.engine_inexact : ((a.inexact c x).core c).engine = (a.core c).engine := a.engine_mapCtx c x c _

/-- Posting an event leaves the core's matrix engine alone (R133). -/
theorem Arch.engine_post (e : Event) : ((a.post c e).core c).engine = (a.core c).engine := by
  unfold Arch.post
  split
  · rw [Arch.core_mapCore]
  · exact Arch.engine_mapCtx ..

theorem Arch.mem_post (e : Event) : (a.post c e).mem = a.mem := by
  unfold Arch.post
  split <;> rfl

end

/-- What a module that has posted events and marked a task inexact has in common with the one before: the engine of core `c`, and memory. -/
structure Arch.SameEngine (c : Nat) (a b : Arch) : Prop where
  engine : (b.core c).engine = (a.core c).engine
  mem : b.mem = a.mem

theorem Arch.SameEngine.refl (c : Nat) (a : Arch) : a.SameEngine c a := ⟨rfl, rfl⟩

theorem Arch.SameEngine.inexact {c : Nat} {a b : Arch} (x : Nat) (h : a.SameEngine c b) : a.SameEngine c (b.inexact c x) :=
  ⟨(b.engine_inexact c x).trans h.engine, h.mem⟩

theorem Arch.SameEngine.post {c : Nat} {a b : Arch} (e : Event) (h : a.SameEngine c b) : a.SameEngine c (b.post c e) :=
  ⟨(b.engine_post c e).trans h.engine, (b.mem_post c e).trans h.mem⟩

theorem Arch.SameEngine.ite {c : Nat} {a b d : Arch} {p : Prop} [Decidable p] (hb : a.SameEngine c b) (hd : a.SameEngine c d) :
    a.SameEngine c (if p then b else d) := by
  split
  exacts [hb, hd]

section
variable (a : Arch) (c row j : Nat) (t : Int × Bool) (r : Call)

/-- An added term writes its accumulator; of the rest of the engine and of memory, its events write nothing (R127, R128, R134). -/
theorem Arch.addTerm_sameEngine :
    let key := row * 64 + j
    let old := (a.core c).engine.acc
    (a.mapEngine c (fun e => { e with acc := SMap.set 0 e.acc key (accPlus (SMap.get 0 old key) t.1) })).SameEngine c
      (a.addTerm c row j t r).1 := by
  refine .ite (.inexact _ (.post _ ?low)) ?low
  case low => exact .ite (.inexact _ (.post _ (.refl ..))) (.refl ..)

theorem Arch.mem_addTerm : (a.addTerm c row j t r).1.mem = a.mem := (a.addTerm_sameEngine c row j t r).mem

/-- One accumulator gains its term, the others keep what they hold (R128). -/
theorem Arch.acc_addTerm : ((a.addTerm c row j t r).1.core c).engine.acc = SMap.set 0 (a.core c).engine.acc (row * 64 + j)
    (accPlus (SMap.get 0 (a.core c).engine.acc (row * 64 + j)) t.1) := by
  rw [(a.addTerm_sameEngine c row j t r).engine, Arch.engine_mapEngine]

theorem Arch.pos_addTerm : (a.addTerm c row j t r).2.pos = r.pos := by
  unfold Arch.addTerm
  dsimp only
  split <;> rfl

end

-- ## The terms of a pass

/-- The terms `T` of the first `n` output columns added, from row `row` on (R144): output column `k` goes to accumulator `k mod 64` of row
`row + floor(k / 64)`. -/
def addTerms (c row : Nat) (T : Nat → Int × Bool) (n : Nat) (q : Arch × Call) : Arch × Call :=
  (upTo n).foldl (fun q k => q.1.addTerm c (row + k / 64) (k % 64) (T k) q.2) q

section
variable (c row : Nat) (T : Nat → Int × Bool) (n : Nat) (q : Arch × Call)

theorem addTerms_succ : addTerms c row T (n + 1) q =
    (addTerms c row T n q).1.addTerm c (row + n / 64) (n % 64) (T n) (addTerms c row T n q).2 := by
  rw [addTerms, upTo, List.range_succ, List.foldl_append]
  rfl

theorem mem_addTerms : (addTerms c row T n q).1.mem = q.1.mem := by
  induction n with
  | zero => rfl
  | succ n ih => rw [addTerms_succ, Arch.mem_addTerm, ih]

theorem pos_addTerms : (addTerms c row T n q).2.pos = q.2.pos := by
  induction n with
  | zero => rfl
  | succ n ih => rw [addTerms_succ, Arch.pos_addTerm, ih]

/-- The accumulators of a pass's columns gain their terms by AccAdd, each one term, and no other changes (R128, R144). -/
theorem acc_addTerms (k : Nat) : SMap.get 0 ((addTerms c row T n q).1.core c).engine.acc k =
    if row * 64 ≤ k ∧ k < row * 64 + n then
      accPlus (SMap.get 0 (q.1.core c).engine.acc k) (T (k - row * 64)).1
    else SMap.get 0 (q.1.core c).engine.acc k := by
  induction n with
  | zero => exact (if_neg (by omega)).symm
  | succ n ih =>
    have hkey : (row + n / 64) * 64 + n % 64 = row * 64 + n := by omega
    rw [addTerms_succ, Arch.acc_addTerm, hkey, SMap.get_set]
    by_cases hk : k = row * 64 + n
    · subst hk
      rw [if_neg (by omega)] at ih
      rw [if_pos rfl, if_pos (by omega), ih, Nat.add_sub_cancel_left]
    · have hiff : row * 64 ≤ k ∧ k < row * 64 + n ↔ row * 64 ≤ k ∧ k < row * 64 + (n + 1) := by omega
      rw [if_neg hk, ih]
      simp only [hiff]

end

-- ## MXACC

/-- Where the pass starts from: the task's exactness is lost when the anchor is not its operator's (R264). -/
def Arch.anchored (a : Arch) (c x : Nat) (X : Int) : Arch := if (a.taskAnchor c x).any (· != X) then a.inexact c x else a

theorem Arch.anchored_sameEngine (a : Arch) (c x : Nat) (X : Int) : a.SameEngine c (a.anchored c x X) :=
  .ite (.inexact x (.refl c a)) (.refl c a)

/-- The descriptor of `r` moved on by `x` in the call `r'` it has become (R144). -/
theorem Call.parm_setM_add (r r' : Call) (i x : Nat) : (r'.setM i (r.m i + x)).parm i = r.parm i + BitVec.ofNat 64 x := by
  rw [Call.parm, Call.setM, SMap.get_set_same, BitVec.ofNat_add, Call.m, BitVec.ofNat_toNat, BitVec.setWidth_eq, Call.parm]

/-- A micro-op that completes on the running call leaves the call as it says, in the module it says. -/
theorem State.runMicro_go {s : State} {r r' : Call} {a : Arch} {f : Arch → Call → Micro} (hr : s.runs r) (hf : f s.arch r = .go a r') :
    s.runMicro f = .next (s.goes a r') := by
  rw [State.runMicro, State.event, Arch.micro, hr]
  dsimp only
  rw [hf]
  rfl

theorem State.goes_runs (s : State) (a : Arch) (r : Call) : (s.goes a r).runs r := by
  rw [State.runs, State.goes, State.setArch_arch, State.setArch_iss, Arch.core_mapCore]

theorem State.acc_goes (s : State) (a : Arch) (r : Call) :
    ((s.goes a r).arch.core s.iss.core).engine.acc = (a.core s.iss.core).engine.acc := by
  rw [State.goes, State.setArch_arch, Arch.core_mapCore]

end Sys2Proof.Machine

open Sys2Proof Sys2Proof.Machine in
/-- Settles O27: none of the checks of R424 stops the call, so the pass adds its columns' terms one after another, each to an accumulator of
its own (R144), and then moves the call on. -/
theorem accumulateMicroOp : Obligations.AccumulateMicroOp := by
  intro s r i first count hr c d row F planes slot wb X n rows e hrow hlogF hplanes hwb hlow hhigh hfold hslot hanchor hblocks hrange hfoot
  -- ROW and X as the model cuts them from the descriptor; the other fields are the same terms.
  have hrowField : bits d 11 0 = row := bits_low_eq d 11
  have hXField : sext (bits d 42 32) 11 = X := sext_bits (r.parm i) 42 32 (by decide)
  clear_value row X
  subst hrowField hXField
  let row := bits d 11 0
  let X := sext (bits d 42 32) 11
  let a := s.arch.anchored c r.cmd.ctx X
  let q := addTerms c row (fun k => (a.core c).engine.term first F slot planes wb k X (r.row.take (4 * F))) (32 * n / F) (a, r)
  let r' : Call := { q.2 with row := r.row.drop (4 * F), anchor := some (BitVec.ofInt 11 X), rows := r.rows + rows, pass := r.pass + 1 }
  have hgo : mxacc c i first count s.arch r = .go q.1 (r'.setM i (r.m i + rows)).next := by
    have hparam :
        ¬ (2559 < row ∨ 6 < bits d 14 12 ∨ 2 < planes ∨ 6 < wb ∨ bits d 31 23 ≠ 0 ∨ bits d 63 43 ≠ 0 ∨ n % F ≠ 0) := by
      have hlogF : bits d 14 12 < 7 := hlogF
      have hlow : bits d 31 23 = 0 := hlow
      have hhigh : bits d 63 43 = 0 := by rw [bits, hhigh, Nat.zero_mod]
      omega
    have hplane : ¬ 7 < slot + planes := by omega
    have hanchor : ¬ r.anchor.any (fun x => x.toInt != X) = true := by
      cases hy : r.anchor with
      | none => exact Bool.false_ne_true
      | some y => simp [hanchor y hy, X]
    have hrange : ¬ 2559 < row + rows - 1 := by omega
    exact (if_neg hparam).trans <| (if_neg hplane).trans <| (if_neg hanchor).trans <| (if_neg (Nat.not_lt.mpr hblocks)).trans <|
      (if_neg hrange).trans <| if_neg (Nat.not_lt.mpr hfoot)
  have ha : s.arch.SameEngine c a := s.arch.anchored_sameEngine c r.cmd.ctx X
  refine ⟨_, _, State.runMicro_go hr hgo, s.goes_runs .., congrArg (· + 1) (pos_addTerms ..), rfl, rfl, rfl, rfl,
    r.parm_setM_add r' i rows, (mem_addTerms ..).trans ha.mem, fun k hk => ?gains, fun k hk => ?keeps⟩
  case gains => rw [State.acc_goes, acc_addTerms, if_pos (by omega), toInt_accPlus, ha.engine, Nat.add_sub_cancel_left]
  case keeps => rw [State.acc_goes, acc_addTerms, if_neg (by omega), ha.engine]

end
section
/-! The full/empty and barrier instructions complete (O11; R163, R167, R170, R339, R347): a range that passes its checks is handed to what
the slot does with it, and that is the request which the statement writes. -/

namespace Sys2Proof.Machine

variable {s t : State} {p : Nat} {i : Instr} {q : RangeR} {r : Range} {f : Range → SlotR}

/-- A slot whose range passes its checks answers with what it does with the range. -/
theorem exec_of_range_ok (h : Runs s p) (he : exec i s = .next (s.finish (s.whenOn p (q.bind f)))) (hq : q = .ok r)
    (hf : f r = .ok t) : exec i s = .next t.slotDone := by
  have hb : q.bind f = .ok t := by rw [hq]; exact hf
  rw [he, hb, finish_whenOn_of_runs h]

/-- BARINIT by its count, on a range that passes its checks (R339). -/
theorem State.barinit_of_range {a : Nat} (n : Word) (hq : s.wordRange (s.rd.readG a).toNat false true = .ok r) :
    s.barinit a n = if n.toNat = 0 ∨ 2 ^ 31 ≤ n.toNat then .trap 0x0B n.toNat 9 0
      else .ok (s.wordTell .barInit r (s.rd.readG a).toNat n.toNat none (some r.scope)) := by
  rw [State.barinit, hq]
  rfl

theorem exec_barinit (p a : Nat) (b : Src) (s : State) :
    exec (.barinit p a b) s = .next (s.finish (s.whenOn p (s.barinit a (s.src b)))) := rfl

end Sys2Proof.Machine

open Sys2Proof Sys2Proof.Machine in
/-- Settles O11: each instruction binds the answer of its checks (R163, R170); BARINIT looks at its count after them (R339). -/
theorem scratchpadWordsComplete : Obligations.ScratchpadWordsComplete := by
  intro p d a off b s r h ea ga sc
  have hea : s.dwordEa a off = ea := effAddr_eq_addrOf ..
  clear_value ea
  subst hea
  refine ⟨fun hr => ⟨exec_of_range_ok h rfl hr rfl, exec_of_range_ok h rfl hr rfl⟩,
    fun hr => ⟨exec_of_range_ok h rfl hr rfl, exec_of_range_ok h rfl hr rfl, exec_of_range_ok h rfl hr rfl⟩,
    fun hr hpos hlt => ?count, fun hr hbad => ?badCount,
    fun hr => exec_of_range_ok h rfl hr rfl, fun hr => exec_of_range_ok h rfl hr rfl⟩
  case count => rw [exec_barinit, State.barinit_of_range _ hr, if_neg (by omega), finish_whenOn_of_runs h]; rfl
  case badCount => rw [exec_barinit, State.barinit_of_range _ hr, if_pos hbad, trapNow_of_runs h]

end
section
/-! What accesses do at a scratchpad bank (O13; R162, R163, R168, R169, R178, R335, R336, R339, R347): waiters that a write marks, atomics
of a doubleword, full/empty bits, and the fields of a barrier object. -/

namespace Sys2Proof.Machine

variable {a : Arch} {r : Req} {c o : Nat}

/-- An access to a scratchpad that is not in stash mode, on a die that is there, acts at the bank (R178). -/
theorem Arch.performAt_bank (hp : a.place r.pa = .spad c o) (hl : r.near = true ∨ (a.brick (c / 32)).lost = false)
    (hw : r.near = true → SMap.get none (a.core c).window (o / 0x8000) = none) : a.performAt r = a.bankPerform r c o := by
  cases hn : r.near with
  | true =>
    have hkey : (a.core c).stashKey o = none := by simp [Core.stashKey, hw hn]
    simp [Arch.performAt, hp, hn, hkey]
  | false =>
    have hlost : (a.brick (c / 32)).lost = false := hl.resolve_left (by simp [hn])
    simp [Arch.performAt, hp, hn, hlost]

-- ## Waiters that a write marks (R169)

/-- A core whose engine's call is not marked. -/
def Core.unmarked (k : Core) : Core := { k with engine := { k.engine with run := k.engine.run.map (fun r => { r with sat := false }) } }

/-- Waking an engine marks its call, and nothing else of the core. -/
theorem Core.unmarked_engineWake (k : Core) (a : Arch) (c : Nat) (sel : Nat → Bool) : (k.engineWake a c sel).unmarked = k.unmarked := by
  unfold Core.engineWake
  split
  · next r hr =>
    dsimp only
    split
    · simp [Core.unmarked, hr]
    · rfl
  · rfl

theorem Core.engineWake_of_idle {k : Core} (h : k.engine.run = none) (a : Arch) (c : Nat) (sel : Nat → Bool) :
    k.engineWake a c sel = k := by
  simp [Core.engineWake, h]

theorem Arch.keepsAllBut_refl (a : Arch) : a.keepsAllBut a := ⟨rfl, rfl, rfl, fun _ => rfl, fun _ => rfl⟩

/-- A write of memory, after which waiters look at their objects again, keeps the rest of the module (log entry 54). -/
theorem Arch.keepsAllBut_wakeWaiters (a : Arch) (m : Memory) (sel : Nat → Bool) :
    a.keepsAllBut (({ a with mem := m } : Arch).wakeWaiters sel) := by
  refine ⟨rfl, ?reqs, ?cores, fun hq => ?noWaiter, fun he => ?noCall⟩
  case reqs =>
    simp only [Arch.wakeWaiters, List.map_map]
    refine List.map_congr_left fun q _ => ?_
    simp only [Function.comp_apply]
    split <;> rfl
  case cores =>
    simp only [Arch.wakeWaiters, List.map_map]
    exact List.map_congr_left fun e _ => congrArg (Prod.mk e.1) (Core.unmarked_engineWake ..)
  case noWaiter =>
    refine (List.map_congr_left fun q hin => ?_).trans (List.map_id _)
    exact if_neg fun ⟨hop, hst, _⟩ => hq q hin hop hst
  case noCall =>
    refine (List.map_congr_left fun e hin => ?_).trans (List.map_id _)
    exact congrArg (Prod.mk e.1) (Core.engineWake_of_idle (he e hin) ..)

/-- A waiter on an object whose phase is no longer the one it names is marked (R169). -/
theorem Arch.marked_barWake {q : Req} {pa : Nat} (hq : q ∈ a.reqs) (hop : q.op = .barWait) (hpa : q.pa = pa) (hst : q.st = .parked)
    (hturn : a.phaseTurned pa q.data = true) : { q with cmp := 1 } ∈ (a.barWake pa).reqs := by
  refine List.mem_map.mpr ⟨q, hq, if_pos ⟨hop, hst, ?_, ?_⟩⟩
  · rw [hpa]; exact beq_self_eq_true pa
  · rw [hpa]; exact hturn

-- ## Loads, stores and atomics (R178, R335, R336)

/-- The value that an atomic of a doubleword writes, or leaves, is that of its operation (R335). -/
theorem amoNew_eq_acts {k : Amo} (hk : k ≠ .fadd) (x y : Word) (cmp : Nat) :
    amoNew k 8 x.toNat y.toNat cmp = (k.acts x y (BitVec.ofNat 64 cmp)).toNat := by
  have hy : y.toNat % 2 ^ 64 = y.toNat := Nat.mod_eq_of_lt y.isLt
  cases k with
  | fadd => exact absurd rfl hk
  | add => exact (BitVec.toNat_add x y).symm
  | and => exact (BitVec.toNat_and x y).symm
  | or => exact (BitVec.toNat_or x y).symm
  | xor => exact (BitVec.toNat_xor x y).symm
  | swp => exact hy
  | min => simp only [amoNew, Amo.acts, sext_toNat _ (by decide : 0 < 64), hy, BitVec.slt, decide_eq_true_eq, apply_ite BitVec.toNat]
  | max => simp only [amoNew, Amo.acts, sext_toNat _ (by decide : 0 < 64), hy, BitVec.slt, decide_eq_true_eq, apply_ite BitVec.toNat]
  | cas =>
    have hcmp : x.toNat = cmp % 2 ^ 64 ↔ x = BitVec.ofNat 64 cmp := by rw [← BitVec.toNat_inj, BitVec.toNat_ofNat]
    simp only [amoNew, Amo.acts, hy, hcmp, apply_ite BitVec.toNat]

/-- A failing AMOCAS would write what stands there (R335). -/
theorem amoNew_of_keeps {k : Amo} {len old b cmp : Nat} (h : amoKeeps k len old cmp = true) : amoNew k len old b cmp = old := by
  simp only [amoKeeps, Bool.and_eq_true, beq_iff_eq, bne_iff_ne, ne_eq] at h
  obtain ⟨rfl, hne⟩ := h
  exact if_neg hne

theorem bankAccessesAct : BankAccessesAct := by
  intro a r c o hp hl hw old
  rw [Arch.performAt_bank hp hl hw]
  refine ⟨fun hop => ?load, fun hop => ?store, fun k hop hk hlen hdata => ?atomic⟩
  case load => simp only [Arch.bankPerform, hop, old]
  case store =>
    exact ⟨_, by simp only [Arch.bankPerform, hop]; rfl, Arch.keepsAllBut_wakeWaiters .., Memory.read_write ..,
      fun b hb => Memory.byte_write_outside _ _ _ _ _ hb⟩
  case atomic =>
    have hold : old < 2 ^ 64 := (Memory.read_lt ..).trans_eq (by rw [hlen])
    have hnew : amoNew k 8 old r.data r.cmp = (k.acts (BitVec.ofNat 64 old) (BitVec.ofNat 64 r.data) (BitVec.ofNat 64 r.cmp)).toNat := by
      rw [← amoNew_eq_acts hk, BitVec.toNat_ofNat, BitVec.toNat_ofNat, Nat.mod_eq_of_lt hold, Nat.mod_eq_of_lt hdata]
    have hlt : amoNew k r.len old r.data r.cmp < 2 ^ (8 * r.len) := by
      rw [hlen, hnew]
      exact BitVec.isLt _
    rw [← hnew, ← hlen]
    by_cases hkeep : amoKeeps k r.len old r.cmp = true
    · refine ⟨a, by simp only [Arch.bankPerform, hop]; exact if_pos hkeep, a.keepsAllBut_refl, ?_, fun _ _ => rfl⟩
      exact (amoNew_of_keeps hkeep).symm
    · exact ⟨_, by simp only [Arch.bankPerform, hop]; exact if_neg hkeep, Arch.keepsAllBut_wakeWaiters ..,
        (Memory.read_write ..).trans (Nat.mod_eq_of_lt hlt), fun b hb => Memory.byte_write_outside _ _ _ _ _ hb⟩

-- ## Full/empty bits (R162, R163, R347)

theorem Arch.full_setFull (a : Arch) (c o : Nat) (b : Bool) (d j : Nat) :
    SMap.get false ((a.setFull c o b).core d).full j = if d = c ∧ j = o / 8 then b else SMap.get false (a.core d).full j := by
  rw [Arch.setFull]
  by_cases hd : d = c
  · subst hd
    simp only [Arch.core_mapCore, SMap.get_set, true_and]
  · rw [Arch.core_mapCore_other _ _ hd, if_neg fun h => hd h.1]

@[simp] theorem Arch.full_barWakeAll (a : Arch) (pa len c : Nat) : ((a.barWakeAll pa len).core c).full = (a.core c).full := by
  obtain ⟨e, he⟩ := a.core_barWakeAll pa len c
  rw [he]

theorem fullEmptyBitsAct : FullEmptyBitsAct := by
  intro a r c o hp hlen hn hw full sets
  have hsets : ∀ b v, a.performAt r = .done (a.setFull c o b) v → sets b a.mem v := fun b v h => ⟨_, h, rfl, a.full_setFull c o b⟩
  have hfull : a.isFull c o = full := rfl
  rw [Arch.performAt_bank hp (.inl hn) fun _ => hw] at hsets ⊢
  refine ⟨fun hop h => hsets _ _ ?ldfFull, fun hop h => ?ldfEmpty, fun hop h => ?steEmpty, fun hop h => ?steFull, fun hop => ?feget,
    fun hop => hsets _ _ ?feset, fun hop => hsets _ _ ?feclr⟩
  case steEmpty =>
    refine ⟨(({ a with mem := Memory.write a.mem r.pa 8 r.data } : Arch).setFull c o true).barWakeAll r.pa 8, ?_, rfl, fun d j => ?_⟩
    · simp only [Arch.performAt_bank hp (.inl hn) fun _ => hw, Arch.bankPerform, hop, hfull, h, hlen]
      rfl
    · rw [Arch.full_barWakeAll]
      exact Arch.full_setFull ..
  case ldfFull | ldfEmpty | steFull => simp [Arch.bankPerform, hop, hlen, hfull, h]
  case feget => simp [Arch.bankPerform, hop, hfull]
  case feset | feclr => simp [Arch.bankPerform, hop]

-- ## Barrier objects (R168, R169, R339)

section
variable {n k ph : Nat}

theorem barOf_lt (hn : n < 2 ^ 31) (hk : k ≤ n) (hph : ph < 2) : barOf k n ph < 2 ^ 64 := by
  unfold barOf
  omega

theorem barOf_phase (hn : n < 2 ^ 31) (hk : k ≤ n) : barOf k n ph / 2 ^ 63 = ph := by
  unfold barOf
  omega

theorem barInit_eq_barOf (hn : n < 2 ^ 31) : barInit n = barOf n n 0 := by
  unfold barInit barOf
  omega

theorem barArrive_barOf (hn : n < 2 ^ 31) (hk : k ≤ n) (hone : 1 < k) : barArrive (barOf k n ph) = barOf (k - 1) n ph := by
  have hpending : barOf k n ph % 2 ^ 32 = k := by unfold barOf; omega
  rw [barArrive]
  simp only [hpending]
  rw [if_neg (by omega), if_neg (by omega)]
  unfold barOf
  omega

theorem barArrive_barOf_last (h0 : 0 < n) (hn : n < 2 ^ 31) (hph : ph < 2) : barArrive (barOf 1 n ph) = barOf n n (1 - ph) := by
  have hpending : barOf 1 n ph % 2 ^ 32 = 1 := by unfold barOf; omega
  have hexpect : bits (barOf 1 n ph) 62 32 = n := by unfold bits barOf; omega
  rw [barArrive]
  simp only [hpending, hexpect, barOf_phase hn h0, Nat.mod_eq_of_lt hph, Nat.one_ne_zero, if_false, if_true]
  unfold barOf
  omega

end

theorem barriersCountArrivals : BarriersCountArrivals := by
  intro a r c o n k ph hp hn hlen hw h0 hlt hk hph act
  have hbank : a.performAt r = a.bankPerform r c o := Arch.performAt_bank hp (.inl hn) fun _ => hw
  -- An action leaves its value in the object, and each waiter of the other phase marked.
  have hact : ∀ v < 2 ^ 64, a.performAt r = .done (({ a with mem := Memory.write a.mem r.pa 8 v } : Arch).barWake r.pa) 0 → act v := by
    refine fun v hv h => ⟨_, h, rfl, fun q hq hop hpa hst hne => Arch.marked_barWake hq hop hpa hst ?_⟩
    have hread : Memory.read (Memory.write a.mem r.pa 8 v) r.pa 8 = v := (Memory.read_write ..).trans (Nat.mod_eq_of_lt hv)
    rw [Arch.phaseTurned, hread, bne_iff_ne]
    omega
  refine ⟨fun hop hdata => ?init, fun hop hold hone => ?counts, fun hop hold => ?last, fun hop hcmp hold => ?waits⟩
  case init =>
    refine hact _ (barOf_lt hlt le_rfl (by decide)) ?_
    simp only [hbank, Arch.bankPerform, hop, hdata, hlen, barInit_eq_barOf hlt]
  case counts =>
    refine hact _ (barOf_lt hlt (by omega) hph) ?_
    simp only [hbank, Arch.bankPerform, hop, hlen, hold, barArrive_barOf hlt hk hone]
  case last =>
    refine hact _ (barOf_lt hlt le_rfl (by omega)) ?_
    simp only [hbank, Arch.bankPerform, hop, hlen, hold, barArrive_barOf_last h0 hlt hph]
  case waits =>
    simp only [hbank, Arch.bankPerform, hop, hlen, hold, hcmp, barOf_phase hlt hk, Nat.mod_eq_of_lt hph, Nat.zero_ne_one, false_or,
      ne_eq, ite_not]

end Sys2Proof.Machine

open Sys2Proof Sys2Proof.Machine in
/-- Settles O13: at a bank that is there and not in stash mode every access is one case of the model's `Arch.bankPerform`. -/
theorem banksAct : Obligations.BanksAct := ⟨bankAccessesAct, fullEmptyBitsAct, barriersCountArrivals⟩

end
section
/-! The checks of a range (O14; R24, R28, R159, R171, R173, R198, R200, R201, R232, R245): what is not there to hold a range back,
bank groups and stash windows of a near range, and the one page of an aligned global one. -/

namespace Sys2Proof.Machine

-- ## Nothing that holds a range back

/-- No acquire under way holds an access back (R245). -/
theorem Context.acquireHeld_of_none {t : Context} (h : t.acqs = []) (c : Nat) (pl : Place) : t.acquireHeld c pl = false := by
  simp [Context.acquireHeld, h]

theorem watermark_nil (va len : Nat) : watermark [] va len = .pass := rfl

theorem mem_groupsOf {off len g : Nat} :
    g ∈ groupsOf off len ↔ off / 0x8000 ≤ g ∧ g ≤ (off + len - 1) / 0x8000 ∨ g = off / 0x8000 := by
  simp only [groupsOf, upTo, List.mem_map, List.mem_range]
  constructor
  · rintro ⟨i, hi, rfl⟩
    omega
  · intro h
    exact ⟨g - off / 0x8000, by omega, by omega⟩

/-- A range of at most one bank group's size lies in the groups of its ends. -/
theorem mem_groupsOf_short {off len g : Nat} (hpos : 0 < len) (hlen : len ≤ 0x8000) :
    g ∈ groupsOf off len ↔ g = off / 0x8000 ∨ g = (off + len - 1) / 0x8000 := by
  rw [mem_groupsOf]
  omega

section
variable {s : State} {va off len align : Nat} {r w dword : Bool}

-- ## The core-local space (R24, R159, R171, R175)

theorem Arch.xlate_near (a : Arch) (c x : Nat) (h : off < spadSize) : a.xlate c x (0xFE00000000000000 + off) r w = .near off := by
  have hoff : (0xFE00000000000000 + off) % 2 ^ 56 = off := by simp only [spadSize] at h; omega
  have hspace : (0xFE00000000000000 + off) / 2 ^ 56 = 0xFE := by simp only [spadSize] at h; omega
  rw [Arch.xlate, if_pos hspace, hoff, if_pos h]

/-- The checks of a range that begins in the scratchpad are those of its offset, once it is aligned. -/
theorem State.range_near (hoff : off < spadSize) (hpos : 0 < len) (hlen : len ≤ 512) (hal : (0xFE00000000000000 + off) % align = 0) :
    s.range (0xFE00000000000000 + off) len align r w dword = s.nearRange (0xFE00000000000000 + off) off len w := by
  have h := hoff
  simp only [spadSize] at h
  rw [State.range, if_neg (by omega), if_neg (by omega), if_neg (by omega), Arch.xlate_near _ _ _ hoff]

/-- With no group in stash mode no entry of a stash lacks permission (R175). -/
theorem State.stashCheck_of_no_window (h : (s.view.core s.iss.core).window = []) : s.stashCheck va off len w = none := by
  have hl : s.stashLacks off len w = [] := by simp [State.stashLacks, Core.stashVa, h]
  rw [State.stashCheck, hl]
  rfl

/-- With no group in stash mode a scratchpad range is one segment. -/
theorem Arch.nearSegs_of_no_window {a : Arch} {c : Nat} (h : (a.core c).window = []) : a.nearSegs c off len = [(a.spadPa c off, len)] :=
  if_pos (by simp [h])

theorem State.nearRange_foreign {g : Nat} (hin : off + len ≤ spadSize) (hx : s.iss.ctx ≠ 2) (hg : g ∈ groupsOf off len)
    (hmine : ¬ s.view.touchable s.iss.core s.iss.ctx g) : s.nearRange va off len w = .trap 9 va 0 := by
  have hno : (groupsOf off len).any (fun g => !(s.view.core s.iss.core).mayTouch s.iss.ctx g s.view.clock) = true :=
    List.any_eq_true.mpr ⟨g, hg, by rwa [Bool.not_eq_true', Bool.eq_false_iff, ne_eq, Arch.mayTouch_iff]⟩
  rw [State.nearRange, if_neg (Nat.not_lt.mpr hin), if_pos (by simp only [hno, hx, ne_eq, not_false_eq_true, decide_true, Bool.and_self])]

theorem State.nearRange_passes (hin : off + len ≤ spadSize) (hmine : ∀ g ∈ groupsOf off len, s.view.touchable s.iss.core s.iss.ctx g)
    (hc : s.rd.chans = []) (hw : (s.view.core s.iss.core).window = []) (ha : s.rd.acqs = []) :
    s.nearRange va off len w = .ok ⟨true, [(s.view.spadPa s.iss.core off, len)]⟩ := by
  have hany : (groupsOf off len).any (fun g => !(s.view.core s.iss.core).mayTouch s.iss.ctx g s.view.clock) = false :=
    List.any_eq_false.mpr fun g hg => by simp [Arch.mayTouch_iff.mpr (hmine g hg)]
  rw [State.nearRange, if_neg (Nat.not_lt.mpr hin)]
  simp only [hany, hc, watermark_nil, State.stashCheck_of_no_window hw, Arch.nearSegs_of_no_window hw, Context.acquireHeld_of_none ha]
  simp

theorem coreLocalChecks : CoreLocalChecks := by
  intro s off len align r w dword halign hpos hoff hlen va k mine
  refine ⟨fun hal => if_pos hal, fun hal hlong => ?beyond, fun hal hin hx hno => ?foreign, fun hal hin hfirst hlast hc hw ha => ?passes⟩
  case beyond => exact (State.range_near hoff hpos hlen hal).trans (if_pos hlong)
  case foreign =>
    rw [State.range_near hoff hpos hlen hal]
    rcases hno with h | h
    · exact State.nearRange_foreign hin hx ((mem_groupsOf_short hpos (by omega)).mpr (.inl rfl)) h
    · exact State.nearRange_foreign hin hx ((mem_groupsOf_short hpos (by omega)).mpr (.inr rfl)) h
  case passes =>
    rw [State.range_near hoff hpos hlen hal]
    refine State.nearRange_passes hin (fun g hg => ?_) hc hw ha
    rcases (mem_groupsOf_short hpos (by omega)).mp hg with rfl | rfl
    · exact hfirst
    · exact hlast

-- ## The global space (R28, R198, R200, R201)

/-- An aligned range of a power of two below a page lies in one page (R198). -/
theorem cutPages_of_aligned {k : Nat} (hlen : len ≤ 512) (hal : va % len = 0) (hk : len = 2 ^ k) : cutPages va len = [(va, len)] := by
  have hdvd : len ∣ 0x200000 := by
    have : k ≤ 9 := (Nat.pow_le_pow_iff_right (by decide)).mp (hk ▸ hlen : 2 ^ k ≤ 2 ^ 9)
    rw [hk]
    exact Nat.pow_dvd_pow 2 (n := 21) (by omega)
  have hmod : len ∣ va % 0x200000 := (Nat.dvd_mod_iff hdvd).mpr (Nat.dvd_of_mod_eq_zero hal)
  have hlt : va % 0x200000 < 0x200000 := Nat.mod_lt _ (by decide)
  have hroom : len ≤ 0x200000 - va % 0x200000 := Nat.le_of_dvd (Nat.sub_pos_of_lt hlt) (Nat.dvd_sub hdvd hmod)
  exact if_pos hroom

/-- A global address of context A or B is looked up in the core's buffer (R24, R200). -/
theorem Arch.xlate_global {a : Arch} {c x : Nat} (hva : va < 2 ^ 56) (hx : x < 2) :
    a.xlate c x va r w = a.lookup c (.ctx x) (a.ctx c x).asid.toNat va r w := by
  have hspace : va / 2 ^ 56 = 0 := by omega
  rw [Arch.xlate, if_neg (by omega), if_neg (by omega), if_neg (by omega), Nat.mod_eq_of_lt hva]


theorem globalChecks : GlobalChecks := by
  intro s va len r w dword hx hend hpos hlen hal ⟨k, hk⟩ look
  have hva : va < 2 ^ 56 := by omega
  have hcut : cutPages va len = [(va, len)] := cutPages_of_aligned hlen hal hk
  have hlook : s.view.xlate s.iss.core s.iss.ctx va r w = look := Arch.xlate_global hva hx
  have hrange : s.range va len len r w dword = s.globalRange va len r w dword := by
    rw [State.range, if_neg (by omega), if_neg (by omega), if_pos (by omega)]
  clear_value look
  subst hlook
  rw [hrange]
  refine ⟨fun k hl => ?fault, fun hl => ?miss, fun pa b o hl hfirst hlast hc ha => ?passes, fun pa hl hres => ?reserved⟩
  case fault => simp [State.globalRange, hcut, hl]
  case miss => simp [State.globalRange, hcut, hl]
  case passes =>
    have hreach : s.view.coreReach pa len w dword = true := by simp [Arch.coreReach, hfirst, hlast]
    simp [State.globalRange, hcut, hl, hreach, hc, watermark_nil, Context.acquireHeld_of_none ha]
  case reserved =>
    have hreach : s.view.coreReach pa len w dword = false := by simp [Arch.coreReach, hres]
    simp [State.globalRange, hcut, hl, hreach]

end

end Sys2Proof.Machine

open Sys2Proof Sys2Proof.Machine in
/-- Settles O14: each check of the model's `State.range` in its order, in the space that the address names. -/
theorem rangesAreChecked : Obligations.RangesAreChecked := ⟨coreLocalChecks, globalChecks⟩

end
section
/-! Coherence of stash entries, and slice controls (O33; R22, R175, R176, R189, R193, R194, R207, R209, R211, R212, R216, R328): what
a line's home changes and what it keeps, the entries that snoops take, and the accumulators that a slice retires. -/

namespace Sys2Proof.Machine

variable {a o : Arch} {b c d line : Nat}

-- ## What a home changes (R181, R194, R211, R216)

/-- A module that differs from another in memory, in its Bricks and in the evaluations its queues have noted, and in nothing else. -/
def Arch.Beside (a o : Arch) : Prop := ({ a with mem := o.mem, bricks := o.bricks, queues := o.queues } : Arch) = o

theorem Arch.Beside.refl (a : Arch) : a.Beside a := rfl

theorem Arch.Beside.cores (h : a.Beside o) : a.cores = o.cores := by
  unfold Arch.Beside at h
  exact (congrArg Arch.cores h :)

theorem Arch.Beside.fills (h : a.Beside o) : a.fills = o.fills := by
  unfold Arch.Beside at h
  exact (congrArg Arch.fills h :)

theorem Arch.Beside.writeBacks (h : a.Beside o) : a.writeBacks = o.writeBacks := by
  unfold Arch.Beside at h
  exact (congrArg Arch.writeBacks h :)

theorem Arch.Beside.core (h : a.Beside o) (c : Nat) : a.core c = o.core c := congrArg (SMap.get Core.reset · c) h.cores

theorem Arch.Beside.ite {a' : Arch} {p : Prop} [Decidable p] (ha : a.Beside o) (hb : a'.Beside o) : (if p then a else a').Beside o := by
  split <;> assumption

theorem Arch.Beside.foldl {β : Type} {f : Arch → β → Arch} {l : List β} (h : a.Beside o)
    (hf : ∀ a x, a.Beside o → (f a x).Beside o) : (l.foldl f a).Beside o := by
  induction l generalizing a with
  | nil => exact h
  | cons x l ih => exact ih (hf a x h)

theorem Arch.Beside.touchLine {write : Bool} (h : a.Beside o) : (a.touchLine write line).Beside o := by
  unfold Arch.touchLine
  split <;> exact h

theorem Arch.Beside.cure (h : a.Beside o) : (a.cure line).Beside o := by
  unfold Arch.cure
  split <;> exact h

theorem Arch.Beside.noteSignals {pa len : Nat} (h : a.Beside o) : (a.noteSignals pa len).Beside o := by
  unfold Arch.noteSignals
  split <;> exact h

theorem Arch.Beside.retireOne {e : DetAcc} (h : a.Beside o) : (a.retireOne e).Beside o := .ite h (.touchLine (.touchLine (a := a) h))

theorem Arch.Beside.retireAll {p : DetAcc → Bool} (h : a.Beside o) : (a.retireAll p).Beside o :=
  .ite h (.foldl (.foldl (a := { a with bricks := _ }) h fun _ _ h => .retireOne h) fun _ _ h => .noteSignals h)

theorem Arch.Beside.retireRange {pa len : Nat} (h : a.Beside o) : (a.retireRange pa len).Beside o := by
  unfold Arch.retireRange
  split
  · exact .ite (.retireAll h) h
  · exact h

theorem Arch.Beside.signalsWritten {pa len : Nat} (h : a.Beside o) : (a.signalsWritten pa len).Beside o := by
  unfold Arch.signalsWritten
  split
  · exact h
  · exact .noteSignals (.retireAll h)

theorem Arch.Beside.lineHome {bs : List Byte} (h : a.Beside o) : (a.lineHome line bs).Beside o := by
  unfold Arch.lineHome
  split
  · exact .ite h (.touchLine (.cure (.signalsWritten (a := { a with mem := _ }) h)))
  · exact h

-- ## Where no packet waits for a signal (R288)

theorem Arch.unnamed.all (h : a.unnamed) : a.queues.all (fun e => e.2.packets.all fun p => p.named.isEmpty) = true :=
  List.all_eq_true.mpr fun e he => List.all_eq_true.mpr fun p hp => List.isEmpty_iff.mpr (h e he p hp)

theorem Arch.noteSignals_of_unnamed (h : a.unnamed) (pa len : Nat) : a.noteSignals pa len = a := if_pos h.all

theorem Arch.signalsAt_of_unnamed (h : a.unnamed) (pa len : Nat) : a.signalsAt pa len = [] := if_pos h.all

theorem Arch.signalsWritten_of_unnamed (h : a.unnamed) (pa len : Nat) : a.signalsWritten pa len = a := by
  rw [Arch.signalsWritten, Arch.signalsAt_of_unnamed h]

theorem Arch.noteAll_of_unnamed (h : a.unnamed) (ds : List DetAcc) : a.noteAll ds = a := by
  induction ds with
  | nil => rfl
  | cons e ds ih => rw [Arch.noteAll, List.foldl_cons, Arch.noteSignals_of_unnamed h]; exact ih

-- ## The bookkeeping of a line (R181, R182, R216)

@[simp] theorem Arch.mem_touchLine (write : Bool) : (a.touchLine write line).mem = a.mem := by
  unfold Arch.touchLine
  split <;> rfl

@[simp] theorem Arch.queues_touchLine (write : Bool) : (a.touchLine write line).queues = a.queues := by
  unfold Arch.touchLine
  split <;> rfl

@[simp] theorem Arch.mem_cure : (a.cure line).mem = a.mem := by
  unfold Arch.cure
  split <;> rfl

-- ## Fills (R175, R207, R209)

/-- What every step of a walk over a list keeps, the walk keeps. -/
theorem foldl_keeps {α β γ : Type} {f : α → β → α} {g : α → γ} (hf : ∀ a x, g (f a x) = g a) (a : α) (l : List β) :
    g (l.foldl f a) = g a :=
  (List.foldl_hom g (g₂ := fun x _ => x) fun a x => (hf a x).symm).symm.trans (List.foldl_fixed _)

theorem Arch.fills_snoopEntry (a : Arch) (c i line : Nat) (inval : Bool) : (a.snoopEntry c i line inval).fills = a.fills := by
  unfold Arch.snoopEntry
  dsimp only
  split
  · exact (Arch.Beside.lineHome (.refl _)).fills
  · rfl

theorem Arch.fills_backLands (a : Arch) (w : WriteBack) : (a.backLands w).fills = a.fills := (Arch.Beside.lineHome (.refl _)).fills

theorem Arch.fills_localSnoop (a : Arch) (c key line : Nat) (own : Bool) : (a.localSnoop c key line own).fills = a.fills :=
  foldl_keeps (g := Arch.fills) (fun a d => foldl_keeps (g := Arch.fills) (fun a i => a.fills_snoopEntry d i line own) a _) a _

theorem Arch.fills_landBacks (a : Arch) (line : Nat) : (a.landBacks line).fills = a.fills :=
  foldl_keeps (g := Arch.fills) Arch.fills_backLands a _

/-- The stash entry that a fill is for. -/
def Fill.key (f : Fill) : Nat := f.group * 256 + f.entry

/-- The module as a fill that lands finds it: write-backs and accumulators of its line are home, and other entries have given
way (R175, R194, R211). -/
def Arch.fillReady (a : Arch) (f : Fill) : Arch :=
  (((Arch.landBacks { a with fills := a.fills.filter (fun g => g.id != f.id) } (lineOf f.pa)).localSnoop f.core f.key (lineOf f.pa)
    f.owner).retireRange f.pa 128).touchLine false (lineOf f.pa)

/-- The module with the line of a fill in its entry (R175). -/
def Arch.filled (a : Arch) (f : Fill) : Arch :=
  ({ a with mem := copyMem a.mem f.pa (a.spadPa f.core (f.key * 128)) 128 }.setStash f.core f.key
    (if f.owner then .owned else .shared)).mapCore f.core (fun k => { k with stashLine := SMap.set 0 k.stashLine f.key (lineOf f.pa) })

theorem Arch.fills_fillReady (a : Arch) (f : Fill) : (a.fillReady f).fills = a.fills.filter (fun g => g.id != f.id) :=
  (Arch.Beside.touchLine (.retireRange (.refl _))).fills.trans ((Arch.fills_localSnoop ..).trans (Arch.fills_landBacks ..))

theorem Arch.stash_filled (a : Arch) (f : Fill) :
    SMap.get StashState.invalid ((a.filled f).core f.core).stash f.key = if f.owner then .owned else .shared := by
  rw [Arch.filled, Arch.core_mapCore, Arch.setStash, Arch.core_mapCore]
  exact SMap.get_set_same ..

theorem Arch.stashLine_filled (a : Arch) (f : Fill) : SMap.get 0 ((a.filled f).core f.core).stashLine f.key = lineOf f.pa := by
  rw [Arch.filled, Arch.core_mapCore]
  exact SMap.get_set_same ..

/-- A fill lands where its group is in stash mode still and its line can be read (R175, R216). -/
theorem Arch.fillLands_eq {f : Fill} {v : Nat} (he : f.entry < 256) (hw : SMap.get none (a.core f.core).window f.group = some v)
    (hr : a.readable f.pa 128 = true) : a.fillLands f = (a.fillReady f).filled f := by
  have hgroup : f.key / 256 = f.group := by unfold Fill.key; omega
  have hva : ¬ ((a.core f.core).stashVa f.key).isNone = true := by rw [Core.stashVa, hgroup, hw]; exact Bool.false_ne_true
  have hread : ¬ (!a.readable f.pa 128) = true := by rw [hr]; exact Bool.false_ne_true
  exact (if_neg hva).trans (if_neg hread)

theorem Arch.fillStep_lands {f : Fill} {id : Nat} (hf : a.fills.find? (fun f => f.id == id) = some f) (hg : f.stage = .granted)
    (hearly : (a.ctx f.core (a.fillCtx f)).detm = false ∨ a.fillTime f ≤ a.clock) (hl : (a.brick b).lost = false)
    (hs : (a.core f.core).stopped = false) (hm : ∀ m ∈ a.snoops, m.fill ≠ id) (hb : a.homeBrick f.pa = some b)
    (hr : a.routeSleeps b (f.core / 32) = false) (hw : a.windowStalls b (f.core / 32) (a.window + 1) = false)
    (hc : (a.brick b).covers (lineOf f.pa) (f.core / 32) f.owner = true) : a.fillStep id = a.fillLands f := by
  have hlate : a.fillEarly f = false := by
    rw [Arch.fillEarly, Bool.and_eq_false_iff, decide_eq_false_iff_not, Nat.not_lt]
    exact hearly
  have hsnoops : a.snoops.any (fun m => m.fill == id) = false := List.any_eq_false.mpr fun m h => by simp [hm m h]
  simp [Arch.fillStep, hf, hb, hs, hl, hg, hsnoops, hlate, hr, hw, hc]

-- ## The directory (R207, R209)

theorem Brick.region_setRegion (k : Brick) (r : Nat) (v : Region) : (k.setRegion r v).region r = v := SMap.get_set_same ..

section
variable {e fill : Nat} {own : Bool}

theorem Arch.directory_absent (h : (a.brick b).region (regionOf line) = .absent) :
    a.directory b line e fill own = a.mapBrick b (fun k => k.setRegion (regionOf line) (.priv e)) := by
  simp only [Arch.directory, h]

/-- The die whose region it is already changes no record (R209). -/
theorem Arch.directory_own (h : (a.brick b).region (regionOf line) = .priv e) : a.directory b line e fill own = a := by
  simp only [Arch.directory, h, if_true]

theorem Arch.directory_shared {v : BitVec 8} (h : (a.brick b).region (regionOf line) = .shared v) :
    a.directory b line e fill false = a.mapBrick b (fun k => k.setRegion (regionOf line) (.shared (v ||| dieBit e))) := by
  simp only [Arch.directory, h, Bool.false_eq_true, if_false]

end

/-- A request that recalls nothing is granted (R209, R210). -/
theorem Arch.directoryStep_grants {f : Fill} (hf : a.fills = [f]) (hs : f.stage = .sent) (hb : a.homeBrick f.pa = some b)
    (hr : a.routeSleeps (f.core / 32) b = false) (hp : ((a.grant b f).brick b).promoted = (a.brick b).promoted) :
    a.directoryStep b = a.grant b f := by
  have hwait : a.recallsWait b f = [] := by
    have hgone : (a.brick b).promoted.filter (fun r => !((a.grant b f).brick b).promoted.contains r) = [] :=
      List.filter_eq_nil_iff.mpr fun r h => by simp [hp, h]
    rw [Arch.recallsWait]
    simp only [hgone, List.contains_nil, List.filter_false, List.flatMap_nil]
  have hfind : a.fills.find? (fun f => f.stage == .sent && a.homeBrick f.pa == some b && !a.routeSleeps (f.core / 32) b
      && !a.fills.any (fun g => g.stage == .granted && g.pa == f.pa)) = some f := by
    simp [hf, hs, hb, hr]
  simp only [Arch.directoryStep, hfind, hwait]

/-- A request that the directory answers without recalling anything leaves the record of the answer, and its fill granted (R209). -/
theorem Arch.grant_leaves {f : Fill} {m : Arch} (hf : a.fills = [f])
    (hm : a.directory b (lineOf f.pa) (f.core / 32) f.id f.owner = m) (hfills : m.fills = a.fills) :
    (a.grant b f).brick = m.brick ∧ (a.grant b f).fills = [{ f with stage := .granted }] := by
  rw [Arch.grant, hm]
  exact ⟨rfl, by simp [Arch.mapFill, hfills, hf]⟩

-- ## Snoops (R211, R212)

/-- The state of a stash entry. -/
def Arch.entryState (a : Arch) (c i : Nat) : StashState := SMap.get StashState.invalid (a.core c).stash i

/-- What a snoop leaves of an entry that holds its line (R211). -/
def snooped (inval : Bool) : StashState := if inval then .invalid else .shared

theorem Arch.mem_holders {i : Nat} :
    i ∈ (a.core c).holders line ↔ (i, line) ∈ (a.core c).stashLine ∧ a.entryState c i ≠ .invalid := by
  simp [Core.holders, Arch.entryState]

/-- A snooped entry changes its own state, whether or not its line goes home. -/
theorem Arch.core_snoopEntry (a : Arch) (c i line : Nat) (inval : Bool) (d : Nat) : (a.snoopEntry c i line inval).core d =
    (a.mapCore c fun k => { k with stash := SMap.set StashState.invalid k.stash i (snooped inval) }).core d := by
  unfold Arch.snoopEntry
  dsimp only
  split
  · exact (Arch.Beside.lineHome (.refl _)).core d
  · rfl

theorem Arch.entryState_snoopEntry (a : Arch) (c i line : Nat) (inval : Bool) (d j : Nat) :
    (a.snoopEntry c i line inval).entryState d j = if d = c ∧ j = i then snooped inval else a.entryState d j := by
  rw [Arch.entryState, Arch.core_snoopEntry]
  by_cases hd : d = c
  · subst hd
    rw [Arch.core_mapCore, SMap.get_set]
    simp only [true_and, Arch.entryState]
  · rw [Arch.core_mapCore_other _ _ hd, if_neg fun h => hd h.1, Arch.entryState]

theorem Arch.stashLine_snoopEntry (a : Arch) (c i line : Nat) (inval : Bool) (d : Nat) :
    ((a.snoopEntry c i line inval).core d).stashLine = (a.core d).stashLine := by
  rw [Arch.core_snoopEntry]
  by_cases hd : d = c
  · subst hd
    rw [Arch.core_mapCore]
  · rw [Arch.core_mapCore_other _ _ hd]

/-- Snoop the entries listed of one core. -/
def Arch.snoopEntries (a : Arch) (c line : Nat) (inval : Bool) (is : List Nat) : Arch := is.foldl (fun a i => a.snoopEntry c i line inval) a

theorem Arch.entryState_snoopEntries (a : Arch) (c line : Nat) (inval : Bool) (is : List Nat) (d j : Nat) :
    (a.snoopEntries c line inval is).entryState d j = if d = c ∧ j ∈ is then snooped inval else a.entryState d j := by
  induction is generalizing a with
  | nil => simp [Arch.snoopEntries]
  | cons i is ih =>
    refine (ih _).trans ?_
    rw [Arch.entryState_snoopEntry]
    by_cases hd : d = c
    · simp only [hd, true_and, List.mem_cons, or_comm (a := j = i), ite_or]
    · simp only [hd, false_and, if_false]

theorem Arch.stashLine_snoopEntries (a : Arch) (c line : Nat) (inval : Bool) (is : List Nat) (d : Nat) :
    ((a.snoopEntries c line inval is).core d).stashLine = (a.core d).stashLine :=
  foldl_keeps (g := fun a : Arch => (a.core d).stashLine) (fun a i => a.stashLine_snoopEntry c i line inval d) a is

/-- A core's turn in a snoop of a line. -/
def Arch.snoopCore (line : Nat) (inval : Bool) (pick : Nat → Bool) (a : Arch) (c : Nat) : Arch :=
  if pick c then a.snoopEntries c line inval ((a.core c).holders line) else a

theorem Arch.snoopCores_eq (a : Arch) (line : Nat) (inval : Bool) (pick : Nat → Bool) :
    a.snoopCores line inval pick = (a.cores.map Prod.fst).foldl (Arch.snoopCore line inval pick) a := rfl

theorem Arch.entryState_snoopCore (inval : Bool) (pick : Nat → Bool) (j : Nat) : (Arch.snoopCore line inval pick a c).entryState d j =
    if d = c ∧ pick d = true ∧ j ∈ (a.core d).holders line then snooped inval else a.entryState d j := by
  unfold Arch.snoopCore
  by_cases hd : d = c
  · subst hd
    split
    · next hp => simp only [Arch.entryState_snoopEntries, hp, true_and]
    · next hp => simp [hp]
  · rw [if_neg (fun h => hd h.1 : ¬ (d = c ∧ _))]
    split
    · exact (Arch.entryState_snoopEntries ..).trans (if_neg fun h => hd h.1)
    · rfl

theorem Arch.stashLine_snoopCore (inval : Bool) (pick : Nat → Bool) :
    ((Arch.snoopCore line inval pick a c).core d).stashLine = (a.core d).stashLine := by
  unfold Arch.snoopCore
  split
  · exact Arch.stashLine_snoopEntries ..
  · rfl

/-- A snoop takes the line from every entry of the cores it goes to, and leaves every other entry (R211). -/
theorem Arch.entryState_snoopAll (a : Arch) (inval : Bool) (pick : Nat → Bool) (cs : List Nat) (d j : Nat) :
    (cs.foldl (Arch.snoopCore line inval pick) a).entryState d j =
      if d ∈ cs ∧ pick d = true ∧ j ∈ (a.core d).holders line then snooped inval else a.entryState d j := by
  induction cs generalizing a with
  | nil => simp
  | cons c cs ih =>
    rw [List.foldl_cons, ih, Arch.entryState_snoopCore]
    by_cases htaken : d = c ∧ pick d = true ∧ j ∈ (a.core d).holders line
    · -- The entry is taken in this turn, and a later turn of the same core would leave it as it is.
      rw [if_pos htaken, ite_self, if_pos ⟨htaken.1 ▸ List.mem_cons_self, htaken.2⟩]
    · -- The entry is left as it was, so it holds the line after the turn as before it.
      have hsame : (Arch.snoopCore line inval pick a c).entryState d j = a.entryState d j := by
        rw [Arch.entryState_snoopCore, if_neg htaken]
      have hholds : j ∈ ((Arch.snoopCore line inval pick a c).core d).holders line ↔ j ∈ (a.core d).holders line := by
        rw [Arch.mem_holders, Arch.mem_holders, hsame, Arch.stashLine_snoopCore]
      rw [if_neg htaken]
      refine if_congr ⟨fun h => ?_, fun h => ?_⟩ rfl rfl
      · exact ⟨List.mem_cons_of_mem c h.1, h.2.1, hholds.mp h.2.2⟩
      · exact ⟨(List.mem_cons.mp h.1).resolve_left fun e => htaken ⟨e, h.2⟩, h.2.1, hholds.mpr h.2.2⟩

/-- The only snoop under way reaches its die and is answered (R22, R211). -/
theorem Arch.snoopArrives_of_only {m : SnoopMsg} (hs : a.snoops = [m]) (hgo : a.routeSleeps m.home m.die = false)
    (hback : a.routeSleeps m.die m.home = false) (hl : (a.brick m.die).lost = false) : a.snoopArrives m.home m.die m.line m.inval =
      { (a.landBacks m.line).snoopCores m.line m.inval (fun c => c / 32 == m.die) with snoops := [] } := by
  simp [Arch.snoopArrives, hs, Arch.tripSleeps, hgo, hback, hl]

theorem snoopsTakeTheLine : SnoopsTakeTheLine := by
  intro m s t hs hw hgo hback hl ht c i
  have harch : t = s.setArch (s.arch.snoopArrives m.home m.die m.line m.inval) := (Host.Outcome.next.inj ht).symm
  have hbacks : s.arch.landBacks m.line = s.arch := by simp [Arch.landBacks, hw]
  have hafter : SMap.get StashState.invalid (t.arch.core c).stash i =
      (s.arch.snoopCores m.line m.inval (fun c => c / 32 == m.die)).entryState c i := by
    rw [harch, State.setArch_arch, Arch.snoopArrives_of_only hs hgo hback hl, hbacks]
    rfl
  dsimp only
  rw [hafter, Arch.snoopCores_eq, Arch.entryState_snoopAll]
  refine ⟨fun hc => if_neg fun h => hc (beq_iff_eq.mp h.2.1), fun hc hin hold => if_pos ⟨hin, beq_iff_eq.mpr hc, hold⟩⟩

-- ## Write-backs (R176, R212, R216)

/-- A line that comes home where no packet waits for a signal is written, and nothing more (R176, R288). -/
theorem Arch.mem_lineHome {n : Nat} {bs : List Byte} (hp : a.place (line * 128) = .stack b n) (hl : (a.brick b).lost = false)
    (hu : a.unnamed) : (a.lineHome line bs).mem = Memory.writeBytes a.mem (line * 128) bs := by
  have hw : Arch.unnamed { a with mem := Memory.writeBytes a.mem (line * 128) bs } := hu
  simp only [Arch.lineHome, hp, hl, Bool.false_eq_true, if_false, Arch.mem_touchLine, Arch.mem_cure, Arch.signalsWritten_of_unnamed hw]

theorem Arch.mem_backLands {w : WriteBack} {n : Nat} (hp : a.place w.pa = .stack b n) (hal : w.pa % 128 = 0)
    (hl : (a.brick b).lost = false) (hu : a.unnamed) : (a.backLands w).mem = Memory.writeBytes a.mem w.pa w.data := by
  have hline : w.pa / 128 * 128 = w.pa := Nat.div_mul_cancel (Nat.dvd_of_mod_eq_zero hal)
  have hp' : a.place (w.pa / 128 * 128) = .stack b n := by rw [hline, hp]
  have hm := Arch.mem_lineHome (a := { a with writeBacks := a.writeBacks.filter (fun v => v.id != w.id) }) (bs := w.data) hp' hl hu
  rw [hline] at hm
  exact hm

theorem Arch.writeBacks_backLands (a : Arch) (w : WriteBack) :
    (a.backLands w).writeBacks = a.writeBacks.filter (fun v => v.id != w.id) := (Arch.Beside.lineHome (.refl _)).writeBacks

/-- The only write-back under way, where no port holds it at its die, arrives at its home (R22, R176, R216). -/
theorem Arch.writeBackArrives_of_only {w : WriteBack} {n : Nat} (hw : a.writeBacks = [w]) (hp : a.place w.pa = .stack b n)
    (hway : a.routeSleeps (w.core / 32) b = false ∨ a.homeLost (.stack b n) = true) (hwin : w.win.isSome = true ∨ w.core / 32 = b) :
    a.writeBackArrives w.id = if a.homeLost (.stack b n) then a.backFails w else a.backLands w := by
  have hgo : (a.routeSleeps (w.core / 32) b && !a.homeLost (.stack b n)) = false := by
    rcases hway with h | h <;> simp [h]
  have hsent : (w.win.isNone && b != w.core / 32) = false := by
    rcases hwin with h | h
    · simp [Option.isNone_eq_false_iff.mpr h]
    · simp [h]
  simp [Arch.writeBackArrives, hw, hp, Place.home, hgo, hsent]

-- ## Release notices (R207, R209)

/-- The notice of a die that holds nothing of a region and is granted nothing of it is taken (R207). -/
theorem Arch.releaseStep_taken {region : Nat} (hd : a.dieLines d region = []) (hf : ∀ f ∈ a.fills, f.stage = .sent)
    (hr : a.routeSleeps d b = false) :
    ((a.brick b).region region = .priv d → ((a.releaseStep b d region).brick b).region region = .absent) ∧
    (∀ v, (a.brick b).region region = .shared v → v &&& ~~~dieBit d ≠ 0 →
      ((a.releaseStep b d region).brick b).region region = .shared (v &&& ~~~dieBit d)) := by
  have hgranted : a.fills.any (fun f => f.stage == .granted && f.core / 32 == d && regionOf (lineOf f.pa) == region) = false :=
    List.any_eq_false.mpr fun f h => by simp [hf f h]
  have hgo : (a.routeSleeps d b || !(a.dieLines d region).isEmpty
      || a.fills.any (fun f => f.stage == .granted && f.core / 32 == d && regionOf (lineOf f.pa) == region)) = false := by
    rw [hr, hd, hgranted]
    rfl
  refine ⟨fun hv => ?_, fun v hv hne => ?_⟩
  · simp only [Arch.releaseStep, hgo, Bool.false_eq_true, if_false, Arch.brick_mapBrick, hv, if_true, Brick.region_setRegion]
  · simp only [Arch.releaseStep, hgo, Bool.false_eq_true, if_false, Arch.brick_mapBrick, hv, if_neg hne, Brick.region_setRegion]

-- ## The clauses of traffic

theorem stashTrafficActs : StashTrafficActs := by
  intro b d id region s a
  refine ⟨fun f v hf hg hearly hl hs hm hb hr hw hc he hv hread => ?fill, fun f hf hs hb hl hr => ?directory,
    fun m hs hgo hback hl => ?snoop, fun w n hw hid hp hal hl hr hwin hu => ?arrives, fun w n hw hid hp hl hb hwin => ?fails,
    fun hd hf hr => ?release⟩
  case fill =>
    have hid : f.id = id := by simpa using List.find?_some hf
    have hstep : a.fillStep id = (a.fillReady f).filled f :=
      (Arch.fillStep_lands hf hg hearly hl hs hm hb hr hw hc).trans (Arch.fillLands_eq he hv hread)
    refine ⟨s.setArch ((a.fillReady f).filled f), ?_, fun g hin => ?_, Arch.stash_filled .., Arch.stashLine_filled ..⟩
    · rw [← hstep]
      rfl
    · have hin : g ∈ (a.fillReady f).fills := hin
      rw [Arch.fills_fillReady, List.mem_filter, hid] at hin
      exact bne_iff_ne.mp hin.2
  case directory =>
    intro r e becomes
    -- A directory that answers `m` without recalling anything grants the request, and its record is that of `m`.
    have hgrants : ∀ m v, a.directory b (lineOf f.pa) e f.id f.owner = m → m.fills = a.fills →
        (m.brick b).promoted = (a.brick b).promoted → (m.brick b).region r = v → becomes v := by
      intro m v hm hfills hprom hv
      obtain ⟨hbrick, hgranted⟩ := Arch.grant_leaves hf hm hfills
      have hstep : a.directoryStep b = a.grant b f := Arch.directoryStep_grants hf hs hb hr (by rw [hbrick, hprom])
      refine ⟨s.setArch (a.grant b f), ?_, ?_, hgranted⟩
      · rw [← hstep]
        exact State.next_setArch (if_neg (by rw [hl]; decide))
      · rw [State.setArch_arch, hbrick, hv]
    have hrecords : ∀ v, a.directory b (lineOf f.pa) e f.id f.owner = a.mapBrick b (fun k => k.setRegion r v) → becomes v :=
      fun v h => hgrants _ v h rfl (by rw [Arch.brick_mapBrick]; rfl) (by rw [Arch.brick_mapBrick, Brick.region_setRegion])
    exact ⟨fun hv => hrecords _ (Arch.directory_absent hv), fun hv => hgrants a _ (Arch.directory_own hv) rfl rfl hv,
      fun v hv ho => hrecords _ (by rw [ho]; exact Arch.directory_shared hv)⟩
  case snoop =>
    refine ⟨s.setArch (a.snoopArrives m.home m.die m.line m.inval), rfl, ?_⟩
    rw [State.setArch_arch, Arch.snoopArrives_of_only hs hgo hback hl]
  case arrives =>
    have hhome : a.homeLost (.stack b n) = false := by simp [Arch.homeLost, Place.home, hl]
    refine ⟨s.setArch (a.backLands w), ?_, ?_, Arch.mem_backLands hp hal hl hu⟩
    · refine State.next_setArch (?_ : a.writeBackArrives id = _)
      rw [← hid, Arch.writeBackArrives_of_only hw hp (.inl hr) hwin, hhome]
      rfl
    · rw [State.setArch_arch, Arch.writeBacks_backLands, hw]
      simp
  case fails =>
    have hhome : a.homeLost (.stack b n) = true := by simp [Arch.homeLost, Place.home, hl, hb]
    refine State.next_setArch (?_ : a.writeBackArrives id = _)
    rw [← hid, Arch.writeBackArrives_of_only hw hp (.inr hhome) hwin, hhome]
    rfl
  case release =>
    obtain ⟨hpriv, hshared⟩ := Arch.releaseStep_taken hd hf hr
    exact ⟨fun hv => ⟨_, rfl, hpriv hv⟩, fun v hv hne => ⟨_, rfl, hshared v hv hne⟩⟩

-- ## Slice controls (R189, R193, R194)

section
variable {α : Type} [DecidableEq α] {z : α} {k : Nat}

/-- What a map reads as once every value of it has been changed, where the default stays. -/
theorem SMap.get_mapv {f : α → α} (hf : f z = z) {m : SMap α} (h : SMap.wf z m = true) :
    SMap.get z (SMap.mapv z m f) k = f (SMap.get z m k) := by
  induction m with
  | nil => exact hf.symm
  | cons e m ih =>
    obtain ⟨j, x⟩ := e
    simp only [SMap.wf, Bool.and_eq_true] at h
    obtain ⟨⟨habove, -⟩, hwf⟩ := h
    have ih : SMap.get z (SMap.mapv z m f) k = f (SMap.get z m k) := ih hwf
    unfold SMap.mapv at ih ⊢
    rw [List.map_cons, List.filter_cons, SMap.get]
    dsimp only
    by_cases hx : f x = z
    · rw [if_neg (by simp [hx]), ih]
      by_cases hj : j = k
      · rw [if_pos hj, hx, SMap.get_of_above z m k (hj ▸ habove), hf]
      · rw [if_neg hj]
    · rw [if_pos (by simp [hx]), SMap.get, ih, apply_ite f]

/-- What is gathered over a map of which one key gives anything is what that key gives. -/
theorem SMap.flatMap_eq_of_key {β : Type} {g : Nat × α → List β} {f : α → List β} (hz : f z = []) {m : SMap α}
    (h : SMap.wf z m = true) (hg : ∀ e ∈ m, g e = if e.1 = k then f e.2 else []) : m.flatMap g = f (SMap.get z m k) := by
  induction m with
  | nil => exact hz.symm
  | cons e m ih =>
    obtain ⟨j, x⟩ := e
    simp only [SMap.wf, Bool.and_eq_true] at h
    obtain ⟨⟨habove, -⟩, hwf⟩ := h
    have ih : m.flatMap g = f (SMap.get z m k) := ih hwf fun e he => hg e (List.mem_cons_of_mem _ he)
    rw [List.flatMap_cons, ih, hg _ List.mem_cons_self, SMap.get]
    dsimp only
    by_cases hj : j = k
    · rw [if_pos hj, if_pos hj, SMap.get_of_above z m k (hj ▸ habove), hz, List.append_nil]
    · rw [if_neg hj, if_neg hj, List.nil_append]

end

/-- What of a Brick decides which of its lines are poisoned (R215, R216). -/
def Brick.spoil (k : Brick) : Bool × SMap Bool × SMap Bool × SMap Bool := (k.lost, k.poison, k.poisonRegion, k.cured)

theorem Arch.poisoned_congr {m : Arch} (hm : m.modnum = a.modnum) (h : ∀ k, (m.brick k).spoil = (a.brick k).spoil) (line : Nat) :
    m.poisoned line = a.poisoned line := by
  have hp : m.place (line * 128) = a.place (line * 128) := by rw [Arch.place, Arch.place, hm]
  simp only [Brick.spoil, Prod.mk.injEq] at h
  rw [Arch.poisoned, Arch.poisoned, hp]
  split
  · next b n hb => obtain ⟨hl, hpo, hre, hcu⟩ := h b; simp only [hl, hpo, hre, hcu]
  · next c n hc => exact (h (c / 32)).1
  · rfl

/-- The bookkeeping of a line changes neither the accumulators of a Brick nor which of its lines are poisoned. -/
theorem Arch.brick_touchLine (a : Arch) (write : Bool) (line k : Nat) :
    ((a.touchLine write line).brick k).spoil = (a.brick k).spoil ∧ ((a.touchLine write line).brick k).dets = (a.brick k).dets := by
  unfold Arch.touchLine
  split
  · next b n hb =>
    by_cases hk : k = b
    · subst hk
      dsimp only
      rw [Arch.brick_mapBrick]
      exact ⟨rfl, rfl⟩
    · dsimp only
      rw [Arch.brick_mapBrick_other _ _ hk]
      exact ⟨rfl, rfl⟩
  · exact ⟨rfl, rfl⟩

/-- A module as another, but for memory and a slice's bookkeeping. -/
structure Arch.Sweeps (a m : Arch) : Prop where
  modnum : m.modnum = a.modnum
  queues : m.queues = a.queues
  spoil : ∀ k, (m.brick k).spoil = (a.brick k).spoil
  dets : ∀ k, (m.brick k).dets = (a.brick k).dets

theorem Arch.Sweeps.trans {m n : Arch} (h : a.Sweeps m) (h' : m.Sweeps n) : a.Sweeps n where
  modnum := h'.modnum.trans h.modnum
  queues := h'.queues.trans h.queues
  spoil k := (h'.spoil k).trans (h.spoil k)
  dets k := (h'.dets k).trans (h.dets k)

theorem Arch.modnum_touchLine (a : Arch) (write : Bool) (line : Nat) : (a.touchLine write line).modnum = a.modnum := by
  unfold Arch.touchLine
  split <;> rfl

theorem Arch.touchLine_sweeps (a : Arch) (write : Bool) (line : Nat) : a.Sweeps (a.touchLine write line) where
  modnum := a.modnum_touchLine write line
  queues := Arch.queues_touchLine write
  spoil k := (a.brick_touchLine write line k).1
  dets k := (a.brick_touchLine write line k).2

/-- An accumulator of a line that is not poisoned retires with its rounded value (R194). -/
theorem Arch.retireOne_writes {e : DetAcc} (h : a.poisoned (lineOf e.pa) = false) :
    (a.retireOne e).mem = Memory.write a.mem e.pa 4 e.value ∧ a.Sweeps (a.retireOne e) := by
  let m := a.touchLine false (lineOf e.pa)
  have hone : a.retireOne e = Arch.touchLine { m with mem := Memory.write m.mem e.pa 4 e.value } true (lineOf e.pa) :=
    if_neg (by rw [h]; decide)
  have hm : a.Sweeps m := a.touchLine_sweeps false _
  have hw : m.Sweeps { m with mem := Memory.write m.mem e.pa 4 e.value } := ⟨rfl, rfl, fun _ => rfl, fun _ => rfl⟩
  rw [hone]
  exact ⟨by rw [Arch.mem_touchLine]; simp only [m, Arch.mem_touchLine], (hm.trans hw).trans (Arch.touchLine_sweeps _ _ _)⟩

theorem Arch.foldl_retireOne_writes {es : List DetAcc} (h : ∀ e ∈ es, a.poisoned (lineOf e.pa) = false) :
    (es.foldl Arch.retireOne a).mem = es.foldl (fun m e => Memory.write m e.pa 4 e.value) a.mem ∧
      a.Sweeps (es.foldl Arch.retireOne a) := by
  induction es generalizing a with
  | nil => exact ⟨rfl, rfl, rfl, fun _ => rfl, fun _ => rfl⟩
  | cons e es ih =>
    obtain ⟨hmem, hs⟩ := Arch.retireOne_writes (h e List.mem_cons_self)
    obtain ⟨hmem', hs'⟩ := ih (a := a.retireOne e) fun x hx => by
      rw [Arch.poisoned_congr hs.modnum hs.spoil]
      exact h x (List.mem_cons_of_mem _ hx)
    exact ⟨by rw [List.foldl_cons, List.foldl_cons, hmem', hmem], hs.trans hs'⟩

/-- An accumulator's word is homed on Brick `b`. -/
def Arch.slicesAt (a : Arch) (b : Nat) (e : DetAcc) : Bool := match a.place e.pa with | .stack b' _ => b' == b | _ => false

/-- Where no packet waits for a signal, a Brick retires the accumulators that are homed on it (R194, R288). -/
theorem Arch.retire_of_unnamed (hu : a.unnamed) (b : Nat) : a.retire b = a.retireAll (a.slicesAt b) := by
  have hns : (a.brick b).dets.flatMap (fun e => a.signalsAt e.pa 4) = [] := by simp [Arch.signalsAt_of_unnamed hu]
  rw [Arch.retire, hns]
  refine congrArg a.retireAll (funext fun e => ?_)
  exact Bool.or_false _

/-- The accumulators homed on a Brick are those that stand in its slice, where each stands in the slice of its word (R193). -/
theorem Arch.dets_slicesAt (hwf : SMap.wf Brick.reset a.bricks = true)
    (hin : ∀ e ∈ a.bricks, ∀ x ∈ e.2.dets, ∃ n, a.place x.pa = .stack e.1 n) (b : Nat) :
    a.bricks.flatMap (fun e => e.2.dets.filter (a.slicesAt b)) = (a.brick b).dets := by
  refine SMap.flatMap_eq_of_key (f := Brick.dets) rfl hwf fun e he => ?_
  have hhome : ∀ x ∈ e.2.dets, a.slicesAt b x = (e.1 == b) := fun x hx => by
    obtain ⟨n, hn⟩ := hin e he x hx
    rw [Arch.slicesAt, hn]
  rw [List.filter_congr hhome]
  by_cases hb : e.1 = b
  · simp [hb]
  · simp [hb]

/-- A Brick without the accumulators that are selected. -/
def Brick.dropDets (p : DetAcc → Bool) (k : Brick) : Brick := { k with dets := k.dets.filter (fun e => !p e) }

/-- The module once the accumulators selected are free again. -/
def Arch.freeDets (a : Arch) (p : DetAcc → Bool) : Arch := { a with bricks := SMap.mapv Brick.reset a.bricks (Brick.dropDets p) }

theorem Arch.brick_freeDets (hwf : SMap.wf Brick.reset a.bricks = true) (p : DetAcc → Bool) (k : Nat) :
    (a.freeDets p).brick k = (a.brick k).dropDets p := SMap.get_mapv rfl hwf

theorem Arch.retireAll_of_dets {p : DetAcc → Bool} {ds : List DetAcc} (hds : a.bricks.flatMap (fun e => e.2.dets.filter p) = ds)
    (hne : ds ≠ []) : a.retireAll p =
      (ds.foldl Arch.retireOne (a.freeDets p)).noteAll (ds.filter fun e => !(a.freeDets p).poisoned (lineOf e.pa)) := by
  subst hds
  exact if_neg (by rwa [List.isEmpty_iff])

/-- A Brick whose accumulators are the ones selected, of lines that are not poisoned, is free of them, and their values are
written (R194). -/
theorem Arch.retireAll_writes {p : DetAcc → Bool} (hu : a.unnamed) (hwf : SMap.wf Brick.reset a.bricks = true)
    (hp : ∀ e ∈ (a.brick b).dets, a.poisoned (lineOf e.pa) = false)
    (hds : a.bricks.flatMap (fun e => e.2.dets.filter p) = (a.brick b).dets) :
    ((a.retireAll p).brick b).dets = [] ∧
      (a.retireAll p).mem = (a.brick b).dets.foldl (fun m e => Memory.write m e.pa 4 e.value) a.mem := by
  by_cases hempty : (a.brick b).dets = []
  · have hall : a.retireAll p = a := if_pos (by rw [hds, hempty]; rfl)
    rw [hall, hempty]
    exact ⟨rfl, rfl⟩
  · have hpois : ∀ l, (a.freeDets p).poisoned l = a.poisoned l := Arch.poisoned_congr rfl fun k => by
      rw [Arch.brick_freeDets hwf]
      rfl
    have hgone : ((a.freeDets p).brick b).dets = [] := by
      rw [Arch.brick_freeDets hwf, Brick.dropDets, ← hds]
      refine List.filter_eq_nil_iff.mpr fun e he => ?_
      obtain ⟨x, -, hx⟩ := List.mem_flatMap.mp he
      simp [(List.mem_filter.mp hx).2]
    obtain ⟨hmem, hs⟩ := Arch.foldl_retireOne_writes (a := a.freeDets p) fun e he => (hpois _).trans (hp e he)
    have hu' : Arch.unnamed ((a.brick b).dets.foldl Arch.retireOne (a.freeDets p)) := by
      rw [Arch.unnamed, hs.queues]
      exact hu
    rw [Arch.retireAll_of_dets hds hempty, Arch.noteAll_of_unnamed hu']
    exact ⟨(hs.dets b).trans hgone, hmem⟩

theorem sliceControls : SliceControls := by
  refine fun b s => ⟨rfl, fun hp hu hwf hin => ?_⟩
  obtain ⟨hdets, hmem⟩ := Arch.retireAll_writes hu hwf hp (Arch.dets_slicesAt hwf hin b)
  rw [← Arch.retire_of_unnamed hu] at hdets hmem
  exact ⟨s.setArch (s.arch.retire b), rfl, hdets, hmem⟩

end Sys2Proof.Machine

open Sys2Proof Sys2Proof.Machine in
/-- Settles O33: each row of coherence finds its message and does what R207 to R212 say of it; a line that comes home changes memory, its
slice and the evaluations noted (`Arch.Beside`), so what the entries and fills hold is read off the row itself. -/
theorem coherenceActs : Obligations.CoherenceActs := ⟨stashTrafficActs, snoopsTakeTheLine, sliceControls⟩

end
section
/-! The X slot (O23; R122, R123, R129, R187, R192, R416 to R420): what posted events leave of the context, the fields of a register, the
register form of BX, and the lanes of each transform. -/

namespace Sys2Proof.Machine

-- ## Events posted before a result (R133)

section
variable {s t : State}

/-- A context with other registers of its event ring. -/
def Context.withRing (t : Context) (r : RingRegs) : Context := { t with ring := r }

/-- Posting an event changes nothing of a context but its event ring. -/
theorem Arch.ctx_post (a : Arch) (c : Nat) (e : Event) (d y : Nat) : ∃ r, (a.post c e).ctx d y = (a.ctx d y).withRing r := by
  unfold Arch.post
  split
  · exact ⟨(a.ctx d y).ring, Arch.ctx_mapCore_of_ctxs fun _ => rfl⟩
  · by_cases h : d = c ∧ y = e.ctx
    · obtain ⟨rfl, rfl⟩ := h
      exact ⟨_, Arch.ctx_mapCtx ..⟩
    · exact ⟨(a.ctx d y).ring, Arch.ctx_mapCtx_other _ _ (by tauto)⟩

/-- `t` is `s` after events that its bundle has posted. -/
structure State.Posted (s t : State) : Prop where
  iss : t.iss = s.iss
  mem : t.arch.mem = s.arch.mem
  cur : ∃ r, t.cur = s.cur.withRing r

theorem State.Posted.refl (s : State) : s.Posted s := ⟨rfl, rfl, s.cur.ring, rfl⟩

theorem State.Posted.postEvent (h : s.Posted t) (code info : Nat) : s.Posted (t.postEvent code info) := by
  obtain ⟨hiss, hmem, r, hcur⟩ := h
  obtain ⟨r', hpost⟩ : ∃ r', (t.postEvent code info).cur = t.cur.withRing r' := Arch.ctx_post ..
  exact ⟨hiss, (Arch.mem_post ..).trans hmem, r', by rw [hpost, hcur]; rfl⟩

theorem State.Posted.foldl {α : Type} (h : s.Posted t) (code info : α → Nat) (l : List α) :
    s.Posted (l.foldl (fun u e => u.postEvent (code e) (info e)) t) := by
  induction l generalizing t with
  | nil => exact h
  | cons e l ih => exact ih (h.postEvent _ _)

theorem State.Posted.physV (h : s.Posted t) (d : Nat) : t.rd.physV d = s.rd.physV d := by
  obtain ⟨hiss, -, r, hcur⟩ := h
  cases hp : s.iss.pre with
  | none =>
    have hrd {u : State} (hu : u.iss = s.iss) : u.rd = u.cur := by rw [State.rd, State.view, State.cur, hu, hp, Option.getD_none]
    rw [hrd hiss, hrd rfl, hcur]
    rfl
  | some a => simp only [State.rd, State.view, hiss, hp, Option.getD_some]

/-- After its events a slot still issues the one result it computed (R58, R59). -/
theorem State.Posted.landFull (h : s.Posted t) (d x lat : Nat) :
    (t.landFull d x lat).iss = s.iss ∧ (t.landFull d x lat).arch.mem = s.arch.mem ∧ (t.landFull d x lat).cur.inflight =
      s.cur.inflight ++ [⟨.v, s.rd.physV d, full4096, BitVec.ofNat 4096 x, 0, s.cur.time + lat, s.cur.ord, 0, 0, false⟩] := by
  have hland : (t.landFull d x lat).cur.inflight =
      t.cur.inflight ++ [⟨.v, t.rd.physV d, full4096, BitVec.ofNat 4096 x, 0, t.cur.time + lat, t.cur.ord, 0, 0, false⟩] :=
    congrArg Context.inflight (State.upd_cur ..)
  rw [hland, h.physV]
  obtain ⟨hiss, hmem, r, hcur⟩ := h
  exact ⟨hiss, hmem, by rw [hcur]; rfl⟩

end

-- ## Fields of a register

section
variable {lo hi n k w : Nat}

/-- A field of the low bits of a number is a field of the number. -/
theorem field_of_low_bits (x : Nat) (h : k + w ≤ n) : x % 2 ^ n / 2 ^ k % 2 ^ w = x / 2 ^ k % 2 ^ w := by
  refine Nat.eq_of_testBit_eq fun i => ?_
  simp only [Nat.testBit_mod_two_pow, Nat.testBit_div_two_pow]
  by_cases hi : i < w
  · simp [show i + k < n by omega]
  · simp [hi]

theorem field_below (hlo : lo < 2 ^ n) (h : k + w ≤ n) : (lo + 2 ^ n * hi) / 2 ^ k % 2 ^ w = lo / 2 ^ k % 2 ^ w := by
  rw [← field_of_low_bits _ h, Nat.add_mul_mod_self_left, Nat.mod_eq_of_lt hlo]

theorem field_above (hlo : lo < 2 ^ n) : (lo + 2 ^ n * hi) / 2 ^ (n + k) = hi / 2 ^ k := by
  rw [pow_add, ← Nat.div_div_eq_div_mul, Nat.add_mul_div_left _ _ (by positivity), Nat.div_eq_of_lt hlo, Nat.zero_add]

theorem ofLanes_lt (w : Nat) (xs : List Nat) : ofLanes w xs < 2 ^ (w * xs.length) := by
  induction xs with
  | nil => simp [ofLanes]
  | cons x xs ih =>
    have hlow : x % 2 ^ w < 2 ^ w := Nat.mod_lt _ (by positivity)
    rw [ofLanes, List.length_cons, Nat.mul_succ, Nat.add_comm (w * _), pow_add]
    calc x % 2 ^ w + 2 ^ w * ofLanes w xs < 2 ^ w * (ofLanes w xs + 1) := by rw [Nat.mul_succ]; omega
      _ ≤ 2 ^ w * 2 ^ (w * xs.length) := Nat.mul_le_mul_left _ ih

/-- A field of a register is that field of its number. -/
theorem extractLsb'_ofNat (x : Nat) (h : k + w ≤ n) : (BitVec.ofNat n x).extractLsb' k w = BitVec.ofNat w (x / 2 ^ k) :=
  BitVec.eq_of_toNat_eq (by
    rw [BitVec.extractLsb'_toNat, BitVec.toNat_ofNat, BitVec.toNat_ofNat, Nat.shiftRight_eq_div_pow, field_of_low_bits x h])

theorem ofNat_mod_two_pow (x : Nat) : BitVec.ofNat w (x % 2 ^ w) = BitVec.ofNat w x :=
  BitVec.eq_of_toNat_eq (by rw [BitVec.toNat_ofNat, BitVec.toNat_ofNat, Nat.mod_mod])

theorem ofNat_wrap (z : Int) : BitVec.ofNat w (wrap z w) = BitVec.ofInt w z := by rw [wrap_eq, ofNat_toNat_self]

theorem toNat_fieldAt (r : VReg) (w i : Nat) : (fieldAt r w i).toNat = r.toNat / 2 ^ (w * i) % 2 ^ w := by
  rw [fieldAt, BitVec.extractLsb'_toNat, Nat.shiftRight_eq_div_pow]

end

-- ## Transposition (R420)

/-- Element `j` of column `i` of the transpose is element `i` of row `j`. -/
theorem fieldAt_transpose8 {w i j : Nat} (r : VReg) (hi : i < 512 / w) (hj : j < 8) :
    fieldAt (BitVec.ofNat 4096 (transpose8 w r.toNat)) w (i * 8 + j) = fieldAt r w (j * (512 / w) + i) := by
  have hc : 4096 / w / 8 = 512 / w := by rw [Nat.div_right_comm]
  have hin : i * 8 + j < 8 * (512 / w) := by omega
  have hfit : w * (i * 8 + j) + w ≤ 4096 := by
    have hmul : w * (512 / w) ≤ 512 := Nat.mul_div_le 512 w
    have hle : w * (i * 8 + j + 1) ≤ w * (8 * (512 / w)) := Nat.mul_le_mul_left w hin
    rw [Nat.mul_succ, Nat.mul_left_comm] at hle
    omega
  have hcol : (i * 8 + j) % 8 = j := by omega
  have hrow : (i * 8 + j) / 8 = i := by omega
  refine BitVec.eq_of_toNat_eq ?_
  rw [fieldAt, extractLsb'_ofNat _ hfit, BitVec.toNat_ofNat, transpose8, hc, ofLanes_div_mod, upTo, getD_map_range _ _ hin, hcol, hrow,
    Nat.mod_mod, toNat_fieldAt]

-- ## Conversions (R418)

theorem fpType_eq (n : Nat) : fpType n = [VType.f32, .bf16, .f16].getD n .f16 := by
  match n with
  | 0 | 1 | 2 | _ + 3 => rfl

theorem fpFmt_eq (n : Nat) : fpFmt n = fmtOf (fpType n) := by
  unfold fpFmt fpType
  split <;> rfl

/-- A lane that the source has is converted, and one past its last is 0. -/
theorem laneAt_xcvt (s : State) {st dt : VType} {src dst i : Nat} (hs : fpType src = st) (hd : fpType dst = dt) (rm a : Nat)
    (hi : i < dt.lanes) :
    laneAt dt (BitVec.ofNat 4096 (packLanes (fpType dst) (xcvtLanes src dst rm (s.lanesA (fpType src) a)))) i =
      if i < st.lanes then dt.rounded rm (st.flt (s.laneV st a i)) else 0 := by
  subst hs hd
  rw [laneAt_packLanes _ hi, xcvtLanes, fpFmt_eq, fpFmt_eq, State.lanesA_eq, List.getD_eq_getElem?_getD, List.getElem?_map,
    List.getElem?_take_of_lt hi, List.getElem?_map]
  by_cases h : i < (fpType src).lanes
  · rw [List.getElem?_range h, if_pos h]
    rfl
  · rw [List.getElem?_eq_none (by simpa using h), if_neg h]
    rfl

-- ## The register form of BX (R122)

/-- Field `i` of block `b`, where each block is 32 fields wide. -/
theorem ofLanes_blocks (w b : Nat) {i : Nat} (xss : List (List Nat)) (hi : i < 32) :
    ofLanes (32 * w) (xss.map (ofLanes w)) / 2 ^ (w * (32 * b + i)) % 2 ^ w = (xss.getD b []).getD i 0 % 2 ^ w := by
  have hplace : w * (32 * b + i) = 32 * w * b + w * i := by ring
  have hblock : w * i + w ≤ 32 * w := by rw [← Nat.mul_succ, Nat.mul_comm 32]; exact Nat.mul_le_mul_left w hi
  have hget : (xss.map (ofLanes w)).getD b 0 = ofLanes w (xss.getD b []) := List.getD_map xss [] (ofLanes w)
  rw [hplace, pow_add, ← Nat.div_div_eq_div_mul, ← field_of_low_bits _ hblock, ofLanes_div_mod, hget, field_of_low_bits _ hblock,
    ofLanes_div_mod]

section
variable {w b i : Nat} {bs : List (Nat × List Int)}

theorem regForm_mantissas_lt {k : Nat} (hfit : 32 * w * bs.length ≤ k) :
    ofLanes (32 * w) (bs.map fun b => ofLanes w (b.2.map fun m => wrap m w)) < 2 ^ k := by
  have h := ofLanes_lt (32 * w) (bs.map fun b => ofLanes w (b.2.map fun m => wrap m w))
  rw [List.length_map] at h
  exact h.trans_le (Nat.pow_le_pow_right (by decide) hfit)

/-- Mantissa `i` of block `b` of a register form. -/
theorem fieldAt_regForm (hfit : 32 * w * bs.length ≤ 4032) (hb : b < bs.length) (hi : i < 32) :
    fieldAt (BitVec.ofNat 4096 (regForm w bs)) w (32 * b + i) = BitVec.ofInt w ((bs.getD b (0, [])).2.getD i 0) := by
  have hin : w * (32 * b + i) + w ≤ 4032 := by
    have hle : w * (32 * b + i + 1) ≤ w * (32 * bs.length) := Nat.mul_le_mul_left w (by omega)
    rw [Nat.mul_succ, Nat.mul_left_comm, ← Nat.mul_assoc] at hle
    exact hle.trans hfit
  have hblocks : (bs.map fun b => ofLanes w (b.2.map fun m => wrap m w)) = (bs.map fun b => b.2.map fun m => wrap m w).map (ofLanes w) := by
    rw [List.map_map]
    rfl
  have hblock : (bs.map fun b => b.2.map fun m => wrap m w).getD b [] = (bs.getD b (0, [])).2.map fun m => wrap m w :=
    List.getD_map bs (0, []) fun b : Nat × List Int => b.2.map fun m => wrap m w
  have hzero : wrap 0 w = 0 := by rw [wrap, Int.zero_emod]; rfl
  have hmant (ms : List Int) : (ms.map fun m => wrap m w).getD i 0 = wrap (ms.getD i 0) w := by
    rw [← List.getD_map ms 0 fun m => wrap m w, hzero]
  rw [fieldAt, extractLsb'_ofNat _ (by omega), ← ofNat_mod_two_pow, regForm, field_below (regForm_mantissas_lt hfit) hin, hblocks,
    ofLanes_blocks w b _ hi, hblock, hmant, ofNat_mod_two_pow, ofNat_wrap]

/-- Exponent of block `b` of a register form. -/
theorem exponent_regForm (hfit : 32 * w * bs.length ≤ 4032) (hb : b < 8) :
    ((BitVec.ofNat 4096 (regForm w bs)).extractLsb' (4032 + 8 * b) 8).toNat = (bs.map Prod.fst).getD b 0 % 2 ^ 8 := by
  have hlo := regForm_mantissas_lt hfit
  rw [extractLsb'_ofNat _ (by omega), BitVec.toNat_ofNat, regForm, field_above hlo, ofLanes_div_mod]

end

-- ## Quantizing (R123)

theorem quantizeBX_exponent_lt (w : Nat) (xs : List FVal) : (quantizeBX w xs).1 < 2 ^ 8 := by
  unfold quantizeBX
  dsimp only
  split
  · next E h =>
    have hE : E < 255 := List.mem_range.mp (List.mem_of_find?_eq_some h)
    dsimp only
    omega
  · exact (by decide : 254 < 2 ^ 8)

theorem blocksOf_eq (xs : List Nat) (n : Nat) : blocksOf xs n = groupsOfLanes 32 xs n := by
  induction n generalizing xs with
  | zero => rfl
  | succ n ih => rw [blocksOf, groupsOfLanes, ih]

/-- Block `b` of lanes of register `a`, quantized. -/
def State.quantized (s : State) (st : VType) (a w b : Nat) : Nat × List Int × Bool × Bool :=
  quantizeBX w ((List.range 32).map fun i => st.flt (s.laneV st a (32 * b + i)))

/-- The blocks of 32 lanes of a register. -/
theorem map_blocksOf (s : State) {st : VType} {src : Nat} (hs : fpType src = st) (a w : Nat) :
    (blocksOf (s.lanesA st a) (st.lanes / 32)).map (fun b => quantizeBX w (b.map (fpFmt src).unpack)) =
      (List.range (st.lanes / 32)).map (s.quantized st a w) := by
  subst hs
  have hlanes : (fpType src).lanes = 32 * ((fpType src).lanes / 32) := by unfold fpType; split <;> rfl
  rw [blocksOf_eq, State.lanesA_eq, fpFmt_eq]
  generalize (fpType src).lanes / 32 = n at hlanes
  rw [hlanes, groupsOfLanes_eq, List.map_map]
  refine List.map_congr_left fun b _ => ?_
  rw [Function.comp_apply, List.map_map]
  rfl

/-- The blocks that XQNT packs into the register form. -/
def State.quantizedBlocks (s : State) (st : VType) (a w : Nat) : List (Nat × List Int) :=
  (List.range (st.lanes / 32)).map fun b => ((s.quantized st a w b).1, (s.quantized st a w b).2.1)

/-- XQNT posts the events of its blocks and lands their register form. -/
theorem xqnt_lands (s : State) {st : VType} {src : Nat} (hs : fpType src = st) (d a w : Nat) :
    ∃ t, s.Posted t ∧ s.xqnt d a w src = t.landFull d (regForm (w + 2) (s.quantizedBlocks st a (w + 2))) 8 := by
  have hlen : (s.lanesA st a).length = st.lanes := by rw [State.lanesA_eq, List.length_map, List.length_range]
  refine ⟨_, (State.Posted.refl s).foldl Prod.fst Prod.snd (quantEvents a ((List.range (st.lanes / 32)).map (s.quantized st a (w + 2)))), ?_⟩
  rw [State.xqnt, hs, hlen, map_blocksOf s hs, List.map_map]
  rfl

theorem xqnt_completes {p w src : Nat} {s : State} {st : VType} (h : Runs s p) (hw : w < 7) (hs : fpType src = st) (d a : Nat) :
    ∃ (t : State) (v : VReg), exec (.xqnt p d a w src) s = .next t.slotDone ∧
      (t.iss = s.iss ∧ t.arch.mem = s.arch.mem ∧ t.cur.inflight =
        s.cur.inflight ++ [⟨.v, s.rd.physV d, full4096, v, 0, s.cur.time + 8, s.cur.ord, 0, 0, false⟩]) ∧
      ∀ b, b < st.lanes / 32 → (v.extractLsb' (4032 + 8 * b) 8).toNat = (s.quantized st a (w + 2) b).1 ∧
        ∀ i, i < 32 → fieldAt v (w + 2) (32 * b + i) = BitVec.ofInt (w + 2) ((s.quantized st a (w + 2) b).2.1.getD i 0) := by
  obtain ⟨t, hpost, hland⟩ := xqnt_lands s hs d a w
  have hblocks : st.lanes / 32 ≤ 8 := by subst hs; unfold fpType; split <;> decide
  have hlen : (s.quantizedBlocks st a (w + 2)).length = st.lanes / 32 := by rw [State.quantizedBlocks, List.length_map, List.length_range]
  have hfit : 32 * (w + 2) * (s.quantizedBlocks st a (w + 2)).length ≤ 4032 := by
    calc 32 * (w + 2) * (s.quantizedBlocks st a (w + 2)).length ≤ 32 * 8 * 8 := Nat.mul_le_mul (by omega) (hlen ▸ hblocks)
      _ ≤ 4032 := by decide
  refine ⟨_, _, congrArg _ (finish_whenOn_of_runs h), hland ▸ hpost.landFull d _ 8, fun b hb => ⟨?exponent, fun i hi => ?mantissa⟩⟩
  case exponent =>
    rw [exponent_regForm hfit (by omega), State.quantizedBlocks, List.map_map, getD_map_range _ _ hb]
    exact Nat.mod_eq_of_lt (quantizeBX_exponent_lt ..)
  case mantissa => rw [fieldAt_regForm hfit (hlen ▸ hb) hi, State.quantizedBlocks, getD_map_range _ _ hb]

-- ## Dequantizing (R122)

theorem sext_mod (x w : Nat) : sext (x % 2 ^ w) w = sext x w := by rw [sext, sext, Nat.mod_mod]

theorem regExp_eq (r : VReg) (b : Nat) : regExp r.toNat b = (r.extractLsb' (4032 + 8 * b) 8).toNat := by
  rw [regExp, bits, BitVec.extractLsb'_toNat, Nat.shiftRight_eq_div_pow, show 4039 + 8 * b + 1 - (4032 + 8 * b) = 8 by omega]

theorem regMant_eq {w : Nat} (r : VReg) (hw : 0 < w) (i : Nat) : regMant w r.toNat (i / 32) (i % 32) = (fieldAt r w i).toInt := by
  have hplace : 32 * w * (i / 32) + w * (i % 32) = w * i := by
    rw [Nat.mul_comm 32, Nat.mul_assoc, ← Nat.mul_add, Nat.div_add_mod]
  rw [regMant, hplace, ← sext_mod, ← toNat_fieldAt, sext_toNat _ hw]

theorem laneAt_xdqn {dt : VType} {w dst i : Nat} (r : VReg) (rm : Nat) (hw : 0 < w) (hd : fpType dst = dt) (hi : i < dt.lanes) :
    laneAt dt (BitVec.ofNat 4096 (xdqn w dst rm r.toNat)) i =
      dt.rounded rm (bxValue w (r.extractLsb' (4032 + 8 * (i / 32)) 8).toNat (fieldAt r w i).toInt) := by
  subst hd
  rw [xdqn, upTo, laneAt_packLanes_map _ hi, regExp_eq, regMant_eq r hw, fpFmt_eq]
  rfl

-- ## Accumulators read as lanes (R129, R416)

/-- An accumulator converted to a lane: a float, an infinity giving the largest finite value, or a saturated integer. -/
def laneOfAcc (t : VType) (rm : Nat) (acc X : Int) : BitVec t.width :=
  if t.isF then BitVec.ofNat t.width (accToFloat (fmtOf t) rm acc X).1
  else BitVec.ofInt t.width (max t.lo (min (roundInt rm (acc < 0) acc.natAbs (-X)) t.hi))

theorem xaccLane_eq {t : VType} (ht : t.isF = true ∨ t.isSigned = true) (rm : Nat) (acc X : Int) :
    BitVec.ofNat t.width (xaccLane t rm acc X).1 = laneOfAcc t rm acc X := by
  by_cases hf : t.isF = true
  · rw [laneOfAcc, if_pos hf]
    cases t <;> cases hf <;> rfl
  · have hs := ht.resolve_left hf
    have hint : xaccLane t rm acc X = accToInt t.width rm acc X := by
      cases t
      case f16 | bf16 | f32 => exact absurd rfl hf
      all_goals rfl
    rw [laneOfAcc, if_neg hf, hint, accToInt, ofNat_wrap, ← hs, minOf_eq_lo, maxOf_eq_hi, sat_eq t.lo_le_hi]

/-- Types that XACC takes (R416). -/
theorem xacc_type {p d i ty rm : Nat} (h : (Instr.xacc p d i ty rm).wf = true) :
    (VType.ofCode ty).isF = true ∨ (VType.ofCode ty).isSigned = true := by
  simp only [Instr.wf, Bool.and_eq_true, Bool.or_eq_true, beq_iff_eq] at h
  obtain ⟨⟨_, hty⟩, _⟩ := h
  rcases hty with ((((rfl | rfl) | rfl) | rfl) | rfl) | rfl <;> decide

/-- Lane `n` of an XACC from row `row` on, rows past the last giving 0. -/
def State.accLane (s : State) (t : VType) (rm row : Nat) (X : Int) (n : Nat) : BitVec t.width :=
  if 2559 < row + n / 64 then 0
  else laneOfAcc t rm (SMap.get (0 : Word) (s.view.core s.iss.core).engine.acc ((row + n / 64) * 64 + n % 64)).toInt X

theorem laneAt_xaccLanes (s : State) {t : VType} {n : Nat} (ht : t.isF = true ∨ t.isSigned = true) (rm row : Nat) (X : Int)
    (hn : n < t.lanes) : laneAt t (BitVec.ofNat 4096 (packLanes t ((s.xaccLanes t rm row X).map fun l => l.2.2.1))) n =
      s.accLane t rm row X n := by
  rw [State.xaccLanes, upTo, List.map_map, laneAt_packLanes_map _ hn, State.accLane, Function.comp_apply]
  split
  · rfl
  · rw [Engine.accAt, sext_toNat _ (by decide), xaccLane_eq ht]

theorem xacc_completes {p d i ty rm : Nat} {s : State} (h : Runs s p) (hwf : (Instr.xacc p d i ty rm).wf = true) :
    ∃ (t : State) (v : VReg), exec (.xacc p d i ty rm) s = .next t.slotDone ∧
      (t.iss = s.iss ∧ t.arch.mem = s.arch.mem ∧ t.cur.inflight =
        s.cur.inflight ++ [⟨.v, s.rd.physV d, full4096, v, 0, s.cur.time + 6, s.cur.ord, 0, 0, false⟩]) ∧
      ∀ n, n < (VType.ofCode ty).lanes → laneAt (VType.ofCode ty) v n =
        s.accLane (VType.ofCode ty) rm ((s.rd.readM i).toNat % 2 ^ 12) ((s.rd.readM i).extractLsb' 32 11).toInt n := by
  refine ⟨_, _, congrArg _ (finish_whenOn_of_runs h), ((State.Posted.refl s).foldl _ _ _).landFull d _ 6, fun n hn => ?_⟩
  rw [laneAt_xaccLanes s (xacc_type hwf) _ _ _ hn, bits_low_eq, ← sext_bits (s.rd.readM i) 42 32 (by decide)]

-- ## The clauses of the X slot

theorem transformsComplete : TransformsComplete := by
  intro p d a s h full
  refine ⟨congrArg _ (finish_whenOn_of_runs h), congrArg _ (finish_whenOn_of_runs h),
    fun e he => ⟨_, congrArg _ (finish_whenOn_of_runs h), ?xtrn⟩,
    fun src dst rm _ _ _ _ => ⟨_, congrArg _ (finish_whenOn_of_runs h), ?xcvt⟩⟩
  case xtrn =>
    intro w c i j hi hj
    have hw : xtrnWidth e = w := by simp only [w]; interval_cases e <;> rfl
    rw [hw]
    exact fieldAt_transpose8 _ hi hj
  case xcvt => exact fun i hi => laneAt_xcvt s (fpType_eq src) (fpType_eq dst) rm a hi

theorem quantizersComplete : QuantizersComplete := by
  intro p d a w s h hw one W
  refine ⟨fun src _ => xqnt_completes h hw (fpType_eq src) d a, fun dst rm _ _ hrm => ?xdqn, fun i ty rm hwf => ?xacc⟩
  case xdqn =>
    refine ⟨_, congrArg _ (finish_whenOn_of_runs h), fun i hi => ?_⟩
    have hmode : (if dst = 0 then 0 else rm) = rm := ite_eq_right_iff.mpr fun h0 => (hrm h0).symm
    rw [hmode]
    exact laneAt_xdqn _ rm (Nat.succ_pos _) (fpType_eq dst) hi
  case xacc => exact xacc_completes h hwf

end Sys2Proof.Machine

open Sys2Proof Sys2Proof.Machine in
/-- Settles O23: a slot of X lands one full register, after the events it posts, and each field of that register is read off the fields
of its source or off the accumulators. -/
theorem transformsAndQuantizers : Obligations.TransformsAndQuantizers := ⟨transformsComplete, quantizersComplete⟩

end

section
/-! Misses are walked and served, and invalidations reach every buffer (O32; R166, R198 to R203, R205; log entries 61 and 82): what each
step of a miss leaves of it, a walk of the only miss in a walker's queue, and the module after an invalidation. -/

namespace Sys2Proof.Machine

variable {a : Arch} {b c : Nat} {m : Miss} {l : Leaf} {w : Walk × Arch}

-- ## Buffered leaves and noted misses (R200, R201)

/-- Nothing of a miss is left, and its access reaches the page at `base` through the core's buffer (R198, R200). -/
def Arch.Served (t : Arch) (c : Nat) (m : Miss) (big : Bool) (base : Nat) : Prop :=
  (∀ n ∈ (t.core c).misses, n.agent ≠ m.agent) ∧
    t.lookup c m.agent m.asid m.va m.read m.write = .phys (base + m.va % 2 ^ (if big then 30 else 21))

/-- A leaf is that of an address's page (R200). -/
def Leaf.covers (l : Leaf) (asid va : Nat) : Bool := l.asid == asid && l.vpn == va / 2 ^ (if l.big then 30 else 21)

/-- A leaf just put into a buffer is the one that its page finds there. -/
theorem findLeaf_keepLeaf {n asid va : Nat} {ls : List Leaf} (h : l.covers asid va = true) :
    findLeaf (keepLeaf (n + 1) ls l) asid va = some l :=
  List.find?_cons_of_pos h

theorem covers_of_findLeaf {asid va : Nat} {ls : List Leaf} (h : findLeaf ls asid va = some l) : l.covers asid va = true :=
  List.find?_some (p := fun k : Leaf => k.covers asid va) h

theorem Leaf.permits_iff : l.permits m = true ↔ (m.read = true → l.rd = true) ∧ (m.write = true → l.wr = true) := by
  simp only [Leaf.permits, Bool.and_eq_true, Bool.or_eq_true, Bool.not_eq_true', ← Bool.not_eq_true, imp_iff_not_or]

/-- A leaf with the permission serves the miss it meets (R198). -/
theorem Arch.served_resolve (h : l.covers m.asid m.va = true) (hr : m.read = true → l.rd = true) (hw : m.write = true → l.wr = true) :
    (a.resolve c m l).Served c m l.big l.base := by
  have hp : l.permits m = true := Leaf.permits_iff.mpr ⟨hr, hw⟩
  have hdenied : (m.read && !l.rd || m.write && !l.wr) = false := by
    simp only [Bool.or_eq_false_iff, Bool.and_eq_false_imp, Bool.not_eq_false']
    exact ⟨hr, hw⟩
  have hcore : (a.resolve c m l).core c =
      { a.core c with tlb := keepLeaf 256 (a.core c).tlb l, misses := (a.core c).misses.filter fun n => n.agent != m.agent } := by
    simp [Arch.resolve, hp, Arch.dropMiss, Arch.bufferCore]
  refine ⟨fun n hn => ?_, ?_⟩
  · rw [hcore] at hn
    simpa using (List.mem_filter.mp hn).2
  · simp only [Arch.lookup, hcore, findLeaf_keepLeaf h, hdenied, Bool.false_eq_true, if_false, Leaf.apply]

theorem Arch.brick_mapMiss (a : Arch) (c : Nat) (ag : Agent) (f : Miss → Miss) : (a.mapMiss c ag f).brick = a.brick := rfl

/-- A miss noted at a core changes as its agent's misses do. -/
theorem Arch.mem_mapMiss {f : Miss → Miss} (h : m ∈ (a.core c).misses) : f m ∈ ((a.mapMiss c m.agent f).core c).misses := by
  simp only [Arch.mapMiss, Arch.core_mapCore]
  exact List.mem_map.mpr ⟨m, h, if_pos rfl⟩

-- ## A miss at its core (R200 to R202)

/-- The first miss at its core moves, if it can. -/
theorem Arch.missStep_of_moves {t : Arch} (h : (a.core c).misses.find? (fun m => m.stage == .core) = some m)
    (ht : a.missMoves c m = some t) : a.missStep c = t := by
  rw [← List.head?_filter] at h
  obtain ⟨ms, hms⟩ := List.head?_eq_some_iff.mp h
  rw [Arch.missStep, hms, List.findSome?_cons_of_isSome (by rw [ht]; rfl), ht, Option.getD_some]

theorem Arch.missMoves_of_leaf (hk : findLeaf (a.core c).tlb m.asid m.va = none)
    (hb : findLeaf (a.brick (c / 32)).stb m.asid m.va = some l) : a.missMoves c m = some (a.resolve c m l) := by
  simp only [Arch.missMoves, hk, hb]

theorem Arch.missMoves_of_room (hk : findLeaf (a.core c).tlb m.asid m.va = none)
    (hb : findLeaf (a.brick (c / 32)).stb m.asid m.va = none) (hr : a.walkRoom (c / 32) m = true) :
    a.missMoves c m = some ((a.mapBrick (c / 32) (fun k => { k with walkq := k.walkq ++ [(c, m.agent)] })).mapMiss c m.agent
      (fun m => { m with stage := .walker })) := by
  simp only [Arch.missMoves, hk, hb, hr, if_true]

/-- A queue's misses take no more places than there are (R202). -/
theorem Arch.walksQueued_le (es : List (Nat × Agent)) (seen : List (Nat × Nat)) : a.walksQueued es seen ≤ es.length + seen.length := by
  induction es generalizing seen with
  | nil => simp [Arch.walksQueued]
  | cons e es ih =>
    unfold Arch.walksQueued
    have h₀ := ih seen
    simp only [List.length_cons]
    split
    · next n _ =>
      have h₁ := ih ((n.asid, n.va / 2 ^ 21) :: seen)
      simp only [List.length_cons] at h₁
      split <;> omega
    · omega

theorem Arch.walkRoom_of (h : (a.brick b).walkq.length < 544 ∨
    ∃ e ∈ (a.brick b).walkq, ∃ n, a.missAt e = some n ∧ n.joins m.asid m.va = true) : a.walkRoom b m = true := by
  rw [Arch.walkRoom, Bool.or_eq_true, List.any_eq_true, decide_eq_true_eq]
  rcases h with h | ⟨e, he, n, hn, hj⟩
  · exact .inr (Nat.lt_of_le_of_lt (a.walksQueued_le _ _) h)
  · exact .inl ⟨e, he, by rw [hn]; exact hj⟩

-- ## The walk of the only miss in a queue (R198, R202)

theorem Arch.missAt_of_walker {ag : Agent} (h : (a.core c).miss ag = some m) (hs : m.stage = .walker) : a.missAt (c, ag) = some m := by
  simp only [Arch.missAt, h, hs, if_true]

theorem Miss.joins_self (m : Miss) : m.joins m.asid m.va = true := by
  simp [Miss.joins]

theorem Arch.joined_single {e : Nat × Agent} (h : a.missAt e = some m) : a.joined [e] m = [e] := by
  simp [Arch.joined, h, m.joins_self]

/-- Where the walk of a miss starts: at the root again, once a service has asked for that (R203), or at the deepest entry kept. -/
def Arch.walkOnset (a : Arch) (b : Nat) (m : Miss) : Nat × Nat :=
  if m.repeated then (4, m.root * 2 ^ 12) else a.walkStart b m.asid m.va (m.root * 2 ^ 12)

theorem Arch.walkOf_single {e : Nat × Agent} (h : a.missAt e = some m) :
    a.walkOf b [e] m = a.walkFrom b m.asid m.va (a.walkOnset b m).1 (a.walkOnset b m).2 := by
  simp [Arch.walkOf, Arch.joined_single h, h, Arch.walkOnset]

theorem Arch.walkOnset_of_no_node (h : (a.brick b).nodeCache = []) : a.walkOnset b m = (4, m.root * 2 ^ 12) := by
  simp [Arch.walkOnset, Arch.walkStart, h]

/-- A walk of one miss does what it finds to that miss, in a module whose cores are as the walk leaves them. -/
theorem Arch.walkEnds_single (h : a.missAt (c, m.agent) = some m) : ∃ t : Arch, t.cores = w.2.cores ∧
    a.walkEnds b [(c, m.agent)] m w = t.walked c m w.1 := by
  simp only [Arch.walkEnds, Arch.joined_single h, List.foldl_cons, List.foldl_nil, h]
  refine ⟨_, ?_, rfl⟩
  (repeat' split) <;> rfl

theorem Arch.walkStep_single (hq : (a.brick b).walkq = [(c, m.agent)]) (h : a.missAt (c, m.agent) = some m) :
    a.walkStep b = if (a.walkOf b [(c, m.agent)] m).1 = .wait then (a.walkOf b [(c, m.agent)] m).2
      else a.walkEnds b [(c, m.agent)] m (a.walkOf b [(c, m.agent)] m) := by
  have hrun : a.walksRun [(c, m.agent)] = [m] := by simp [Arch.walksRun, h]
  simp only [Arch.walkStep, hq, List.filter_cons, h, Option.isSome_some, if_true, List.filter_nil, hrun, List.findSome?_cons,
    List.findSome?_nil]
  by_cases hw : (a.walkOf b [(c, m.agent)] m).1 = .wait <;> simp only [hw, if_true, if_false, Option.getD_some, Option.getD_none]

theorem Arch.core_of_cores {t : Arch} (h : t.cores = a.cores) (c : Nat) : t.core c = a.core c := congrArg (SMap.get Core.reset · c) h

theorem Core.mem_of_miss {k : Core} (h : k.miss m.agent = some m) : m ∈ k.misses := List.mem_of_find?_eq_some h

-- ## The shadow service (R203)

theorem Context.readG_of_lt {t : Context} {n : Nat} (h₀ : n ≠ 0) (h : n < 48) : t.readG n = SMap.get 0 t.g n := by
  simp [Context.readG, Context.physG, h₀, Nat.not_le.mpr h]

/-- A key that is not listed reads as the default. -/
theorem SMap.get_of_not_mem {α : Type} (d : α) {m : SMap α} {k : Nat} (h : k ∉ m.map Prod.fst) : SMap.get d m k = d := by
  induction m with
  | nil => rfl
  | cons e m ih =>
    rw [List.map_cons, List.mem_cons, not_or] at h
    rw [SMap.get, if_neg (Ne.symm h.1), ih h.2]

/-- Where no key is listed twice, entries that are the default may be left out. -/
theorem SMap.get_filter_ne {α : Type} [BEq α] [LawfulBEq α] (d : α) {m : SMap α} (hm : (m.map Prod.fst).Nodup) (k : Nat) :
    SMap.get d (m.filter fun e => e.2 != d) k = SMap.get d m k := by
  induction m with
  | nil => rfl
  | cons e m ih =>
    obtain ⟨hk, hm⟩ := List.nodup_cons.mp hm
    rw [List.filter_cons]
    split
    · rw [SMap.get, SMap.get, ih hm]
    · next he =>
      rw [ih hm, SMap.get]
      split
      · next hek => rw [SMap.get_of_not_mem d (hek ▸ hk), show e.2 = d by simpa using he]
      · rfl

/-- The arguments a service starts with are its registers 1 to 5. -/
theorem serviceContext_readG (m : Miss) : (serviceContext m).readG 1 = BitVec.ofNat 64 m.va ∧ (serviceContext m).readG 2 = m.entry ∧
    (serviceContext m).readG 3 = BitVec.ofNat 64 (m.level + (if m.flagged then 4 else 0) + (if m.write then 8 else 0)
      + (if m.read then 16 else 0)) ∧
    (serviceContext m).readG 4 = BitVec.ofNat 64 m.asid ∧ (serviceContext m).readG 5 = BitVec.ofNat 64 m.entryPa := by
  have hreg : ∀ n, n ≠ 0 → n < 48 → (serviceContext m).readG n = SMap.get 0 [(1, BitVec.ofNat 64 m.va), (2, m.entry),
      (3, BitVec.ofNat 64 (m.level + at_ 2 m.flagged + at_ 3 m.write + at_ 4 m.read)), (4, BitVec.ofNat 64 m.asid),
      (5, BitVec.ofNat 64 m.entryPa)] n := fun n h₀ hn =>
    (Context.readG_of_lt h₀ hn).trans (SMap.get_filter_ne 0 (by simp) n)
  exact ⟨hreg 1 (by decide) (by decide), hreg 2 (by decide) (by decide), hreg 3 (by decide) (by decide), hreg 4 (by decide) (by decide),
    hreg 5 (by decide) (by decide)⟩

theorem Arch.serviceStart_of (h : (a.core c).misses.find? (fun m => m.stage == .shadow) = some m) (hi : (a.ctx c 2).status = .idle)
    (hs : ∀ n ∈ (a.core c).misses, n.stage ≠ .service) :
    a.serviceStart c = (a.mapMiss c m.agent (fun m => { m with stage := .service, since := a.clock })).setCtx c 2 (serviceContext m) := by
  have hany : ((a.core c).misses.any fun m => m.stage == .service) = false := by simpa using hs
  simp only [Arch.serviceStart, hi, hany, h, ne_eq, not_true, decide_false, Bool.or_self, Bool.false_eq_true, if_false]

theorem Arch.misses_setCtx (a : Arch) (c x : Nat) (t : Context) : ((a.setCtx c x t).core c).misses = (a.core c).misses := by
  simp [Arch.setCtx, Core.setCtx]

/-- A service that has run for 100 microseconds declines, unless it has reached its XRET (R203). -/
def Arch.shadowTimeout (a : Arch) (c : Nat) : Arch :=
  match (a.core c).inService with
  | some m => if m.since + 300000 ≤ a.clock ∧ ((a.ctx c 2).wait.map Wait.kind) ≠ some .xret then a.declineService c else a
  | none => a

theorem exec_shadowServiceTimeout (c : Nat) (s : State) :
    exec (.shadowServiceTimeout c) s = .next (s.setArch (s.arch.shadowTimeout c)) := rfl

/-- A service that declines ends its miss (R203, R204). -/
theorem Arch.mem_declineService (h : m ∈ (a.core c).misses) (hs : m.stage = .service) :
    { m with stage := .ended .declined } ∈ ((a.declineService c).core c).misses := by
  rw [Arch.declineService, Arch.misses_setCtx, Arch.core_mapCore]
  exact List.mem_map.mpr ⟨m, h, if_pos hs⟩

theorem Arch.timeout_declines (h : (a.core c).misses.find? (fun m => m.stage == .service) = some m) (ht : m.since + 300000 ≤ a.clock)
    (hx : ∀ w, (a.ctx c 2).wait = some w → w.kind ≠ .xret) : a.shadowTimeout c = a.declineService c := by
  have hk : (a.ctx c 2).wait.map Wait.kind ≠ some .xret := by
    rw [ne_eq, Option.map_eq_some_iff]
    rintro ⟨w, hw, hk⟩
    exact hx w hw hk
  rw [Arch.shadowTimeout, Core.inService, h]
  exact if_pos ⟨ht, hk⟩

theorem missesAreServed : MissesAreServed := by
  intro c m s k b found
  refine ⟨fun hm hk => ⟨?shared, ?queued⟩, fun hq hm hs => ?walk, fun hm hi hs => ?service, fun hm ht hx => ?timeout⟩
  case shared =>
    intro l hl hr hw
    exact ⟨_, State.next_setArch (Arch.missStep_of_moves hm (Arch.missMoves_of_leaf hk hl)),
      Arch.served_resolve (covers_of_findLeaf hl) hr hw⟩
  case queued =>
    intro hl hroom
    refine ⟨_, State.next_setArch (Arch.missStep_of_moves hm (Arch.missMoves_of_room hk hl
      (Arch.walkRoom_of hroom))), ?_, Arch.mem_mapMiss (List.mem_of_find?_eq_some hm)⟩
    rw [State.setArch_arch, Arch.brick_mapMiss, Arch.brick_mapBrick]
  case walk =>
    have hat : s.arch.missAt (c, m.agent) = some m := Arch.missAt_of_walker hm hs
    intro from_ w
    have hw : s.arch.walkOf b [(c, m.agent)] m = w := Arch.walkOf_single hat
    have hstep : exec (.pageWalk b) s = .next (s.setArch (if w.1 = .wait then w.2 else s.arch.walkEnds b [(c, m.agent)] m w)) :=
      State.next_setArch ((Arch.walkStep_single hq hat).trans (by rw [hw]))
    obtain ⟨t, htc, hends⟩ := Arch.walkEnds_single (a := s.arch) (b := b) (w := w) hat
    refine ⟨Arch.walkOnset_of_no_node, fun h => by rw [hstep, if_pos h],
      fun hcores => ⟨fun big base rd wr h hr hwr => ?_, fun e h => ?_⟩⟩
    · refine ⟨_, by rw [hstep, if_neg (by rw [h]; nofun)], ?_⟩
      rw [hends, h]
      exact Arch.served_resolve (l := ⟨m.asid, big, m.va / 2 ^ (if big then 30 else 21), base, rd, wr⟩) (by simp [Leaf.covers]) hr hwr
    · refine ⟨_, by rw [hstep, if_neg (by rw [h]; nofun)], ?_⟩
      rw [hends, h]
      refine Arch.mem_mapMiss (f := fun m => { m with stage := .ended e }) ?_
      rw [Arch.core_of_cores (htc.trans hcores)]
      exact Core.mem_of_miss hm
  case service =>
    refine ⟨_, State.next_setArch (Arch.serviceStart_of hm hi hs), ?_⟩
    obtain ⟨h1, h2, h3, h4, h5⟩ := serviceContext_readG m
    have hctx := Arch.ctx_setCtx (s.arch.mapMiss c m.agent (fun m => { m with stage := .service, since := s.arch.clock })) c 2
      (serviceContext m)
    simp only [State.setArch_arch, hctx, Arch.misses_setCtx]
    exact ⟨rfl, rfl, h1, h2, h3, h4, h5,
      Arch.mem_mapMiss (f := fun m => { m with stage := .service, since := s.arch.clock }) (List.mem_of_find?_eq_some hm)⟩
  case timeout =>
    exact ⟨_, (exec_shadowServiceTimeout c s).trans (State.next_setArch (Arch.timeout_declines hm ht hx)), Arch.ctx_setCtx ..,
      Arch.mem_declineService (List.mem_of_find?_eq_some hm) (eq_of_beq (List.find?_some (p := fun m : Miss => m.stage == .service) hm))⟩

-- ## Invalidations (R205)

variable {p : Leaf → Bool}

/-- What an invalidation leaves of a core. -/
def Core.invalidated (p : Leaf → Bool) (k : Core) : Core :=
  { k with
    tlb := k.tlb.filter fun l => !p l, tmplCache := []
    misses := k.misses.map fun m => if namesVa p m.asid m.va then { m with stale := true } else m }

/-- What an invalidation leaves of a Brick. -/
def Brick.invalidated (p : Leaf → Bool) (k : Brick) : Brick := { k with stb := k.stb.filter fun l => !p l, nodeCache := [] }

theorem Arch.invalidate_of_idle (h : a.xlinv.busy = false) (p : Leaf → Bool) : a.invalidate p = { a with
    cores := SMap.mapv Core.reset a.cores (Core.invalidated p), bricks := SMap.mapv Brick.reset a.bricks (Brick.invalidated p)
    reqs := a.reqs.map fun (r : Req) => if r.leaf.any p then { r with named := true } else r
    fills := a.fills.map fun (f : Fill) => if f.leaf.any p then { f with named := true } else f
    opq := a.opq.map fun (q : OpReq) => if a.namesOp p q then { q with named := true } else q
    xlinv := { a.xlinv with busy := true, after := a.nextId } } :=
  if_neg (by rw [h]; decide)

theorem Arch.core_invalidate (h : a.xlinv.busy = false) (hwf : SMap.wf Core.reset a.cores = true) (p : Leaf → Bool) (c : Nat) :
    (a.invalidate p).core c = (a.core c).invalidated p := by
  rw [Arch.invalidate_of_idle h]
  exact SMap.get_mapv rfl hwf

theorem Arch.brick_invalidate (h : a.xlinv.busy = false) (hwf : SMap.wf Brick.reset a.bricks = true) (p : Leaf → Bool) (b : Nat) :
    (a.invalidate p).brick b = (a.brick b).invalidated p := by
  rw [Arch.invalidate_of_idle h]
  exact SMap.get_mapv rfl hwf

/-- The accesses that still hold an invalidation up, and those it no longer waits for (R166, R205). -/
theorem Req.stale_iff {r : Req} : r.stale = true ↔ r.named = true ∧ r.leaf.isSome = true ∧ r.st ≠ .withdrawn := by
  simp [Req.stale, and_assoc]

/-- What an invalidation under way waits for is done (R205). -/
def Arch.Drained (a : Arch) : Prop :=
  (∀ e ∈ a.bricks, e.2.nodeCache = []) ∧ (∀ r ∈ a.reqs, ¬ (r.named = true ∧ r.leaf.isSome = true ∧ r.st ≠ .withdrawn)) ∧
    (∀ f ∈ a.fills, f.named = false) ∧ (∀ w ∈ a.writeBacks, a.xlinv.after ≤ w.id) ∧ ∀ q ∈ a.opq, q.named = false

theorem Arch.drained_iff : (a.bricks.all (fun e => e.2.nodeCache.isEmpty) && a.reqs.all (fun r => !r.stale) &&
    a.fills.all (fun f => !f.named) && a.writeBacks.all (fun w => a.xlinv.after ≤ w.id) && a.opq.all (fun q => !q.named)) = true ↔
      a.Drained := by
  simp only [Bool.and_eq_true, List.all_eq_true, List.isEmpty_iff, Bool.not_eq_true', ← Bool.not_eq_true, Req.stale_iff,
    decide_eq_true_eq, Arch.Drained, and_assoc]

theorem Arch.invalidated_of_drained (hb : a.xlinv.busy = true) (h : a.Drained) :
    a.invalidated = { a with xlinv := { a.xlinv with busy := false } } := by
  have h := Arch.drained_iff.mpr h
  simp only [Bool.and_eq_true, and_assoc] at h
  exact if_pos (by simp only [hb, Bool.and_eq_true, Bool.true_and, and_assoc]; exact h)

theorem Arch.invalidated_of_late (h : ¬ a.Drained) : a.invalidated = a := by
  refine if_neg fun hc => h (Arch.drained_iff.mp ?_)
  simp only [Bool.and_eq_true, and_assoc] at hc ⊢
  exact hc.2

theorem Arch.reqs_rejoin_single {y : Nat} {r : Req} (h : a.reqs = [r]) (hr : a.rejoins c y r = true) (hn : r.named = true) :
    (a.rejoin c y).reqs = [{ r with st := .flight, seq := a.nextId, leaf := none }] := by
  simp [Arch.rejoin, h, hr, hn]

theorem invalidationsReachEveryBuffer : InvalidationsReachEveryBuffer := by
  intro va s hcores hbricks x drops
  have hdrops : ∀ (i : Instr) (p : Leaf → Bool), exec i s = .next (s.setArch (s.arch.invalidate p)) → x.busy = false →
      drops i p := by
    intro i p hi hb
    refine ⟨_, hi, fun c => congrArg Core.tlb (Arch.core_invalidate hb hcores p c),
      fun b => ⟨congrArg Brick.stb (Arch.brick_invalidate hb hbricks p b),
        congrArg Brick.nodeCache (Arch.brick_invalidate hb hbricks p b)⟩, ?_⟩
    rw [State.setArch_arch, Arch.invalidate_of_idle hb]
    exact ⟨rfl, rfl, rfl, rfl⟩
  refine ⟨fun hb => ⟨hdrops _ _ rfl hb, hdrops _ _ rfl hb, hdrops _ _ rfl hb⟩, fun hb hn hr hf hw ho => ?done, fun _ h => ?late,
    fun c y r hr hj hn => ?again⟩
  case done => exact State.next_setArch (Arch.invalidated_of_drained hb ⟨hn, hr, hf, hw, ho⟩)
  case late =>
    refine State.next_setArch (y := s.arch) (Arch.invalidated_of_late ?_)
    rintro ⟨-, hr, hf, hw, ho⟩
    rcases h with ⟨r, hm, h⟩ | ⟨f, hm, h⟩ | ⟨w, hm, h⟩ | ⟨q, hm, h⟩
    · exact hr r hm h
    · exact absurd (hf f hm) (by simp [h])
    · exact absurd (hw w hm) (Nat.not_le.mpr h)
    · exact absurd (ho q hm) (by simp [h])
  case again => exact ⟨_, Arch.reqs_rejoin_single hr hj hn, rfl, rfl, hn⟩

end Sys2Proof.Machine

open Sys2Proof Sys2Proof.Machine in
/-- Settles O32: each step of a miss leaves the miss where the statement says, and an invalidation empties each buffer entry by entry. -/
theorem translationActs : Obligations.TranslationActs := ⟨missesAreServed, invalidationsReachEveryBuffer⟩
end

section
/-! Interrupts stay raised (O45; R310, R318, R320): whatever operators and levels end in a step, the interrupts raised before it stay
raised, in their order. Each function of the model on the way has one lemma `Told.f`, in the order of the model. A module in which a
lintel port goes down with more than its link event follows. -/

namespace Sys2Proof.Machine

/-- The interrupts `sent` have been raised, and perhaps others since (R318). -/
def Arch.Told (a : Arch) (sent : List Nat) : Prop := ∃ more, a.interrupts = sent ++ more

/-- The same for what became of an access at its home. -/
def Perf.Told (p : Perf) (sent : List Nat) : Prop :=
  match p with
  | .done a _ | .wait a | .check a => a.Told sent

variable {a : Arch} {sent : List Nat}

theorem Arch.Told.of_interrupts (h : a.interrupts = sent) : a.Told sent := ⟨[], by rw [h, List.append_nil]⟩

theorem Arch.Told.of_eq {b : Arch} (h : a.Told sent) (e : b.interrupts = a.interrupts) : b.Told sent := by rwa [Arch.Told, e]

theorem Arch.Told.ite {b : Arch} {p : Prop} [Decidable p] (ha : a.Told sent) (hb : b.Told sent) : (if p then a else b).Told sent := by
  split <;> assumption

theorem Arch.Told.snd_ite {α : Type} {x y : α × Arch} {p : Prop} [Decidable p] (hx : x.2.Told sent) (hy : y.2.Told sent) :
    (if p then x else y).2.Told sent := by
  split <;> assumption

theorem Arch.Told.foldl {β : Type} {f : Arch → β → Arch} {l : List β} (h : a.Told sent)
    (hf : ∀ a x, a.Told sent → (f a x).Told sent) : (l.foldl f a).Told sent :=
  List.foldlRecOn (motive := fun b : Arch => b.Told sent) l f h fun b hb x _ => hf b x hb

theorem Perf.Told.ite {x y : Perf} {p : Prop} [Decidable p] (hx : x.Told sent) (hy : y.Told sent) : (if p then x else y).Told sent := by
  split <;> assumption

theorem Arch.Told.mapCore {c : Nat} {f : Core → Core} (h : a.Told sent) : (a.mapCore c f).Told sent := h

theorem Arch.Told.setCtx {c x : Nat} {t : Context} (h : a.Told sent) : (a.setCtx c x t).Told sent := h

theorem Arch.Told.mapCtx {c x : Nat} {f : Context → Context} (h : a.Told sent) : (a.mapCtx c x f).Told sent := h

theorem Arch.Told.mapChan {c x n : Nat} {f : Chan → Chan} (h : a.Told sent) : (a.mapChan c x n f).Told sent := h

theorem Arch.Told.mapBrick {b : Nat} {f : Brick → Brick} (h : a.Told sent) : (a.mapBrick b f).Told sent := h

theorem Arch.Told.mapQueue {q : Nat} {f : Queue → Queue} (h : a.Told sent) : (a.mapQueue q f).Told sent := h

theorem Arch.Told.mapLevel {l : Nat} {f : Level → Level} (h : a.Told sent) : (a.mapLevel l f).Told sent := by
  unfold Arch.mapLevel
  split <;> exact h

theorem Arch.Told.mapUnit {u : Nat} {f : ExecUnit → ExecUnit} (h : a.Told sent) : (a.mapUnit u f).Told sent := by
  unfold Arch.mapUnit
  split <;> exact h

theorem Arch.Told.setOp {n : Nat} {v : Option OpSet} (h : a.Told sent) : (a.setOp n v).Told sent := h

-- ## Interrupts and registers of the Quoin die (R6, R314, R318)

theorem Arch.Told.setAgain {r : Raced} (h : a.Told sent) : (a.setAgain r).Told sent := by
  unfold Arch.setAgain
  split <;> exact h

theorem Arch.Told.setsWin (h : a.Told sent) : a.setsWin.Told sent := .foldl h fun _ _ h => .setAgain h

theorem Arch.Told.interrupt {v : Nat} (h : a.Told sent) : (a.interrupt v).Told sent := by
  obtain ⟨more, h⟩ := h
  have hv : Arch.Told { a with interrupts := a.interrupts ++ [v] } sent := ⟨more ++ [v], by rw [h, List.append_assoc]⟩
  exact .ite hv hv

theorem Arch.Told.quoinClear {o : Nat} (h : a.Told sent) : (a.quoinClear o).Told sent := .ite (.setsWin h) (.ite h (.ite (.setsWin h) h))

theorem Arch.Told.quoinRead {o v : Nat} {b : Arch} (h : a.Told sent) (e : a.quoinRead o = some (v, b)) : b.Told sent := by
  obtain ⟨_, _, e⟩ := Option.map_eq_some_iff.mp e
  cases e
  exact .quoinClear h

theorem Arch.Told.interruptFrom {b v : Nat} (h : a.Told sent) : (a.interruptFrom b v).Told sent := .ite h (.interrupt h)

-- ## Slices, snoops and accesses at a home (R181, R194, R211)

theorem Arch.Told.touchLine {write : Bool} {line : Nat} (h : a.Told sent) : (a.touchLine write line).Told sent := by
  unfold Arch.touchLine
  split <;> exact h

theorem Arch.Told.fillLine {pa len line : Nat} (h : a.Told sent) : (a.fillLine pa len line).Told sent := .ite h (.touchLine h)

theorem Arch.Told.cure {line : Nat} (h : a.Told sent) : (a.cure line).Told sent := by
  unfold Arch.cure
  split <;> exact h

theorem Arch.Told.noteSignals {pa len : Nat} (h : a.Told sent) : (a.noteSignals pa len).Told sent := by
  unfold Arch.noteSignals
  split <;> exact h

theorem Arch.Told.retireOne {d : DetAcc} (h : a.Told sent) : (a.retireOne d).Told sent := .ite h (.touchLine (.touchLine h))

theorem Arch.Told.noteAll {ds : List DetAcc} (h : a.Told sent) : (a.noteAll ds).Told sent := .foldl h fun _ _ h => .noteSignals h

theorem Arch.Told.retireAll {p : DetAcc → Bool} (h : a.Told sent) : (a.retireAll p).Told sent :=
  .ite h (.noteAll (.foldl h fun _ _ h => .retireOne h))

theorem Arch.Told.retireRange {pa len : Nat} (h : a.Told sent) : (a.retireRange pa len).Told sent := by
  unfold Arch.retireRange
  split
  · exact .ite (.retireAll h) h
  · exact h

theorem Arch.Told.signalsWritten {pa len : Nat} (h : a.Told sent) : (a.signalsWritten pa len).Told sent := by
  unfold Arch.signalsWritten
  split
  · exact h
  · exact .noteSignals (.retireAll h)

theorem Arch.Told.lineHome {line : Nat} {bs : List Byte} (h : a.Told sent) : (a.lineHome line bs).Told sent := by
  unfold Arch.lineHome
  split
  · exact .ite h (.touchLine (.cure (.signalsWritten h)))
  · exact h

theorem Arch.Told.snoopEntry {c i line : Nat} {inval : Bool} (h : a.Told sent) : (a.snoopEntry c i line inval).Told sent :=
  .ite (.lineHome h) h

theorem Arch.Told.snoopCores {line : Nat} {inval : Bool} {pick : Nat → Bool} (h : a.Told sent) :
    (a.snoopCores line inval pick).Told sent :=
  .foldl h fun _ _ h => .ite (.foldl h fun _ _ h => .snoopEntry h) h

theorem Arch.Told.backLands {w : WriteBack} (h : a.Told sent) : (a.backLands w).Told sent := .mapCtx (.lineHome h)

theorem Arch.Told.landBacks {line : Nat} (h : a.Told sent) : (a.landBacks line).Told sent := .foldl h fun _ _ h => .backLands h

theorem Arch.Told.fineSnooped {line : Nat} {inval : Bool} (h : a.Told sent) : (a.fineSnooped line inval).Told sent := by
  unfold Arch.fineSnooped
  (repeat' split) <;> exact h

theorem Arch.Told.snoopLine {line : Nat} {inval : Bool} (h : a.Told sent) : (a.snoopLine line inval).Told sent :=
  .fineSnooped (.snoopCores (.landBacks h))

theorem Arch.Told.sendWaiting {pa len : Nat} {inval : Bool} {key : Nat} (h : a.Told sent) : (a.sendWaiting pa len inval key).Told sent :=
  .ite h h

theorem Arch.Told.homeRead {pa len : Nat} (h : a.Told sent) : (a.homeRead pa len).2.Told sent :=
  .foldl (.retireRange (.foldl h fun _ _ h => .snoopLine h)) fun _ _ h => .touchLine h

theorem Arch.Told.homeWrite {pa len x : Nat} (h : a.Told sent) : (a.homeWrite pa len x).Told sent :=
  .foldl (.signalsWritten (.foldl (.retireRange (.foldl h fun _ _ h => .snoopLine h)) fun _ _ h => .fillLine h))
  fun _ _ h => .touchLine (.ite (.cure h) h)

-- ## Accesses at a scratchpad bank (R163, R164, R175)

theorem Arch.Told.barWake {pa : Nat} (h : a.Told sent) : (a.barWake pa).Told sent := h

theorem Arch.Told.barWakeAll {pa len : Nat} (h : a.Told sent) : (a.barWakeAll pa len).Told sent := h

theorem Arch.Told.bankPerform {r : Req} {c o : Nat} (h : a.Told sent) : (a.bankPerform r c o).Told sent := by
  unfold Arch.bankPerform
  extract_lets old put
  (repeat' split) <;> exact h

theorem Arch.Told.setStash {c key : Nat} {st : StashState} (h : a.Told sent) : (a.setStash c key st).Told sent := h

theorem Arch.Told.stashBack {c x id key : Nat} {inv : Bool} (h : a.Told sent) : (a.stashBack c x id key inv).Told sent :=
  .ite (.setStash (.ite h h)) (.ite h h)

theorem Arch.Told.stashPerform {r : Req} {c o key : Nat} (h : a.Told sent) : (a.stashPerform r c o key).Told sent := by
  unfold Arch.stashPerform
  split
  · exact .stashBack h
  · refine .ite ?_ h
    have hp := h.bankPerform (r := r) (c := c) (o := o)
    generalize a.bankPerform r c o = p at hp ⊢
    cases p with
    | done b v => exact Arch.Told.ite (.signalsWritten (.foldl hp fun _ _ h => h)) hp
    | wait b => exact hp
    | check b => exact hp

-- ## Accesses at a slice and at the Quoin die (R178, R193, R314, R322)

theorem Arch.Told.detPerform {r : Req} {b : Nat} (h : a.Told sent) : (a.detPerform r b).Told sent :=
  .ite h (.ite (.mapBrick (.snoopLine h)) (.mapBrick (.touchLine (.snoopLine h))))

theorem Arch.Told.slicePerform {r : Req} {b : Nat} (h : a.Told sent) : (a.slicePerform r b).Told sent := by
  refine .ite (.ite h.detPerform h) ?_
  split
  · exact .ite h.homeRead h
  · exact .ite h.homeWrite h
  · exact .ite (Arch.Told.ite (.foldl h.homeRead fun _ _ h => .snoopLine h) (.homeWrite h.homeRead)) h
  · exact h

theorem Arch.Told.noteStretch {d w : Nat} (h : a.Told sent) : (a.noteStretch d w).Told sent := by
  unfold Arch.noteStretch
  split <;> exact h

theorem Arch.Told.reachHeld {d pa len : Nat} {w : Bool} {b : Arch} (h : a.Told sent) (e : a.reachHeld d pa len w = some b) :
    b.Told sent := by
  unfold Arch.reachHeld at e
  split at e
  · cases e
  · refine ite_eq_elim e (fun e => nomatch e) fun e => ite_eq_elim e (fun e => ?_) fun e => ite_eq_elim e (fun e => ?_) fun e =>
      ite_eq_elim e (fun e => nomatch e) fun e => ?_ <;> cases e
    · exact .noteStretch h
    · exact h
    · exact .sendWaiting h

theorem Arch.Told.rmwHeld {d pa len : Nat} {b : Arch} (h : a.Told sent) (e : a.rmwHeld d pa len = some b) : b.Told sent := by
  unfold Arch.rmwHeld at e
  split at e
  · next e' => cases e; exact .reachHeld h e'
  · exact .reachHeld h e

theorem Arch.Told.redHeld {x : Nat} {b : Arch} (h : a.Told sent) (e : a.redHeld x = some b) : b.Told sent := by
  simp only [Arch.redHeld] at e
  split at e
  · split at e
    · exact .reachHeld h e
    · cases e
  · cases e

theorem Arch.Told.redStore {x : Nat} (h : a.Told sent) : (a.redStore x).Told sent := by
  refine .ite h ?_
  split
  · exact .ite h.homeRead h
  · exact h

theorem Arch.Told.quoinPerform {r : Req} {o : Nat} (h : a.Told sent) : (a.quoinPerform r o).Told sent := by
  unfold Arch.quoinPerform
  split
  · split
    · next e => exact h.quoinRead e
    · exact h
  · refine .ite h (.ite (.ite ?_ h) h)
    split
    · next e => exact h.redHeld e
    · exact h.redStore

theorem Arch.Told.performAt {r : Req} (h : a.Told sent) : (a.performAt r).Told sent := by
  unfold Arch.performAt
  split
  · refine .ite h ?_
    split
    · exact h.stashPerform
    · exact h.bankPerform
  · exact h.slicePerform
  · exact h.quoinPerform
  · exact h

-- ## Walks, traps and machine checks (R198, R302, R309, R310)

theorem Arch.Told.keepNode {b asid va lvl node : Nat} (h : a.Told sent) : (a.keepNode b asid va lvl node).Told sent := by
  unfold Arch.keepNode
  split <;> exact h

theorem Arch.Told.walkFrom {b asid va n node : Nat} (h : a.Told sent) : (a.walkFrom b asid va n node).2.Told sent := by
  induction n generalizing a node with
  | zero => exact h
  | succ lvl ih =>
    unfold Arch.walkFrom
    split
    · dsimp only
      split
      · next e => exact .reachHeld h e
      · split_ifs
        · exact h
        · exact h.homeRead
        · exact h.homeRead
        · exact h.homeRead
        · exact ih (.keepNode h.homeRead)
        · exact h.homeRead
        · exact h.homeRead
        · exact h.homeRead
    · exact h

theorem Arch.Told.askFill {c key pa : Nat} {own touch : Bool} (h : a.Told sent) : (a.askFill c key pa own touch).Told sent := by
  unfold Arch.askFill
  split <;> exact h

theorem Arch.Told.declineService {c : Nat} (h : a.Told sent) : (a.declineService c).Told sent := h

theorem Arch.Told.withdraw {c x : Nat} (h : a.Told sent) : (a.withdraw c x).Told sent := h

theorem Arch.Told.raiseAs {c x pc cause slot step arg info left : Nat} {fatal : Bool} (h : a.Told sent) :
    (a.raiseAs c x pc cause slot step arg info left fatal).Told sent := by
  have hi : (if cause = 0x0D then a.interruptFrom (c / 32) 0 else a).Told sent := .ite (.interruptFrom h) h
  exact .ite (.declineService hi) (.ite (.setCtx (.mapCore (.withdraw hi))) (.setCtx (.mapCore (.withdraw hi))))

theorem Arch.Told.dropWindow {c x g : Nat} (h : a.Told sent) : (a.dropWindow c x g).Told sent := .mapCore (.foldl h fun _ _ h => h)

theorem Arch.Told.freeGroups {c x : Nat} (h : a.Told sent) : (a.freeGroups c x).Told sent :=
  .foldl h fun _ _ h => .mapCore (.dropWindow h)

theorem Arch.Told.leaveBehind {c x g : Nat} (h : a.Told sent) : (a.leaveBehind c x g).Told sent := h

theorem Arch.Told.endProgram {c x : Nat} {fate : UnitEnd} (h : a.Told sent) : (a.endProgram c x fate).Told sent := by
  unfold Arch.endProgram
  dsimp only
  split
  · exact .mapUnit (.leaveBehind (.mapCtx (.freeGroups h)))
  · exact .mapCtx (.freeGroups h)

theorem Arch.Told.askAgain {r : Req} {c o : Nat} (h : a.Told sent) : (a.askAgain r c o).Told sent := by
  unfold Arch.askAgain
  split
  · exact .ite (.askFill h) h
  · exact h

theorem Arch.Told.park {r : Req} (h : a.Told sent) : (a.park r).Told sent := by
  unfold Arch.park
  split
  · exact .ite (.ite h (.ite h (.ite h h))) (.askAgain h)
  · exact .ite h h
  · exact h

theorem Arch.Told.gangTrap {x rep : Nat} {cores : List Nat} {traps : List (Nat × TrapNote)} (h : a.Told sent) :
    (a.gangTrap x rep cores traps).Told sent :=
  .foldl h fun _ _ h => by dsimp only; split <;> exact .raiseAs h

theorem Arch.Told.failHalted {c x u : Nat} (h : a.Told sent) : (a.failHalted c x u).Told sent :=
  .mapUnit (.interruptFrom (.ite h h))

theorem Arch.Told.checkAt {c x pa slot : Nat} (h : a.Told sent) : (a.checkAt c x pa slot).Told sent := by
  refine .ite ?_ (.ite (.interruptFrom h) (.gangTrap h))
  split
  · exact .failHalted h
  · exact .interruptFrom h

-- ## Bank turns and copies (R164, R239)

theorem Arch.Told.performReq {r : Req} (h : a.Told sent) : (a.performReq r).Told sent := by
  unfold Arch.performReq
  have hp := h.performAt (r := r)
  generalize a.performAt r = p at hp ⊢
  cases p with
  | done b v =>
    refine .mapCtx ?_
    split <;> exact hp
  | wait b => exact .park hp
  | check b =>
    dsimp only
    split
    · exact .mapCtx (.checkAt hp)
    · exact .checkAt hp

theorem Arch.Told.serveWords {c pa len : Nat} {n : Nat} (h : a.Told sent) : (a.serveWords c pa len n).Told sent := by
  induction n generalizing a with
  | zero => exact h
  | succ n ih =>
    unfold Arch.serveWords
    split
    · exact ih (.performReq h)
    · exact h

theorem Arch.Told.bankTurn {pa len : Nat} (h : a.Told sent) : (a.bankTurn pa len).Told sent := by
  unfold Arch.bankTurn
  split
  · exact .serveWords h
  · exact h

theorem Arch.Told.arrive {pa : Nat} (h : a.Told sent) : (a.arrive pa).Told sent := .barWake (.bankTurn h)

theorem Arch.Told.copyRead {ss : List (Nat × Nat × Nat)} (h : a.Told sent) : (a.copyRead ss).2.Told sent := by
  induction ss generalizing a with
  | nil => exact h
  | cons p ss ih =>
    refine ih ?_
    split
    · exact h.homeRead
    · exact h.bankTurn

theorem Arch.Told.copyWrite {ss : List (Nat × Nat × Nat)} {bs : List Byte} (h : a.Told sent) : (a.copyWrite ss bs).Told sent := by
  induction ss generalizing a bs with
  | nil => exact h
  | cons p ss ih =>
    refine ih ?_
    split
    · exact .homeWrite h
    · exact .barWakeAll (.bankTurn h)
    · exact h

theorem Arch.Told.copyEnd {c x n : Nat} {st : CopyState} {code : Nat} (h : a.Told sent) : (a.copyEnd c x n st code).Told sent := h

theorem Arch.Told.stopChan {c x n : Nat} {cancel : Bool} (h : a.Told sent) : (a.stopChan c x n cancel).Told sent :=
  .ite h (.ite (.copyEnd h) h)

-- ## Accesses of the front end, events and signals (R273, R286, R296)

theorem Arch.Told.feWait (h : a.Told sent) : a.feWait.Told sent := h

theorem Arch.Told.feXlate {r : XlRegs} {va : Nat} {rd wr : Bool} (h : a.Told sent) : (a.feXlate r va rd wr).2.Told sent := by
  refine .snd_ite h ?_
  dsimp only
  split
  · exact h.walkFrom
  · exact .feWait h.walkFrom
  · exact h.walkFrom

theorem Arch.Told.feReach {r : XlRegs} {va len : Nat} {wr : Bool} (h : a.Told sent) : (a.feReach r va len wr).2.Told sent := by
  refine .snd_ite h (List.foldlRecOn (motive := fun q : Option (List (Nat × Nat × Nat)) × Arch => q.2.Told sent) _ _ h
    fun q hq e _ => ?_)
  dsimp only
  split
  · next e =>
    obtain ⟨_, _, e⟩ := Option.bind_eq_some_iff.mp e
    exact .feWait (hq.feXlate.reachHeld e)
  · exact hq.feXlate

theorem Arch.Told.feWrite {r : XlRegs} {va : Nat} {bs : List Byte} (h : a.Told sent) : (a.feWrite r va bs).2.Told sent := by
  unfold Arch.feWrite
  dsimp only
  split
  · exact h.feReach.copyWrite
  · exact h.feReach

theorem Arch.Told.fePhys {pa len : Nat} (h : a.Told sent) : (a.fePhys pa len).2.Told sent := by
  unfold Arch.fePhys
  split
  · split
    · next e => exact .feWait (h.reachHeld e)
    · exact h.copyRead
  · exact h

theorem Arch.Told.jobEvent {q code index info : Nat} (h : a.Told sent) : (a.jobEvent q code index info).Told sent :=
  .mapQueue (.ite h h.feWrite)

theorem Arch.Told.signalAt {r : XlRegs} {va : Nat} (h : a.Told sent) : (a.signalAt r va).2.Told sent := by
  refine .snd_ite h ?_
  dsimp only
  split
  · next e =>
    obtain ⟨_, _, e⟩ := Option.bind_eq_some_iff.mp e
    exact .feWait (h.feXlate.rmwHeld e)
  · exact h.feXlate

theorem Arch.Told.signalAtomic {pa op v : Nat} (h : a.Told sent) : (a.signalAtomic pa op v).Told sent := .homeWrite h.homeRead

theorem Arch.Told.signalOp {desc : BitVec 1024} {q index va op v : Nat} (h : a.Told sent) :
    (a.signalOp desc q index va op v).2.Told sent := by
  unfold Arch.signalOp
  dsimp only
  split
  · exact h.signalAt.signalAtomic
  · exact h.signalAt.jobEvent

theorem Arch.Told.completeSignal {desc : BitVec 1024} {q index signal : Nat} {vector : Option Nat} {abort : Bool} (h : a.Told sent) :
    (a.completeSignal desc q index signal vector abort).Told sent := by
  unfold Arch.completeSignal
  dsimp only
  split
  · exact .interrupt (.ite h h.signalOp)
  · exact .ite h h.signalOp

-- ## Levels and nodes end (R31, R33, R283)

theorem Arch.Told.writeRecord {l : Nat} (h : a.Told sent) : (a.writeRecord l).Told sent := by
  unfold Arch.writeRecord
  split
  · exact .ite h h.feWrite
  · exact h

theorem Arch.Told.updLevel {l : Nat} {f : Level → Level} (h : a.Told sent) : (a.updLevel l f).Told sent := .writeRecord (.mapLevel h)

theorem Arch.Told.markLoss {l n : Nat} (h : a.Told sent) : (a.markLoss l n).Told sent := by
  induction n generalizing a l with
  | zero => exact h
  | succ f ih =>
    unfold Arch.markLoss
    split
    · exact h
    · extract_lets a₁ a₂
      have h₁ : a₁.Told sent := .ite h (.updLevel h)
      have h₂ : a₂.Told sent := by
        dsimp only [a₂]
        split
        · exact ih h₁
        · exact h₁
      split
      · exact ih h₂
      · exact h₂

theorem Arch.Told.countEnd {l : Nat} {ok : Bool} (h : a.Told sent) : (a.countEnd l ok).Told sent :=
  .ite (.updLevel h) (.markLoss (.updLevel h))

theorem Arch.Told.unitChildEnd {u : Nat} {ok : Bool} (h : a.Told sent) : (a.unitChildEnd u ok).Told sent := by
  unfold Arch.unitChildEnd
  dsimp only
  split
  · exact .markLoss (.mapUnit h)
  · exact .mapUnit h

theorem Arch.Told.mapGraph {g : Nat} {f : Graph → Graph} (h : a.Told sent) : (a.mapGraph g f).Told sent := by
  unfold Arch.mapGraph
  split <;> exact h

theorem Arch.Told.nodeOver {g n : Nat} {p : Progress} (h : a.Told sent) : (a.nodeOver g n p).Told sent := by
  unfold Arch.nodeOver
  (repeat' split) <;> exact h

theorem Arch.Told.deadRecord {desc : BitVec 1024} {record : Nat} {st : LevelState} (h : a.Told sent) :
    (a.deadRecord desc record st).Told sent :=
  .ite h h.feWrite

theorem Arch.Told.failNodes {g : Nat} {st : LevelState} {ns : List Nat} {n : Nat} (h : a.Told sent) :
    (a.failNodes g st ns n).Told sent := by
  induction n generalizing a st ns with
  | zero => cases ns <;> exact h
  | succ f ih =>
    cases ns with
    | nil => exact h
    | cons k ns =>
      unfold Arch.failNodes
      split
      · refine .ite (ih ?_) (ih h)
        split
        · exact .countEnd (.deadRecord (.nodeOver h))
        · exact .nodeOver h
      · exact ih h

theorem Arch.Told.nodeEnds {l : Nat} {ok : Bool} (h : a.Told sent) : (a.nodeEnds l ok).Told sent := by
  unfold Arch.nodeEnds
  split
  · exact h
  · exact .ite (.mapGraph (.nodeOver h)) (.failNodes (.nodeOver h))

theorem Arch.Told.endLevel {l : Nat} {v : Level} {st : LevelState} (h : a.Told sent) : (a.endLevel l v st).Told sent := by
  unfold Arch.endLevel
  extract_lets a₁ a₂ a₃ a₄ ok a₅ a₆ a₇
  have h₄ : a₄.Told sent := .mapQueue (.mapQueue (.completeSignal (.updLevel h)))
  have h₅ : a₅.Told sent := by
    dsimp only [a₅]
    split
    · exact .unitChildEnd h₄
    · exact h₄
  have h₆ : a₆.Told sent := by
    dsimp only [a₆]
    split
    · exact .countEnd h₅
    · exact h₅
  exact .of_eq (.nodeEnds h₆) rfl

theorem Arch.Told.settleLevels {n : Nat} (h : a.Told sent) : (a.settleLevels n).Told sent := by
  induction n generalizing a with
  | zero => exact h
  | succ f ih =>
    unfold Arch.settleLevels
    split
    · exact ih (.endLevel h)
    · exact h

theorem Arch.Told.settled (h : a.Told sent) : a.settled.Told sent := .settleLevels h

theorem Arch.Told.nextPacket {q : Nat} (h : a.Told sent) : (a.nextPacket q).2.Told sent := h.fePhys

theorem Arch.Told.reslot (h : a.Told sent) : a.reslot.Told sent := .foldl h fun _ _ h => h

theorem Arch.Told.frontDone (h : a.Told sent) : a.frontDone.Told sent :=
  .ite (.reslot (.of_eq (.settled h) rfl)) (.of_eq (.settled h) rfl)

-- ## Units stop (R48)

theorem Arch.Told.feTell {cs : List Nat} (h : a.Told sent) : (a.feTell cs).Told sent := by
  unfold Arch.feTell
  split <;> exact h

theorem Arch.Told.dropMiss {c : Nat} {ag : Agent} (h : a.Told sent) : (a.dropMiss c ag).Told sent := h

theorem Arch.Told.mapEngine {c : Nat} {f : Engine → Engine} (h : a.Told sent) : (a.mapEngine c f).Told sent := h

theorem Arch.Told.stopMember {c x : Nat} {fate : UnitEnd} (h : a.Told sent) : (a.stopMember c x fate).Told sent := by
  unfold Arch.stopMember
  extract_lets a₁ a₂ a₃
  have h₂ : a₂.Told sent := .foldl (.feTell h) fun _ _ h => .mapChan (.stopChan h)
  have h₃ : a₃.Told sent := .dropMiss (.mapEngine h₂)
  exact .endProgram (.dropMiss (.withdraw h₃))

theorem Arch.Told.stopUnit {u : Nat} {fate : UnitEnd} (h : a.Told sent) : (a.stopUnit u fate).Told sent := by
  unfold Arch.stopUnit
  split
  · exact h
  · exact .ite (.foldl h fun _ _ h => .ite h h) (.ite h (.foldl h fun _ _ h => .stopMember h))

-- ## Operators close and are cancelled (R265, R269 to R271)

theorem Arch.Told.slotReach {o : OpSet} {j : Nat} {wr : Bool} (h : a.Told sent) : (a.slotReach o j wr).2.Told sent := by
  unfold Arch.slotReach
  refine .snd_ite ?_ h.feReach
  split
  · exact h
  · dsimp only
    split
    · next e => exact .feWait (h.reachHeld e)
    · exact h

theorem Arch.Told.mapOp {n : Nat} {f : OpSet → OpSet} (h : a.Told sent) : (a.mapOp n f).Told sent := by
  unfold Arch.mapOp
  split <;> exact h

theorem Arch.Told.opWrite {o : OpSet} (h : a.Told sent) : (a.opWrite o).Told sent := .feWrite h

theorem Arch.Told.codedEnds {l : Option Nat} {st : LevelState} (h : a.Told sent) : (a.codedEnds l st).Told sent := by
  unfold Arch.codedEnds
  split
  · exact h
  · exact .ite (.mapLevel h) (.markLoss (.mapLevel h))

theorem Arch.Told.outerReturn {s j : Nat} {bs : Option (List Byte)} {cs : Word} (h : a.Told sent) :
    (a.outerReturn s j bs cs).Told sent := by
  unfold Arch.outerReturn
  split
  · exact h
  · extract_lets t
    split
    · exact .mapOp (.copyWrite h.slotReach)
    · exact .mapOp h

theorem Arch.Told.innerEnds {o : OpSet} (h : a.Told sent) : (a.innerEnds o).Told sent := by
  unfold Arch.innerEnds
  split
  · exact h
  · refine .outerReturn (List.foldlRecOn (motive := fun q : Option (List Byte) × Arch => q.2.Told sent) _ _ h fun q hq i _ => ?_)
    dsimp only
    split
    · exact hq.slotReach.copyRead
    · exact hq.slotReach

theorem Arch.Told.opBarAt {r : XlRegs} {d : Nat} (h : a.Told sent) : (a.opBarAt r d).2.Told sent := h.feXlate

theorem Arch.Told.opArrive {r : XlRegs} {d : Nat} (h : a.Told sent) : (a.opArrive r d).Told sent := by
  refine .ite h ?_
  dsimp only
  split
  · split
    · next e => exact .feWait (h.opBarAt.rmwHeld e)
    · exact .arrive h.opBarAt
  · exact h.opBarAt

theorem Arch.Told.opFinish {n : Nat} {o : OpSet} {st : OpState} {cause : Nat} (h : a.Told sent) : (a.opFinish n o st cause).Told sent :=
  .opArrive (.innerEnds (.codedEnds (.setOp (.opWrite h))))

theorem Arch.Told.opDrop {n : Nat} (h : a.Told sent) : (a.opDrop n).Told sent := by
  refine .of_eq (a := List.foldl _ a _) ?_ rfl
  exact .foldl h fun _ _ h => .stopUnit h

theorem Arch.Told.opClose {n : Nat} (h : a.Told sent) : (a.opClose n).Told sent := by
  unfold Arch.opClose
  split
  · exact h
  · refine .ite h (.ite (.opFinish (.opDrop h)) (.opWrite (.setOp ?_)))
    exact .of_eq (.opDrop h) rfl

theorem Arch.Told.opCheck {n : Nat} (h : a.Told sent) : (a.opCheck n).Told sent := by
  unfold Arch.opCheck
  split
  · exact .ite (.opClose h) h
  · exact h

theorem Arch.Told.taskEnds {n j : Nat} {st : TaskState} (h : a.Told sent) : (a.taskEnds n j st).Told sent := .opCheck (.mapOp h)

theorem Arch.Told.opStop {n : Nat} (h : a.Told sent) : (a.opStop n).Told sent := by
  unfold Arch.opStop
  split
  · split
    · exact .opFinish (.opDrop h)
    · exact .opFinish (.opDrop h)
    · exact h
  · exact h

theorem Arch.Told.opCancel {n : Nat} (h : a.Told sent) : (a.opCancel n).Told sent := .foldl h fun _ _ h => .opStop h

theorem Arch.Told.routeless (h : a.Told sent) : a.routeless.Told sent := by
  refine .foldl h fun _ _ h => ?_
  split
  · exact .ite (.foldl h fun _ _ h => .taskEnds h) h
  · exact h

theorem Arch.Told.opSweep (h : a.Told sent) : a.opSweep.Told sent := by
  refine .foldl (.foldl (.routeless h) fun _ _ h => .opCheck h) fun _ _ h => ?_
  split
  · exact h
  · exact h
  · exact .opCancel h

-- ## Packets and levels are cancelled (R47 to R49, R288, R290)

theorem Arch.Told.mirror {q : Nat} (h : a.Told sent) : (a.mirror q).Told sent := .homeWrite (.homeWrite h)

theorem Arch.Told.keepPacket {q : Nat} {p : Packet} (h : a.Told sent) : (a.keepPacket q p).Told sent := h

theorem Arch.Told.joinPhase {q : Nat} (h : a.Told sent) : (a.joinPhase q).Told sent := by
  unfold Arch.joinPhase
  split
  · exact .updLevel h
  · exact h

theorem Arch.Told.deadEnd {q : Nat} {p : Packet} {st : LevelState} (h : a.Told sent) : (a.deadEnd q p st).Told sent := by
  unfold Arch.deadEnd
  dsimp only
  split
  · exact .unitChildEnd (.completeSignal (.deadRecord h))
  · exact .completeSignal (.deadRecord h)

theorem Arch.Told.deadPassed {q : Nat} {p : Packet} {prog : Progress} {event : Option Nat} (h : a.Told sent) :
    (a.deadPassed q p prog event).Told sent := by
  unfold Arch.deadPassed
  extract_lets a₁ a₂
  have h₁ : a₁.Told sent := by
    refine .ite ?_ h
    split
    · exact .countEnd (.joinPhase h)
    · exact h
  refine .keepPacket ?_
  dsimp only [a₂]
  split
  · exact .jobEvent h₁
  · exact h₁

theorem Arch.Told.deadPacket {q : Nat} {p : Packet} {st : LevelState} {prog : Progress} {event : Option Nat} (h : a.Told sent) :
    (a.deadPacket q p st prog event).Told sent :=
  .deadPassed (.deadEnd h)

theorem Arch.Told.cancelPubs {u : Nat} (h : a.Told sent) : (a.cancelPubs u).Told sent :=
  .foldl h fun _ _ h => .foldl h fun _ _ h => .mapQueue (.deadEnd h.fePhys)

theorem Arch.Told.namedSignals {r : XlRegs} {vs : List Nat} (h : a.Told sent) : (a.namedSignals r vs).2.Told sent := by
  induction vs generalizing a with
  | nil => exact h
  | cons va vs ih => exact ih h.signalAt

theorem Arch.Told.barrierEnds {q : Nat} {p : Packet} {prog : Progress} (h : a.Told sent) : (a.barrierEnds q p prog).Told sent :=
  .ite (.jobEvent (.completeSignal h)) (.completeSignal h)

theorem Arch.Told.signalValues {ps : List Nat} (h : a.Told sent) : (a.signalValues ps).2.Told sent :=
  List.foldlRecOn (motive := fun q : List Word × Arch => q.2.Told sent) _ _ h fun _ hq _ _ => hq.homeRead

theorem Arch.Told.signalTraces {ps : List Nat} (h : a.Told sent) : (a.signalTraces ps).Told sent :=
  .foldl h fun _ _ h => .touchLine (.snoopLine h)

theorem Arch.Told.evalPacket {q : Nat} {p : Packet} (h : a.Told sent) : (a.evalPacket q p).Told sent := by
  unfold Arch.evalPacket
  extract_lets x
  have hx : x.2.Told sent := .namedSignals h
  split
  · exact .barrierEnds hx
  · extract_lets n b y
    have hy : y.2.Told sent := by
      dsimp only [y]
      split
      · exact .signalTraces hx
      · exact .signalValues hx
    split
    · exact .barrierEnds hy
    · exact .barrierEnds hy
    · exact hy

theorem Arch.Told.discard {q : Nat} {all : Bool} {n : Nat} (h : a.Told sent) : (a.discard q all n).Told sent := by
  induction n generalizing a with
  | zero => exact h
  | succ f ih => exact .ite h (.ite h (ih (.mirror (.ite (.deadPassed (.mapQueue h.nextPacket)) (.deadPacket (.mapQueue h.nextPacket))))))

theorem Arch.Told.cancelQueue {q : Nat} {job : Bool} (h : a.Told sent) : (a.cancelQueue q job).Told sent := .ite (.discard h) h

theorem Arch.Told.evalBarriers {q : Nat} {ls : List Nat} {n : Nat} (h : a.Told sent) : (a.evalBarriers q ls n).Told sent := by
  induction n generalizing a with
  | zero => exact h
  | succ f ih =>
    unfold Arch.evalBarriers
    split
    · exact h
    · exact ih (.evalPacket h)

theorem Arch.Told.endBarriers {q : Nat} {ls : List Nat} (h : a.Told sent) : (a.endBarriers q ls).Told sent :=
  .foldl h fun _ _ h => .barrierEnds h

theorem Arch.Told.stopBarriers {q : Nat} {ls : List Nat} (h : a.Told sent) : (a.stopBarriers q ls).Told sent :=
  .endBarriers (.evalBarriers h)

theorem Arch.Told.cancelLevel {l : Nat} (h : a.Told sent) : (a.cancelLevel l).Told sent := by
  unfold Arch.cancelLevel
  split
  · exact h
  · extract_lets a₁ a₂ a₃
    have h₁ : a₁.Told sent := .updLevel h
    split
    · exact .ite (.cancelQueue (.stopBarriers h₁)) (.stopBarriers h₁)
    · exact .ite (.cancelQueue (.stopBarriers h₁)) (.stopBarriers h₁)
    · split
      · refine .foldl (.ite h₁ (.mapLevel h₁)) fun _ _ h => ?_
        split
        · exact .ite (.countEnd (.deadRecord (.nodeOver h))) h
        · exact h
      · exact h₁
    · split
      · exact .ite (.foldl (.of_eq h₁ rfl) fun _ _ h => .cancelPubs (.stopUnit h)) (.markLoss (.mapLevel (.of_eq h₁ rfl)))
      · exact h₁
    · exact .foldl (.ite (.codedEnds (.of_eq h₁ rfl)) h₁) fun _ _ h => .opCancel h

theorem Arch.Told.cancelBelow {l : Nat} (h : a.Told sent) : (a.cancelBelow l).Told sent := .foldl h fun _ _ h => .cancelLevel h

theorem Arch.Told.cancelChildren {u : Nat} (h : a.Told sent) : (a.cancelChildren u).Told sent :=
  .foldl (.cancelPubs h) fun _ _ h => .cancelBelow h

theorem Arch.Told.orphans (h : a.Told sent) : a.orphans.Told sent := by
  refine .foldl h fun _ _ h => ?_
  split
  · exact .ite (.cancelChildren h) h
  · exact h

theorem Arch.Told.opDone (h : a.Told sent) : a.opDone.Told sent := .orphans (.opSweep h)

theorem Arch.Told.anyway (h : a.Told sent) : a.anyway.Told sent := h

-- ## A port goes down (R320, R321; 12 R269)

/-- A replay of a flit changes the module as `Arch.replay` says, and operators and levels end with it. -/
theorem exec_linkReplay (p : Nat) (ok : Bool) (s : State) : exec (.linkReplay p ok) s = .next { s with
    arch := (s.arch.replay p ok s.fresh).2.opDone.frontDone.anyway, fresh := s.fresh + (s.arch.replay p ok s.fresh).1 } := rfl

theorem replay_of_exec {p k : Nat} {ok : Bool} {s : State} {m : Arch}
    (h : exec (.linkReplay p ok) s = .next { s with arch := m.opDone.frontDone.anyway, fresh := s.fresh + k }) :
    (s.arch.replay p ok s.fresh).2.opDone.frontDone.anyway = m.opDone.frontDone.anyway := by
  have hnext := Host.Outcome.next.inj ((exec_linkReplay p ok s).symm.trans h)
  exact (State.mk.inj hnext).1

/-- Offset 8 of the scratchpad of core 32, on Brick 1. -/
def lostWord : Nat := spadBase + 32 * 0x100000 + 8

/-- An LDF of core 0 that has been parked at that word. -/
def farLdf : Req := { parkedLdf with near := false, pa := lostWord, hpa := lostWord }

/-- An open outer operator whose one task runs in module 1, and whose BAR is the word, in the page that `barTables` maps there. -/
def farOp : OpSet where
  desc := BitVec.ofNat 1024 (2 ^ (8 * 0x38 + 60) + (lostWord - spadBase) * 2 ^ (8 * 0x40) + 2 ^ (8 * 0x48) + 2 ^ (8 * 0x50))
  regs := ⟨1, 0, 0, 0⟩
  src := none
  level := none
  queue := none
  outer := none
  tile := 512
  state := .opened
  tasks := [⟨.running, none, 0⟩]
  usable := 0
  inex := 0
  rebuilt := 0
  faulty := 0
  brick := 0
  cause := 0
  cksum := 0
  topen := 0
  tclose := 0
  opened := 0
  tk := none
  closed := none

/-- Nodes that map the first GiB of virtual addresses to the scratchpads, read and write. -/
def barTables : Memory :=
  Memory.write (Memory.write (Memory.write [] 0x1000 8 0x2001) 0x2000 8 0x3001) 0x3000 8 (spadBase + 0xF)

/-- Port 2, over which the operator's task runs, is up after 63 failures in a row; the LDF waits on the lost Brick 1 for a word that is
full. -/
def failingPort : State := State.reset.setArch { Arch.reset with
  mem := barTables
  cores := [(32, { Core.reset with full := [(1, true)], parked := [7] })]
  bricks := [(1, { Brick.reset with lost := true })]
  reqs := [farLdf]
  ops := [(0, some farOp)]
  links := { Arch.reset.links with port := [(2, { Link.reset with state := .up, failsInRow := 63 })], route := [(1, 0x12)] } }

/-- The operator's task is lost with the port, and its arrival on BAR serves the LDF, which is a machine check there: vector 0 is raised
before the link event. -/
theorem replay_failingPort_tells_twice : (failingPort.arch.replay 2 false failingPort.fresh).2.interrupts = [0, 1] := by decide +kernel

/-- The obligation's clause for the 64th failure has the step begin at a module with one more interrupt, the link event; at `failingPort`
it raises two, and what follows in the step takes none back. -/
theorem not_linksAndDies : ¬ LinksAndDies := fun h => by
  obtain ⟨-, -, hdown, -⟩ := h 2 0 0 failingPort
  obtain ⟨m, k, hstep, -, hm⟩ := hdown rfl rfl
  have htwo : m.opDone.frontDone.anyway.Told [0, 1] := by
    rw [← replay_of_exec hstep]
    exact .anyway (.frontDone (.opDone (.of_interrupts replay_failingPort_tells_twice)))
  have hone : m.opDone.frontDone.anyway.Told [1] := .anyway (.frontDone (.opDone (.of_interrupts hm)))
  obtain ⟨_, htwo⟩ := htwo
  obtain ⟨_, hone⟩ := hone
  cases htwo.symm.trans hone

end Sys2Proof.Machine

open Sys2Proof Sys2Proof.Machine in
/-- Refutes O45: a port that goes down raises vector 1, and the statement has its outstanding requests raise nothing; but a task lost with
the port may close its operator, whose arrival on BAR (R269) takes a bank turn. At `failingPort` that turn serves an LDF parked on a lost
Brick, whose machine check raises vector 0 first (R310, R425). -/
theorem not_linksWindowsAndTime : ¬ Obligations.LinksWindowsAndTime := fun ⟨hlinks, _⟩ => not_linksAndDies hlinks
end
